-- ==== Sys2Proof/Word.lean ====
section
/-! DEFINITION. Word.lean: the widths the spec names, the tagged register, and the sorted key-and-value list that
every sparse part of the state is held in. Nothing here follows a rule of an instruction. -/
namespace Sys2Proof

/-- A byte of memory (R8). -/
abbrev Byte := BitVec 8
/-- The data word of a register, a queue entry or a port word (R171, R183). -/
abbrev W64 := BitVec 64
/-- The whole content of a register (R171). -/
abbrev W128 := BitVec 128

/-- A register: 128 bits and the 2-bit tag of R171 (0 data, 1 capability, 2 handle, 3 sealed). -/
structure Reg where
  bits : W128
  tag  : BitVec 2
deriving DecidableEq, Repr

/-- Data 0, what every register holds when a slot is bound (R171). -/
def Reg.zero : Reg := ⟨0, 0⟩

/-- The low 64 bits of a register: its data, its cursor. -/
def Reg.lo (r : Reg) : W64 := r.bits.setWidth 64

/-- The value `write_data` writes: low 64 bits, upper bits zero, tag 00 (R35). -/
def Reg.data (x : W64) : Reg := ⟨x.setWidth 128, 0⟩

/-- Key-and-value list with strictly rising keys: how every sparse part of the state is held. -/
abbrev Sparse (α : Type) := List (Nat × α)

/-- The value at a key, or `d` where the key is not listed. -/
def Sparse.get {α : Type} (d : α) : Sparse α → Nat → α
  | [], _ => d
  | (k, v) :: r, i => if i = k then v else if i < k then d else Sparse.get d r i

/-- The value at a key, if the key is listed. -/
def Sparse.find? {α : Type} : Sparse α → Nat → Option α
  | [], _ => none
  | (k, v) :: r, i => if i = k then some v else if i < k then none else Sparse.find? r i

/-- Set the value at a key. -/
def Sparse.put {α : Type} : Sparse α → Nat → α → Sparse α
  | [], i, v => [(i, v)]
  | (k, w) :: r, i, v =>
    if i = k then (k, v) :: r
    else if i < k then (i, v) :: (k, w) :: r
    else (k, w) :: Sparse.put r i v

/-- Take a key out. -/
def Sparse.erase {α : Type} : Sparse α → Nat → Sparse α
  | [], _ => []
  | (k, w) :: r, i =>
    if i = k then r else if i < k then (k, w) :: r else (k, w) :: Sparse.erase r i

/-- Set the value at a key in the canonical form: the default value is never listed. -/
def Sparse.write {α : Type} [DecidableEq α] (d : α) (l : Sparse α) (i : Nat) (v : α) : Sparse α :=
  if v = d then Sparse.erase l i else Sparse.put l i v

/-- The keys rise strictly. -/
def Sparse.sorted {α : Type} : Sparse α → Bool
  | [] => true
  | [_] => true
  | (k, _) :: (k', v') :: r => decide (k < k') && Sparse.sorted ((k', v') :: r)

/-- The keys rise strictly and no listed value is the default. -/
def Sparse.canonical {α : Type} [DecidableEq α] (d : α) (l : Sparse α) : Bool :=
  Sparse.sorted l && l.all (fun p => decide (p.2 ≠ d))

end Sys2Proof
end

