-- ==== Sys2Proof/Syntax.lean ====
section
/-! DEFINITION. Syntax.lean: the instructions and steps of the part, one constructor of `Instr` for each row of
spec/opcode_table.json, with the types of their operands. A row without an encoding is a step of the hardware, the
firmware or a host (95_what_each_step_holds.md); its operands say which of several such steps is meant. -/
namespace Sys2Proof

/-- A general register number (R44). -/
abbrev GReg := Fin 32

/-- What a six-bit register field names (R44): g0 to g31, q0 to q7, p0 to p3. Codes 44 to 63 name none. -/
inductive RegCode where
  | g (n : Fin 32)
  | q (n : Fin 8)
  | p (n : Fin 4)
deriving DecidableEq, Repr

/-- The precision bit of the FP major (R51): false is .D, true is .S. -/
inductive Prec where
  | d | s
deriving DecidableEq, Repr

/-- The type codes of CVT, 0 to 7 (R51). -/
inductive CvtType where
  | i64 | n64 | i32 | n32 | fp64 | fp32 | fp16 | bf16
deriving DecidableEq, Repr

/-- The access sizes of LD, sz 0 to 6 (R53). -/
inductive LoadSize where
  | b | bn | h | hn | w | wn | d
deriving DecidableEq, Repr

/-- The access sizes of ST, sz 0 to 3 (R53). -/
inductive StoreSize where
  | b | h | w | d
deriving DecidableEq, Repr

/-- The scopes of R319, codes 0 to 5. -/
inductive Scope where
  | ctx | core | clu | die | dev | sys
deriving DecidableEq, Repr

/-- A context, named by its core, its slot and its number (R3, R4). -/
structure CtxId where
  core : Fin 4608
  slot : Fin 4
  ctx  : Fin 11
deriving DecidableEq, Repr

/-- A tenant slot of a core (R4). -/
structure SlotId where
  core : Fin 4608
  slot : Fin 4
deriving DecidableEq, Repr

/-- The engines of a core that have a command queue (R164, R242, R270, R310). -/
inductive EngineKind where
  | copy | vector | matrix | integrator
deriving DecidableEq, Repr

/-- The responses of a host to a page request (R92). -/
inductive PriCode where
  | success | invalid | failure
deriving DecidableEq, Repr

/-- Where a storage error falls (R412): a register bank of a slot, a bank of a local store, the SECDED storage of a core, the side
array of its local store (R131), a weight-store row, a memory-side cache way, or an HBM page. -/
inductive StorageWhere where
  | registers (sl : SlotId)
  | localBank (core : Fin 4608) (bank : Fin 39)
  | secded (core : Fin 4608)
  | sideArray (core : Fin 4608)
  | weightStore (die : Fin 4) (group : Fin 8)
  | sideCache (base : Fin 8)
  | hbmFrame (base : Fin 8) (frame : BitVec 32) (part : Fin 64) (dva : BitVec 64) (fresh : Nat)
deriving DecidableEq, Repr

/-- A function a host reaches: the physical function of a logical device or a virtual function (R417). -/
inductive HostFn where
  | pf (ld : Fin 16)
  | vf (n : Fin 64)
deriving DecidableEq, Repr

/-- A laser group of a link (R109), in its transmit or in its receive direction. -/
structure Laser where
  grp : Fin 4
  rx  : Bool
deriving DecidableEq, Repr

/-- A flit (R111): its header, its reserved bits (the upper six above the lower three) and its payload; the wavelengths it
was striped over (R112), and the bits that light changed on the way, by wavelength of the link. The check bytes are a
function of the rest. `elems` and `result` are the model's own, for what the spec gives no bits (assumption log 30): the
elements of its operation whose last byte it or an earlier flit holds (R163), and what a completion reports (R443). -/
structure Flit where
  kind    : BitVec 8
  seq     : BitVec 12
  ackseq  : BitVec 12
  ptag    : BitVec 2
  vc      : BitVec 2
  dcore   : BitVec 13
  device  : BitVec 12
  opid    : BitVec 16
  offset  : BitVec 32
  len     : BitVec 8
  last    : Bool
  replay  : Bool
  payload : List (BitVec 8)
  reserved : BitVec 9
  mask    : BitVec 16
  noise   : List (Nat × Nat)
  elems   : Nat
  result  : W64
deriving DecidableEq, Repr

/-- A bind record (R364), field by field. -/
structure BindRec where
  valid   : Bool
  mode    : BitVec 2
  lslot   : BitVec 2
  none_   : Bool
  prio    : BitVec 2
  part    : Fin 64
  banks   : BitVec 8
  supv    : Bool
  slice   : BitVec 32
  ptroot  : W64
  pctb    : W64
  save    : W64
  taskid  : W64
  accdva  : W64
deriving DecidableEq, Repr

/-- What firmware chooses for one slot of a task (R362, R364): the slot, its local-store slot or none, its save areas, and the
frames that its service area is mapped with (R410). -/
structure SlotPick where
  sl     : SlotId
  lslot  : Option (BitVec 2)
  save   : W64
  accdva : W64
  frames : List Nat
deriving DecidableEq, Repr

/-- Every instruction and step of the part. -/
inductive Instr where
  | add (d : RegCode) (a : RegCode) (b : RegCode)
  | sub (d : RegCode) (a : RegCode) (b : RegCode)
  | mul (d : RegCode) (a : RegCode) (b : RegCode)
  | mulh (d : RegCode) (a : RegCode) (b : RegCode)
  | mulhn (d : RegCode) (a : RegCode) (b : RegCode)
  | div (d : RegCode) (a : RegCode) (b : RegCode)
  | divn (d : RegCode) (a : RegCode) (b : RegCode)
  | rem (d : RegCode) (a : RegCode) (b : RegCode)
  | remn (d : RegCode) (a : RegCode) (b : RegCode)
  | and_ (d : RegCode) (a : RegCode) (b : RegCode)
  | or_ (d : RegCode) (a : RegCode) (b : RegCode)
  | xor (d : RegCode) (a : RegCode) (b : RegCode)
  | andn (d : RegCode) (a : RegCode) (b : RegCode)
  | shl (d : RegCode) (a : RegCode) (b : RegCode)
  | shr (d : RegCode) (a : RegCode) (b : RegCode)
  | sar (d : RegCode) (a : RegCode) (b : RegCode)
  | rol (d : RegCode) (a : RegCode) (b : RegCode)
  | ror (d : RegCode) (a : RegCode) (b : RegCode)
  | slt (d : RegCode) (a : RegCode) (b : RegCode)
  | sltn (d : RegCode) (a : RegCode) (b : RegCode)
  | seq (d : RegCode) (a : RegCode) (b : RegCode)
  | min (d : RegCode) (a : RegCode) (b : RegCode)
  | max (d : RegCode) (a : RegCode) (b : RegCode)
  | minn (d : RegCode) (a : RegCode) (b : RegCode)
  | maxn (d : RegCode) (a : RegCode) (b : RegCode)
  | clz (d : RegCode) (a : RegCode)
  | ctz (d : RegCode) (a : RegCode)
  | popc (d : RegCode) (a : RegCode)
  | brev (d : RegCode) (a : RegCode)
  | bswap (d : RegCode) (a : RegCode)
  | clmul (d : RegCode) (a : RegCode) (b : RegCode)
  | clmulh (d : RegCode) (a : RegCode) (b : RegCode)
  | addw (d : RegCode) (a : RegCode) (b : RegCode)
  | subw (d : RegCode) (a : RegCode) (b : RegCode)
  | mulw (d : RegCode) (a : RegCode) (b : RegCode)
  | sel (d : RegCode) (a : RegCode) (b : RegCode)
  | extr (d : RegCode) (a : RegCode) (b : RegCode)
  | insr (d : RegCode) (a : RegCode) (b : RegCode)
  | adds (d : RegCode) (a : RegCode) (b : RegCode)
  | subs (d : RegCode) (a : RegCode) (b : RegCode)
  | addi (d : RegCode) (a : RegCode) (k : BitVec 13)
  | andi (d : RegCode) (a : RegCode) (k : BitVec 13)
  | ori (d : RegCode) (a : RegCode) (k : BitVec 13)
  | xori (d : RegCode) (a : RegCode) (k : BitVec 13)
  | slti (d : RegCode) (a : RegCode) (k : BitVec 13)
  | sltni (d : RegCode) (a : RegCode) (k : BitVec 13)
  | muli (d : RegCode) (a : RegCode) (k : BitVec 13)
  | shli (d : RegCode) (a : RegCode) (n : BitVec 6)
  | shri (d : RegCode) (a : RegCode) (n : BitVec 6)
  | sari (d : RegCode) (a : RegCode) (n : BitVec 6)
  | roli (d : RegCode) (a : RegCode) (n : BitVec 6)
  | rori (d : RegCode) (a : RegCode) (n : BitVec 6)
  | shlwi (d : RegCode) (a : RegCode) (n : BitVec 5)
  | shrwi (d : RegCode) (a : RegCode) (n : BitVec 5)
  | sarwi (d : RegCode) (a : RegCode) (n : BitVec 5)
  | movi (d : RegCode) (k : BitVec 19)
  | movsh (d : RegCode) (k : BitVec 19)
  | fadd (p : Prec) (d : RegCode) (a : RegCode) (b : RegCode)
  | fsub (p : Prec) (d : RegCode) (a : RegCode) (b : RegCode)
  | fmul (p : Prec) (d : RegCode) (a : RegCode) (b : RegCode)
  | fdiv (p : Prec) (d : RegCode) (a : RegCode) (b : RegCode)
  | fsqrt (p : Prec) (d : RegCode) (a : RegCode)
  | fmin (p : Prec) (d : RegCode) (a : RegCode) (b : RegCode)
  | fmax (p : Prec) (d : RegCode) (a : RegCode) (b : RegCode)
  | fminm (p : Prec) (d : RegCode) (a : RegCode) (b : RegCode)
  | fmaxm (p : Prec) (d : RegCode) (a : RegCode) (b : RegCode)
  | feq (p : Prec) (d : RegCode) (a : RegCode) (b : RegCode)
  | flt (p : Prec) (d : RegCode) (a : RegCode) (b : RegCode)
  | fle (p : Prec) (d : RegCode) (a : RegCode) (b : RegCode)
  | funord (p : Prec) (d : RegCode) (a : RegCode) (b : RegCode)
  | fclass (p : Prec) (d : RegCode) (a : RegCode)
  | fsgnj (p : Prec) (d : RegCode) (a : RegCode) (b : RegCode)
  | fsgnjn (p : Prec) (d : RegCode) (a : RegCode) (b : RegCode)
  | fsgnjx (p : Prec) (d : RegCode) (a : RegCode) (b : RegCode)
  | frint (p : Prec) (d : RegCode) (a : RegCode)
  | fmaD (d : RegCode) (a : RegCode) (b : RegCode) (c : RegCode)
  | fnmaD (d : RegCode) (a : RegCode) (b : RegCode) (c : RegCode)
  | fmaS (d : RegCode) (a : RegCode) (b : RegCode) (c : RegCode)
  | fnmaS (d : RegCode) (a : RegCode) (b : RegCode) (c : RegCode)
  | cvt (rm : BitVec 3) (sat : Bool) (dst : CvtType) (src : CvtType) (d : RegCode) (a : RegCode)
  | ld (sz : LoadSize) (o : BitVec 2) (d : RegCode) (a : GReg) (off : BitVec 8)
  | ldc (o : BitVec 2) (d : RegCode) (a : GReg) (off : BitVec 8)
  | st (sz : StoreSize) (o : BitVec 2) (v : RegCode) (a : GReg) (off : BitVec 8)
  | stc (o : BitVec 2) (v : RegCode) (a : GReg) (off : BitVec 8)
  | amoadd (w8 : Bool) (o : BitVec 2) (d : RegCode) (b : RegCode) (a : GReg)
  | amoand (w8 : Bool) (o : BitVec 2) (d : RegCode) (b : RegCode) (a : GReg)
  | amoor (w8 : Bool) (o : BitVec 2) (d : RegCode) (b : RegCode) (a : GReg)
  | amoxor (w8 : Bool) (o : BitVec 2) (d : RegCode) (b : RegCode) (a : GReg)
  | amoswp (w8 : Bool) (o : BitVec 2) (d : RegCode) (b : RegCode) (a : GReg)
  | amomin (w8 : Bool) (o : BitVec 2) (d : RegCode) (b : RegCode) (a : GReg)
  | amomax (w8 : Bool) (o : BitVec 2) (d : RegCode) (b : RegCode) (a : GReg)
  | amominn (w8 : Bool) (o : BitVec 2) (d : RegCode) (b : RegCode) (a : GReg)
  | amomaxn (w8 : Bool) (o : BitVec 2) (d : RegCode) (b : RegCode) (a : GReg)
  | amofadd (w8 : Bool) (o : BitVec 2) (d : RegCode) (b : RegCode) (a : GReg)
  | cas (w8 : Bool) (o : BitVec 2) (d : RegCode) (b : RegCode) (a : GReg)
  | fence (sc : Scope) (kinds : BitVec 4) (lb : Bool) (rs : Bool) (eng : Bool)
  | phase (n : Fin 6)
  | phasea (d : GReg) (n : Fin 6)
  | beq (a : RegCode) (b : RegCode) (off : BitVec 13)
  | bne (a : RegCode) (b : RegCode) (off : BitVec 13)
  | blt (a : RegCode) (b : RegCode) (off : BitVec 13)
  | bge (a : RegCode) (b : RegCode) (off : BitVec 13)
  | bltn (a : RegCode) (b : RegCode) (off : BitVec 13)
  | bgen (a : RegCode) (b : RegCode) (off : BitVec 13)
  | jal (d : RegCode) (off : BitVec 19)
  | jalr (d : RegCode) (a : RegCode) (k : BitVec 13)
  | loop (a : RegCode) (half : BitVec 11)
  | rep (a : RegCode) (mask : BitVec 4) (k : BitVec 13)
  | cgeta (d : RegCode) (a : RegCode)
  | cgetb (d : RegCode) (a : RegCode)
  | cgetl (d : RegCode) (a : RegCode)
  | cgetp (d : RegCode) (a : RegCode)
  | cgetd (d : RegCode) (a : RegCode)
  | cgett (d : RegCode) (a : RegCode)
  | cseta (d : RegCode) (a : RegCode) (b : RegCode)
  | cinc (d : RegCode) (a : RegCode) (b : RegCode)
  | csetb (d : RegCode) (a : RegCode) (b : RegCode)
  | csetbr (d : RegCode) (a : RegCode) (b : RegCode)
  | candp (d : RegCode) (a : RegCode) (b : RegCode)
  | cseal (d : RegCode) (a : RegCode) (b : RegCode)
  | cunseal (d : RegCode) (a : RegCode) (b : RegCode)
  | cclr (d : RegCode) (a : RegCode)
  | ctsub (d : RegCode) (a : RegCode) (b : RegCode)
  | movt (d : RegCode) (a : RegCode)
  | csetbi (d : RegCode) (a : GReg) (len : BitVec 12)
  | cinci (d : RegCode) (a : GReg) (k : BitVec 13)
  | qcfg (d : RegCode) (a : GReg)
  | qclr (d : RegCode) (a : GReg)
  | qcnt (d : RegCode) (a : GReg)
  | rbind (d : RegCode) (a : GReg) (b : GReg)
  | pbind (m : Fin 4) (a : GReg) (b : GReg)
  | punbind (m : Fin 4)
  | rpoll (d : RegCode) (a : GReg)
  | radv (d : RegCode) (a : GReg) (b : GReg)
  | recv (d : RegCode) (a : GReg) (k : Fin 4)
  | send (d : RegCode) (a : GReg) (b : RegCode)
  | start (d : RegCode) (a : GReg) (b : RegCode)
  | exit
  | join (a : RegCode)
  | barc (a : RegCode)
  | yield_
  | follow
  | unfollow
  | park (d : RegCode) (a : GReg) (b : RegCode)
  | helpers (d : RegCode)
  | fetcht (d : GReg) (a : RegCode)
  | tdcfg (d : RegCode) (a : GReg) (b : RegCode)
  | tdstat (d : RegCode) (a : RegCode)
  | dmset (d : RegCode) (a : GReg) (b : RegCode)
  | dmget (d : RegCode) (a : RegCode)
  | hwait (d : RegCode) (a : GReg)
  | htest (d : RegCode) (a : GReg)
  | hcancel (d : RegCode) (a : GReg)
  | gcall (a : GReg)
  | gret (a : GReg)
  | grets (a : GReg) (b : RegCode)
  | gclean
  | dstat (d : RegCode) (a : GReg)
  | drevoke (d : RegCode) (a : GReg)
  | gmake (d : RegCode) (a : GReg) (b : GReg)
  | srd (d : RegCode) (n : BitVec 12)
  | swr (d : RegCode) (n : BitVec 12) (a : RegCode)
  | trap (a : RegCode)
  | syscall
  | eret
  | bkpt
  | launch (d : RegCode) (a : GReg)
  | cpy (h : GReg) (a : GReg) (b : GReg) (c : RegCode)
  | cfill (h : GReg) (a : GReg) (c : RegCode)
  | cpyr (h : GReg) (a : GReg) (b : GReg) (c : RegCode)
  | cpyb (h : GReg) (a : GReg) (b : GReg) (c : RegCode)
  | vmap (h : GReg) (a : GReg) (b : GReg) (e : BitVec 6)
  | vmapBs (h : GReg) (a : GReg) (b : RegCode) (e : BitVec 6)
  | vchain (h : GReg) (a : GReg) (b : GReg) (c : GReg)
  | vred (h : GReg) (a : GReg) (e : BitVec 6)
  | vscan (h : GReg) (a : GReg) (b : RegCode) (e : BitVec 6)
  | vgath (h : GReg) (a : GReg) (b : GReg)
  | vscat (h : GReg) (a : GReg) (b : GReg)
  | vcomp (h : GReg) (a : GReg) (b : GReg)
  | vexpd (h : GReg) (a : GReg) (b : GReg)
  | mma (h : GReg) (a : GReg) (b : RegCode) (c : RegCode)
  | mmas (h : GReg) (a : GReg) (b : RegCode) (c : RegCode)
  | mldb (d : GReg) (a : GReg) (b : RegCode)
  | mzero (d : GReg) (a : RegCode)
  | msta (d : GReg) (a : GReg) (b : RegCode)
  | mlda (d : GReg) (a : GReg) (b : RegCode)
  | msync (d : GReg) (a : RegCode)
  | mown (d : RegCode)
  | mfree (d : RegCode)
  | mresume (d : GReg) (a : GReg)
  | ecfg (a : GReg) (b : RegCode)
  | epost (a : RegCode) (b : RegCode)
  | epostv (d : GReg) (a : GReg)
  | etick (d : GReg) (a : RegCode)
  | edrain (d : RegCode) (a : RegCode) (b : RegCode)
  | erd (d : RegCode) (a : RegCode)
  | ewr (d : RegCode) (a : RegCode) (b : RegCode)
  | efan (d : RegCode) (a : RegCode) (b : RegCode)
  | wswin (d : RegCode) (a : RegCode)
  | wsstat (d : RegCode) (a : RegCode)
  | mov (d : RegCode) (b : GReg)
  | addC (d : RegCode) (b : GReg)
  | subC (d : RegCode) (b : GReg)
  | andC (d : RegCode) (b : GReg)
  | orC (d : RegCode) (b : GReg)
  | xorC (d : RegCode) (b : GReg)
  | shliC (d : RegCode) (k : BitVec 5)
  | shriC (d : RegCode) (k : BitVec 5)
  | addiC (d : RegCode) (k : BitVec 5)
  | moviC (d : RegCode) (k : BitVec 5)
  | ldDC (d : RegCode) (b : GReg)
  | stDC (v : RegCode) (b : GReg)
  | faddDC (d : RegCode) (b : GReg)
  | fmulDC (d : RegCode) (b : GReg)
  | bnz (d : RegCode) (k : BitVec 5)
  | nop
  | yieldC
  | hwaitC (d : GReg)
  | ret
  | exitC
  | neg (d : RegCode)
  | not_ (d : RegCode)
  | scopeMissRepair (c : CtxId)
  | unwindCheck (c : CtxId)
  | frameExpire (c : CtxId) (j : Fin 16)
  | cleanupBudgetExpire (c : CtxId)
  | livenessUpdate (die : Fin 4) (dom : BitVec 12)
  | domnew (c : CtxId) (id : BitVec 12)
  | domgrant (c : CtxId)
  | dspage (c : CtxId) (frames : List Nat)
  | gimport (c : CtxId)
  | fsync (c : CtxId) (ok : Bool)
  | writebackComplete (part : Fin 64) (idx : Nat)
  | pageWalk (die : Fin 4) (part : Fin 64) (dva : BitVec 64)
  | faultService (part : Fin 64) (dva : BitVec 64) (frames : List Nat)
  | nvmeReadComplete (part : Fin 64) (idx : Nat) (status : BitVec 8) (data : List (BitVec 8))
  | shootdownComplete (n : Nat)
  | atsInvalidate (part : Fin 64) (dva : BitVec 64) (len : BitVec 64)
  | priResponse (vf : Fin 64) (grp : Fin 256) (code : PriCode)
  | prgQuarantineExpire (vf : Fin 64) (grp : Fin 256)
  | hostSnoop (part : Fin 64) (line : BitVec 64) (inv : Bool)
  | bisnpResponse (host : Fin 16) (line : BitVec 64) (data : List (BitVec 8))
  | hostHdmWrite (host : Fin 16) (addr : BitVec 64) (data : List (BitVec 8))
  | hostHdmRead (host : Fin 16) (addr : BitVec 64) (n : Nat) (excl : Bool)
  | expansionTimeout (c : CtxId)
  | wsRefreshWindow (grp : Fin 8)
  | messengerPass (ch : Fin 208)
  | layChannelFail (ch : Fin 208)
  | remoteStoreArrive (c : CtxId) (dest : Nat)
  | remoteAckSend (c : CtxId) (tag : Fin 4) (dest : Nat)
  | remoteAckArrive (c : CtxId) (tag : Fin 4) (dest : Nat)
  | retryResend (c : CtxId) (dest : Nat)
  | ringDeliver (n : Nat)
  | ringRetry (c : CtxId)
  | overflowDivert (c : CtxId)
  | overflowMove (c : CtxId) (k : Fin 4)
  | flitDataReceive (link : Fin 256) (f : Flit)
  | flitAckReceive (link : Fin 256) (f : Flit)
  | flitNackReceive (link : Fin 256) (f : Flit)
  | restripeMarkerReceive (link : Fin 256) (f : Flit)
  | completionFlitReceive (link : Fin 256) (f : Flit)
  | ackFlitTimer (link : Fin 256)
  | replayTimeout (link : Fin 256)
  | lossOfLight (link : Fin 256) (grp : Laser)
  | lossDetect (link : Fin 256) (grp : Laser)
  | linkRetrain (link : Fin 256)
  | engineQueueStart (core : Fin 4608) (eng : EngineKind) (units : Nat)
  | copyResolve (core : Fin 4608)
  | vectorResolve (core : Fin 4608)
  | tileStep (cluster : Fin 576)
  | matrixResolve (core : Fin 4608)
  | eventDeliver (n : Nat)
  | etickStart (core : Fin 4608)
  | tickDrainResume (core : Fin 4608)
  | etickResolve (core : Fin 4608)
  | epostvResolve (core : Fin 4608)
  | phaseComplete (c : CtxId) (n : Fin 6)
  | contextWake (c : CtxId)
  | heldCyclesExpire (c : CtxId)
  | sliceExpire (core : Fin 4608)
  | drowsy (sl : SlotId)
  | belayWake (c : CtxId)
  | belayRecheck (c : CtxId)
  | launchRecordAccept (part : Fin 64) (dev : Bool)
  | taskDependencesMet (part : Fin 64) (task : BitVec 64)
  | taskPlace (part : Fin 64) (task : BitVec 64) (picks : List SlotPick)
  | imageLoad (part : Fin 64) (task : BitVec 64) (textAt : BitVec 64) (dataAt : BitVec 64) (stackAt : List (BitVec 64)) (frames : List Nat)
  | taskDone (part : Fin 64) (task : BitVec 64)
  | slotBind (sl : SlotId) (rec : BindRec) (frames : List Nat)
  | slotUnbind (sl : SlotId)
  | slotEvict (sl : SlotId)
  | slotRestore (sl : SlotId) (n : Nat)
  | clockModeChange (solo : Bool)
  | tenantAbort (part : Fin 64)
  | storageError (w : StorageWhere) (lasting : Bool) (uncorr : Bool)
  | machineCheck (unit : BitVec 8) (detail : BitVec 32)
  | thermalWarning (temp : BitVec 32)
  | thermalClear (temp : BitVec 32)
  | registerWrite (f : HostFn) (off : Nat) (data : BitVec 64)
  | doorbell (vf : Fin 64) (tail : BitVec 32)
  | mstateRead (f : HostFn)
  | debugWindowRead (ld : Fin 16) (off : Nat)
  | regionSet (vf : Fin 64)
  | shootdown (vf : Fin 64)
  | mailboxFsync (vf : Fin 64) (ok : Bool)
  | gateExport (vf : Fin 64)
  | importAsk (vf : Fin 64)
  | vfAssign (ld : Fin 16) (root : BitVec 12)
  | importGrant (ld : Fin 16)
  | importDeny (ld : Fin 16)
  | expwin (ld : Fin 16)
  | fwUpdate (ld : Fin 16)
  | heartbeat
  | heartbeatTimeout
  | perstDeassert
  | bootComplete
  | vfEnableClear (ld : Fin 16)
  | flr (vf : Fin 64)
  | teardownComplete (vf : Fin 64)
  | getVersion (ld : Fin 16)
  | getCapabilities (ld : Fin 16)
  | negotiateAlgorithms (ld : Fin 16)
  | getDigests (ld : Fin 16)
  | getCertificate (ld : Fin 16)
  | challenge (ld : Fin 16)
  | getMeasurements (ld : Fin 16)
  | keyExchange (ld : Fin 16)
  | finish (ld : Fin 16)
  | endSession (ld : Fin 16)
  | ideKm (ld : Fin 16) (port : Fin 4)
  | remoteLoadArrive (c : CtxId)
  | remoteReplyArrive (c : CtxId)
  | atsTranslationCompletion (die : Fin 4) (part : Fin 64) (dva : BitVec 64) (rd : Bool) (wr : Bool)
  | laserLightReturn (link : Fin 256) (grp : Laser)
  | powerCapClockStep (mhz : Fin 1024)
deriving DecidableEq, Repr

end Sys2Proof
end

