-- ==== Sys2Proof/WellFormed.lean ====
section
/-! DEFINITION. WellFormed.lean: the operand limits that the encoding and the entries put on an instruction beyond the
types of its operands (R47, R51, R59, R63, R233, R247, R254, R357, R399). -/
namespace Sys2Proof

/-- The source operands an element operation reads, 0 to 3, or none where the code is unlisted (R247). -/
def eopArity (e : Nat) : Option Nat :=
  if e = 0x2E then some 0
  else if e = 0x2D then none
  else if e = 0x04 ∨ e = 0x05 ∨ e = 0x1B then some 3
  else if e = 0x00 ∨ e = 0x08 ∨ e = 0x09 ∨ e = 0x0E ∨ (0x14 ≤ e ∧ e ≤ 0x16) ∨ (0x1C ≤ e ∧ e ≤ 0x20)
      ∨ (0x22 ≤ e ∧ e ≤ 0x27) ∨ (0x29 ≤ e ∧ e ≤ 0x2B) ∨ e = 0x2F then some 1
  else if e ≤ 0x2F then some 2
  else none

/-- VMAP accepts the code with the shape pair at b (R254): b is 0 exactly when the operation reads only A or nothing. -/
def vmapOk (b : Nat) (e : Nat) : Bool :=
  match eopArity e with
  | none => false
  | some 0 => b == 0
  | some 1 => b == 0
  | some _ => decide (1 ≤ b ∧ b ≤ 30)

/-- VMAP.BS accepts the code: it must not read C (R254). -/
def vmapBsOk (e : Nat) : Bool :=
  match eopArity e with
  | none => false
  | some n => decide (n ≤ 2)

/-- The codes VSCAN lists (R254): ADD, MUL, MIN, MAX, AND, OR, XOR. -/
def vscanOk (e : Nat) : Bool :=
  e == 0x01 || e == 0x03 || e == 0x06 || e == 0x07 || e == 0x0A || e == 0x0B || e == 0x0C

/-- The codes VRED lists (R254): those of VSCAN and PACKB. -/
def vredOk (e : Nat) : Bool := vscanOk e || e == 0x2D

/-- A register that names a shape pair: g1 to g30 (R254). -/
def pairOk (a : Nat) : Bool := decide (1 ≤ a ∧ a ≤ 30)

/-- The special registers that the table of R233 assigns. -/
def sregAssigned (n : Nat) : Bool :=
  decide (n ≤ 0x01D ∨ (0x020 ≤ n ∧ n ≤ 0x023) ∨ n = 0x040 ∨ (0x080 ≤ n ∧ n ≤ 0x0BF) ∨ (0x100 ≤ n ∧ n ≤ 0x102)
    ∨ (0x104 ≤ n ∧ n ≤ 0x109) ∨ (0x200 ≤ n ∧ n ≤ 0x205))

/-- The operands of SRD: an assigned register, and TSTAT to g0 to g30 only (R399). -/
def srdOk (d : RegCode) (n : Nat) : Bool :=
  sregAssigned n && (n != 0x00C || match d with | .g k => decide (k.val ≤ 30) | _ => false)

/-- The operands of SWR: as SRD, and TSTAT from g1 to g30 only (R399). -/
def swrOk (d : RegCode) (n : Nat) (a : RegCode) : Bool :=
  srdOk d n && (n != 0x00C || match a with | .g k => pairOk k.val | _ => false)

/-- CVT's refusals (R51). -/
def cvtOk (rm : Nat) (sat : Bool) (dst src : CvtType) : Bool :=
  let isInt : CvtType → Bool := fun t => match t with | .i64 | .n64 | .i32 | .n32 => true | _ => false
  dst != src && rm != 7 && (!sat || isInt dst) && (!(isInt dst && isInt src) || rm == 0)

/-- The step of REP lies in −8 to +8 (R59). -/
def repStepOk (k : BitVec 13) : Bool := decide (-8 ≤ k.toInt ∧ k.toInt ≤ 8)

/-- An instruction that the encoding can hold and that decode accepts. A step of the hardware, the firmware or a host
has no encoding and no limit beyond the types of its operands. -/
def WellFormed (i : Instr) : Bool :=
  match i with
  | .cvt rm sat dst src _ _ => cvtOk rm.toNat sat dst src
  | .loop _ half => decide (2 ≤ half.toNat)
  | .rep _ _ k => repStepOk k
  | .fetcht d _ => pairOk d.val
  | .srd d n => srdOk d n.toNat
  | .swr d n a => swrOk d n.toNat a
  | .vmap _ a b e => pairOk a.val && vmapOk b.val e.toNat
  | .vmapBs _ a _ e => pairOk a.val && vmapBsOk e.toNat
  | .vchain _ a b _ => pairOk a.val && decide (b.val ≤ 30)
  | .vred _ a e => pairOk a.val && vredOk e.toNat
  | .vscan _ a _ e => pairOk a.val && vscanOk e.toNat
  | .vgath _ a b => pairOk a.val && pairOk b.val
  | .vscat _ a b => pairOk a.val && pairOk b.val
  | .vcomp _ a b => pairOk a.val && pairOk b.val
  | .vexpd _ a b => pairOk a.val && pairOk b.val
  | .mma _ a _ _ => decide (1 ≤ a.val)
  | .mmas _ a _ _ => decide (1 ≤ a.val)
  | .mldb _ a _ => decide (1 ≤ a.val)
  | .msta _ a _ => decide (1 ≤ a.val)
  | .mlda _ a _ => decide (1 ≤ a.val)
  | .ecfg a _ => decide (1 ≤ a.val)
  | .epostv _ a => decide (1 ≤ a.val)
  | .mov d b => !(d == .g 0 && b == 0)
  | _ => true

end Sys2Proof
end

