-- ==== Sys2Proof/Decode.lean ====
section
/-! DEFINITION. Decode.lean: from the bytes of an instruction to an `Instr`, total, refusing by name (R36 to R58, R63,
R195, R233, R254, R357, R399), and after it the encoder written from the same encoding tables. A 32-bit word is held as
a natural number whose bits are numbered as the formats of R39 number them. -/
namespace Sys2Proof

/-- Why a word is no instruction: the two decode traps of R48, or too few bytes. -/
inductive Reject where
  /-- R47: not an instruction. -/
  | illegalInstruction
  /-- R44, R45, R57, R233: a register code or a special-register number that the instruction does not take. -/
  | illegalOperand
  /-- Fewer bytes than the length of R36 asks. -/
  | truncated
deriving DecidableEq, Repr

/-- The field of `n` bits at `lo`. -/
def fld (w lo n : Nat) : Nat := w / 2 ^ lo % 2 ^ n

/-- A six-bit register field (R44); codes 44 to 63 name nothing. -/
def regCode? (c : Nat) : Option RegCode :=
  if h : c < 32 then some (.g ⟨c, h⟩)
  else if h : c < 40 then some (.q ⟨c - 32, by omega⟩)
  else if h : c < 44 then some (.p ⟨c - 40, by omega⟩)
  else none

/-- A register field of any code (R44). -/
def anyReg (c : Nat) : Except Reject RegCode :=
  match regCode? c with
  | some r => .ok r
  | none => .error .illegalOperand

/-- A register field that takes g registers only (R45). -/
def gReg (c : Nat) : Except Reject GReg :=
  if h : c < 32 then .ok ⟨c, h⟩ else .error .illegalOperand

/-- A register field that takes p codes only (R193). -/
def pReg (c : Nat) : Except Reject (Fin 4) :=
  if h : 40 ≤ c ∧ c < 44 then .ok ⟨c - 40, by omega⟩ else .error .illegalOperand

/-- The instruction is no instruction unless the condition holds (R47). -/
def isInstr (c : Bool) (k : Except Reject Instr) : Except Reject Instr :=
  if c then k else .error .illegalInstruction

/-- The operands are refused unless the condition holds (R48 step 3). -/
def operandOk (c : Bool) (k : Except Reject Instr) : Except Reject Instr :=
  if c then k else .error .illegalOperand

/-- d, a, b of any code. -/
def dec3 (f : RegCode → RegCode → RegCode → Instr) (d a b : Nat) : Except Reject Instr := do
  let d ← anyReg d; let a ← anyReg a; let b ← anyReg b; pure (f d a b)
/-- d and a of any code. -/
def dec2 (f : RegCode → RegCode → Instr) (d a : Nat) : Except Reject Instr := do
  let d ← anyReg d; let a ← anyReg a; pure (f d a)
/-- One field of any code. -/
def dec1 (f : RegCode → Instr) (d : Nat) : Except Reject Instr := do
  let d ← anyReg d; pure (f d)
/-- d of any code, a a g register. -/
def decRG (f : RegCode → GReg → Instr) (d a : Nat) : Except Reject Instr := do
  let d ← anyReg d; let a ← gReg a; pure (f d a)
/-- d of any code, a a g register, b of any code. -/
def decRGR (f : RegCode → GReg → RegCode → Instr) (d a b : Nat) : Except Reject Instr := do
  let d ← anyReg d; let a ← gReg a; let b ← anyReg b; pure (f d a b)
/-- d of any code, a and b g registers. -/
def decRGG (f : RegCode → GReg → GReg → Instr) (d a b : Nat) : Except Reject Instr := do
  let d ← anyReg d; let a ← gReg a; let b ← gReg b; pure (f d a b)
/-- A handle field and a field of any code. -/
def decGR (f : GReg → RegCode → Instr) (d a : Nat) : Except Reject Instr := do
  let d ← gReg d; let a ← anyReg a; pure (f d a)
/-- Three g registers. -/
def decGGG (f : GReg → GReg → GReg → Instr) (d a b : Nat) : Except Reject Instr := do
  let d ← gReg d; let a ← gReg a; let b ← gReg b; pure (f d a b)
/-- Two g registers and a field of any code. -/
def decGGR (f : GReg → GReg → RegCode → Instr) (d a b : Nat) : Except Reject Instr := do
  let d ← gReg d; let a ← gReg a; let b ← anyReg b; pure (f d a b)
/-- Two g registers. -/
def decGG (f : GReg → GReg → Instr) (d a : Nat) : Except Reject Instr := do
  let d ← gReg d; let a ← gReg a; pure (f d a)

/-- Major 00, ALU (R50). -/
def decodeAlu (f7 d a b : Nat) : Except Reject Instr :=
  match f7 with
  | 0x00 => dec3 .add d a b
  | 0x01 => dec3 .sub d a b
  | 0x02 => dec3 .mul d a b
  | 0x03 => dec3 .mulh d a b
  | 0x04 => dec3 .mulhn d a b
  | 0x05 => dec3 .div d a b
  | 0x06 => dec3 .divn d a b
  | 0x07 => dec3 .rem d a b
  | 0x08 => dec3 .remn d a b
  | 0x09 => dec3 .and_ d a b
  | 0x0A => dec3 .or_ d a b
  | 0x0B => dec3 .xor d a b
  | 0x0C => dec3 .andn d a b
  | 0x0D => dec3 .shl d a b
  | 0x0E => dec3 .shr d a b
  | 0x0F => dec3 .sar d a b
  | 0x10 => dec3 .rol d a b
  | 0x11 => dec3 .ror d a b
  | 0x12 => dec3 .slt d a b
  | 0x13 => dec3 .sltn d a b
  | 0x14 => dec3 .seq d a b
  | 0x15 => dec3 .min d a b
  | 0x16 => dec3 .max d a b
  | 0x17 => dec3 .minn d a b
  | 0x18 => dec3 .maxn d a b
  | 0x19 => isInstr (b == 0) (dec2 .clz d a)
  | 0x1A => isInstr (b == 0) (dec2 .ctz d a)
  | 0x1B => isInstr (b == 0) (dec2 .popc d a)
  | 0x1C => isInstr (b == 0) (dec2 .brev d a)
  | 0x1D => isInstr (b == 0) (dec2 .bswap d a)
  | 0x1E => dec3 .clmul d a b
  | 0x1F => dec3 .clmulh d a b
  | 0x20 => dec3 .addw d a b
  | 0x21 => dec3 .subw d a b
  | 0x22 => dec3 .mulw d a b
  | 0x23 => dec3 .sel d a b
  | 0x24 => dec3 .extr d a b
  | 0x25 => dec3 .insr d a b
  | 0x26 => dec3 .adds d a b
  | 0x27 => dec3 .subs d a b
  | _ => .error .illegalInstruction

/-- The precision bit (R51). -/
def prec (n : Nat) : Prec := if n = 0 then .d else .s

/-- Major 0B, FP (R51). -/
def decodeFp (f7 d a b : Nat) : Except Reject Instr :=
  let p := prec (f7 / 64)
  match f7 % 64 with
  | 0x00 => dec3 (.fadd p) d a b
  | 0x01 => dec3 (.fsub p) d a b
  | 0x02 => dec3 (.fmul p) d a b
  | 0x03 => dec3 (.fdiv p) d a b
  | 0x04 => isInstr (b == 0) (dec2 (.fsqrt p) d a)
  | 0x05 => dec3 (.fmin p) d a b
  | 0x06 => dec3 (.fmax p) d a b
  | 0x07 => dec3 (.fminm p) d a b
  | 0x08 => dec3 (.fmaxm p) d a b
  | 0x09 => dec3 (.feq p) d a b
  | 0x0A => dec3 (.flt p) d a b
  | 0x0B => dec3 (.fle p) d a b
  | 0x0C => dec3 (.funord p) d a b
  | 0x0D => isInstr (b == 0) (dec2 (.fclass p) d a)
  | 0x0E => dec3 (.fsgnj p) d a b
  | 0x0F => dec3 (.fsgnjn p) d a b
  | 0x10 => dec3 (.fsgnjx p) d a b
  | 0x11 => isInstr (b == 0) (dec2 (.frint p) d a)
  | _ => .error .illegalInstruction

/-- Major 20, CAP (R55, R180). -/
def decodeCap (f7 d a b : Nat) : Except Reject Instr :=
  match f7 with
  | 0x00 => isInstr (b == 0) (dec2 .cgeta d a)
  | 0x01 => isInstr (b == 0) (dec2 .cgetb d a)
  | 0x02 => isInstr (b == 0) (dec2 .cgetl d a)
  | 0x03 => isInstr (b == 0) (dec2 .cgetp d a)
  | 0x04 => isInstr (b == 0) (dec2 .cgetd d a)
  | 0x05 => isInstr (b == 0) (dec2 .cgett d a)
  | 0x06 => dec3 .cseta d a b
  | 0x07 => dec3 .cinc d a b
  | 0x08 => dec3 .csetb d a b
  | 0x09 => dec3 .csetbr d a b
  | 0x0A => dec3 .candp d a b
  | 0x0B => dec3 .cseal d a b
  | 0x0C => dec3 .cunseal d a b
  | 0x0D => isInstr (b == 0) (dec2 .cclr d a)
  | 0x0E => dec3 .ctsub d a b
  | 0x0F => isInstr (b == 0) (dec2 .movt d a)
  | _ => .error .illegalInstruction

/-- Majors 0C and 0D (R51): f7[5:0] is the register code of c. -/
def decodeFma (fma fnma : RegCode → RegCode → RegCode → RegCode → Instr) (f7 d a b : Nat) : Except Reject Instr := do
  let d ← anyReg d; let a ← anyReg a; let b ← anyReg b; let c ← anyReg (f7 % 64)
  pure (if f7 / 64 = 0 then fma d a b c else fnma d a b c)

/-- The type codes of CVT (R51). -/
def cvtType (n : Nat) : CvtType :=
  match n with
  | 0 => .i64 | 1 => .n64 | 2 => .i32 | 3 => .n32 | 4 => .fp64 | 5 => .fp32 | 6 => .fp16 | _ => .bf16

/-- Major 0E, CVT (R51). -/
def decodeCvt (f7 d a b : Nat) : Except Reject Instr :=
  let rm := f7 / 16
  let sat := f7 / 8 % 2 == 1
  let dst := cvtType (b / 8)
  let src := cvtType (b % 8)
  isInstr (f7 % 8 == 0 && cvtOk rm sat dst src) (dec2 (.cvt (BitVec.ofNat 3 rm) sat dst src) d a)

/-- Major 05, SHI (R52). -/
def decodeShi (hi d a : Nat) : Except Reject Instr :=
  let n := hi % 64
  let kind := hi / 64 % 8
  isInstr (hi / 512 == 0 && (decide (kind < 5) || decide (n < 32)))
    (match kind with
    | 0 => dec2 (fun d a => .shli d a (BitVec.ofNat 6 n)) d a
    | 1 => dec2 (fun d a => .shri d a (BitVec.ofNat 6 n)) d a
    | 2 => dec2 (fun d a => .sari d a (BitVec.ofNat 6 n)) d a
    | 3 => dec2 (fun d a => .roli d a (BitVec.ofNat 6 n)) d a
    | 4 => dec2 (fun d a => .rori d a (BitVec.ofNat 6 n)) d a
    | 5 => dec2 (fun d a => .shlwi d a (BitVec.ofNat 5 n)) d a
    | 6 => dec2 (fun d a => .shrwi d a (BitVec.ofNat 5 n)) d a
    | _ => dec2 (fun d a => .sarwi d a (BitVec.ofNat 5 n)) d a)

/-- The format-I forms that take any d and a and a 13-bit immediate. -/
def decImm (f : RegCode → RegCode → BitVec 13 → Instr) (hi d a : Nat) : Except Reject Instr :=
  dec2 (fun d a => f d a (BitVec.ofNat 13 hi)) d a

/-- The access sizes of LD (R53). -/
def loadSize (n : Nat) : LoadSize :=
  match n with
  | 0 => .b | 1 => .bn | 2 => .h | 3 => .hn | 4 => .w | 5 => .wn | _ => .d

/-- The access sizes of ST (R53). -/
def storeSize (n : Nat) : StoreSize :=
  match n with
  | 0 => .b | 1 => .h | 2 => .w | _ => .d

/-- Major 10, LD and LDC (R53). -/
def decodeLd (hi d a : Nat) : Except Reject Instr :=
  let o := BitVec.ofNat 2 (hi / 8 % 4)
  let off := BitVec.ofNat 8 (hi / 32)
  if hi % 8 = 7 then decRG (fun d a => .ldc o d a off) d a
  else decRG (fun d a => .ld (loadSize (hi % 8)) o d a off) d a

/-- Major 11, ST and STC (R53). -/
def decodeSt (hi d a : Nat) : Except Reject Instr :=
  let o := BitVec.ofNat 2 (hi / 8 % 4)
  let off := BitVec.ofNat 8 (hi / 32)
  if hi % 8 < 4 then decRG (fun d a => .st (storeSize (hi % 8)) o d a off) d a
  else isInstr (hi % 8 == 4) (decRG (fun d a => .stc o d a off) d a)

/-- The AMO and CAS forms: d and b of any code, a a capability. -/
def decAmo (f : Bool → BitVec 2 → RegCode → RegCode → GReg → Instr) (f7 d a b : Nat) : Except Reject Instr := do
  let a ← gReg a; let b ← anyReg b; let d ← anyReg d
  pure (f (f7 / 8 % 2 == 1) (BitVec.ofNat 2 (f7 % 4)) d b a)

/-- Major 12, the AMO family (R54): N = 1 only with OP 5 and 6. -/
def decodeAmo (f7 d a b : Nat) : Except Reject Instr :=
  match f7 / 16, f7 / 4 % 2 with
  | 0, 0 => decAmo .amoadd f7 d a b
  | 1, 0 => decAmo .amoand f7 d a b
  | 2, 0 => decAmo .amoor f7 d a b
  | 3, 0 => decAmo .amoxor f7 d a b
  | 4, 0 => decAmo .amoswp f7 d a b
  | 5, 0 => decAmo .amomin f7 d a b
  | 6, 0 => decAmo .amomax f7 d a b
  | 5, 1 => decAmo .amominn f7 d a b
  | 6, 1 => decAmo .amomaxn f7 d a b
  | 7, 0 => decAmo .amofadd f7 d a b
  | _, _ => .error .illegalInstruction

/-- Major 13, CAS (R54). -/
def decodeCas (f7 d a b : Nat) : Except Reject Instr :=
  isInstr (f7 / 16 == 0 && f7 / 4 % 2 == 0) (decAmo .cas f7 d a b)

/-- The scope codes of R319. -/
def scopeOf (n : Nat) : Scope :=
  match n with
  | 0 => .ctx | 1 => .core | 2 => .clu | 3 => .die | 4 => .dev | _ => .sys

/-- Major 14, FENCE (R58, R332). -/
def decodeFence (hi d a : Nat) : Except Reject Instr :=
  isInstr (decide (hi % 8 < 6) && hi / 1024 == 0 && d == 0 && a == 0)
    (.ok (.fence (scopeOf (hi % 8)) (BitVec.ofNat 4 (hi / 8 % 16)) (hi / 128 % 2 == 1) (hi / 256 % 2 == 1)
      (hi / 512 % 2 == 1)))

/-- Major 15, PHASE and PHASEA (R58, R334). -/
def decodePhase (hi d a : Nat) : Except Reject Instr :=
  if h : hi % 8 < 6 then
    isInstr (hi / 16 == 0 && a == 0 && (hi / 8 % 2 == 1 || d == 0))
      (if hi / 8 % 2 = 1 then do let d ← gReg d; pure (.phasea d ⟨hi % 8, h⟩)
       else .ok (.phase ⟨hi % 8, h⟩))
  else .error .illegalInstruction

/-- Format B (R39): a at [12:7], b at [18:13]. -/
def decBranch (f : RegCode → RegCode → BitVec 13 → Instr) (hi d a : Nat) : Except Reject Instr :=
  dec2 (fun x y => f x y (BitVec.ofNat 13 hi)) d a

/-- Major 1E, LOOP (R63): an even offset of at least 4 and at most 4,094. -/
def decodeLoop (hi d a : Nat) : Except Reject Instr :=
  isInstr (d == 0 && hi % 2 == 0 && decide (4 ≤ hi ∧ hi ≤ 4094))
    (dec1 (fun a => .loop a (BitVec.ofNat 11 (hi / 2))) a)

/-- Major 1F, REP (R59): mask bits 4 and 5 zero, a step of −8 to +8. A count register of code 44 to 63 is ILLEGAL_OPERAND, as R44 and
R48 have every such code; R59 gives ILLEGAL_INSTRUCTION to values outside its limits (DESIGN CHOICE, assumption log 6). -/
def decodeRep (hi d a : Nat) : Except Reject Instr :=
  isInstr (decide (d < 16) && repStepOk (BitVec.ofNat 13 hi))
    (dec1 (fun a => .rep a (BitVec.ofNat 4 d) (BitVec.ofNat 13 hi)) a)

/-- Major 23, QCTL (R55, R193). -/
def decodeQctl (f7 d a b : Nat) : Except Reject Instr :=
  match f7 with
  | 0x0 => isInstr (b == 0) (decRG .qcfg d a)
  | 0x1 => isInstr (b == 0) (decRG .qclr d a)
  | 0x2 => isInstr (b == 0) (decRG .qcnt d a)
  | 0x3 => decRGG .rbind d a b
  | 0x4 => do let m ← pReg d; let a ← gReg a; let b ← gReg b; pure (.pbind m a b)
  | 0x5 => isInstr (a == 0 && b == 0) (do let m ← pReg d; pure (.punbind m))
  | 0x6 => isInstr (b == 0) (decRG .rpoll d a)
  | 0x7 => decRGG .radv d a b
  | _ => .error .illegalInstruction

/-- Major 26, CTX (R55 and the table before R345). -/
def decodeCtx (f7 d a b : Nat) : Except Reject Instr :=
  match f7 with
  | 0x0 => decRGR .start d a b
  | 0x1 => isInstr (d == 0 && a == 0 && b == 0) (.ok .exit)
  | 0x2 => isInstr (d == 0 && b == 0) (dec1 .join a)
  | 0x3 => isInstr (d == 0 && b == 0) (dec1 .barc a)
  | 0x4 => isInstr (d == 0 && a == 0 && b == 0) (.ok .yield_)
  | 0x5 => isInstr (d == 0 && a == 0 && b == 0) (.ok .follow)
  | 0x6 => isInstr (d == 0 && a == 0 && b == 0) (.ok .unfollow)
  | 0x7 => decRGR .park d a b
  | 0x8 => isInstr (a == 0 && b == 0) (dec1 .helpers d)
  | _ => .error .illegalInstruction

/-- Major 27, HANK (R55, R357, R358, R359). -/
def decodeHank (f7 d a b : Nat) : Except Reject Instr :=
  match f7 with
  | 0x0 => isInstr (b == 0) (do
      let g ← gReg d; let a ← anyReg a
      operandOk (pairOk g.val) (.ok (.fetcht g a)))
  | 0x1 => decRGR .tdcfg d a b
  | 0x2 => isInstr (b == 0) (dec2 .tdstat d a)
  | _ => .error .illegalInstruction

/-- Major 28, DOM (R55). -/
def decodeDom (f7 d a b : Nat) : Except Reject Instr :=
  match f7 with
  | 0x0 => decRGR .dmset d a b
  | 0x1 => isInstr (b == 0) (dec2 .dmget d a)
  | _ => .error .illegalInstruction

/-- Major 29, HND (R55, R169). -/
def decodeHnd (f7 d a b : Nat) : Except Reject Instr :=
  match f7 with
  | 0x0 => isInstr (b == 0) (decRG .hwait d a)
  | 0x1 => isInstr (b == 0) (decRG .htest d a)
  | 0x2 => isInstr (b == 0) (decRG .hcancel d a)
  | _ => .error .illegalInstruction

/-- Major 2A, GATE (R55, R389). -/
def decodeGate (f7 d a b : Nat) : Except Reject Instr :=
  match f7 with
  | 0x0 => isInstr (d == 0 && b == 0) (do let a ← gReg a; pure (.gcall a))
  | 0x1 => isInstr (d == 0 && b == 0) (do let a ← gReg a; pure (.gret a))
  | 0x2 => isInstr (d == 0) (do let a ← gReg a; let b ← anyReg b; pure (.grets a b))
  | 0x3 => isInstr (d == 0 && a == 0 && b == 0) (.ok .gclean)
  | 0x4 => isInstr (b == 0) (decRG .dstat d a)
  | 0x5 => isInstr (b == 0) (decRG .drevoke d a)
  | 0x6 => decRGG .gmake d a b
  | _ => .error .illegalInstruction

/-- Major 2B, SREG (R57, R233, R399). -/
def decodeSreg (hi d a : Nat) : Except Reject Instr :=
  let n := hi % 4096
  if hi / 4096 = 0 then
    isInstr (a == 0) (do let d ← anyReg d; operandOk (srdOk d n) (.ok (.srd d (BitVec.ofNat 12 n))))
  else do
    let d ← anyReg d; let a ← anyReg a
    operandOk (swrOk d n a) (.ok (.swr d (BitVec.ofNat 12 n) a))

/-- Major 2C, TRAPS (R55, R405). -/
def decodeTraps (f7 d a b : Nat) : Except Reject Instr :=
  match f7 with
  | 0x0 => isInstr (d == 0 && b == 0) (dec1 .trap a)
  | 0x1 => isInstr (d == 0 && a == 0 && b == 0) (.ok .syscall)
  | 0x2 => isInstr (d == 0 && a == 0 && b == 0) (.ok .eret)
  | 0x3 => isInstr (d == 0 && a == 0 && b == 0) (.ok .bkpt)
  | _ => .error .illegalInstruction

/-- The copy forms: handle, two shape registers, options of any code (R167). -/
def decCopy (f : GReg → GReg → GReg → RegCode → Instr) (d a b c : Nat) : Except Reject Instr := do
  let h ← gReg d; let a ← gReg a; let b ← gReg b; let c ← anyReg c; pure (f h a b c)

/-- Majors 30 and 31 (R56, R167). -/
def decodeCopy (major v d a b c : Nat) : Except Reject Instr :=
  match major, v with
  | 0x30, 0 => decCopy .cpy d a b c
  | 0x30, _ => isInstr (b == 0) (do let h ← gReg d; let a ← gReg a; let c ← anyReg c; pure (.cfill h a c))
  | _, 0 => decCopy .cpyr d a b c
  | _, _ => decCopy .cpyb d a b c

/-- A shape register of the vector engine: g1 to g30 (R254). -/
def pairReg (c : Nat) (k : GReg → Except Reject Instr) : Except Reject Instr := do
  let g ← gReg c
  operandOk (pairOk g.val) (k g)

/-- Major 33, VMAP and VMAP.BS (R56, R247, R254). -/
def decodeVmap (v d a b c : Nat) : Except Reject Instr :=
  if v = 0 then
    isInstr (match eopArity c with | none => false | some n => decide (2 ≤ n) || b == 0)
      (do
        let h ← gReg d
        pairReg a (fun a => do
          let b ← gReg b
          operandOk (vmapOk b.val c) (.ok (.vmap h a b (BitVec.ofNat 6 c)))))
  else
    isInstr (vmapBsOk c) (do
      let h ← gReg d
      pairReg a (fun a => do let b ← anyReg b; pure (.vmapBs h a b (BitVec.ofNat 6 c))))

/-- Major 34, VCHAIN (R254): a non-zero b names the pair, so it is g1 to g30. -/
def decodeVchain (v d a b c : Nat) : Except Reject Instr :=
  isInstr (v == 0) (do
    let h ← gReg d
    pairReg a (fun a => do
      let b ← gReg b; let c ← gReg c
      operandOk (decide (b.val ≤ 30)) (.ok (.vchain h a b c))))

/-- Major 35, VRED (R254). -/
def decodeVred (v d a b c : Nat) : Except Reject Instr :=
  isInstr (v == 0 && b == 0 && vredOk c) (do
    let h ← gReg d
    pairReg a (fun a => .ok (.vred h a (BitVec.ofNat 6 c))))

/-- Major 36, VSCAN (R254). -/
def decodeVscan (v d a b c : Nat) : Except Reject Instr :=
  isInstr (v == 0 && vscanOk c) (do
    let h ← gReg d
    pairReg a (fun a => do let b ← anyReg b; pure (.vscan h a b (BitVec.ofNat 6 c))))

/-- Majors 37 to 39 (R254): two shape pairs and c = 0. -/
def decodeVpair (f : GReg → GReg → GReg → Instr) (d a b c : Nat) : Except Reject Instr :=
  isInstr (c == 0) (do
    let h ← gReg d
    pairReg a (fun a => pairReg b (fun b => .ok (f h a b))))

/-- A capability register of the matrix and event forms: g1 to g31 (R282, R284, R311). -/
def capReg (c : Nat) (k : GReg → Except Reject Instr) : Except Reject Instr := do
  let g ← gReg c
  operandOk (decide (1 ≤ g.val)) (k g)

/-- Major 3A, MMA and MMAS (R56, R282). -/
def decodeMma (v d a b c : Nat) : Except Reject Instr := do
  let h ← gReg d
  capReg a (fun a => do
    let b ← anyReg b; let c ← anyReg c
    pure (if v = 0 then .mma h a b c else .mmas h a b c))

/-- Major 3B, MCTL (R55, R284). -/
def decodeMctl (f7 d a b : Nat) : Except Reject Instr :=
  match f7 with
  | 0x0 => do let h ← gReg d; capReg a (fun a => do let b ← anyReg b; pure (.mldb h a b))
  | 0x1 => isInstr (b == 0) (decGR .mzero d a)
  | 0x2 => do let h ← gReg d; capReg a (fun a => do let b ← anyReg b; pure (.msta h a b))
  | 0x3 => do let h ← gReg d; capReg a (fun a => do let b ← anyReg b; pure (.mlda h a b))
  | 0x4 => isInstr (b == 0) (decGR .msync d a)
  | 0x5 => isInstr (a == 0 && b == 0) (dec1 .mown d)
  | 0x6 => isInstr (a == 0 && b == 0) (dec1 .mfree d)
  | 0x7 => isInstr (b == 0) (decGG .mresume d a)
  | _ => .error .illegalInstruction

/-- Major 3C, EVT (R55, R311). -/
def decodeEvt (f7 d a b : Nat) : Except Reject Instr :=
  match f7 with
  | 0x0 => isInstr (d == 0) (capReg a (fun a => do let b ← anyReg b; pure (.ecfg a b)))
  | 0x1 => isInstr (d == 0) (dec2 .epost a b)
  | 0x2 => isInstr (b == 0) (do let h ← gReg d; capReg a (fun a => .ok (.epostv h a)))
  | 0x3 => isInstr (b == 0) (decGR .etick d a)
  | 0x4 => dec3 .edrain d a b
  | 0x5 => isInstr (b == 0) (dec2 .erd d a)
  | 0x6 => dec3 .ewr d a b
  | 0x7 => dec3 .efan d a b
  | _ => .error .illegalInstruction

/-- Major 3D, WS (R55, R149, R150). -/
def decodeWs (f7 d a b : Nat) : Except Reject Instr :=
  match f7 with
  | 0x0 => isInstr (b == 0) (dec2 .wswin d a)
  | 0x1 => isInstr (b == 0) (dec2 .wsstat d a)
  | _ => .error .illegalInstruction

/-- A 32-bit word, bit 0 set (R39, R49). -/
def decode32 (w : Nat) : Except Reject Instr :=
  let d := fld w 7 6
  let a := fld w 13 6
  let hi := fld w 19 13
  let b := fld w 19 6
  let f7 := fld w 25 7
  let c := fld w 25 6
  let v := fld w 31 1
  match fld w 1 6 with
  | 0x00 => decodeAlu f7 d a b
  | 0x01 => decImm .addi hi d a
  | 0x02 => decImm .andi hi d a
  | 0x03 => decImm .ori hi d a
  | 0x04 => decImm .xori hi d a
  | 0x05 => decodeShi hi d a
  | 0x06 => decImm .slti hi d a
  | 0x07 => decImm .sltni hi d a
  | 0x08 => decImm .muli hi d a
  | 0x09 => dec1 (fun d => .movi d (BitVec.ofNat 19 (fld w 13 19))) d
  | 0x0A => dec1 (fun d => .movsh d (BitVec.ofNat 19 (fld w 13 19))) d
  | 0x0B => decodeFp f7 d a b
  | 0x0C => decodeFma .fmaD .fnmaD f7 d a b
  | 0x0D => decodeFma .fmaS .fnmaS f7 d a b
  | 0x0E => decodeCvt f7 d a b
  | 0x10 => decodeLd hi d a
  | 0x11 => decodeSt hi d a
  | 0x12 => decodeAmo f7 d a b
  | 0x13 => decodeCas f7 d a b
  | 0x14 => decodeFence hi d a
  | 0x15 => decodePhase hi d a
  | 0x16 => decBranch .beq hi d a
  | 0x17 => decBranch .bne hi d a
  | 0x18 => decBranch .blt hi d a
  | 0x19 => decBranch .bge hi d a
  | 0x1A => decBranch .bltn hi d a
  | 0x1B => decBranch .bgen hi d a
  | 0x1C => dec1 (fun d => .jal d (BitVec.ofNat 19 (fld w 13 19))) d
  | 0x1D => decImm .jalr hi d a
  | 0x1E => decodeLoop hi d a
  | 0x1F => decodeRep hi d a
  | 0x20 => decodeCap f7 d a b
  | 0x21 => isInstr (hi / 4096 == 0) (decRG (fun d a => .csetbi d a (BitVec.ofNat 12 hi)) d a)
  | 0x22 => decRG (fun d a => .cinci d a (BitVec.ofNat 13 hi)) d a
  | 0x23 => decodeQctl f7 d a b
  | 0x24 =>
    if h : hi < 4 then decRG (fun d a => .recv d a ⟨hi, h⟩) d a else .error .illegalInstruction
  | 0x25 => isInstr (f7 == 0) (decRGR .send d a b)
  | 0x26 => decodeCtx f7 d a b
  | 0x27 => decodeHank f7 d a b
  | 0x28 => decodeDom f7 d a b
  | 0x29 => decodeHnd f7 d a b
  | 0x2A => decodeGate f7 d a b
  | 0x2B => decodeSreg hi d a
  | 0x2C => decodeTraps f7 d a b
  | 0x2D => isInstr (f7 == 0 && b == 0) (decRG .launch d a)
  | 0x30 => decodeCopy 0x30 v d a b c
  | 0x31 => decodeCopy 0x31 v d a b c
  | 0x33 => decodeVmap v d a b c
  | 0x34 => decodeVchain v d a b c
  | 0x35 => decodeVred v d a b c
  | 0x36 => decodeVscan v d a b c
  | 0x37 => isInstr (v == 0) (decodeVpair .vgath d a b c)
  | 0x38 => isInstr (v == 0) (decodeVpair .vscat d a b c)
  | 0x39 => if v = 0 then decodeVpair .vcomp d a b c else decodeVpair .vexpd d a b c
  | 0x3A => decodeMma v d a b c
  | 0x3B => decodeMctl f7 d a b
  | 0x3C => decodeEvt f7 d a b
  | 0x3D => decodeWs f7 d a b
  | _ => .error .illegalInstruction

/-- A form of the 16-bit layout whose d is any code and whose b names g0 to g31 (R41). -/
def decH (f : RegCode → GReg → Instr) (d b : Nat) : Except Reject Instr := do
  let d ← anyReg d; let b ← gReg b; pure (f d b)

/-- A form of the 16-bit layout whose b is a five-bit immediate (R41). -/
def decHI (f : RegCode → BitVec 5 → Instr) (d b : Nat) : Except Reject Instr :=
  dec1 (fun d => f d (BitVec.ofNat 5 b)) d

/-- op4 15, MISC (R43). -/
def decodeMisc (d b : Nat) : Except Reject Instr :=
  match b with
  | 0 => isInstr (d == 0) (.ok .nop)
  | 1 => isInstr (d == 0) (.ok .yieldC)
  | 2 => do let d ← gReg d; pure (.hwaitC d)
  | 3 => isInstr (d == 0) (.ok .ret)
  | 4 => isInstr (d == 0) (.ok .exitC)
  | 5 => dec1 .neg d
  | 6 => dec1 .not_ d
  | _ => .error .illegalInstruction

/-- A 16-bit word, bit 0 clear (R41, R42); the halfword 0 is no instruction (R36). -/
def decode16 (w : Nat) : Except Reject Instr :=
  let d := fld w 5 6
  let b := fld w 11 5
  if w = 0 then .error .illegalInstruction else
  match fld w 1 4 with
  | 0 => decH .mov d b
  | 1 => decH .addC d b
  | 2 => decH .subC d b
  | 3 => decH .andC d b
  | 4 => decH .orC d b
  | 5 => decH .xorC d b
  | 6 => decHI .shliC d b
  | 7 => decHI .shriC d b
  | 8 => decHI .addiC d b
  | 9 => decHI .moviC d b
  | 10 => decH .ldDC d b
  | 11 => decH .stDC d b
  | 12 => decH .faddDC d b
  | 13 => decH .fmulDC d b
  | 14 => decHI .bnz d b
  | _ => decodeMisc d b

/-- The length in bytes that the first halfword fixes (R36). -/
def wordLength (h : Nat) : Nat := if h % 2 = 0 then 2 else 4

/-- The instruction whose word is `w`, the first halfword in its low bits (R36). -/
def decode (w : Nat) : Except Reject Instr :=
  if w % 2 = 0 then decode16 (w % 65536) else decode32 (w % 4294967296)

/-- The instruction at the head of a list of bytes, little-endian (R8), and the bytes after it. -/
def decodeBytes (bs : List Byte) : Except Reject (Instr × List Byte) :=
  match bs with
  | b0 :: b1 :: r =>
    if b0.toNat % 2 = 0 then
      match decode16 (b0.toNat + 256 * b1.toNat) with
      | .ok i => .ok (i, r)
      | .error e => .error e
    else
      match r with
      | b2 :: b3 :: r' =>
        match decode32 (b0.toNat + 256 * b1.toNat + 65536 * b2.toNat + 16777216 * b3.toNat) with
        | .ok i => .ok (i, r')
        | .error e => .error e
      | _ => .error .truncated
  | _ => .error .truncated

/-- A number as bytes, little-endian (R8). -/
def toBytesLE : Nat → Nat → List Byte
  | 0, _ => []
  | n + 1, w => BitVec.ofNat 8 w :: toBytesLE n (w / 256)

/-- The host's question of the decoder: the instruction whose bits, numbered as the opcode table numbers them, are `w`;
bits above `nbits` are zero. -/
def decodeTableWord (nbits w : Nat) : Option Instr :=
  match decodeBytes (toBytesLE 4 (w % 2 ^ nbits)) with
  | .ok (i, _) => some i
  | .error _ => none

/-! The encoder. -/

/-- The code of a register field (R44). -/
def RegCode.code (r : RegCode) : Nat :=
  match r with
  | .g n => n.val
  | .q n => 32 + n.val
  | .p n => 40 + n.val

/-- The precision bit (R51). -/
def Prec.code (p : Prec) : Nat := match p with | .d => 0 | .s => 1

/-- The type code of CVT (R51). -/
def CvtType.code (t : CvtType) : Nat :=
  match t with
  | .i64 => 0 | .n64 => 1 | .i32 => 2 | .n32 => 3 | .fp64 => 4 | .fp32 => 5 | .fp16 => 6 | .bf16 => 7

/-- The sz field of LD (R53). -/
def LoadSize.code (z : LoadSize) : Nat :=
  match z with
  | .b => 0 | .bn => 1 | .h => 2 | .hn => 3 | .w => 4 | .wn => 5 | .d => 6

/-- The sz field of ST (R53). -/
def StoreSize.code (z : StoreSize) : Nat :=
  match z with
  | .b => 0 | .h => 1 | .w => 2 | .d => 3

/-- The scope code (R319). -/
def Scope.code (s : Scope) : Nat :=
  match s with
  | .ctx => 0 | .core => 1 | .clu => 2 | .die => 3 | .dev => 4 | .sys => 5

/-- A one-bit field. -/
def bit (b : Bool) : Nat := if b then 1 else 0

/-- A field value at its place. -/
def place (lo x : Nat) : Nat := x * 2 ^ lo

/-- The length in bytes of an instruction's word: 2, 4, or 0 for a step that has no encoding. -/
def Instr.size (i : Instr) : Nat :=
  match i with
  | .mov .. | .addC .. | .subC .. | .andC .. | .orC .. | .xorC .. | .shliC .. | .shriC .. | .addiC .. | .moviC ..
  | .ldDC .. | .stDC .. | .faddDC .. | .fmulDC .. | .bnz .. | .nop | .yieldC | .hwaitC .. | .ret | .exitC | .neg ..
  | .not_ .. => 2
  | .add .. | .sub .. | .mul .. | .mulh .. | .mulhn .. | .div .. | .divn .. | .rem .. | .remn .. | .and_ .. | .or_ ..
  | .xor .. | .andn .. | .shl .. | .shr .. | .sar .. | .rol .. | .ror .. | .slt .. | .sltn .. | .seq .. | .min ..
  | .max .. | .minn .. | .maxn .. | .clz .. | .ctz .. | .popc .. | .brev .. | .bswap .. | .clmul .. | .clmulh ..
  | .addw .. | .subw .. | .mulw .. | .sel .. | .extr .. | .insr .. | .adds .. | .subs .. | .addi .. | .andi ..
  | .ori .. | .xori .. | .slti .. | .sltni .. | .muli .. | .shli .. | .shri .. | .sari .. | .roli .. | .rori ..
  | .shlwi .. | .shrwi .. | .sarwi .. | .movi .. | .movsh .. | .fadd .. | .fsub .. | .fmul .. | .fdiv .. | .fsqrt ..
  | .fmin .. | .fmax .. | .fminm .. | .fmaxm .. | .feq .. | .flt .. | .fle .. | .funord .. | .fclass .. | .fsgnj ..
  | .fsgnjn .. | .fsgnjx .. | .frint .. | .fmaD .. | .fnmaD .. | .fmaS .. | .fnmaS .. | .cvt .. | .ld .. | .ldc ..
  | .st .. | .stc .. | .amoadd .. | .amoand .. | .amoor .. | .amoxor .. | .amoswp .. | .amomin .. | .amomax ..
  | .amominn .. | .amomaxn .. | .amofadd .. | .cas .. | .fence .. | .phase .. | .phasea .. | .beq .. | .bne ..
  | .blt .. | .bge .. | .bltn .. | .bgen .. | .jal .. | .jalr .. | .loop .. | .rep .. | .cgeta .. | .cgetb ..
  | .cgetl .. | .cgetp .. | .cgetd .. | .cgett .. | .cseta .. | .cinc .. | .csetb .. | .csetbr .. | .candp ..
  | .cseal .. | .cunseal .. | .cclr .. | .ctsub .. | .movt .. | .csetbi .. | .cinci .. | .qcfg .. | .qclr ..
  | .qcnt .. | .rbind .. | .pbind .. | .punbind .. | .rpoll .. | .radv .. | .recv .. | .send .. | .start .. | .exit
  | .join .. | .barc .. | .yield_ | .follow | .unfollow | .park .. | .helpers .. | .fetcht .. | .tdcfg ..
  | .tdstat .. | .dmset .. | .dmget .. | .hwait .. | .htest .. | .hcancel .. | .gcall .. | .gret .. | .grets ..
  | .gclean | .dstat .. | .drevoke .. | .gmake .. | .srd .. | .swr .. | .trap .. | .syscall | .eret | .bkpt
  | .launch .. | .cpy .. | .cfill .. | .cpyr .. | .cpyb .. | .vmap .. | .vmapBs .. | .vchain .. | .vred ..
  | .vscan .. | .vgath .. | .vscat .. | .vcomp .. | .vexpd .. | .mma .. | .mmas .. | .mldb .. | .mzero .. | .msta ..
  | .mlda .. | .msync .. | .mown .. | .mfree .. | .mresume .. | .ecfg .. | .epost .. | .epostv .. | .etick ..
  | .edrain .. | .erd .. | .ewr .. | .efan .. | .wswin .. | .wsstat .. => 4
  | .scopeMissRepair .. | .unwindCheck .. | .frameExpire .. | .cleanupBudgetExpire .. | .livenessUpdate ..
  | .domnew .. | .domgrant .. | .dspage .. | .gimport .. | .fsync .. | .writebackComplete .. | .pageWalk ..
  | .faultService .. | .nvmeReadComplete .. | .shootdownComplete .. | .atsInvalidate .. | .priResponse ..
  | .prgQuarantineExpire .. | .hostSnoop .. | .bisnpResponse .. | .hostHdmWrite .. | .hostHdmRead ..
  | .expansionTimeout .. | .wsRefreshWindow .. | .messengerPass .. | .layChannelFail .. | .remoteStoreArrive ..
  | .remoteAckSend .. | .remoteAckArrive .. | .retryResend .. | .ringDeliver .. | .ringRetry .. | .overflowDivert ..
  | .overflowMove .. | .flitDataReceive .. | .flitAckReceive .. | .flitNackReceive .. | .restripeMarkerReceive ..
  | .completionFlitReceive .. | .ackFlitTimer .. | .replayTimeout .. | .lossOfLight .. | .lossDetect ..
  | .linkRetrain .. | .engineQueueStart .. | .copyResolve .. | .vectorResolve .. | .tileStep .. | .matrixResolve ..
  | .eventDeliver .. | .etickStart .. | .tickDrainResume .. | .etickResolve .. | .epostvResolve ..
  | .phaseComplete .. | .contextWake .. | .heldCyclesExpire .. | .sliceExpire .. | .drowsy .. | .belayWake ..
  | .belayRecheck .. | .launchRecordAccept .. | .taskDependencesMet .. | .taskPlace .. | .imageLoad .. | .taskDone ..
  | .slotBind .. | .slotUnbind .. | .slotEvict .. | .slotRestore .. | .clockModeChange .. | .tenantAbort ..
  | .storageError .. | .machineCheck .. | .thermalWarning .. | .thermalClear .. | .registerWrite .. | .doorbell ..
  | .mstateRead .. | .debugWindowRead .. | .regionSet .. | .shootdown .. | .mailboxFsync .. | .gateExport ..
  | .importAsk .. | .vfAssign .. | .importGrant .. | .importDeny .. | .expwin .. | .fwUpdate .. | .heartbeat
  | .heartbeatTimeout | .perstDeassert | .bootComplete | .vfEnableClear .. | .flr .. | .teardownComplete ..
  | .getVersion .. | .getCapabilities .. | .negotiateAlgorithms .. | .getDigests .. | .getCertificate ..
  | .challenge .. | .getMeasurements .. | .keyExchange .. | .finish .. | .endSession .. | .ideKm ..
  | .remoteLoadArrive .. | .remoteReplyArrive .. | .atsTranslationCompletion .. | .laserLightReturn ..
  | .powerCapClockStep .. => 0

/-- The word of an instruction, from the encoding tables of R39 to R58 and of each entry; 0 for a step that has no
encoding. -/
def encode (i : Instr) : Nat :=
  match i with
  | .add d a b => 0x1 + place 7 d.code + place 13 a.code + place 19 b.code
  | .sub d a b => 0x2000001 + place 7 d.code + place 13 a.code + place 19 b.code
  | .mul d a b => 0x4000001 + place 7 d.code + place 13 a.code + place 19 b.code
  | .mulh d a b => 0x6000001 + place 7 d.code + place 13 a.code + place 19 b.code
  | .mulhn d a b => 0x8000001 + place 7 d.code + place 13 a.code + place 19 b.code
  | .div d a b => 0xa000001 + place 7 d.code + place 13 a.code + place 19 b.code
  | .divn d a b => 0xc000001 + place 7 d.code + place 13 a.code + place 19 b.code
  | .rem d a b => 0xe000001 + place 7 d.code + place 13 a.code + place 19 b.code
  | .remn d a b => 0x10000001 + place 7 d.code + place 13 a.code + place 19 b.code
  | .and_ d a b => 0x12000001 + place 7 d.code + place 13 a.code + place 19 b.code
  | .or_ d a b => 0x14000001 + place 7 d.code + place 13 a.code + place 19 b.code
  | .xor d a b => 0x16000001 + place 7 d.code + place 13 a.code + place 19 b.code
  | .andn d a b => 0x18000001 + place 7 d.code + place 13 a.code + place 19 b.code
  | .shl d a b => 0x1a000001 + place 7 d.code + place 13 a.code + place 19 b.code
  | .shr d a b => 0x1c000001 + place 7 d.code + place 13 a.code + place 19 b.code
  | .sar d a b => 0x1e000001 + place 7 d.code + place 13 a.code + place 19 b.code
  | .rol d a b => 0x20000001 + place 7 d.code + place 13 a.code + place 19 b.code
  | .ror d a b => 0x22000001 + place 7 d.code + place 13 a.code + place 19 b.code
  | .slt d a b => 0x24000001 + place 7 d.code + place 13 a.code + place 19 b.code
  | .sltn d a b => 0x26000001 + place 7 d.code + place 13 a.code + place 19 b.code
  | .seq d a b => 0x28000001 + place 7 d.code + place 13 a.code + place 19 b.code
  | .min d a b => 0x2a000001 + place 7 d.code + place 13 a.code + place 19 b.code
  | .max d a b => 0x2c000001 + place 7 d.code + place 13 a.code + place 19 b.code
  | .minn d a b => 0x2e000001 + place 7 d.code + place 13 a.code + place 19 b.code
  | .maxn d a b => 0x30000001 + place 7 d.code + place 13 a.code + place 19 b.code
  | .clz d a => 0x32000001 + place 7 d.code + place 13 a.code
  | .ctz d a => 0x34000001 + place 7 d.code + place 13 a.code
  | .popc d a => 0x36000001 + place 7 d.code + place 13 a.code
  | .brev d a => 0x38000001 + place 7 d.code + place 13 a.code
  | .bswap d a => 0x3a000001 + place 7 d.code + place 13 a.code
  | .clmul d a b => 0x3c000001 + place 7 d.code + place 13 a.code + place 19 b.code
  | .clmulh d a b => 0x3e000001 + place 7 d.code + place 13 a.code + place 19 b.code
  | .addw d a b => 0x40000001 + place 7 d.code + place 13 a.code + place 19 b.code
  | .subw d a b => 0x42000001 + place 7 d.code + place 13 a.code + place 19 b.code
  | .mulw d a b => 0x44000001 + place 7 d.code + place 13 a.code + place 19 b.code
  | .sel d a b => 0x46000001 + place 7 d.code + place 13 a.code + place 19 b.code
  | .extr d a b => 0x48000001 + place 7 d.code + place 13 a.code + place 19 b.code
  | .insr d a b => 0x4a000001 + place 7 d.code + place 13 a.code + place 19 b.code
  | .adds d a b => 0x4c000001 + place 7 d.code + place 13 a.code + place 19 b.code
  | .subs d a b => 0x4e000001 + place 7 d.code + place 13 a.code + place 19 b.code
  | .addi d a k => 0x3 + place 7 d.code + place 13 a.code + place 19 k.toNat
  | .andi d a k => 0x5 + place 7 d.code + place 13 a.code + place 19 k.toNat
  | .ori d a k => 0x7 + place 7 d.code + place 13 a.code + place 19 k.toNat
  | .xori d a k => 0x9 + place 7 d.code + place 13 a.code + place 19 k.toNat
  | .slti d a k => 0xd + place 7 d.code + place 13 a.code + place 19 k.toNat
  | .sltni d a k => 0xf + place 7 d.code + place 13 a.code + place 19 k.toNat
  | .muli d a k => 0x11 + place 7 d.code + place 13 a.code + place 19 k.toNat
  | .shli d a n => 0xb + place 7 d.code + place 13 a.code + place 19 n.toNat
  | .shri d a n => 0x200000b + place 7 d.code + place 13 a.code + place 19 n.toNat
  | .sari d a n => 0x400000b + place 7 d.code + place 13 a.code + place 19 n.toNat
  | .roli d a n => 0x600000b + place 7 d.code + place 13 a.code + place 19 n.toNat
  | .rori d a n => 0x800000b + place 7 d.code + place 13 a.code + place 19 n.toNat
  | .shlwi d a n => 0xa00000b + place 7 d.code + place 13 a.code + place 19 n.toNat
  | .shrwi d a n => 0xc00000b + place 7 d.code + place 13 a.code + place 19 n.toNat
  | .sarwi d a n => 0xe00000b + place 7 d.code + place 13 a.code + place 19 n.toNat
  | .movi d k => 0x13 + place 7 d.code + place 13 k.toNat
  | .movsh d k => 0x15 + place 7 d.code + place 13 k.toNat
  | .fadd p d a b => 0x17 + place 31 p.code + place 7 d.code + place 13 a.code + place 19 b.code
  | .fsub p d a b => 0x2000017 + place 31 p.code + place 7 d.code + place 13 a.code + place 19 b.code
  | .fmul p d a b => 0x4000017 + place 31 p.code + place 7 d.code + place 13 a.code + place 19 b.code
  | .fdiv p d a b => 0x6000017 + place 31 p.code + place 7 d.code + place 13 a.code + place 19 b.code
  | .fsqrt p d a => 0x8000017 + place 31 p.code + place 7 d.code + place 13 a.code
  | .fmin p d a b => 0xa000017 + place 31 p.code + place 7 d.code + place 13 a.code + place 19 b.code
  | .fmax p d a b => 0xc000017 + place 31 p.code + place 7 d.code + place 13 a.code + place 19 b.code
  | .fminm p d a b => 0xe000017 + place 31 p.code + place 7 d.code + place 13 a.code + place 19 b.code
  | .fmaxm p d a b => 0x10000017 + place 31 p.code + place 7 d.code + place 13 a.code + place 19 b.code
  | .feq p d a b => 0x12000017 + place 31 p.code + place 7 d.code + place 13 a.code + place 19 b.code
  | .flt p d a b => 0x14000017 + place 31 p.code + place 7 d.code + place 13 a.code + place 19 b.code
  | .fle p d a b => 0x16000017 + place 31 p.code + place 7 d.code + place 13 a.code + place 19 b.code
  | .funord p d a b => 0x18000017 + place 31 p.code + place 7 d.code + place 13 a.code + place 19 b.code
  | .fclass p d a => 0x1a000017 + place 31 p.code + place 7 d.code + place 13 a.code
  | .fsgnj p d a b => 0x1c000017 + place 31 p.code + place 7 d.code + place 13 a.code + place 19 b.code
  | .fsgnjn p d a b => 0x1e000017 + place 31 p.code + place 7 d.code + place 13 a.code + place 19 b.code
  | .fsgnjx p d a b => 0x20000017 + place 31 p.code + place 7 d.code + place 13 a.code + place 19 b.code
  | .frint p d a => 0x22000017 + place 31 p.code + place 7 d.code + place 13 a.code
  | .fmaD d a b c => 0x19 + place 7 d.code + place 13 a.code + place 19 b.code + place 25 c.code
  | .fnmaD d a b c => 0x80000019 + place 7 d.code + place 13 a.code + place 19 b.code + place 25 c.code
  | .fmaS d a b c => 0x1b + place 7 d.code + place 13 a.code + place 19 b.code + place 25 c.code
  | .fnmaS d a b c => 0x8000001b + place 7 d.code + place 13 a.code + place 19 b.code + place 25 c.code
  | .cvt rm sat dst src d a => 0x1d + place 29 rm.toNat + place 28 (bit sat) + place 22 dst.code + place 19 src.code + place 7 d.code + place 13 a.code
  | .ld sz o d a off => 0x21 + place 19 sz.code + place 22 o.toNat + place 7 d.code + place 13 a.val + place 24 off.toNat
  | .ldc o d a off => 0x380021 + place 22 o.toNat + place 7 d.code + place 13 a.val + place 24 off.toNat
  | .st sz o v a off => 0x23 + place 19 sz.code + place 22 o.toNat + place 7 v.code + place 13 a.val + place 24 off.toNat
  | .stc o v a off => 0x200023 + place 22 o.toNat + place 7 v.code + place 13 a.val + place 24 off.toNat
  | .amoadd w8 o d b a => 0x25 + place 28 (bit w8) + place 25 o.toNat + place 7 d.code + place 19 b.code + place 13 a.val
  | .amoand w8 o d b a => 0x20000025 + place 28 (bit w8) + place 25 o.toNat + place 7 d.code + place 19 b.code + place 13 a.val
  | .amoor w8 o d b a => 0x40000025 + place 28 (bit w8) + place 25 o.toNat + place 7 d.code + place 19 b.code + place 13 a.val
  | .amoxor w8 o d b a => 0x60000025 + place 28 (bit w8) + place 25 o.toNat + place 7 d.code + place 19 b.code + place 13 a.val
  | .amoswp w8 o d b a => 0x80000025 + place 28 (bit w8) + place 25 o.toNat + place 7 d.code + place 19 b.code + place 13 a.val
  | .amomin w8 o d b a => 0xa0000025 + place 28 (bit w8) + place 25 o.toNat + place 7 d.code + place 19 b.code + place 13 a.val
  | .amomax w8 o d b a => 0xc0000025 + place 28 (bit w8) + place 25 o.toNat + place 7 d.code + place 19 b.code + place 13 a.val
  | .amominn w8 o d b a => 0xa8000025 + place 28 (bit w8) + place 25 o.toNat + place 7 d.code + place 19 b.code + place 13 a.val
  | .amomaxn w8 o d b a => 0xc8000025 + place 28 (bit w8) + place 25 o.toNat + place 7 d.code + place 19 b.code + place 13 a.val
  | .amofadd w8 o d b a => 0xe0000025 + place 28 (bit w8) + place 25 o.toNat + place 7 d.code + place 19 b.code + place 13 a.val
  | .cas w8 o d b a => 0x27 + place 28 (bit w8) + place 25 o.toNat + place 7 d.code + place 19 b.code + place 13 a.val
  | .fence sc kinds lb rs eng => 0x29 + place 19 sc.code + place 22 kinds.toNat + place 26 (bit lb) + place 27 (bit rs) + place 28 (bit eng)
  | .phase n => 0x2b + place 19 n.val
  | .phasea d n => 0x40002b + place 7 d.val + place 19 n.val
  | .beq a b off => 0x2d + place 7 a.code + place 13 b.code + place 19 off.toNat
  | .bne a b off => 0x2f + place 7 a.code + place 13 b.code + place 19 off.toNat
  | .blt a b off => 0x31 + place 7 a.code + place 13 b.code + place 19 off.toNat
  | .bge a b off => 0x33 + place 7 a.code + place 13 b.code + place 19 off.toNat
  | .bltn a b off => 0x35 + place 7 a.code + place 13 b.code + place 19 off.toNat
  | .bgen a b off => 0x37 + place 7 a.code + place 13 b.code + place 19 off.toNat
  | .jal d off => 0x39 + place 7 d.code + place 13 off.toNat
  | .jalr d a k => 0x3b + place 7 d.code + place 13 a.code + place 19 k.toNat
  | .loop a half => 0x3d + place 13 a.code + place 20 half.toNat
  | .rep a mask k => 0x3f + place 13 a.code + place 7 mask.toNat + place 19 k.toNat
  | .cgeta d a => 0x41 + place 7 d.code + place 13 a.code
  | .cgetb d a => 0x2000041 + place 7 d.code + place 13 a.code
  | .cgetl d a => 0x4000041 + place 7 d.code + place 13 a.code
  | .cgetp d a => 0x6000041 + place 7 d.code + place 13 a.code
  | .cgetd d a => 0x8000041 + place 7 d.code + place 13 a.code
  | .cgett d a => 0xa000041 + place 7 d.code + place 13 a.code
  | .cseta d a b => 0xc000041 + place 7 d.code + place 13 a.code + place 19 b.code
  | .cinc d a b => 0xe000041 + place 7 d.code + place 13 a.code + place 19 b.code
  | .csetb d a b => 0x10000041 + place 7 d.code + place 13 a.code + place 19 b.code
  | .csetbr d a b => 0x12000041 + place 7 d.code + place 13 a.code + place 19 b.code
  | .candp d a b => 0x14000041 + place 7 d.code + place 13 a.code + place 19 b.code
  | .cseal d a b => 0x16000041 + place 7 d.code + place 13 a.code + place 19 b.code
  | .cunseal d a b => 0x18000041 + place 7 d.code + place 13 a.code + place 19 b.code
  | .cclr d a => 0x1a000041 + place 7 d.code + place 13 a.code
  | .ctsub d a b => 0x1c000041 + place 7 d.code + place 13 a.code + place 19 b.code
  | .movt d a => 0x1e000041 + place 7 d.code + place 13 a.code
  | .csetbi d a len => 0x43 + place 7 d.code + place 13 a.val + place 19 len.toNat
  | .cinci d a k => 0x45 + place 7 d.code + place 13 a.val + place 19 k.toNat
  | .qcfg d a => 0x47 + place 7 d.code + place 13 a.val
  | .qclr d a => 0x2000047 + place 7 d.code + place 13 a.val
  | .qcnt d a => 0x4000047 + place 7 d.code + place 13 a.val
  | .rbind d a b => 0x6000047 + place 7 d.code + place 13 a.val + place 19 b.val
  | .pbind m a b => 0x8000047 + place 7 (40 + m.val) + place 13 a.val + place 19 b.val
  | .punbind m => 0xa000047 + place 7 (40 + m.val)
  | .rpoll d a => 0xc000047 + place 7 d.code + place 13 a.val
  | .radv d a b => 0xe000047 + place 7 d.code + place 13 a.val + place 19 b.val
  | .recv d a k => 0x49 + place 7 d.code + place 13 a.val + place 19 k.val
  | .send d a b => 0x4b + place 7 d.code + place 13 a.val + place 19 b.code
  | .start d a b => 0x4d + place 7 d.code + place 13 a.val + place 19 b.code
  | .exit => 0x200004d
  | .join a => 0x400004d + place 13 a.code
  | .barc a => 0x600004d + place 13 a.code
  | .yield_ => 0x800004d
  | .follow => 0xa00004d
  | .unfollow => 0xc00004d
  | .park d a b => 0xe00004d + place 7 d.code + place 13 a.val + place 19 b.code
  | .helpers d => 0x1000004d + place 7 d.code
  | .fetcht d a => 0x4f + place 7 d.val + place 13 a.code
  | .tdcfg d a b => 0x200004f + place 7 d.code + place 13 a.val + place 19 b.code
  | .tdstat d a => 0x400004f + place 7 d.code + place 13 a.code
  | .dmset d a b => 0x51 + place 7 d.code + place 13 a.val + place 19 b.code
  | .dmget d a => 0x2000051 + place 7 d.code + place 13 a.code
  | .hwait d a => 0x53 + place 7 d.code + place 13 a.val
  | .htest d a => 0x2000053 + place 7 d.code + place 13 a.val
  | .hcancel d a => 0x4000053 + place 7 d.code + place 13 a.val
  | .gcall a => 0x55 + place 13 a.val
  | .gret a => 0x2000055 + place 13 a.val
  | .grets a b => 0x4000055 + place 13 a.val + place 19 b.code
  | .gclean => 0x6000055
  | .dstat d a => 0x8000055 + place 7 d.code + place 13 a.val
  | .drevoke d a => 0xa000055 + place 7 d.code + place 13 a.val
  | .gmake d a b => 0xc000055 + place 7 d.code + place 13 a.val + place 19 b.val
  | .srd d n => 0x57 + place 7 d.code + place 19 n.toNat
  | .swr d n a => 0x80000057 + place 7 d.code + place 19 n.toNat + place 13 a.code
  | .trap a => 0x59 + place 13 a.code
  | .syscall => 0x2000059
  | .eret => 0x4000059
  | .bkpt => 0x6000059
  | .launch d a => 0x5b + place 7 d.code + place 13 a.val
  | .cpy h a b c => 0x61 + place 7 h.val + place 13 a.val + place 19 b.val + place 25 c.code
  | .cfill h a c => 0x80000061 + place 7 h.val + place 13 a.val + place 25 c.code
  | .cpyr h a b c => 0x63 + place 7 h.val + place 13 a.val + place 19 b.val + place 25 c.code
  | .cpyb h a b c => 0x80000063 + place 7 h.val + place 13 a.val + place 19 b.val + place 25 c.code
  | .vmap h a b e => 0x67 + place 7 h.val + place 13 a.val + place 19 b.val + place 25 e.toNat
  | .vmapBs h a b e => 0x80000067 + place 7 h.val + place 13 a.val + place 19 b.code + place 25 e.toNat
  | .vchain h a b c => 0x69 + place 7 h.val + place 13 a.val + place 19 b.val + place 25 c.val
  | .vred h a e => 0x6b + place 7 h.val + place 13 a.val + place 25 e.toNat
  | .vscan h a b e => 0x6d + place 7 h.val + place 13 a.val + place 19 b.code + place 25 e.toNat
  | .vgath h a b => 0x6f + place 7 h.val + place 13 a.val + place 19 b.val
  | .vscat h a b => 0x71 + place 7 h.val + place 13 a.val + place 19 b.val
  | .vcomp h a b => 0x73 + place 7 h.val + place 13 a.val + place 19 b.val
  | .vexpd h a b => 0x80000073 + place 7 h.val + place 13 a.val + place 19 b.val
  | .mma h a b c => 0x75 + place 7 h.val + place 13 a.val + place 19 b.code + place 25 c.code
  | .mmas h a b c => 0x80000075 + place 7 h.val + place 13 a.val + place 19 b.code + place 25 c.code
  | .mldb d a b => 0x77 + place 7 d.val + place 13 a.val + place 19 b.code
  | .mzero d a => 0x2000077 + place 7 d.val + place 13 a.code
  | .msta d a b => 0x4000077 + place 7 d.val + place 13 a.val + place 19 b.code
  | .mlda d a b => 0x6000077 + place 7 d.val + place 13 a.val + place 19 b.code
  | .msync d a => 0x8000077 + place 7 d.val + place 13 a.code
  | .mown d => 0xa000077 + place 7 d.code
  | .mfree d => 0xc000077 + place 7 d.code
  | .mresume d a => 0xe000077 + place 7 d.val + place 13 a.val
  | .ecfg a b => 0x79 + place 13 a.val + place 19 b.code
  | .epost a b => 0x2000079 + place 13 a.code + place 19 b.code
  | .epostv d a => 0x4000079 + place 7 d.val + place 13 a.val
  | .etick d a => 0x6000079 + place 7 d.val + place 13 a.code
  | .edrain d a b => 0x8000079 + place 7 d.code + place 13 a.code + place 19 b.code
  | .erd d a => 0xa000079 + place 7 d.code + place 13 a.code
  | .ewr d a b => 0xc000079 + place 7 d.code + place 13 a.code + place 19 b.code
  | .efan d a b => 0xe000079 + place 7 d.code + place 13 a.code + place 19 b.code
  | .wswin d a => 0x7b + place 7 d.code + place 13 a.code
  | .wsstat d a => 0x200007b + place 7 d.code + place 13 a.code
  | .mov d b => 0x0 + place 5 d.code + place 11 b.val
  | .addC d b => 0x2 + place 5 d.code + place 11 b.val
  | .subC d b => 0x4 + place 5 d.code + place 11 b.val
  | .andC d b => 0x6 + place 5 d.code + place 11 b.val
  | .orC d b => 0x8 + place 5 d.code + place 11 b.val
  | .xorC d b => 0xa + place 5 d.code + place 11 b.val
  | .shliC d k => 0xc + place 5 d.code + place 11 k.toNat
  | .shriC d k => 0xe + place 5 d.code + place 11 k.toNat
  | .addiC d k => 0x10 + place 5 d.code + place 11 k.toNat
  | .moviC d k => 0x12 + place 5 d.code + place 11 k.toNat
  | .ldDC d b => 0x14 + place 5 d.code + place 11 b.val
  | .stDC v b => 0x16 + place 5 v.code + place 11 b.val
  | .faddDC d b => 0x18 + place 5 d.code + place 11 b.val
  | .fmulDC d b => 0x1a + place 5 d.code + place 11 b.val
  | .bnz d k => 0x1c + place 5 d.code + place 11 k.toNat
  | .nop => 0x1e
  | .yieldC => 0x81e
  | .hwaitC d => 0x101e + place 5 d.val
  | .ret => 0x181e
  | .exitC => 0x201e
  | .neg d => 0x281e + place 5 d.code
  | .not_ d => 0x301e + place 5 d.code
  | .scopeMissRepair .. | .unwindCheck .. | .frameExpire .. | .cleanupBudgetExpire .. | .livenessUpdate ..
  | .domnew .. | .domgrant .. | .dspage .. | .gimport .. | .fsync .. | .writebackComplete .. | .pageWalk ..
  | .faultService .. | .nvmeReadComplete .. | .shootdownComplete .. | .atsInvalidate .. | .priResponse ..
  | .prgQuarantineExpire .. | .hostSnoop .. | .bisnpResponse .. | .hostHdmWrite .. | .hostHdmRead ..
  | .expansionTimeout .. | .wsRefreshWindow .. | .messengerPass .. | .layChannelFail .. | .remoteStoreArrive ..
  | .remoteAckSend .. | .remoteAckArrive .. | .retryResend .. | .ringDeliver .. | .ringRetry .. | .overflowDivert ..
  | .overflowMove .. | .flitDataReceive .. | .flitAckReceive .. | .flitNackReceive .. | .restripeMarkerReceive ..
  | .completionFlitReceive .. | .ackFlitTimer .. | .replayTimeout .. | .lossOfLight .. | .lossDetect ..
  | .linkRetrain .. | .engineQueueStart .. | .copyResolve .. | .vectorResolve .. | .tileStep .. | .matrixResolve ..
  | .eventDeliver .. | .etickStart .. | .tickDrainResume .. | .etickResolve .. | .epostvResolve ..
  | .phaseComplete .. | .contextWake .. | .heldCyclesExpire .. | .sliceExpire .. | .drowsy .. | .belayWake ..
  | .belayRecheck .. | .launchRecordAccept .. | .taskDependencesMet .. | .taskPlace .. | .imageLoad .. | .taskDone ..
  | .slotBind .. | .slotUnbind .. | .slotEvict .. | .slotRestore .. | .clockModeChange .. | .tenantAbort ..
  | .storageError .. | .machineCheck .. | .thermalWarning .. | .thermalClear .. | .registerWrite .. | .doorbell ..
  | .mstateRead .. | .debugWindowRead .. | .regionSet .. | .shootdown .. | .mailboxFsync .. | .gateExport ..
  | .importAsk .. | .vfAssign .. | .importGrant .. | .importDeny .. | .expwin .. | .fwUpdate .. | .heartbeat
  | .heartbeatTimeout | .perstDeassert | .bootComplete | .vfEnableClear .. | .flr .. | .teardownComplete ..
  | .getVersion .. | .getCapabilities .. | .negotiateAlgorithms .. | .getDigests .. | .getCertificate ..
  | .challenge .. | .getMeasurements .. | .keyExchange .. | .finish .. | .endSession .. | .ideKm ..
  | .remoteLoadArrive .. | .remoteReplyArrive .. | .atsTranslationCompletion .. | .laserLightReturn ..
  | .powerCapClockStep .. => 0

/-- The bytes of an instruction, as they stand in memory (R8). -/
def encodeBytes (i : Instr) : List Byte := toBytesLE i.size (encode i)

/-- The instruction has an encoding: it is no bare step of the hardware, the firmware or a host. -/
def Instr.encoded (i : Instr) : Bool := i.size != 0

end Sys2Proof
end

