-- ==== Sys2Proof/Config.lean ====
section
/-! DEFINITION. Config.lean: the counts and limits the spec fixes for the part (R2, R3, R118, R160, R164), and the free
values: constants without a body, of which nothing can be proved, for what the spec leaves open (R10). -/
namespace Sys2Proof.Config

/-- Cores of the device (R2). -/
def cores : Nat := 4608
/-- Cores of a die (R2). -/
def coresPerDie : Nat := 1152
/-- Contexts of a slot (R4). -/
def contexts : Nat := 11
/-- Bytes of a core's local store (R2, R118). -/
def localBytes : Nat := 151552
/-- Bytes of a granule (R122). -/
def granuleBytes : Nat := 2368
/-- HBM bytes, 384 GiB (R2, R77). -/
def hbmBytes : Nat := 0x6000000000
/-- Weight-store bytes of a die, 512 MiB (R135). -/
def wsBytes : Nat := 0x20000000
/-- Where the dump area of 2 GiB begins, which no tenant's pool may take (R415): the end of HBM (assumption log 33). -/
def dumpBase : Nat := 0x5F80000000
/-- Where the handover record of a live update begins (R431): in the 16 MiB below the dump area, which no tenant's pool may take
(assumption log 31). -/
def handoverBase : Nat := 0x5F7F000000
/-- The limit of the unacknowledged count (R104). -/
def uscMax : Nat := 1024
/-- Handle slots of a context (R160). -/
def handleSlots : Nat := 16
/-- Entries of a copy, vector, integrator or matrix command queue (R164, R242, R270, R310). -/
def queueEntries : Nat := 2
/-- The most nested bights (R381). -/
def maxDepth : Nat := 16
/-- Charged cycles that a cleanup may take (R385). -/
def cleanupBudget : Nat := 100000
/-- Held cycles after which a context yields (R340). -/
def heldMax : Nat := 4096
/-- The default slice length (R366). -/
def sliceDefault : Nat := 35000

/-- A bit the spec leaves open, one for each value of the counter (assumption log 1): which of two allowed outcomes
occurs (R10). -/
opaque freeBit : Nat → Bool
/-- A number the spec leaves open, one for each value of the counter (assumption log 1). -/
opaque freeNat : Nat → Nat
/-- POPC, CLZ and CTZ of a chain step's immediate (R247, R249): the immediate has no width of its own, so the spec states no
result; one value for each operation code and immediate (assumption log 1). -/
opaque immBits : Nat → Int → Nat
/-- A byte whose value the spec does not give, one for each value of the counter or place: the content of SPDM responses
(R427) and of what firmware saves in forms of its own (R365; assumption logs 1, 14). -/
opaque freeByte : Nat → Byte
/-- The greater of a linear leak's result and its floor where the result is a NaN (R302): the spec states none; one value for
each floor and each old value (assumption log 1). -/
opaque leakMax : W64 → W64 → W64
/-- Which of two events goes first whose counts lie exactly 2^27 apart (R297): either, for each pair of source sequences
(assumption log 1). -/
opaque tieFirst : BitVec 32 → BitVec 32 → Bool

/-! What the spec names and does not give the content or the computation of (R427, R429): constants and functions without a
body (assumption log 1). -/

/-- The CRC-32 of a flit (R111): the spec gives no polynomial. -/
opaque crc32 : List Byte → BitVec 32
/-- A parity symbol of a flit's Reed–Solomon code, by its number (R111): the spec gives neither the field's nor the code's
polynomial. -/
opaque parity : List Byte → Nat → Byte
/-- SHA-512. -/
opaque sha512 : List Byte → BitVec 512
/-- The signature of a firmware image verifies. -/
opaque signed : List Byte → Bool
/-- What an image slot of the flash holds before anything is written to it. -/
opaque flash : Nat → List Byte
/-- The boot ROM. -/
opaque bootRom : List Byte
/-- The bytes that measurement 5 is taken of: for each assigned VF its partition, its DEBUG flag and its import grants. -/
opaque configBytes : List (Nat × Nat × Bool × List (Nat × Nat × Nat)) → List Byte

end Sys2Proof.Config
end

