-- ==== Sys2Proof/Machine/State.lean ====
section
/-! DEFINITION. Machine/State.lean: everything the spec gives the machine, as plain data, and the machine right after
reset. Records are grouped as the spec groups them: what is saved with a context, with a slot, what belongs to a core, a
cluster, a die, the device, a function, a partition. What only the model needs stands last. -/
namespace Sys2Proof.Machine

/-- The machine stops. -/
inductive Fault where
  /-- `step` raises it: a machine check has stopped the device (R414) and no event is due, so nothing can happen until a
  reset. Safe: the hardware does nothing here either. -/
  | deviceStopped
deriving DecidableEq, Repr

/-- No meaning for the instruction. -/
inductive Refusal where
  /-- `exec` raises it for an instruction that has no meaning in the model. Safe: nothing is claimed of it. -/
  | notModelled (mnemonic : String)
deriving DecidableEq, Repr

/-! Traps and waits. -/

/-- The trap causes of R397. -/
inductive Cause where
  | illegalInstruction | illegalOperand | repRange | capTag | capBounds | capPerm | capSealed | capDomainDead
  | align | pageFault | formatFault | fpTrap | accNotOwned | gateInvalid | gateDepth | dstackSpillFault
  | portDeadlock | wsWriteDenied | shapeInvalid | handleForeign | breakpoint | trapInstr | queueEmpty | queueFull
  | doubleTrap | machineCheck | handleError
deriving DecidableEq, Repr

/-- Page-fault reasons (R72). -/
inductive PageReason where
  | notPresent | nonCanonical | permission | malformed | fileReadError | poolExhausted | hostDenied | expansionError
  | atomicUnsupported | noSlot
deriving DecidableEq, Repr

/-- A trap to be taken: its cause, TVAL, page-fault reason and whether it stands at a boundary with an unwind pending. -/
structure TrapInfo where
  cause : Cause
  tval  : W64
  pfr   : Nat
  uw    : Bool
deriving DecidableEq, Repr

/-- What a waiting context waits for (R338, R339). -/
inductive Wait where
  /-- The reply of an off-core load, AMO or CAS (R127, R339). -/
  | reply
  /-- A miss of its micro-TLB (R79, R80), for a write or not. -/
  | walk (dva : W64) (wr : Bool)
  /-- The fault service, the NVMe initiator or a host (R82, R92, R95), for a write or not. -/
  | service (dva : W64) (wr : Bool)
  /-- Its own earlier stores to a destination, before a record or line there is read (R106, R321). -/
  | ownStores (dest : Nat)
  /-- A word in the receive ring of a port (R191). -/
  | port (m : Fin 4)
  /-- The tail of a ring to leave a value (R195). -/
  | ring (k : Fin 4) (tail : BitVec 32)
  /-- Room in a destination ring, first refused at a cycle (R189, R191). -/
  | ringRoom (addr : W64) (since : Nat)
  /-- A slot that is being evicted (R108). -/
  | evicting
  /-- A gate record that is read for GCALL (R390). -/
  | record
  /-- The slot of a destination ring that is being evicted (R108, R189). -/
  | ringAway (addr : W64)
  /-- The frame of a word that it sends to cross the Lay (R99). -/
  | frame (addr : W64)
  /-- Its own earlier event posts to a core, before a word is sent there or the next event is posted (R309, R330). -/
  | ownPosts (dest : Nat)
  /-- Its own event post to be enqueued in its own core, before its next instruction (R309). -/
  | enqueued
  /-- An engine operation that holds the port (R156). -/
  | portHeld (m : Fin 4)
  /-- The handle of a slot to resolve (R169). -/
  | handle (ctx : Fin 11) (h : Fin 16)
  /-- A handle slot (R160). -/
  | handleSlot
  /-- The unacknowledged count to fall below its limit (R104). -/
  | uscRoom
  /-- Its four counts to be 0 (R105). -/
  | uscZero
  /-- Earlier accesses with a home within a scope, as a release waits (R323). -/
  | release (s : Scope)
  /-- A FENCE (R333): what it selects. -/
  | fence (s : Scope) (st ld lb rs eng : Bool)
  /-- A phase of the domain in DMn (R335). -/
  | phase (n : Fin 6) (p : BitVec 32)
  /-- No phase of the domain in DMn incomplete (R353). -/
  | phaseNone (n : Fin 6)
  /-- No helper of the slot live (R346). -/
  | helpers
  /-- A context of the slot to be free (R347), and the operand that the instruction consumes when it completes (R46). -/
  | join (c : Fin 11) (src : RegCode)
  /-- A barrier (R348). -/
  | barrier (mask : BitVec 11)
  /-- An idle hank to be armed (R356). -/
  | hank (h : Fin 4)
  /-- An entry of an engine queue (R164, R242, R270, R310). -/
  | queueRoom (e : EngineKind)
  /-- The matrix queue of the core to be empty (R273, R289). -/
  | matrixEmpty
  /-- No ETICK of the slot unresolved (R311). -/
  | noTick
  /-- The response of a service core (R408). -/
  | syscall
  /-- The dies to take a revocation (R394). -/
  | revoke (dom : BitVec 12)
  /-- The engine operations issued at a depth (R385, R391). -/
  | engines (depth : Nat)
  /-- A weight-store refresh window (R138). -/
  | refresh (die : Fin 4) (grp : Fin 8)
  /-- A write-back of a FILE page (R97). -/
  | writeback (dva : W64)
  /-- Snoop responses of the hosts for a line (R86). -/
  | snoop (line : Nat) (wr : Bool)
  /-- A context that ends with DOUBLE_TRAP waits for its engine operations (R401). -/
  | ending
deriving DecidableEq, Repr

/-- Where an access goes, byte by byte: a local store of a core through a slot's place in it, HBM, a weight store,
expansion memory, or a host's memory (R68, R69, R77). Expansion memory is reached through the memory-side cache (R89), or by
transactions of their own through the CXL port of its decoder window (R88, R90). -/
inductive Loc where
  | localStore (core : Fin 4608) (lslot mode : Nat) (off : Nat)
  | hbm (pa : Nat)
  | weight (die : Fin 4) (off : Nat)
  | expansion (port : Option (Fin 4)) (pa : Nat)
  | host (part : Fin 64) (va : Nat)
deriving DecidableEq, Repr

/-- What a belayed or parked context watches (R342): where its load lies, the value it last read, whether a monitor
entry of the core watches it, whether it was written since, and in which cycle it was last read. -/
structure Watch where
  loc       : Loc
  value     : W128
  size      : Nat
  monitored : Bool
  hit       : Bool
  readAt    : Nat
deriving DecidableEq, Repr

/-- The states of a context (R338). A follower may wait for the leader's FOLLOW or be attached (R343);
`Ctx.attached` says the latter in every state. -/
inductive CtxStatus where
  | free | ready | issuing
  | waiting (w : Wait)
  | belayed (w : Watch)
  | parked (w : Watch)
  | following (attached : Bool)
deriving DecidableEq, Repr

/-! What is saved with a context. -/

/-- A queue register (R183): its depth and its entries, oldest first. -/
structure QueueReg where
  depth : Nat
  items : List W64
deriving DecidableEq, Repr

/-- A receive ring (R185), with how many words were delivered in the cycle of the last delivery, and how many were consumed in
the cycle of the last pop or RADV (R188). -/
structure Ring where
  bound : Bool
  head  : BitVec 32
  tail  : BitVec 32
  log   : BitVec 4
  base  : BitVec 18
  inAt  : Nat
  inN   : Nat
  outAt : Nat
  outN  : Nat
deriving DecidableEq, Repr

/-- A port (R191): its receive ring, its destination ring address, and its replay latch (R46). -/
structure Port where
  bound : Bool
  ring  : Fin 4
  dest  : W64
  latch : List W64
deriving DecidableEq, Repr

/-- The states of a handle slot (R160). -/
inductive HState where
  | free | pending | resolved | consumed
deriving DecidableEq, Repr

/-- A handle slot (R160): state, serial, result word, whether a cancel is requested, the domain id and the depth at
issue, its place in the order of resolutions, the DVA of a refused weight-store write (R137), and whether the handle is of
an engine operation (that of a PHASEA is not). -/
structure HSlot where
  state  : HState
  serial : BitVec 16
  result : W64
  cancel : Bool
  dom    : BitVec 12
  depth  : Nat
  order  : Nat
  denied : Option W64
  engine : Bool
deriving DecidableEq, Repr

/-- A domain register DMn (R352), its member cores (R351), this member's phase number (R335), and which installation of the
record it belongs to (R353, assumption log 11). -/
structure DomReg where
  valid : Bool
  key   : BitVec 16
  level : BitVec 3
  cmask : BitVec 11
  cores : List Nat
  phase : BitVec 32
  epoch : Nat
deriving DecidableEq, Repr

/-- The trap status TSTAT (R399). -/
structure TStat where
  loope : W64
  loopb : W64
  loopc : W64
  repc  : BitVec 16
  repi  : BitVec 16
  pfr   : BitVec 4
  uw    : Bool
  suph  : Bool
  inh   : Bool
deriving DecidableEq, Repr

/-- A bight, a frame of the domain stack (R379). -/
structure Bight where
  ret      : Reg
  regs     : List Reg
  gate     : Reg
  tvec     : Reg
  caller   : BitVec 12
  callee   : BitVec 12
  foreign  : Bool
  nest     : Bool
  deadline : W64
  frm      : BitVec 11
  fflags   : BitVec 5
  dscope   : BitVec 3
  htrap    : Bool
  inh      : Bool
  suph     : Bool
  srseed   : W64
  srseq    : W64
  loopc    : W64
  loopb    : W64
  loope    : W64
  serial   : BitVec 48
deriving DecidableEq, Repr

/-- What an off-core access does at its destination (R127, R146, R148). The combination of an AMO is its OP and N. -/
inductive RemoteOp where
  | load
  | amo (op : Nat) (n : Bool) (v : W64) (frm : BitVec 11) (seed seq : W64)
  | cas (new exp : W64)
deriving DecidableEq, Repr

/-- Where an off-core access stands (R325, R339). -/
inductive RemotePhase where
  | sent
  /-- Stripped at a scope boundary and not yet repaired (R325): when its miss arrived among others. -/
  | missed (at_ : Nat)
  /-- Waiting for the end of a refresh window (R138). -/
  | stalled
  /-- Performed: the value, its tag bit and the flags of AMOFADD. -/
  | replied (v : W128) (t : Bool) (flags : BitVec 5)
  /-- The destination found a failure (R139). -/
  | failed (r : PageReason)
  /-- AMOFADD found an enabled trap and wrote nothing (R146). -/
  | fpTrap (flags : BitVec 5)
deriving DecidableEq, Repr

/-- The outstanding off-core load, AMO, CAS or PARK of a context; `repaired` says that it is the reissue of a missed release
(R326), `page` the page whose TLB entry it used (R81), `tears` that it may tear at its 8-byte midpoint (R321), and `half` the half that was then read first: the high one or not, and its
value. -/
structure Remote where
  phase : RemotePhase
  seq   : Nat
  instr : Instr
  op    : RemoteOp
  loc   : Loc
  tags  : Bool
  target : Option SlotId
  dva   : W64
  size  : Nat
  home  : Scope
  scope : Option Scope
  repaired : Bool
  page  : Option (Nat × Nat)
  tears : Bool
  half  : Option (Bool × Nat)
deriving DecidableEq, Repr

/-- An instruction a follower has received (R343): its address, its word, its length, where the leader went next, and the
halfwords of its code that REP and LOOP look at, by address. -/
structure Passed where
  addr : W64
  word : Nat
  size : Nat
  next : W64
  after : List (W64 × Nat)
deriving DecidableEq, Repr

/-- The watch of a possible spin (R341): the branch and its target, the count, the registers at the last taken
execution, the loads and whether the path since then met the conditions. -/
structure Spin where
  branch : W64
  target : W64
  count  : Nat
  regs   : Sparse Reg
  loads  : Nat
  value  : W128
  before : Option W128
  loc    : Loc
  size   : Nat
  onCore : Bool
deriving DecidableEq, Repr

/-- How a frame or a context is being closed while the engine operations of it are waited for: a pop of the top bight with
what g11 and g10 receive (R385), an unwind, or the end by DOUBLE_TRAP with its cause (R401). -/
inductive Closing where
  | pop (st x : W64)
  | unwind (st : W64)
  | double (cause : BitVec 8)
deriving DecidableEq, Repr

/-- A request to a service core (R408): what was sent, and the answer when it has come. -/
structure SysReq where
  service : BitVec 16
  args    : List Reg
  staged  : List (Nat × W64 × Nat × Nat)
  answer  : Option (W64 × Option Reg)
deriving DecidableEq, Repr

/-- What a REP in progress keeps from its checks (R60): the repeated instruction, the mask and the step. -/
structure Repeated where
  word : Nat
  mask : BitVec 4
  step : BitVec 13
deriving DecidableEq, Repr

/-- A word that a context sends and that is not delivered yet (R189): the ring address, the cycle of the first refusal, put
off by the time of retry replies, whether 4,096 cycles have passed since, since when retry replies come, and the number of
its frame where it crosses the Lay (R99). -/
structure Sending where
  addr   : W64
  since  : Option Nat
  divert : Bool
  away   : Option Nat
  frame  : Option Nat
deriving DecidableEq, Repr

/-- A posted request that no context waits for any more (R408): whose it was, and its partition. -/
structure Posted where
  ctx  : CtxId
  part : Fin 64
  req  : SysReq
deriving DecidableEq, Repr

/-- A private store whose value a load by the global alias need not see yet (R70): its offset, the bytes and the tag bit before
it, and the bytes that it wrote. -/
structure Kept where
  off  : Nat
  old  : List (BitVec 8)
  oldT : Bool
  new  : List (BitVec 8)
deriving DecidableEq, Repr

/-- A context (R337): everything saved with it. `rep` is the REP in progress, none between a trap return and the first
resumed repetition (R407); `ibuf` the values that halfwords of code had since the context last started or returned, by
place, and `stale` those that its next fetches return (R38); `notBefore` the first cycle in which a handler's first
instruction may issue (R402); `kept` the private stores, newest first, that its loads by the global alias may miss, none
where none are kept, and `lag` how many the next one misses (R70); `poison` the engine operation whose next transaction to
expansion memory fails (R88), and `badRead` that the next fetch or record read of the context there does; `pending` a trap of the instruction just completed, while the unwind check at its boundary
waits (R403); `reading` the place of the gate record that a GCALL has waited for (R390); `place` the slot whose overflow ring keeps a place for
the word that the instruction in progress sends as its result (R46, assumption log 8); `orAt` and `orFl` the cycle of the last
resolution that raised flags, the flags of that cycle and what FFLAGS held before it (R237); `exited` that the context has
executed EXIT (R361); `accHold` that its supervisor handler holds the accumulator set of the core (R434). -/
structure Ctx where
  status   : CtxStatus
  g        : Sparse Reg
  q        : Sparse QueueReg
  rings    : Sparse Ring
  ports    : Sparse Port
  drops    : BitVec 8
  pcc      : Reg
  frm      : BitVec 11
  fflags   : BitVec 5
  srseed   : W64
  srseq    : W64
  dscope   : BitVec 3
  tvec     : Reg
  tcause   : BitVec 8
  tval     : W64
  tpc      : W64
  tstat    : TStat
  tcode    : Reg
  hidden2  : Reg
  hidden3  : Reg
  loopc    : W64
  loopb    : W64
  loope    : W64
  repc     : BitVec 16
  repi     : BitVec 16
  counts   : Sparse Nat
  dsel     : BitVec 3
  htrapEn  : Bool
  hslots   : Sparse HSlot
  hserial  : BitVec 16
  dm       : Sparse DomReg
  belays   : BitVec 32
  spin     : List Spin
  bights   : List Bight
  resident : Nat
  dom      : BitVec 12
  creason  : BitVec 3
  cdepth   : BitVec 5
  serial   : BitVec 48
  charged  : Nat
  cleanAt  : Nat
  evtSeq   : BitVec 28
  stalls   : Sparse (BitVec 32)
  remote   : Option Remote
  sysreq   : Option SysReq
  revoke   : Bool
  sending  : Option Sending
  fan      : Option (Nat × Nat)
  attached : Bool
  follow   : List Passed
  ibuf     : Sparse (List (BitVec 16))
  stale    : Sparse (BitVec 16)
  held     : Nat
  refusal  : Option (W64 × PageReason)
  closing  : Option Closing
  rep      : Option Repeated
  notBefore : Nat
  pending  : Option TrapInfo
  reading  : Option W64
  kept     : Option (List Kept)
  lag      : Nat
  poison   : Option Nat
  badRead  : Bool
  place    : Option SlotId
  orAt     : Nat
  orFl     : BitVec 5
  orOld    : BitVec 5
  exited   : Bool
  accHold  : Bool
deriving DecidableEq, Repr

/-- Empty trap status. -/
def TStat.zero : TStat := ⟨0, 0, 0, 0, 0, 0, false, false, false⟩

/-- A context as a bind leaves it (R120, R160, R171, R183, R185), and as the model has it at reset: free, every register
data 0. Where the spec gives no value, assumption log 2 names the one taken. -/
def Ctx.reset : Ctx where
  status := .free
  g := []
  q := []
  rings := []
  ports := []
  drops := 0
  pcc := Reg.zero
  frm := 0
  fflags := 0
  srseed := 0
  srseq := 0
  dscope := 4
  tvec := Reg.zero
  tcause := 0
  tval := 0
  tpc := 0
  tstat := TStat.zero
  tcode := Reg.zero
  hidden2 := Reg.zero
  hidden3 := Reg.zero
  loopc := 0
  loopb := 0
  loope := 0
  repc := 0
  repi := 0
  counts := []
  dsel := 0
  htrapEn := false
  hslots := []
  hserial := 0
  dm := []
  belays := 0
  spin := []
  bights := []
  resident := 0
  dom := 0
  creason := 0
  cdepth := 0
  serial := 0
  charged := 0
  cleanAt := 0
  evtSeq := 0
  stalls := []
  remote := none
  sysreq := none
  revoke := false
  sending := none
  fan := none
  attached := false
  follow := []
  ibuf := []
  stale := []
  held := 0
  refusal := none
  closing := none
  rep := none
  notBefore := 0
  pending := none
  reading := none
  kept := none
  lag := 0
  poison := none
  badRead := false
  place := none
  orAt := 0
  orFl := 0
  orOld := 0
  exited := false
  accHold := false

end Sys2Proof.Machine

namespace Sys2Proof.Config

/-- A byte of a context's image, whose layout the spec does not give (R365, R420): a free value, one for each context and offset
(assumption log 33). -/
opaque imageByte : Machine.Ctx → Nat → BitVec 8

end Sys2Proof.Config

namespace Sys2Proof.Machine

/-! What belongs to a tenant slot. -/

/-- A queued event with its key (R295, R297): header word, payload, source core, source sequence. -/
structure QEvent where
  header  : W64
  payload : W64
  core    : Fin 4608
  seq     : BitVec 32
deriving DecidableEq, Repr

/-- Where a slot stands (R364, R369): free, bound, chosen as a victim while its eviction waits, being evicted. -/
inductive SlotPhase where
  | unbound | bound | leaving | evicting
deriving DecidableEq, Repr

/-- An unbound bind record. -/
def BindRec.none : BindRec := ⟨false, 0, 0, true, 0, 0, 0, false, 0, 0, 0, 0, 0, 0⟩

/-- A tenant slot (R364) and what is saved with it: LSG registers (R122), TIME (R299), SLICE (R366), SMISS (R326), DSBASE
(R380), ESTAT counts (R317), the integrator's emission count (R297), the port overflow ring with the number of words that it
has taken (R189), the event overflow area (R298), whether its register bank is drowsy (R368), when one that a debugger reads
is awake, whether it is out of service (R413), whether a slice has switched it out (R433), and the cycle from which it has held
issue (R366). -/
structure Slot where
  phase    : SlotPhase
  bind     : BindRec
  lsg      : Sparse (BitVec 8)
  time     : BitVec 32
  sliceLen : Nat
  used     : Nat
  smiss    : BitVec 32
  dsbase   : W64
  late     : BitVec 16
  lost     : BitVec 16
  emitSeq  : BitVec 28
  portOvf  : List (Fin 11 × Fin 4 × W64)
  ovfAt    : Nat
  evtOvf   : List QEvent
  drowsy   : Bool
  waking   : Option Nat
  retired  : Bool
  sliced   : Bool
  lastRun  : Fin 11
  heldAt   : Nat
  holdFrom : Nat
deriving DecidableEq, Repr

/-- A slot at reset: unbound. -/
def Slot.reset : Slot where
  phase := .unbound
  bind := BindRec.none
  lsg := []
  time := 0
  sliceLen := 35000
  used := 0
  smiss := 0
  dsbase := 0
  late := 0
  lost := 0
  emitSeq := 0
  portOvf := []
  ovfAt := 0
  evtOvf := []
  drowsy := false
  waking := none
  retired := false
  sliced := false
  lastRun := 0
  heldAt := 0
  holdFrom := 0

/-! Engine operations and what belongs to a core. -/

/-- A shape record as copied at issue (R151, R152), with its CHANNEL bytes as they stand. -/
structure Shape where
  data    : Reg
  ext     : List Nat
  str     : List Int
  ndim    : Nat
  edge    : Nat
  chan    : Option (Fin 4)
  addr    : W64
  channel : BitVec 32
deriving DecidableEq, Repr

/-- The unit format an operand takes at its kick (R123, R155): format code and block geometry. -/
structure Fmt where
  code : BitVec 5
  blk  : BitVec 3
deriving DecidableEq, Repr

/-- Why an engine operation stands still (R82, R155, R156, R304). -/
inductive Pause where
  | walk (dva : W64) (wr : Bool)
  | service (dva : W64) (wr : Bool)
  | refused (dva : W64) (r : PageReason)
  | portEmpty
  | ringRoom (since : Nat)
  | overflow
  | drain
  | snoop (line : Nat) (wr : Bool)
  | refresh (die : Fin 4) (grp : Fin 8)
  | writeback (dva : W64)
  | usc
  | link
  /-- The frame of an element to cross the Lay (R99): the address, where it lies, whether the element is read, and whether the
  frame is that of the reply. -/
  | lay (addr : W64) (loc : Loc) (read reply : Bool)
deriving DecidableEq, Repr

/-- What an engine operation keeps of its issue (R157, R160, R166, R237): its context, its handle slot if one was allocated,
the phase tag it counts under, the floating-point state and the stochastic seed and sequence it captured, the flags raised
so far, whether a context of the tenant's supervisor slot issued it (R137), its depth, its issue number, the LSG registers
of the slots its operands lie in, as the kick found them (R123), whether its cancel is requested where it has no handle
slot (R385, R401), and the frames that carry the elements of its step over the Lay (R99): of each the address, the number of the
frame, whether the element is read, and whether the frame is that of the reply. -/
structure OpHead where
  owner  : CtxId
  handle : Option (Fin 16)
  serial : BitVec 16
  tag    : Fin 4
  frm    : BitVec 11
  seed   : W64
  seq    : W64
  flags  : BitVec 5
  supv   : Bool
  depth  : Nat
  issued : Nat
  lsgs   : List (SlotId × Sparse (BitVec 8))
  cancel : Bool
  lay    : List (W64 × Nat × Bool × Bool)
deriving DecidableEq, Repr

/-- The members of the copy engine (R168). -/
inductive CopyKind where
  | cpy
  | cfill (fill : W64)
  | cpyr
  | cpyrX (dev : BitVec 12) (link : Option (Fin 256)) (opid : BitVec 16)
  | cpyb (dom : DomReg)
deriving DecidableEq, Repr

/-- A copy operation (R157). For a copy to another device: the payload that fills no flit yet, the data flits sent, the
elements whose bytes have all been acknowledged (R163), the completion that has come, the status, ordinal and reason it
stops with, whether its link was restriped or its flits replayed (R115), its first ordinal, the ordinals that EDGE dropped,
and whether the flit marked LAST has gone; for a broadcast, the elements that members have not received: member, offset, bytes, and the frame of the element (R168). -/
structure CopyOp where
  head  : OpHead
  kind  : CopyKind
  dst   : Shape
  src   : Option Shape
  k     : Nat
  n     : Nat
  fmts  : Option (Option Fmt × Option Fmt)
  sent  : Bool
  pause : Option Pause
  buf   : List (BitVec 8)
  flits : Nat
  acked : Nat
  comp  : Option W64
  ending : Option (BitVec 16 × Nat × Nat)
  restriped : Bool
  replayed  : Bool
  start : Nat
  holes : List Nat
  last  : Bool
  out   : List (SlotId × Nat × List (BitVec 8) × Nat)
deriving DecidableEq, Repr

/-- A step of a chain record (R249). -/
structure ChainStep where
  eop : BitVec 6
  dst : BitVec 3
  s1  : BitVec 3
  s2  : BitVec 3
  s3  : BitVec 3
  imm : BitVec 14
deriving DecidableEq, Repr

/-- A chain record (R249): its header word and its steps. -/
structure Chain where
  header : BitVec 32
  steps  : List (BitVec 32)
deriving DecidableEq, Repr

/-- The vector operations (R254). -/
inductive VecKind where
  | map (eop : BitVec 6) (bs : Option W64)
  | chain (c : Chain)
  | red (eop : BitVec 6)
  | scan (eop : BitVec 6) (exclusive : Bool)
  | gather | scatter | comp | expd
deriving DecidableEq, Repr

/-- A vector operation (R243): its shapes out, A, B, C where present, its ordinal, the packed-side count of VCOMP and VEXPD,
whether the kick has been made, the operands' formats, the accumulators or the running value (R252, R253), the packed string
(R257), the source units read and not yet used up: operand, unit, bytes as a number; the destination unit read for a merge
that is not yet written, with its bytes (R243), the ordinal of the oldest element of VCOMP that waits in `acc`, and the operand
whose unit it stands still for. -/
structure VecOp where
  head   : OpHead
  kind   : VecKind
  out    : Shape
  a      : Shape
  b      : Option Shape
  c      : Option Shape
  k      : Nat
  p      : Nat
  kicked : Bool
  fmts   : List (Option Fmt)
  acc    : List (Option Nat)
  str    : Nat
  units  : List (Nat × Nat × Nat)
  old    : Option (Nat × Nat)
  first  : Nat
  stood  : Option Nat
  pause  : Option Pause
deriving DecidableEq, Repr

/-- The matrix commands (R283 to R287). -/
inductive MatKind where
  | mma (sparse : Bool) (b c : W64)
  | mldb (w : W64)
  | mzero (w : W64)
  | msta (w : W64)
  | mlda (w : W64)
  | imgStore (cap : Reg)
  | imgLoad (cap : Reg) (clean : Bool)
deriving DecidableEq, Repr

/-- A matrix command in the queue of its core (R270): its stream, whether it has started, the tile steps it has done or the
units it has moved, the regions of the weight buffer it reads or writes (first and count) and the bytes of a sparse panel
written, its kick format, what it holds between its steps (the staged slice, R263; a panel's columns; a tile that is stored
or loaded), whether its context entered a trap handler since its issue (R272), whether its panel lost the grant of a region
(R264), and when it last took a tile step. -/
structure MatOp where
  head    : OpHead
  kind    : MatKind
  shape   : Option Shape
  stream  : Fin 4
  started : Bool
  steps   : Nat
  first   : Nat
  count   : Nat
  bytes   : Nat
  fmt     : Option Fmt
  vals    : List (List Nat)
  before  : Bool
  lost    : Bool
  last    : Nat
  pause   : Option Pause
deriving DecidableEq, Repr

/-- A pending MSYNC (R288): the commands it waits for, by issue number, and the error statuses of those that have resolved. -/
structure MSync where
  head   : OpHead
  waits  : List Nat
  errors : List (Nat × BitVec 16)
deriving DecidableEq, Repr

/-- The fault record of a set (R280). -/
structure FaultRec where
  handle : BitVec 39
  steps  : Nat
  sparse : Bool
  b      : W64
  c      : W64
  shape  : Shape
deriving DecidableEq, Repr

/-- ACCOWN (R268). -/
structure AccOwn where
  f64  : Bool
  k1   : Bool
  k0   : Bool
  d1   : Bool
  d0   : Bool
  v    : Bool
  ctx  : BitVec 4
  slot : BitVec 2
deriving DecidableEq, Repr

/-- The integrator operations (R314, R315). -/
inductive IntKind where
  | tick (t : BitVec 32)
  | postv (sh : Shape)
deriving DecidableEq, Repr

/-- An integrator operation: a tick's remaining events in key order, what is still to be emitted or drained of a fire in
progress, its progress. -/
structure IntOp where
  head    : OpHead
  kind    : IntKind
  started : Bool
  events  : List QEvent
  k       : Nat
  n       : Nat
  fmt     : Option Fmt
  done    : Option (BitVec 16 × Nat × Nat)
  pause   : Option Pause
deriving DecidableEq, Repr

/-- A neuron entry (R292). -/
structure Neuron where
  ft    : Bool
  rc    : BitVec 16
  tlast : BitVec 32
  v     : W64
deriving DecidableEq, Repr

/-- A zero neuron entry. -/
def Neuron.zero : Neuron := ⟨false, 0, 0, 0⟩

/-- An integrator bank (R293, R305): its configuration record's fields, its entries, its drain counts. -/
structure Bank where
  refr   : BitVec 16
  drlog  : Nat
  act    : BitVec 2
  reset  : Bool
  leak   : BitVec 2
  sfmt   : BitVec 2
  theta  : W64
  rest   : W64
  rv     : W64
  leakp  : W64
  fobase : BitVec 18
  fonum  : Nat
  drbase : BitVec 18
  cells  : Sparse Neuron
  head   : BitVec 32
  tail   : BitVec 32
deriving DecidableEq, Repr

/-- The default configuration (R291): FP64, no leak, fire action none, every entry zero. -/
def Bank.default : Bank := ⟨0, 0, 0, false, 0, 0, 0, 0, 0, 0, 0, 0, 0, [], 0, 0⟩

/-- The default ACCOWN (R268). -/
def AccOwn.none : AccOwn := ⟨false, false, false, false, false, false, 0, 0⟩

/-- A core. The local store and the accumulator set's bits lie in `State.mem`. `entering` holds the instructions that found an engine's queue full, in the order of their first
attempt: context and PC (R164). -/
structure Core where
  holds     : Fin 4
  nextIssue : Nat
  failed    : Option (Fin 39)
  transient : BitVec 32
  accown    : AccOwn
  accFault  : Option FaultRec
  mxw       : BitVec 4
  copyQ     : List CopyOp
  vecQ      : List VecOp
  matQ      : List MatOp
  intQ      : List IntOp
  syncs     : List MSync
  banks     : Sparse Bank
  events    : List QEvent
  opSerial  : Nat
  entering     : List (EngineKind × CtxId × W64)
deriving DecidableEq, Repr

/-- A core at reset. -/
def Core.reset : Core := ⟨0, 0, none, 0, AccOwn.none, none, 1, [], [], [], [], [], [], [], 0, []⟩

/-! What belongs to a cluster and a die. -/

/-- A panel descriptor of the weight buffer (R265). -/
structure Panel where
  region : Nat
  count  : Nat
  fmt    : Fmt
  kb     : Nat
  nt     : Nat
  sparse : Bool
  part   : Fin 64
  vals   : List (List Nat)
deriving DecidableEq, Repr

/-- The states of a hank (R356). -/
inductive HankState where
  | idle | armed | exhausted
deriving DecidableEq, Repr

/-- A FETCHT that waits at a hank (R356): its context, its destination pair, the operand it consumes when it completes
(R46), and the partition and the task of its slot while that is evicted (R370). -/
structure HankWait where
  ctx  : CtxId
  dst  : Fin 32
  src  : RegCode
  away : Option (Fin 64 × W64)
deriving DecidableEq, Repr

/-- A hank (R355, R356, R359): extents, tile sizes, tiles handed out, and the FETCHT requests that wait, oldest first. -/
structure Hank where
  state   : HankState
  ext     : List Nat
  tile    : List Nat
  issued  : Nat
  waiters : List HankWait
deriving DecidableEq, Repr

/-- An idle hank. -/
def Hank.idle : Hank := ⟨.idle, [0, 0, 0, 0], [0, 0, 0, 0], 0, []⟩

/-- A cluster: grants of weight-buffer regions and hanks (R264, R355), valid panels (R265), hanks, and where the matrix
array's arbiter stands and what is left of the visit (R271). -/
structure Cluster where
  wbgrant0 : W64
  wbgrant1 : W64
  hkgrant  : W64
  panels   : List Panel
  hanks    : Sparse Hank
  arbiter  : Fin 8
  credit   : Nat
deriving DecidableEq, Repr

/-- A cluster at reset: nothing granted, no panel, every hank idle, the arbiter
before core 0. -/
def Cluster.reset : Cluster := ⟨0, 0, 0, [], [], 7, 0⟩

/-- A die: its copies of the liveness table (R178), the domain-to-partition table (R373) and the supervisor registers of
each partition (R400), its error record (R419), the spare rows of each bank group of its weight store (R412), the misses of its
page walker by partition and 4 KiB page, oldest first (R79): who waits for them are the contexts and engine operations there. -/
structure Die where
  live      : Sparse Bool
  owner     : Sparse (Fin 64)
  svec      : Sparse Reg
  ssp       : Sparse Reg
  sdd       : Sparse Reg
  regErr    : BitVec 32
  lsErr     : BitVec 32
  secErr    : BitVec 32
  lastErr   : BitVec 32
  spares    : Sparse Nat
  walks     : List (Fin 64 × Nat)
deriving DecidableEq, Repr

/-- A die at reset: no domain live (assumption log 2). -/
def Die.reset : Die := ⟨[], [], [], [], [], 0, 0, 0, 0, [], []⟩

/-- The three levels of TLB (R78). -/
inductive TlbLevel where
  | micro (core : Fin 4608)
  | cluster (n : Fin 576)
  | lastLevel (die : Fin 4)
deriving DecidableEq, Repr

/-- A TLB entry (R78): its holder, the partition it serves, the page, the entry it was filled from and its address. -/
structure TlbEntry where
  level : TlbLevel
  part  : Fin 64
  vbase : Nat
  size  : Nat
  pte   : W64
  pteAt : Nat
deriving DecidableEq, Repr

/-! Messages between agents. -/

/-- Where a remote store stands (R106, R108, R325). -/
inductive StorePhase where
  | flying
  /-- Answered with a retry reply (R108). -/
  | retry
  /-- Stripped at a scope boundary (R325): when its miss arrived among others. -/
  | missed (at_ : Nat)
  /-- Taken effect, not yet acknowledged: its arrival number. -/
  | arrived (n : BitVec 16)
deriving DecidableEq, Repr

/-- A remote store in the network (R103, R106, R325); `repaired` says that it is the reissue of a missed release (R326),
`page` the page whose TLB entry it used (R81), `tears` that it may tear at its 8-byte midpoint (R321), and `half` the half
that has then taken effect: the high one or not. -/
structure RStore where
  seq      : Nat
  ctx      : CtxId
  tag      : Fin 4
  dest     : Nat
  home     : Scope
  loc      : Loc
  target   : Option SlotId
  part     : Fin 64
  dva      : W64
  bytes    : List (BitVec 8)
  setTag   : Bool
  release  : Option Scope
  loopback : Bool
  repaired : Bool
  page     : Option (Nat × Nat)
  tears    : Bool
  half     : Option Bool
  phase    : StorePhase
deriving DecidableEq, Repr

/-- An acknowledgement in the network (R106): destination, context, tag, the count it carries. -/
structure Ack where
  dest  : Nat
  ctx   : CtxId
  tag   : Fin 4
  count : BitVec 16
deriving DecidableEq, Repr

/-- An event in the network (R296, R309): the sender, the integrator operation it comes from, by issue number, whether it is
counted as unacknowledged, whether a retry reply has answered it, and its arrival number once the destination has taken it. -/
structure EvMsg where
  ev      : QEvent
  part    : Fin 64
  target  : Fin 4608
  ctx     : CtxId
  tag     : Fin 4
  op      : Option Nat
  seq     : Nat
  retry   : Bool
  counted : Bool
  arrived : Option (BitVec 16)
deriving DecidableEq, Repr

/-- A word an engine sends to a ring (R156), with its number, its sender, its first refusal, and since when retry replies come
(R189). -/
structure RingMsg where
  seq   : Nat
  addr  : W64
  word  : W64
  ctx   : CtxId
  op    : Nat
  since : Option Nat
  away  : Option Nat
deriving DecidableEq, Repr

/-- What a frame carries (R99): its operation. -/
inductive FrameOp where
  | load | store | event | word | reply | data
deriving DecidableEq, Repr

/-- A frame waiting for a home channel (R99 to R101): its channel, its source die, the requester of that die that presents
it, the seq of what it carries, and its header: source core, destination, operation, phase tag. -/
structure Frame where
  channel   : Nat
  source    : Nat
  requester : Nat
  item      : Nat
  core      : Fin 4608
  dest      : Nat
  op        : FrameOp
  tag       : Fin 4
deriving DecidableEq, Repr

/-! Synchronisation domains. -/

/-- A domain in progress (R335, R351): what names it, the first phase that is not complete, and the handles of PHASEA that
wait for a phase. The cores are those of GROUP for levels 4 and 5, and the least core of the level's set below. `epoch` counts the
installations of the record, and `joined` are the contexts that take part in this one (R353, assumption log 11). -/
structure SyncDom where
  part  : Fin 64
  key   : BitVec 16
  level : BitVec 3
  cmask : BitVec 11
  cores : List Nat
  next  : BitVec 32
  handles : List (CtxId × Fin 16 × BitVec 16 × BitVec 32)
  epoch : Nat
  joined : List CtxId
deriving DecidableEq, Repr

/-! Links. -/

/-- An incoming operation of another device at the receiving end (R168, R440, R443): the operation number and the core it
came with, its destination shape, the partition the route table binds its sender to, the sender's unit size and first
ordinal, the destination's format, the payload that fills no element yet, the payload bytes that came, the ordinals that the
sender's EDGE dropped, the elements written, whether the flit marked LAST has come, its failure, the host page it waits for
(R91) and the missed page whose walk it waits for (R79), the number of its completion flit once that is sent, its phase tag, whether a supervisor context issued it, the LSG
registers of its tenant as its kick found them, whether the weight store refused it (R137), and whether its next transaction to
expansion memory fails (R88). -/
structure Incoming where
  opid   : BitVec 16
  dcore  : BitVec 13
  shape  : Shape
  part   : Fin 64
  unit   : Nat
  start  : Nat
  fmt    : Option Fmt
  buf    : List (BitVec 8)
  got    : Nat
  holes  : List Nat
  k      : Nat
  last   : Bool
  failed : Option (BitVec 16 × Nat × Nat)
  asks   : Option W64
  walks  : Option W64
  done   : Option (BitVec 12)
  ptag   : BitVec 2
  supv   : Bool
  lsgs   : List (SlotId × Sparse (BitVec 8))
  denied : Bool
  poison : Bool
deriving DecidableEq, Repr

/-- A beat of a link as it leaves (R112): its flit, and the bits that each live wavelength carries. -/
structure Beat where
  flit  : Flit
  lanes : List (Nat × Nat)
deriving DecidableEq, Repr

/-- A link (R109, R113, R114, R116): the wavelengths its sender stripes over, the laser groups that have light, whether it is
lost; the sender's next sequence number, held flits, last ACKSEQ, when it last advanced or a flit was first held, the replay
rounds since, the flits replayed since training, the mask of a restripe that no acknowledgement has answered, the groups whose
loss is undetected, the replayed flit whose acknowledgement ends the restripe, the partitions that had held or queued flits at a
detection of it (R117); the beats sent, as they left; the receiver's live mask, the laser groups it sees light of, those whose
loss it has reported, its next expected number, whether it has answered a gap, the replayed flits that came since training, and
the operations it receives. -/
structure Link where
  live      : BitVec 16
  lit       : BitVec 4
  lost      : Bool
  nextSeq   : BitVec 12
  held      : List Flit
  lastAck   : BitVec 12
  since     : Nat
  rounds    : Nat
  replayed  : BitVec 32
  restripe  : Bool
  first     : Option (BitVec 12)
  parts     : List (Fin 64)
  outgoing  : List Beat
  rxLive    : BitVec 16
  rxLit     : BitVec 4
  rxTold    : BitVec 4
  expect    : BitVec 12
  nacked    : Bool
  rxReplayed : BitVec 32
  arriving  : List Incoming
deriving DecidableEq, Repr

/-- A link at reset: all groups lit, empty window (assumption log 2). -/
def Link.reset : Link :=
  ⟨0xFFFF, 0xF, false, 0, [], 0xFFF, 0, 0, 0, false, none, [], [], 0xFFFF, 0xF, 0, 0, false, 0, []⟩

/-! Hosts, functions, partitions, tasks, firmware. -/

/-- A mailbox (R421): request and response words, the request's arguments, and MSTATE. -/
structure Mailbox where
  req    : List W64
  resp   : List W64
  mstate : Nat
deriving DecidableEq, Repr

/-- An idle mailbox. -/
def Mailbox.idle : Mailbox := ⟨[0, 0, 0, 0, 0, 0, 0, 0], [0, 0, 0, 0, 0, 0, 0, 0], 0⟩

/-- An event record (R117, R425). -/
structure EvRec where
  code     : BitVec 32
  time     : W64
  link     : BitVec 32
  mask     : W64
  replayed : BitVec 32
  detail   : BitVec 32
deriving DecidableEq, Repr

/-- An event ring (R425): the records written and not yet overwritten by slot number, TAIL and HEAD. -/
structure EvRing where
  recs : Sparse EvRec
  tail : BitVec 32
  head : BitVec 32
deriving DecidableEq, Repr

/-- A PRI page request group (R92, R93): the page, or that it is orphaned since a time. -/
structure PageGroup where
  dva      : W64
  part     : Fin 64
  orphaned : Bool
  since    : Nat
deriving DecidableEq, Repr

/-- A virtual function (R417, R423, R424): its logical device, partition, launch window, counts, mailbox, event ring,
page request groups, whether a Response Failure has come (R92), whether it is being torn down and whether firmware has taken
its steps of that (R426, R430), the old words of launch records that the host rewrote between HEAD and TAIL, and where in its
logical device's window its HBM begins (R86). -/
structure Vf where
  ld       : Fin 16
  part     : Option (Fin 64)
  window   : Sparse (BitVec 8)
  tail     : BitVec 32
  head     : BitVec 32
  dbErr    : BitVec 32
  refused  : BitVec 32
  dropped  : BitVec 32
  latePrg  : BitVec 32
  mbox     : Mailbox
  ring     : EvRing
  groups   : Sparse PageGroup
  noPri    : Bool
  teardown : Bool
  torn     : Bool
  stale    : List (Nat × W64)
  hbmBase  : W64
deriving DecidableEq, Repr

/-- A function at reset: no partition, everything 0 (R417). -/
def Vf.reset : Vf :=
  ⟨0, none, [], 0, 0, 0, 0, 0, 0, Mailbox.idle, ⟨[], 0, 0⟩, [], false, false, false, [], 0⟩

/-- States of an SPDM responder (R427): what has been negotiated, and the session. -/
inductive Spdm where
  | start | version | caps | algs | keyed | session
deriving DecidableEq, Repr

/-- A physical function (R418 to R421, R427): DUMPSEL, DBGTGT, mailbox, inbox with its counts, event ring, dropped events,
staging window, SPDM state, HBM window, VF Enable and whether it is being cleared. -/
structure Pf where
  dumpsel  : BitVec 2
  dbgcore  : BitVec 13
  dbgslot  : BitVec 2
  mbox     : Mailbox
  inbox    : Sparse (List W64)
  inTail   : BitVec 32
  inHead   : BitVec 32
  ring     : EvRing
  dropped  : BitVec 32
  dbErr    : BitVec 32
  staging  : Sparse (BitVec 8)
  spdm     : Spdm
  hbmBase  : W64
  hbmSize  : W64
  vfEnable : Bool
  clearing : Bool
deriving DecidableEq, Repr

/-- A physical function at reset. -/
def Pf.reset : Pf :=
  ⟨0, 0, 0, Mailbox.idle, [], 0, 0, ⟨[], 0, 0⟩, 0, 0, [], .start, 0, 0, true, false⟩

/-- A recorded export (R422): the gate capability and its number. -/
structure Export where
  number : BitVec 8
  gate   : Reg
deriving DecidableEq, Repr

/-- An import grant (R384, R422): exporter, export number, import index. -/
structure Grant where
  exporter : Fin 64
  number   : BitVec 8
  index    : BitVec 8
deriving DecidableEq, Repr

/-- A launch record (R360). -/
structure LaunchRec where
  taskid : W64
  image  : W64
  args   : List W64
  ncore  : Nat
  mode   : BitVec 8
  place  : BitVec 8
  slice  : BitVec 32
  ndep   : BitVec 8
  deps   : List W64
  cdva   : W64
  zeros  : Bool
deriving DecidableEq, Repr

/-- States of an accepted record (R362). -/
inductive TaskState where
  | queued | placing | loading | running | done
deriving DecidableEq, Repr

/-- A task (R361, R362): its record, state, STATUS and LREASON, the slots it holds, its place in acceptance order, and whether
its abort waits for firmware that does not act (R430). -/
structure Task where
  recd   : LaunchRec
  state  : TaskState
  status : BitVec 16
  reason : BitVec 8
  result : BitVec 32
  slots  : List SlotId
  order  : Nat
  abort  : Bool
deriving DecidableEq, Repr

/-- A partition (R373, R384, R400, R422): whether a VF carries it, its DEBUG flag, root domain, page-table root, page-cache
table, supervisor image, region table, exports, import grants, outstanding IMPORT_ASK, tasks accepted, the device launch
queue, the HBM ranges that firmware gave to its pool, the frames taken from it, the entries of its resident FILE pages,
where the clock sweep over them stands (R96), the FILE pages that are being written back (R97). -/
structure Partition where
  assigned : Bool
  vf       : Fin 64
  debug    : Bool
  root     : BitVec 12
  ptroot   : W64
  pctb     : W64
  supImage : W64
  regions  : List (W64 × W64)
  exports  : List Export
  grants   : List Grant
  asking   : Option (Fin 64 × BitVec 8)
  tasks    : List Task
  devQueue : List (List (BitVec 8))
  ranges   : List (Nat × Nat)
  pool     : List (Nat × Nat)
  files    : List Nat
  hand     : Nat
  writing  : List W64
deriving DecidableEq, Repr

/-- A partition at reset: unassigned. -/
def Partition.reset : Partition :=
  ⟨false, 0, false, 0, 0, 0, 0, [], [], [], none, [], [], [], [], [], 0, []⟩

/-- An evicted slot (R365, R369): its slot state, its contexts, its integrator banks and its queued events, and what is
under way for its contexts, with the arrival counts of them (R106, R370). Its local store lies in the save area of its bind
record. -/
structure Saved where
  sl       : SlotId
  slot     : Slot
  ctxs     : List Ctx
  banks    : List (Nat × Bank)
  events   : List QEvent
  stores   : List RStore
  acks     : List Ack
  evmsgs   : List EvMsg
  arrivals : Sparse (BitVec 16)
  seen     : Sparse (BitVec 16)
deriving DecidableEq, Repr

/-- A shootdown in progress (R81): the partition, the range (length 0: all), who asked, whether a host's ATS did (R91), and the
frames that go back to the pool when it completes. -/
structure Shoot where
  part   : Fin 64
  base   : W64
  len    : W64
  asker  : Option HostFn
  ats    : Bool
  frees  : List Nat
deriving DecidableEq, Repr

/-- A NOT_PRESENT fault given to its service (R82, R92, R95): the partition, the faulting DVA, the die it came from. -/
structure FaultReq where
  part : Fin 64
  dva  : W64
  die  : Fin 4
deriving DecidableEq, Repr

/-- A command of the NVMe initiator (R95, R97): a Read into a frame, or a Write of one, for an entry of a partition's page-cache
table: controller, namespace, first block, and the die whose fault it serves. -/
structure NvmeCmd where
  part  : Fin 64
  index : Nat
  write : Bool
  ctrl  : BitVec 16
  nsid  : BitVec 32
  lba   : W64
  frame : Nat
  die   : Fin 4
deriving DecidableEq, Repr

/-- A line of expansion memory in the memory-side cache (R89): whether it is dirty, and the 64 bytes that the memory itself
holds. -/
structure ExpLine where
  dirty : Bool
  below : List (BitVec 8)
deriving DecidableEq, Repr

/-- A line a host holds (R86): which hosts, whether one may have modified it, and the snoop that is out: BISnpInv, or
BISnpData. -/
structure HostLine where
  holders  : List (Fin 16)
  excl     : Bool
  snooping : Option Bool
deriving DecidableEq, Repr

/-- A host line of MT 5 held in the memory-side cache (R91). -/
inductive CacheState where
  | shared | exclusive | modified
deriving DecidableEq, Repr

/-- The boot and update state of the firmware (R429, R430). -/
inductive Boot where
  | off | training | ready
deriving DecidableEq, Repr

/-- A live update in progress (R430): quiesced, with the image not yet checked; handed over and waiting for the heartbeat. -/
inductive Update where
  | idle
  | quiesced (ld : Fin 16)
  | waitingBeat (ld : Fin 16) (start : Nat)
deriving DecidableEq, Repr

/-- A handover record (R431): HVERSION, where it stands in HBM, device time, and its tables: the VF assignments, the HEADs of the
launch queues and the device queues, the accepted records with their states, the domain tables, the grants of regions and hanks
and of imports, the evicted slots with their save areas. -/
structure Handover where
  version : BitVec 32
  place   : Nat
  time    : W64
  vfs     : List (Nat × Option (Fin 64))
  heads   : List (Nat × BitVec 32)
  queues  : List (Nat × List (List (BitVec 8)))
  tasks   : List (Nat × List Task)
  domains : Sparse (Fin 64)
  regions : List (Nat × W64 × W64 × W64)
  imports : List (Nat × List Grant)
  evicted : List (SlotId × Nat)
deriving DecidableEq, Repr

end Sys2Proof.Machine

namespace Sys2Proof.Config

/-- The tables of a handover record as bytes (R431): the spec gives their order and no layout (assumption log 31). -/
opaque handoverBytes : Machine.Handover → List (BitVec 8)

end Sys2Proof.Config

namespace Sys2Proof.Machine

/-- The IDE streams of a CXL port (R428): the keys that have been set up, of the link stream (0) and of up to 4 selective streams
(1 to 4) of CXL.io, and of CXL.cachemem in containment mode (5); and whether the port has stopped them. -/
structure IdePort where
  keys    : Sparse (BitVec 256)
  stopped : Bool
deriving DecidableEq, Repr

/-- Firmware (R427, R429 to R431): boot state, the bytes of the image slots that have been written (0 to 5: management A, B,
dispatch A, B, service A, B), the image slot in use of each kind, FWSTAT's result, the update in progress, measurement 3 and the
digest of the dispatch image that runs, the last handover record. -/
structure Firmware where
  boot     : Boot
  images   : Sparse (List (BitVec 8))
  mgmt     : Fin 2
  active   : Fin 2
  service  : Fin 2
  result   : BitVec 8
  update   : Update
  history  : BitVec 512
  running  : BitVec 512
  handover : Option Handover
deriving DecidableEq, Repr

/-- An expansion decoder window (R88, R422). -/
structure ExpWin where
  base : W64
  size : W64
  port : Fin 4
deriving DecidableEq, Repr

/-- The clock (R371, R432): SOLO or SHARED, the frequency in MHz, and when slots of more than one tenant last stood. -/
structure Clock where
  solo   : Bool
  mhz    : Nat
  shared : Nat
deriving DecidableEq, Repr

/-- Whose turn it is: the model's own, so that one deterministic step can show every order of the agents. -/
inductive Turn where
  /-- A step of the hardware, the firmware or a host. -/
  | event (i : Instr)
  /-- The context issues, or becomes ISSUING. -/
  | context (c : CtxId)
  /-- Cycles pass. -/
  | pass (n : Nat)
  /-- What a halfword of code holds now is kept as a value that later fetches of the context may return (R38). -/
  | prefetch (c : CtxId) (l : Loc)
  /-- The next fetches of the context from a place return a value kept for it, or what memory holds (R38). -/
  | stale (c : CtxId) (place : Nat) (v : Option (BitVec 16))
  /-- The dispatch firmware writes a special register of a context, its slot, core or cluster (R233). -/
  | firmware (c : CtxId) (n : BitVec 12) (v : Reg)
  /-- A store to an MT 3 page overtakes the older ones of its context (R90). -/
  | overtake (seq : Nat)
  /-- One half of a 16-byte store takes effect before the other (R321). -/
  | tearStore (seq : Nat) (hi : Bool)
  /-- One half of a 16-byte load is read before the other (R321). -/
  | tearLoad (c : CtxId) (hi : Bool)
  /-- From now on the private stores of a context are kept for R70. -/
  | keep (c : CtxId)
  /-- The next load of a context by the global alias misses so many of its newest private stores (R70). -/
  | lag (c : CtxId) (n : Nat)
  /-- The next transaction of an engine operation to expansion memory returns poison or times out (R88). -/
  | poison (c : CtxId) (op : Nat)
  /-- The next fetch or record read of a context from expansion memory returns poison or times out (R88). -/
  | badRead (c : CtxId)
  /-- A store to expansion memory times out at its destination (R88). -/
  | badStore (seq : Nat)
  /-- The next transaction of an incoming operation to expansion memory returns poison or times out (R88). -/
  | badIncoming (link : Fin 256) (opid : BitVec 16)
  /-- A broadcast reads its next element while members wait for earlier ones; a member receives the first that waits for it
  (R168). -/
  | spread (core : Fin 4608)
  | member (core : Fin 4608) (sl : SlotId)
  /-- The memory-side cache writes a line of expansion memory back and drops it (R89). -/
  | expLine (n : Nat)
  /-- Another agent writes expansion memory (R89). -/
  | fabricWrite (pa : Nat) (bs : List (BitVec 8))
  /-- The dispatch firmware's copy writes an open weight store for a tenant (R137). -/
  | weights (part : Fin 64) (die : Fin 4) (off : Nat) (bs : List (BitVec 8))
  /-- A host writes a line of its own memory that the memory-side cache does not hold (R91). -/
  | hostWrite (part : Fin 64) (va : Nat) (bs : List (BitVec 8))
  /-- Firmware gives a range of HBM to the pool of a partition (R83). -/
  | pool (part : Fin 64) (base size : Nat)
  /-- The dispatch firmware writes the route table: the links to a device (R110). -/
  | route (device : BitVec 12) (links : List (Fin 256))
  /-- The dispatch firmware binds the operations that arrive on a link to a partition (R168). -/
  | peer (link : Fin 256) (part : Fin 64)
  /-- The fabric manager gives a logical device its HBM window (R86). -/
  | window (ld : Fin 16) (base size : W64)
  /-- A virtual function appears in a logical device (R417). -/
  | function (vf : Fin 64) (ld : Fin 16)
deriving DecidableEq, Repr

/-- The machine. -/
structure State where
  /-- Every byte of HBM, the local stores, the weight stores, expansion and host memory, the accumulator sets,
  by place (Mem.lean), in canonical form; an unlisted byte reads 0 (assumption log 3). -/
  mem       : List Host.Cell
  /-- Tag bits, by the place of the unit (R140); an unlisted tag is clear. -/
  tags      : Sparse Bool
  ctxs      : Sparse Ctx
  slots     : Sparse Slot
  /-- Evicted slots: what the save areas hold (R365). -/
  saved     : List Saved
  /-- The capabilities that stored images hold in FSHAPE: partition, place, bits (assumption log 18). -/
  imageCaps : List (Fin 64 × Nat × BitVec 128)
  cores     : Sparse Core
  clusters  : Sparse Cluster
  dies      : Sparse Die
  tlb       : List TlbEntry
  /-- Remote stores, acknowledgements, events, ring words and frames on their way. -/
  stores    : List RStore
  acks      : List Ack
  evmsgs    : List EvMsg
  ringmsgs  : List RingMsg
  frames    : List Frame
  messenger : Sparse Nat
  /-- The requester that a die served last for a channel (R101). -/
  frameTurn : Sparse Nat
  /-- The number the next message takes. -/
  nextSeq   : Nat
  /-- Arrival counts at the destinations and what the sources have seen of them (R106). -/
  arrivals  : Sparse (BitVec 16)
  seen      : Sparse (BitVec 16)
  doms      : List SyncDom
  shoots    : List Shoot
  /-- Domains whose revocation has not reached every die (R387, R394). -/
  revoking  : List (BitVec 12)
  faults    : List FaultReq
  /-- Requests of abandoned SYSCALLs that their service core has not served (R408). -/
  posted    : List Posted
  /-- Commands of the NVMe initiator that have not completed, oldest first (R95, R97). -/
  nvme      : List NvmeCmd
  /-- The page-cache entries whose WAITERS is not 0, by partition and index (R94). -/
  counted   : List (Fin 64 × Nat)
  hostLines : Sparse HostLine
  /-- Lines of expansion memory in the memory-side caches (R89). -/
  expLines  : Sparse ExpLine
  /-- Invalidate Completions returned to hosts, newest first (R91): partition and range. -/
  invalDone : List (Fin 64 × W64 × W64)
  sideCache : Sparse CacheState
  links     : Sparse Link
  /-- The route table (R110): the links to a device; and the partition that a link's incoming operations belong to (R168). -/
  routes    : Sparse (List (Fin 256))
  peers     : Sparse (Fin 64)
  nextOp    : BitVec 16
  vfs       : Sparse Vf
  pfs       : Sparse Pf
  parts     : Sparse Partition
  /-- How many launch records firmware has accepted: the place of the next in acceptance order (R362). -/
  accepted  : Nat
  windows   : Sparse ExpWin
  fw        : Firmware
  /-- The IDE streams of the CXL ports (R428). -/
  ide       : Sparse IdePort
  clock     : Clock
  cycle     : Nat
  timeNs    : Nat
  timeRem   : Nat
  mcheck    : Bool
  dump      : Option (W64 × EvRec)
  thermal   : Bool
  /-- MSI-X vectors fired, newest first (R425): function and vector. -/
  msix      : List (HostFn × Nat)
  /-- HBM ranges out of service (R412): first byte and length. -/
  badFrames : List (Nat × Nat)
  /-- What the last host read returned (R86, R420, R421). -/
  hostRead  : List (BitVec 8)
  /-- The model's own: the turns to come, whose turn it is by default, the counter of free values (assumption log 1). -/
  agenda    : List Turn
  cur       : CtxId
  fresh     : Nat
deriving DecidableEq, Repr

/-- The machine right after reset. -/
def State.reset : State where
  mem := []
  tags := []
  ctxs := []
  slots := []
  saved := []
  imageCaps := []
  cores := []
  clusters := []
  dies := []
  tlb := []
  stores := []
  acks := []
  evmsgs := []
  ringmsgs := []
  frames := []
  messenger := []
  frameTurn := []
  nextSeq := 0
  arrivals := []
  seen := []
  doms := []
  shoots := []
  revoking := []
  faults := []
  posted := []
  nvme := []
  counted := []
  hostLines := []
  expLines := []
  invalDone := []
  sideCache := []
  links := []
  routes := []
  peers := []
  nextOp := 0
  vfs := []
  pfs := []
  parts := []
  accepted := 0
  windows := []
  fw := ⟨.off, [], 0, 0, 0, 0, .idle, 0, 0, none⟩
  ide := []
  clock := ⟨false, 700, 0⟩
  cycle := 0
  timeNs := 0
  timeRem := 0
  mcheck := false
  dump := none
  thermal := false
  msix := []
  badFrames := []
  hostRead := []
  agenda := []
  cur := ⟨0, 0, 0⟩
  fresh := 0

end Sys2Proof.Machine
end

