-- ==== Sys2Proof/Machine/Mem.lean ====
section
/-! DEFINITION. Machine/Mem.lean: where every byte of the part's memories lies in `State.mem` (its place), and the reads
and writes of bytes, of little-endian numbers (R8) and of tag bits (R140). -/
namespace Sys2Proof.Machine

/-- Where the weight stores begin among the places (HBM lies at its physical address, R77). -/
def wsBase : Nat := 0x10000000000
/-- Where the local stores begin. -/
def lsBase : Nat := 0x20000000000
/-- Where the accumulator sets begin (R267). -/
def accBase : Nat := 0x40000000000
/-- Where expansion memory begins (R88). -/
def expBase : Nat := 0x1000000000000000
/-- Where host memory begins, partition after partition (R77, MT 5). -/
def hostBase : Nat := 0x4000000000000000

/-- Rows of a bank that a slot mode gives a slot (R118): 512, 256, 128. -/
def slotRows (mode : Nat) : Nat := 512 / 2 ^ mode
/-- Bytes of a slot (R68, R118). -/
def slotBytes (mode : Nat) : Nat := 37 * slotRows mode * 8
/-- Granules of a slot (R118). -/
def slotGranules (mode : Nat) : Nat := 64 / 2 ^ mode

/-- The bank of a word of a slot (R121). -/
def bankOf (w : Nat) : Nat := w % 37
/-- The row of a word of a slot (R121). -/
def rowOf (lslot mode w : Nat) : Nat := lslot * slotRows mode + w % slotRows mode

/-- The place of a byte of a local store (R121): core after core, row after row, bank after bank. -/
def lsPlace (core : Nat) (lslot mode off : Nat) : Nat :=
  lsBase + core * 0x40000 + (rowOf lslot mode (off / 8) * 37 + bankOf (off / 8)) * 8 + off % 8

/-- The place of byte `i` of an access at a location. -/
def Loc.place (l : Loc) (i : Nat) : Nat :=
  match l with
  | .localStore core lslot mode off => lsPlace core.val lslot mode (off + i)
  | .hbm pa => pa + i
  | .weight die off => wsBase + die.val * Config.wsBytes + (off + i)
  | .expansion _ pa => expBase + (pa + i)
  | .host part va => hostBase + part.val * 0x100000000000000 + (va + i)

/-- The key of the tag bit of the 16-byte unit that holds byte `i` (R140). -/
def Loc.tagKey (l : Loc) (i : Nat) : Nat :=
  match l with
  | .localStore core lslot mode off => lsPlace core.val lslot mode ((off + i) / 16 * 16)
  | .hbm pa => (pa + i) / 16 * 16
  | .weight die off => wsBase + die.val * Config.wsBytes + (off + i) / 16 * 16
  | .expansion _ pa => expBase + (pa + i) / 16 * 16
  | .host part va => hostBase + part.val * 0x100000000000000 + (va + i) / 16 * 16

/-- The same location, `i` bytes on. -/
def Loc.plus (l : Loc) (i : Nat) : Loc :=
  match l with
  | .localStore core lslot mode off => .localStore core lslot mode (off + i)
  | .hbm pa => .hbm (pa + i)
  | .weight die off => .weight die (off + i)
  | .expansion p pa => .expansion p (pa + i)
  | .host part va => .host part (va + i)

/-- What a byte that nothing has written reads as (assumption log 3). -/
def unlisted : Byte := 0

/-- The byte at a place. -/
def State.byteAt (s : State) (p : Nat) : Byte := Sparse.get unlisted s.mem p

/-- Write the byte at a place; the memory keeps its canonical form. -/
def State.setByteAt (s : State) (p : Nat) (b : Byte) : State :=
  { s with mem := Sparse.write unlisted s.mem p b }

/-- The memory is in its canonical form: places rise strictly, and no entry is what an unlisted place reads as. -/
abbrev Memory.wf (m : List Host.Cell) : Bool := Sparse.canonical unlisted m

/-- The tag bit of a unit. -/
def State.tagAt (s : State) (k : Nat) : Bool := Sparse.get false s.tags k
/-- Set or clear the tag bit of a unit. -/
def State.setTagAt (s : State) (k : Nat) (t : Bool) : State :=
  { s with tags := Sparse.write false s.tags k t }

/-- Bytes at a location, lowest address first. -/
def State.readBytes (s : State) (l : Loc) : Nat → List Byte
  | 0 => []
  | n + 1 => s.byteAt (l.place 0) :: State.readBytes s (l.plus 1) n

/-- A little-endian number of `n` bytes (R8). -/
def ofBytesLE : List Byte → Nat
  | [] => 0
  | b :: r => b.toNat + 256 * ofBytesLE r

/-- A number as `n` bytes, little-endian (R8). -/
def bytesLE : Nat → Nat → List Byte
  | 0, _ => []
  | n + 1, w => BitVec.ofNat 8 w :: bytesLE n (w / 256)

/-- The number at a location. -/
def State.readNat (s : State) (l : Loc) (n : Nat) : Nat := ofBytesLE (s.readBytes l n)

/-- Write bytes at a location, and clear the tag bit of every unit touched (R140). -/
def State.writeBytes (s : State) (l : Loc) : List Byte → State
  | [] => s
  | b :: r => State.writeBytes ((s.setByteAt (l.place 0) b).setTagAt (l.tagKey 0) false) (l.plus 1) r

/-- A 64-bit word of HBM at a physical address (R73, R94). -/
def State.hbm64 (s : State) (pa : Nat) : W64 := BitVec.ofNat 64 (s.readNat (.hbm pa) 8)
/-- Write a 64-bit word of HBM at a physical address. -/
def State.setHbm64 (s : State) (pa : Nat) (x : W64) : State := s.writeBytes (.hbm pa) (bytesLE 8 x.toNat)

/-- Zero `n` bytes from a location on, with their tags. -/
def State.zeroBytes (s : State) (l : Loc) : Nat → State
  | 0 => s
  | n + 1 => State.zeroBytes ((s.setByteAt (l.place 0) 0).setTagAt (l.tagKey 0) false) (l.plus 1) n

/-- Drop every entry whose key lies in a range: the fast form of zeroing it, since an unlisted byte reads 0. -/
def dropRange {α : Type} (l : Sparse α) (lo hi : Nat) : Sparse α :=
  l.filter (fun p => !(decide (lo ≤ p.1) && decide (p.1 < hi)))

end Sys2Proof.Machine
end

