-- ==== Sys2Proof/Machine/Ctxs.lean ====
section
/-! DEFINITION. Machine/Ctxs.lean: the parts of the state by name: contexts, slots, cores, clusters, dies, functions,
partitions; the general registers (R171); who is where (R3, R4). -/
namespace Sys2Proof

/-- The number of a slot (R4). -/
def slotKey (core slot : Nat) : Nat := core * 4 + slot
/-- The number of a context (R4). -/
def CtxId.key (c : CtxId) : Nat := slotKey c.core.val c.slot.val * 11 + c.ctx.val
/-- The slot of a context. -/
def CtxId.sl (c : CtxId) : SlotId := ⟨c.core, c.slot⟩
/-- The number of a slot. -/
def SlotId.key (sl : SlotId) : Nat := slotKey sl.core.val sl.slot.val
/-- A register with another cursor, every other bit kept. -/
def Reg.withCursor (r : Reg) (c : W64) : Reg :=
  ⟨(r.bits >>> 64 <<< 64) ||| c.setWidth 128, r.tag⟩
/-- The bytes of a slot's private alias: 0 for a slot without a local-store slot (R118, R68). -/
def BindRec.size (b : BindRec) : Nat := if b.none_ then 0 else Machine.slotBytes b.mode.toNat
/-- The granules of a slot (R118). -/
def BindRec.granules (b : BindRec) : Nat := if b.none_ then 0 else Machine.slotGranules b.mode.toNat

end Sys2Proof

namespace Sys2Proof.Machine

/-- The die of a core (R3). -/
def dieOf (core : Fin 4608) : Fin 4 := ⟨core.val / 1152, by omega⟩
/-- The cluster of a core, 0 to 575 (R3). -/
def clusterOf (core : Fin 4608) : Fin 576 := ⟨core.val / 8, by omega⟩

/-- A context. -/
def State.ctx (s : State) (c : CtxId) : Ctx := Sparse.get Ctx.reset s.ctxs (c.key)
/-- Set a context. -/
def State.setCtx (s : State) (c : CtxId) (x : Ctx) : State := { s with ctxs := Sparse.put s.ctxs (c.key) x }
/-- Change a context. -/
def State.modCtx (s : State) (c : CtxId) (f : Ctx → Ctx) : State := s.setCtx c (f (s.ctx c))

/-- A slot. -/
def State.slot (s : State) (sl : SlotId) : Slot := Sparse.get Slot.reset s.slots (sl.key)
/-- Set a slot. -/
def State.setSlot (s : State) (sl : SlotId) (x : Slot) : State := { s with slots := Sparse.put s.slots (sl.key) x }
/-- Change a slot. -/
def State.modSlot (s : State) (sl : SlotId) (f : Slot → Slot) : State := s.setSlot sl (f (s.slot sl))

/-- A core. -/
def State.core (s : State) (c : Fin 4608) : Core := Sparse.get Core.reset s.cores c.val
/-- Set a core. -/
def State.setCore (s : State) (c : Fin 4608) (x : Core) : State := { s with cores := Sparse.put s.cores c.val x }
/-- Change a core. -/
def State.modCore (s : State) (c : Fin 4608) (f : Core → Core) : State := s.setCore c (f (s.core c))

/-- A neuron's entry. -/
def Bank.cell (b : Bank) (n : Nat) : Neuron := Sparse.get Neuron.zero b.cells n
/-- Change it. -/
def Bank.setCell (b : Bank) (n : Nat) (c : Neuron) : Bank := { b with cells := Sparse.put b.cells n c }
/-- A bank of a core. -/
def Core.bank (k : Core) (n : Nat) : Bank := Sparse.get Bank.default k.banks n
/-- Change it. -/
def State.setBank (s : State) (core : Fin 4608) (n : Nat) (b : Bank) : State :=
  s.modCore core (fun k => { k with banks := Sparse.put k.banks n b })

/-- A cluster. -/
def State.cluster (s : State) (n : Fin 576) : Cluster := Sparse.get Cluster.reset s.clusters n.val
/-- Set a cluster. -/
def State.setCluster (s : State) (n : Fin 576) (x : Cluster) : State :=
  { s with clusters := Sparse.put s.clusters n.val x }
/-- Change a cluster. -/
def State.modCluster (s : State) (n : Fin 576) (f : Cluster → Cluster) : State := s.setCluster n (f (s.cluster n))

/-- A die. -/
def State.die (s : State) (d : Fin 4) : Die := Sparse.get Die.reset s.dies d.val
/-- Set a die. -/
def State.setDie (s : State) (d : Fin 4) (x : Die) : State := { s with dies := Sparse.put s.dies d.val x }
/-- Change a die. -/
def State.modDie (s : State) (d : Fin 4) (f : Die → Die) : State := s.setDie d (f (s.die d))
/-- Change every die. -/
def State.modDies (s : State) (f : Die → Die) : State :=
  (((s.modDie 0 f).modDie 1 f).modDie 2 f).modDie 3 f

/-- A virtual function. -/
def State.vf (s : State) (n : Fin 64) : Vf := Sparse.get Vf.reset s.vfs n.val
/-- Change a virtual function. -/
def State.modVf (s : State) (n : Fin 64) (f : Vf → Vf) : State := { s with vfs := Sparse.put s.vfs n.val (f (s.vf n)) }
/-- A physical function. -/
def State.pf (s : State) (n : Fin 16) : Pf := Sparse.get Pf.reset s.pfs n.val
/-- Change a physical function. -/
def State.modPf (s : State) (n : Fin 16) (f : Pf → Pf) : State := { s with pfs := Sparse.put s.pfs n.val (f (s.pf n)) }
/-- A partition. -/
def State.part (s : State) (n : Fin 64) : Partition := Sparse.get Partition.reset s.parts n.val
/-- Change a partition. -/
def State.modPart (s : State) (n : Fin 64) (f : Partition → Partition) : State :=
  { s with parts := Sparse.put s.parts n.val (f (s.part n)) }
/-- A link. -/
def State.link (s : State) (n : Fin 256) : Link := Sparse.get Link.reset s.links n.val
/-- Change a link. -/
def State.modLink (s : State) (n : Fin 256) (f : Link → Link) : State :=
  { s with links := Sparse.put s.links n.val (f (s.link n)) }

/-- Take a value the spec leaves open: the counter goes on, so that the next one is another (assumption log 1). -/
def State.takeFresh (s : State) : State := { s with fresh := s.fresh + 1 }

/-- The partition of a slot (R364). -/
def State.partOf (s : State) (sl : SlotId) : Fin 64 := (s.slot sl).bind.part
/-- The slot holds a tenant: bound, not unbound, whether or not it is being evicted. -/
def State.slotHeld (s : State) (sl : SlotId) : Bool := (s.slot sl).phase != .unbound

/-- A location in a slot's local store, by its private-alias offset (R121). -/
def State.slotLoc (s : State) (sl : SlotId) (off : Nat) : Loc :=
  .localStore sl.core (s.slot sl).bind.lslot.toNat (s.slot sl).bind.mode.toNat off

/-- A general register; g0 reads as zero (R171). -/
def Ctx.reg (x : Ctx) (r : GReg) : Reg := if r = 0 then Reg.zero else Sparse.get Reg.zero x.g r.val
/-- Write a general register; a write to g0 is discarded (R171). -/
def Ctx.setReg (x : Ctx) (r : GReg) (v : Reg) : Ctx :=
  if r = 0 then x else { x with g := Sparse.put x.g r.val v }

/-- A queue register (R183). -/
def Ctx.queue (x : Ctx) (i : Fin 8) : QueueReg := Sparse.get ⟨0, []⟩ x.q i.val
/-- Set a queue register. -/
def Ctx.setQueue (x : Ctx) (i : Fin 8) (v : QueueReg) : Ctx := { x with q := Sparse.put x.q i.val v }
/-- An unbound ring. -/
def Ring.unbound : Ring := ⟨false, 0, 0, 0, 0, 0, 0, 0, 0⟩
/-- A receive ring (R185). -/
def Ctx.ring (x : Ctx) (k : Fin 4) : Ring := Sparse.get Ring.unbound x.rings k.val
/-- Set a receive ring. -/
def Ctx.setRing (x : Ctx) (k : Fin 4) (v : Ring) : Ctx := { x with rings := Sparse.put x.rings k.val v }
/-- A port (R191). -/
def Ctx.port (x : Ctx) (m : Fin 4) : Port := Sparse.get ⟨false, 0, 0, []⟩ x.ports m.val
/-- Set a port. -/
def Ctx.setPort (x : Ctx) (m : Fin 4) (v : Port) : Ctx := { x with ports := Sparse.put x.ports m.val v }
/-- Words in a ring (R185). -/
def Ring.words (r : Ring) : Nat := (r.tail - r.head).toNat
/-- The size of a ring in words (R185). -/
def Ring.size (r : Ring) : Nat := 2 ^ r.log.toNat
/-- The tail that an operation of the context sees in a cycle: without the words delivered in that cycle (R188). -/
def Ring.seenTail (r : Ring) (now : Nat) : BitVec 32 := if r.inAt = now then r.tail - BitVec.ofNat 32 r.inN else r.tail
/-- The words that an operation of the context finds in a cycle (R188). -/
def Ring.here (r : Ring) (now : Nat) : Nat := (r.seenTail now - r.head).toNat
/-- A delivery in a cycle finds room: the places consumed in that cycle are still taken (R188). -/
def Ring.room (r : Ring) (now : Nat) : Bool := decide (r.words + (if r.outAt = now then r.outN else 0) < r.size)
/-- `n` words are consumed in a cycle. -/
def Ring.took (r : Ring) (now n : Nat) : Ring :=
  { r with head := r.head + BitVec.ofNat 32 n, outAt := now, outN := (if r.outAt = now then r.outN else 0) + n }
/-- A word is delivered in a cycle. -/
def Ring.got (r : Ring) (now : Nat) : Ring :=
  { r with tail := r.tail + 1, inAt := now, inN := (if r.inAt = now then r.inN else 0) + 1 }

/-- A handle slot (R160). -/
def Ctx.hslot (x : Ctx) (h : Fin 16) : HSlot := Sparse.get ⟨.free, 0, 0, false, 0, 0, 0, none, false⟩ x.hslots h.val
/-- Set a handle slot. -/
def Ctx.setHslot (x : Ctx) (h : Fin 16) (v : HSlot) : Ctx := { x with hslots := Sparse.put x.hslots h.val v }
/-- A domain register (R352). -/
def DomReg.none : DomReg := ⟨false, 0, 0, 0, [], 0, 0⟩
/-- A domain register (R352). -/
def Ctx.domReg (x : Ctx) (n : Nat) : DomReg := Sparse.get DomReg.none x.dm n
/-- Set a domain register. -/
def Ctx.setDomReg (x : Ctx) (n : Nat) (v : DomReg) : Ctx := { x with dm := Sparse.put x.dm n v }

/-- An unacknowledged count (R104). -/
def Ctx.count (x : Ctx) (t : Fin 4) : Nat := Sparse.get 0 x.counts t.val
/-- Set an unacknowledged count. -/
def Ctx.setCount (x : Ctx) (t : Fin 4) (n : Nat) : Ctx := { x with counts := Sparse.put x.counts t.val n }
/-- The sum of the four counts (R104). -/
def Ctx.counted (x : Ctx) : Nat := x.count 0 + x.count 1 + x.count 2 + x.count 3
/-- USC.COUNT (R104): the sum of the four counts, and the word that the context is about to send. -/
def Ctx.usc (x : Ctx) : Nat := x.counted + x.sending.isSome.toNat

/-- The depth of the domain stack (R381). -/
def Ctx.depth (x : Ctx) : Nat := x.bights.length
/-- The PC: the cursor of the code capability (R229). -/
def Ctx.pc (x : Ctx) : W64 := x.pcc.lo
/-- Set the PC. -/
def Ctx.setPc (x : Ctx) (p : W64) : Ctx := { x with pcc := x.pcc.withCursor p }
/-- The phase tag of the domain named by DSEL (R105): the phase number modulo 4, 0 where it names none. -/
def Ctx.phaseTag (x : Ctx) : Fin 4 :=
  let d := x.domReg x.dsel.toNat
  if d.valid then ⟨d.phase.toNat % 4, by omega⟩ else 0
/-- The context is live (R337). -/
def Ctx.live (x : Ctx) : Bool := x.status != .free
/-- The context runs with sup rights in a supervisor entry (R402), or is a context of the supervisor slot (R233). -/
def State.isSup (s : State) (c : CtxId) : Bool := (s.slot (c.sl)).bind.supv || (s.ctx c).tstat.suph

/-- Every context number. -/
def allCtx : List (Fin 11) := [0, 1, 2, 3, 4, 5, 6, 7, 8, 9, 10]
/-- Every slot number. -/
def allSlots : List (Fin 4) := [0, 1, 2, 3]
/-- Every handle slot number. -/
def allHandles : List (Fin 16) := [0, 1, 2, 3, 4, 5, 6, 7, 8, 9, 10, 11, 12, 13, 14, 15]
/-- The contexts of a slot. -/
def ctxsOf (sl : SlotId) : List CtxId := allCtx.map (fun c => ⟨sl.core, sl.slot, c⟩)

/-- The context of a number. -/
def ctxOfKey (k : Nat) : CtxId :=
  ⟨⟨k / 44 % 4608, by omega⟩, ⟨k / 11 % 4, by omega⟩, ⟨k % 11, by omega⟩⟩
/-- The contexts that have a record. -/
def State.ctxIds (s : State) : List CtxId := s.ctxs.map (fun p => ctxOfKey p.1)
/-- The slots that have a record. -/
def State.slotIds (s : State) : List SlotId :=
  s.slots.map (fun p => ⟨⟨p.1 / 4 % 4608, by omega⟩, ⟨p.1 % 4, by omega⟩⟩)
/-- The slots of a partition that stand on their cores. -/
def State.slotsOfPart (s : State) (p : Fin 64) : List SlotId :=
  s.slotIds.filter (fun sl => s.slotHeld sl && s.partOf sl == p)

/-- The bind record of a slot as a tenant holds it: bound, being evicted, or evicted and not yet restored (R310, R369). -/
def State.heldBind (s : State) (p : Fin 64) (sl : SlotId) : Option BindRec :=
  if s.slotHeld sl && s.partOf sl == p then some (s.slot sl).bind
  else (s.saved.find? (fun v => v.sl == sl && v.slot.bind.part == p)).map (fun v => v.slot.bind)
/-- The core issues for the slot: it is bound, and no eviction of it has begun. Contexts go on while an eviction waits
(R369). -/
def State.slotOn (s : State) (sl : SlotId) : Bool := (s.slot sl).phase == .bound || (s.slot sl).phase == .leaving
/-- Firmware evicts a slot: the eviction waits, or has begun (R369). -/
def Slot.going (q : Slot) : Bool := q.phase == .leaving || q.phase == .evicting
/-- The tenant's slot stands on its core: it is bound and no eviction of it has begun. -/
def State.present (s : State) (p : Fin 64) (sl : SlotId) : Bool := s.slotOn sl && s.partOf sl == p
/-- The tenant's slot is being evicted, or is evicted: what reaches it is answered with a retry reply (R108, R310). -/
def State.away (s : State) (p : Fin 64) (sl : SlotId) : Bool := (s.heldBind p sl).isSome && !s.present p sl

/-- The slot R69 chooses on a core for a tenant, with the issuer's slot number: that slot if the tenant holds it, else the
lowest one the tenant holds there. -/
def State.tenantSlot (s : State) (p : Fin 64) (core : Fin 4608) (slot : Fin 4) : Option SlotId :=
  let held : Fin 4 → Bool := fun k => (s.heldBind p ⟨core, k⟩).isSome
  if held slot then some ⟨core, slot⟩
  else (allSlots.find? held).map (fun k => ⟨core, k⟩)

end Sys2Proof.Machine
end

