-- ==== Sys2Proof/Machine/Caps.lean ====
section
/-! DEFINITION. Machine/Caps.lean: capabilities (R174 to R178): their fields, the bounds they stand for, their encoding,
and the dereference checks in their fixed order. -/
namespace Sys2Proof

/-- PERMS (R174). -/
def Reg.perms (r : Reg) : BitVec 12 := r.bits.extractLsb' 116 12
/-- OWNER (R174). -/
def Reg.owner (r : Reg) : BitVec 12 := r.bits.extractLsb' 104 12
/-- OTYPE (R174). -/
def Reg.otype (r : Reg) : BitVec 4 := r.bits.extractLsb' 100 4
/-- SH (R174). -/
def Reg.sh (r : Reg) : Nat := (r.bits.extractLsb' 94 6).toNat
/-- BM (R174). -/
def Reg.bm (r : Reg) : Nat := (r.bits.extractLsb' 79 15).toNat
/-- LM (R174). -/
def Reg.lm (r : Reg) : Nat := (r.bits.extractLsb' 64 15).toNat

end Sys2Proof

namespace Sys2Proof.Machine

/-! Permission bits, counted from bit 116 (R177). -/
/-- Load. -/
def permL : BitVec 12 := 1
/-- Store. -/
def permS : BitVec 12 := 2
/-- Execute. -/
def permX : BitVec 12 := 4
/-- Load capability. -/
def permLC : BitVec 12 := 8
/-- Store capability. -/
def permSC : BitVec 12 := 16
/-- Seal. -/
def permSE : BitVec 12 := 32
/-- Unseal. -/
def permUS : BitVec 12 := 64
/-- May be stored to shared memory. -/
def permG : BitVec 12 := 128
/-- May address other cores' local stores. -/
def permM : BitVec 12 := 256
/-- Atomics. -/
def permA : BitVec 12 := 512
/-- May be handed to an engine. -/
def permE : BitVec 12 := 1024
/-- Weight-store read. -/
def permW : BitVec 12 := 2048

/-- A capability lacks some permission of a mask. -/
def lacks (r : Reg) (mask : BitVec 12) : Bool := r.perms &&& mask != mask

/-- The base and the top that a capability's fields and cursor stand for (R175). -/
def capBounds (r : Reg) : Nat × Nat :=
  if r.sh = 63 then (0, 2 ^ 64)
  else
    let c := r.lo.toNat / 2 ^ r.sh
    let d := (c + 2 ^ 15 + 4096 - r.bm) % 2 ^ 15
    let base := (c + 4096 + 2 ^ 64 - d) * 2 ^ r.sh % 2 ^ 64
    (base, base + r.lm * 2 ^ r.sh)

/-- The decoded base (R175). -/
def capBase (r : Reg) : Nat := (capBounds r).1
/-- The decoded top (R175). -/
def capTop (r : Reg) : Nat := (capBounds r).2

/-- A cursor stays in the window of the capability's own base (R175). -/
def representable (r : Reg) (n : W64) : Bool :=
  decide ((n.toNat + 2 ^ 64 - capBase r + 4096 * 2 ^ r.sh) % 2 ^ 64 < 32768 * 2 ^ r.sh)

/-- The least SH that holds a length, from `sh` on (R176). -/
def encodeShift : Nat → Nat → Nat → Nat
  | 0, _, sh => sh
  | f + 1, len, sh => if len > 24576 * 2 ^ sh then encodeShift f len (sh + 1) else sh

/-- The encoding of bounds (R176): SH, BM and LM, or that they are not representable or not exact. -/
def encodeBounds (base top : Nat) : Option (Nat × Nat × Nat) :=
  let len := top - base
  let sh := encodeShift 64 len 0
  if sh > 49 then (if base = 0 ∧ top = 2 ^ 64 then some (63, 0, 0) else none)
  else if base % 2 ^ sh ≠ 0 ∨ top % 2 ^ sh ≠ 0 then none
  else some (sh, base / 2 ^ sh % 2 ^ 15, len / 2 ^ sh)

/-- The least encodable bounds that contain some bounds (R180, R181): rounded outwards until they encode. -/
def roundBounds : Nat → Nat → Nat → Nat × Nat
  | 0, b, t => (b, t)
  | f + 1, b, t =>
    match encodeBounds b t with
    | some _ => (b, t)
    | none =>
      let sh := encodeShift 64 (t - b) 0
      if sh > 49 then (0, max t (2 ^ 64))
      else roundBounds f (b / 2 ^ sh * 2 ^ sh) ((t + 2 ^ sh - 1) / 2 ^ sh * 2 ^ sh)

/-- A register with the bound fields replaced. -/
def withBounds (r : Reg) (e : Nat × Nat × Nat) : Reg :=
  let keep := r.bits &&& ~~~(BitVec.ofNat 128 (0xFFFFFFFFF * 2 ^ 64))
  ⟨keep ||| BitVec.ofNat 128 (e.1 * 2 ^ 94 + e.2.1 * 2 ^ 79 + e.2.2 * 2 ^ 64), r.tag⟩

/-- A register with PERMS replaced. -/
def withPerms (r : Reg) (p : BitVec 12) : Reg :=
  ⟨(r.bits <<< 12 >>> 12) ||| (p.setWidth 128 <<< 116), r.tag⟩

/-- A register with OWNER replaced. -/
def withOwner (r : Reg) (o : BitVec 12) : Reg :=
  ⟨(r.bits &&& ~~~(BitVec.ofNat 128 (0xFFF * 2 ^ 104))) ||| (o.setWidth 128 <<< 104), r.tag⟩

/-- A register with OTYPE and tag replaced. -/
def withOtype (r : Reg) (t : BitVec 4) (tag : BitVec 2) : Reg :=
  ⟨(r.bits &&& ~~~(BitVec.ofNat 128 (0xF * 2 ^ 100))) ||| (t.setWidth 128 <<< 100), tag⟩

/-- A capability built from its fields (R174). -/
def mkCap (perms owner : BitVec 12) (e : Nat × Nat × Nat) (cursor : W64) : Reg :=
  ⟨BitVec.ofNat 128 (perms.toNat * 2 ^ 116 + owner.toNat * 2 ^ 104 + e.1 * 2 ^ 94 + e.2.1 * 2 ^ 79 + e.2.2 * 2 ^ 64
    + cursor.toNat), 1⟩

/-- A capability over a range, with the least encodable bounds that contain it. -/
def mkCapRange (perms owner : BitVec 12) (base top : Nat) (cursor : W64) : Reg :=
  let bt := roundBounds 8 base top
  mkCap perms owner ((encodeBounds bt.1 bt.2).getD (63, 0, 0)) cursor

/-- The bits of a tagged unit hold what an instruction could have produced (R144, R174). -/
def capFieldsOk (bits : W128) : Bool :=
  let r : Reg := ⟨bits, 1⟩
  decide (r.otype.toNat ≤ 3) && (decide (r.sh ≤ 49) || r.sh == 63) && decide (r.lm ≤ 24576)

/-- The register that a unit's bits and tag bit load as (R144). -/
def loadTagged (bits : W128) (t : Bool) : Reg :=
  if t && capFieldsOk bits then ⟨bits, if (⟨bits, 1⟩ : Reg).otype = 0 then 1 else 3⟩ else ⟨bits, 0⟩

/-- check_cap (R178): the first check that fails, in the order tag, seal, permissions, bounds, liveness. -/
def checkCap (live : BitVec 12 → Bool) (cap : Reg) (perm : BitVec 12) (addr : W64) (size : Nat) : Option Cause :=
  if cap.tag ≠ 1 ∧ cap.tag ≠ 3 then some .capTag
  else if cap.otype ≠ 0 then some .capSealed
  else if lacks cap perm then some .capPerm
  else if addr.toNat < capBase cap ∨ addr.toNat + size > capTop cap then some .capBounds
  else if live cap.owner = false then some .capDomainDead
  else none

/-- check_cap less its seal check (R390). -/
def checkCapUnsealed (live : BitVec 12 → Bool) (cap : Reg) (perm : BitVec 12) (addr : W64) (size : Nat) : Option Cause :=
  checkCap live (withOtype cap 0 1) perm addr size

/-- The live bit of a domain in a die's copy of the table (R178). -/
def State.live (s : State) (d : Fin 4) (dom : BitVec 12) : Bool := Sparse.get false (s.die d).live dom.toNat

end Sys2Proof.Machine
end

