-- ==== Sys2Proof/Machine/Xlate.lean ====
section
/-! DEFINITION. Machine/Xlate.lean: the DVA map (R68, R69), the page-table walk and its leaves (R73 to R77), the TLBs
(R78), and what an access finds there. -/
namespace Sys2Proof.Machine

/-- What a DVA names (R68): a word of a local store through the private or the global alias, translated memory, or an
address fault at a byte. -/
inductive Named where
  | own (off : Nat)
  | global (sl : SlotId) (off : Nat)
  | translated
  | fault (r : PageReason) (at_ : W64)
deriving DecidableEq, Repr

/-- The core that DIE, CLU and CORE name (R3, R69), for CLU at most 143. -/
def coreOf (die clu core : Nat) : Fin 4608 := ⟨(die * 1152 + clu * 8 + core) % 4608, by omega⟩

/-- Decode a DVA for an access of `n` bytes by a slot (R68, R69). An access that leaves its region faults at the first byte
outside it. -/
def State.named (s : State) (sl : SlotId) (dva : W64) (n : Nat) : Named :=
  let a := dva.toNat
  let size := (s.slot sl).bind.size
  if a / 2 ^ 57 ≠ 0 then .fault .nonCanonical dva
  else if a / 2 ^ 56 % 2 = 1 then
    let off := a % 2 ^ 18
    if a / 2 ^ 36 % 2 ^ 20 ≠ 0 ∨ a / 2 ^ 18 % 2 ^ 5 ≠ 0 ∨ a / 2 ^ 26 % 2 ^ 8 > 143 then .fault .nonCanonical dva
    else
      match s.tenantSlot (s.partOf sl) (coreOf (a / 2 ^ 34 % 4) (a / 2 ^ 26 % 2 ^ 8) (a / 2 ^ 23 % 8)) sl.slot with
      | none => .fault .noSlot dva
      | some t =>
        let tsize := match s.heldBind (s.partOf sl) t with
          | some b => b.size
          | none => 0
        if off ≥ tsize then .fault .nonCanonical dva
        else if off + n > tsize then .fault .nonCanonical (dva + BitVec.ofNat 64 (tsize - off))
        else .global t off
  else if a < size then
    if a + n > size then .fault .nonCanonical (BitVec.ofNat 64 size) else .own a
  else if a < 2 ^ 32 then .fault .nonCanonical dva
  else if a + n > 2 ^ 56 then .fault .nonCanonical (BitVec.ofNat 64 (2 ^ 56))
  else .translated

/-! Page-table entries (R74). -/
/-- V. -/
def pteV (p : W64) : Bool := p.getLsbD 0
/-- L. -/
def pteL (p : W64) : Bool := p.getLsbD 1
/-- RD. -/
def pteRD (p : W64) : Bool := p.getLsbD 2
/-- WR. -/
def pteWR (p : W64) : Bool := p.getLsbD 3
/-- EX. -/
def pteEX (p : W64) : Bool := p.getLsbD 4
/-- CAP. -/
def pteCAP (p : W64) : Bool := p.getLsbD 5
/-- CT. -/
def pteCT (p : W64) : Bool := p.getLsbD 8
/-- MT. -/
def pteMT (p : W64) : Nat := (p.extractLsb' 9 3).toNat
/-- The address that FRAME names. -/
def pteFrame (p : W64) : Nat := (p.extractLsb' 12 44).toNat * 4096
/-- FMT and BLK. -/
def pteFmt (p : W64) : Fmt := ⟨p.extractLsb' 56 5, p.extractLsb' 61 3⟩
/-- AC, bit 6 (R74, R76). -/
def acBit : W64 := 0x40
/-- DI, bit 7. -/
def diBit : W64 := 0x80

/-- The bytes of a leaf's own entry at a level (R73). -/
def entryBytes (lvl : Nat) : Nat := 4096 * 512 ^ lvl
/-- The bytes of a leaf's page at a level (R73). -/
def pageBytes (p : W64) (lvl : Nat) : Nat := if pteCT p then entryBytes lvl * 16 else entryBytes lvl

/-- A frame lies in the physical range of its memory type (R75, R77). -/
def frameInRange (mt frame n : Nat) : Bool :=
  if mt = 0 ∨ mt = 4 then decide (frame + n ≤ Config.hbmBytes)
  else if mt = 1 then decide (frame + n ≤ 4 * Config.wsBytes)
  else true

/-- A leaf is MALFORMED (R75), but for what concerns a whole CT group. -/
def leafMalformed (p : W64) (lvl : Nat) : Bool :=
  let mt := pteMT p
  decide (mt ≥ 6) || (pteCAP p && mt != 0) || (pteCT p && lvl == 2) || (pteCT p && mt == 4)
    || (mt == 4 && decide (lvl ≥ 1)) || pteFrame p % entryBytes lvl != 0 || !frameInRange mt (pteFrame p) (entryBytes lvl)

/-- The bits in which the members of a CT group agree: all but FRAME, AC and DI (R75). -/
def ctAgree (p : W64) : W64 := p &&& 0xFF00000000000F3F

/-- A CT group keeps the rule of R75: every member has V, L and CT, agrees with the first, and its frame follows. -/
def State.ctGroupOk (s : State) (tbl first lvl : Nat) : Bool :=
  let p0 := s.hbm64 (tbl + 8 * first)
  (List.range 16).all (fun i =>
    let p := s.hbm64 (tbl + 8 * (first + i))
    pteV p && pteL p && pteCT p && ctAgree p == ctAgree p0 && pteFrame p == pteFrame p0 + i * entryBytes lvl)

/-- What a walk gives: the entry that serves the page, its address, the page's first DVA and its size; the frame in the
entry is that of the page's first byte. -/
structure Leaf where
  pte   : W64
  pteAt : Nat
  vbase : Nat
  size  : Nat
deriving DecidableEq, Repr

/-- The entry of a page with the frame of the page's first byte. -/
def withFrame (p : W64) (frame : Nat) : W64 :=
  (p &&& 0xFF00000000000FFF) ||| BitVec.ofNat 64 (frame / 4096 % 2 ^ 44 * 4096)

/-- The walk from a level downwards (R73). -/
def State.walkFrom (s : State) (dva : Nat) : Nat → Nat → Except PageReason Leaf
  | lvl, tbl =>
    let idx := if lvl = 4 then dva / 2 ^ 48 % 256 else dva / 2 ^ (12 + 9 * lvl) % 512
    let pte := s.hbm64 (tbl + 8 * idx)
    if pteV pte = false then .error .notPresent
    else if pteL pte = false then
      match lvl with
      | 0 => .error .malformed
      | l + 1 =>
        if pte.extractLsb' 2 10 ≠ 0 ∨ pte.extractLsb' 56 8 ≠ 0 then .error .malformed
        else if pteFrame pte > 0x5FFFFFF000 then .error .malformed
        else State.walkFrom s dva l (pteFrame pte)
    else if lvl > 2 then .error .malformed
    else if leafMalformed pte lvl then .error .malformed
    else
      let n := pageBytes pte lvl
      if pteCT pte then
        let first := idx / 16 * 16
        if pteFrame (s.hbm64 (tbl + 8 * first)) % n ≠ 0 then .error .malformed
        else if s.ctGroupOk tbl first lvl then
          .ok ⟨withFrame pte (pteFrame (s.hbm64 (tbl + 8 * first))), tbl + 8 * idx, dva / n * n, n⟩
        else if Config.freeBit s.fresh then .error .malformed
        else
          let p0 := s.hbm64 (tbl + 8 * first)
          if pteV p0 && pteL p0 && !leafMalformed p0 lvl && pteCT p0 then
            .ok ⟨p0, tbl + 8 * idx, dva / n * n, n⟩
          else .error .malformed
      else .ok ⟨pte, tbl + 8 * idx, dva / n * n, n⟩

/-- The walk of a tenant's table (R73). -/
def State.walk (s : State) (root : W64) (dva : W64) : Except PageReason Leaf := s.walkFrom dva.toNat 4 root.toNat

/-- The kind of an access, for the permission bits of the leaf (R72, R74). -/
inductive Access where
  | read | write | exec
deriving DecidableEq, Repr

/-- The leaf permits the access. -/
def leafPermits (p : W64) (k : Access) : Bool :=
  match k with
  | .read => pteRD p
  | .write => pteWR p
  | .exec => pteEX p

/-- A TLB of a core's reach holds the page (R78): its micro-TLB, its cluster's, its die's. -/
def tlbReach (l : TlbLevel) (core : Fin 4608) : Bool :=
  match l with
  | .micro c => c == core
  | .cluster n => n == clusterOf core
  | .lastLevel d => d == dieOf core

/-- A TLB entry holds the page of a DVA of a partition (R78): it never serves another partition. -/
def TlbEntry.holds (e : TlbEntry) (part : Fin 64) (dva : W64) : Bool :=
  e.part == part && decide (e.vbase ≤ dva.toNat) && decide (dva.toNat < e.vbase + e.size)

/-- The TLB entry of a core's reach that holds a page (R78). -/
def State.tlbFind (s : State) (core : Fin 4608) (part : Fin 64) (dva : W64) : Option TlbEntry :=
  s.tlb.find? (fun e => e.holds part dva && tlbReach e.level core)

/-- The entry of a core's micro-TLB that holds a page (R78). -/
def State.tlbMicro (s : State) (core : Fin 4608) (part : Fin 64) (dva : W64) : Option TlbEntry :=
  s.tlb.find? (fun e => e.holds part dva && e.level == .micro core)

/-- An address in a decoder window of expansion memory (R88). -/
def State.inWindow (s : State) (pa : Nat) : Bool :=
  s.windows.any (fun w => decide (w.2.base.toNat ≤ pa) && decide (pa < w.2.base.toNat + w.2.size.toNat))

/-- A translation: the memory type, where the access lands, its format, whether the page keeps tags, and the entry with its
page. -/
structure Xl where
  mt    : Nat
  loc   : Loc
  fmt   : Fmt
  cap   : Bool
  pte   : W64
  pteAt : Nat
  vbase : Nat
  size  : Nat
deriving DecidableEq, Repr

/-- The CXL port of the decoder window that holds an address of expansion memory (R88); port 0 where none does. -/
def State.portOf (s : State) (pa : Nat) : Fin 4 :=
  match List.find? (fun w => decide (w.2.base.toNat ≤ pa) && decide (pa < w.2.base.toNat + w.2.size.toNat)) s.windows with
  | some w => w.2.port
  | none => 0

/-- Where an address of a page lands (R77). -/
def State.pageLoc (s : State) (part : Fin 64) (pte : W64) (off : Nat) : Loc :=
  let f := pteFrame pte + off
  match pteMT pte with
  | 1 => .weight ⟨f / Config.wsBytes % 4, by omega⟩ (f % Config.wsBytes)
  | 2 => .expansion none f
  | 3 => .expansion (some (s.portOf f)) f
  | 5 => .host part f
  | _ => .hbm f

/-- What an access finds when it translates. -/
inductive Look where
  | ok (x : Xl)
  | fault (r : PageReason)
  /-- The micro-TLB does not hold the page (R80): another level or the page walker must fill it first. -/
  | walk
  /-- The host's ATS must allow the access first (R91). -/
  | service
deriving DecidableEq, Repr

/-- Translate a DVA of translated memory by the micro-TLB of a core (R72, R78, R80, R88, R91). -/
def State.lookPage (s : State) (core : Fin 4608) (part : Fin 64) (root : W64) (k : Access) (dva : W64) : Look :=
  match s.tlbMicro core part dva with
  | some e =>
    if leafPermits e.pte k = false then
      let again : Bool := pteMT e.pte == 5 && (match s.walk root dva with
        | .ok l => leafPermits l.pte k
        | .error _ => false)
      if again then .service else .fault .permission
    else
      let loc := s.pageLoc part e.pte (dva.toNat - e.vbase)
      let bad : Bool := match loc with | .expansion _ pa => !s.inWindow pa | _ => false
      if bad then .fault .expansionError
      else .ok ⟨pteMT e.pte, loc, pteFmt e.pte, pteCAP e.pte, e.pte, e.pteAt, e.vbase, e.size⟩
  | none => .walk

/-- The capacity of a TLB level (R78). -/
def tlbCapacity (l : TlbLevel) : Nat :=
  match l with
  | .micro _ => 32
  | .cluster _ => 512
  | .lastLevel _ => 12288

/-- Put an entry into a TLB; when the level is full, which entry gives way is open (R10, R78). -/
def State.tlbInsert (s : State) (e : TlbEntry) : State :=
  let mine := s.tlb.filter (fun x => x.level == e.level)
  if mine.length < tlbCapacity e.level then { s with tlb := e :: s.tlb }
  else
    match mine[Config.freeNat s.fresh % mine.length]? with
    | some v => { s with tlb := e :: s.tlb.erase v, fresh := s.fresh + 1 }
    | none => { s with tlb := e :: s.tlb }

/-- Fill the three levels for a core with a walked page, and set AC in the entry (R76, R78). -/
def State.tlbFill (s : State) (core : Fin 4608) (part : Fin 64) (l : Leaf) : State :=
  let s := s.setHbm64 l.pteAt (s.hbm64 l.pteAt ||| acBit)
  let mk : TlbLevel → TlbEntry := fun lv => ⟨lv, part, l.vbase, l.size, l.pte ||| acBit, l.pteAt⟩
  ((s.tlbInsert (mk (.micro core))).tlbInsert (mk (.cluster (clusterOf core)))).tlbInsert (mk (.lastLevel (dieOf core)))

/-- How a miss of a core's micro-TLB ends. -/
inductive Missed where
  /-- The TLBs hold the page. -/
  | filled (s : State)
  /-- A host page (R91): the host's ATS is asked. -/
  | host
  /-- NOT_PRESENT, which a service makes present or refuses (R82, R95): a FILE page or not. -/
  | absent (file : Bool)
  | fault (r : PageReason)

/-- Where the walk of a DVA ends on an entry with V = 0: its level, its address and the entry. -/
def State.walkEnd (s : State) (dva : Nat) : Nat → Nat → Option (Nat × Nat × W64)
  | lvl, tbl =>
    let idx := if lvl = 4 then dva / 2 ^ 48 % 256 else dva / 2 ^ (12 + 9 * lvl) % 512
    let at_ := tbl + 8 * idx
    let pte := s.hbm64 at_
    if pteV pte = false then some (lvl, at_, pte)
    else if pteL pte then none
    else
      match lvl with
      | 0 => none
      | l + 1 => State.walkEnd s dva l (pteFrame pte)

/-- An absent FILE leaf (R94). -/
def isAbsentFile (p : W64) (lvl : Nat) : Bool := !pteV p && pteL p && pteMT p == 4 && lvl == 0

/-- A walk for a miss of every level (R79, R80): it fills the TLBs, or ends in a fault, which is not cached. An entry with V
= 0 of a host page is a NOT_PRESENT that no service takes (R82). -/
def State.missWalk (s : State) (core : Fin 4608) (part : Fin 64) (root dva : W64) : Missed :=
  match s.walk root dva with
  | .ok l => if pteMT l.pte = 5 then .host else .filled (s.tlbFill core part l)
  | .error .notPresent =>
    match s.walkEnd dva.toNat 4 root.toNat with
    | some (lvl, _, p) => if pteL p && pteMT p == 5 then .fault .notPresent else .absent (isAbsentFile p lvl)
    | none => .absent false
  | .error r => .fault r

/-- A micro-TLB takes an entry that another level of its core's reach holds (R78); a hit in the last level fills the
cluster's TLB too. -/
def State.refill (s : State) (core : Fin 4608) (e : TlbEntry) : State :=
  let s := match e.level with
    | .lastLevel _ => s.tlbInsert { e with level := .cluster (clusterOf core) }
    | _ => s
  s.tlbInsert { e with level := .micro core }

/-- The first write through an entry sets DI in it and in the TLBs that hold it (R76). -/
def State.markDirty (s : State) (x : Xl) : State :=
  if x.pte &&& diBit ≠ 0 then s
  else
    { s.setHbm64 x.pteAt (s.hbm64 x.pteAt ||| diBit) with
      tlb := s.tlb.map (fun e => if e.pteAt == x.pteAt then { e with pte := e.pte ||| diBit } else e) }

/-- Every TLB drops the entries of a partition that touch a range; length 0 names the whole partition (R81). -/
def State.tlbDrop (s : State) (part : Fin 64) (base len : W64) : State :=
  { s with tlb := s.tlb.filter (fun e => !(e.part == part &&
      (len == 0 || (decide (e.vbase < base.toNat + len.toNat) && decide (base.toNat < e.vbase + e.size))))) }

end Sys2Proof.Machine
end

