-- ==== Sys2Proof/Machine/Host.lean ====
section
/-! DEFINITION. Machine/Host.lean: what the device tells its hosts: event records and their rings (R117, R425), MSI-X
vectors (R425), and the completion word of a task (R361). -/
namespace Sys2Proof.Machine

/-- Every logical device (R416, R417). -/
def allLds : List (Fin 16) := [0, 1, 2, 3, 4, 5, 6, 7, 8, 9, 10, 11, 12, 13, 14, 15]

/-- The code word of an event record (R117): code, severity, source unit. -/
def evCode (code sev unit : Nat) : BitVec 32 := BitVec.ofNat 32 (code + sev * 2 ^ 16 + unit * 2 ^ 24)

/-- An event record with no wavelength mask and no replayed flits. -/
def State.evRec (s : State) (code sev unit link detail : Nat) : EvRec :=
  ⟨evCode code sev unit, BitVec.ofNat 64 s.timeNs, BitVec.ofNat 32 link, 0, 0, BitVec.ofNat 32 detail⟩

/-- A ring takes a record, or has no place for it: TAIL − HEAD = 127 (R425). -/
def EvRing.push (r : EvRing) (e : EvRec) : Option EvRing :=
  if (r.tail - r.head).toNat ≥ 127 then none
  else some { r with recs := Sparse.put r.recs (r.tail.toNat % 127) e, tail := r.tail + 1 }

/-- Fire an MSI-X vector of a function (R425). -/
def State.fire (s : State) (f : HostFn) (v : Nat) : State := { s with msix := (f, v) :: s.msix }

/-- Raise an event record to a VF (R425): vector 0 follows the record; a record without a place is dropped and counted. -/
def State.toVf (s : State) (n : Fin 64) (e : EvRec) : State :=
  match (s.vf n).ring.push e with
  | some r => (s.modVf n (fun v => { v with ring := r })).fire (.vf n) 0
  | none => s.modVf n (fun v => { v with dropped := v.dropped + 1 })

/-- Raise an event record to a PF (R425). -/
def State.toPf (s : State) (n : Fin 16) (e : EvRec) : State :=
  match (s.pf n).ring.push e with
  | some r => (s.modPf n (fun v => { v with ring := r })).fire (.pf n) 0
  | none => s.modPf n (fun v => { v with dropped := v.dropped + 1 })

/-- Raise an event record to the PF of every logical device (R133, R414). -/
def State.toPfs (s : State) (e : EvRec) : State := allLds.foldl (fun t n => t.toPf n e) s

/-- Raise an event record to the VF of a partition, if one carries it. -/
def State.toPart (s : State) (p : Fin 64) (e : EvRec) : State :=
  if (s.part p).assigned then s.toVf (s.part p).vf e else s

/-- Raise an event record to every assigned VF (R414). -/
def State.toVfs (s : State) (e : EvRec) : State :=
  (s.vfs.map (fun q => q.1)).foldl
    (fun t k => if h : k < 64 then (if (t.vf ⟨k, h⟩).part.isSome then t.toVf ⟨k, h⟩ e else t) else t) s

/-- Where a translated DVA of a partition lies, by its page tables alone (R361, R375): no permission of the leaf is asked,
and nothing is serviced. -/
def State.partLoc (s : State) (p : Fin 64) (dva : W64) : Option Loc :=
  if dva.toNat < 2 ^ 32 ∨ dva.toNat ≥ 2 ^ 56 then none
  else
    match s.walk (s.part p).ptroot dva with
    | .ok l => some (s.pageLoc p l.pte (dva.toNat - l.vbase))
    | .error _ => none

/-- The completion word (R361): RESULT, LREASON, STATUS. -/
def completionWord (result : BitVec 32) (lreason : BitVec 8) (status : BitVec 16) : W64 :=
  (result.setWidth 64 <<< 32) ||| (lreason.setWidth 64 <<< 16) ||| status.setWidth 64

/-- Write a completion word where CDVA is a multiple of 8 and translates, and fire vector 1 of the tenant's function
(R360, R361, R425). -/
def State.complete (s : State) (p : Fin 64) (cdva word : W64) : State :=
  if cdva.toNat % 8 ≠ 0 then s
  else
    match s.partLoc p cdva with
    | some l =>
      let s := s.writeBytes l (bytesLE 8 word.toNat)
      if (s.part p).assigned then s.fire (.vf (s.part p).vf) 1 else s
    | none => s

end Sys2Proof.Machine
end

