-- ==== Sys2Proof/Machine/Slots.lean ====
section
/-! DEFINITION. Machine/Slots.lean: the resolution of handles (R160, R163, R210), the end of a context (R346, R364), the
unbinding of a slot (R364, R278) and the abort of a task (R361, R413). -/
namespace Sys2Proof.Machine

/-- The next message or resolution number. -/
def State.bump (s : State) : State := { s with nextSeq := s.nextSeq + 1 }

/-- A result word (R163): STATUS, PROGRESS, REASON. -/
def resultWord (status progress reason : Nat) : W64 :=
  BitVec.ofNat 64 (status % 2 ^ 16 + progress % 2 ^ 32 * 2 ^ 16 + reason % 16 * 2 ^ 48)

/-- The code of a page-fault reason (R72). -/
def PageReason.code : PageReason → Nat
  | .notPresent => 0
  | .nonCanonical => 1
  | .permission => 2
  | .malformed => 3
  | .fileReadError => 4
  | .poolExhausted => 5
  | .hostDenied => 6
  | .expansionError => 7
  | .atomicUnsupported => 8
  | .noSlot => 9

/-- A pending handle slot receives its result word (R160), with the DVA of a refused weight-store write (R137). -/
def State.resolveHandle (s : State) (c : CtxId) (h : Fin 16) (serial : BitVec 16) (w : W64) (denied : Option W64) :
    State :=
  let x := s.ctx c
  let q := x.hslot h
  if q.state = .pending ∧ q.serial = serial then
    (s.setCtx c (x.setHslot h { q with state := .resolved, result := w, order := s.nextSeq, denied := denied })).bump
  else s

/-- Flags are ORed into FFLAGS in a cycle (R210), of which it is kept what FFLAGS held before it (R237). -/
def Ctx.orFlags (x : Ctx) (t : Nat) (fl : BitVec 5) : Ctx :=
  if x.orAt = t then { x with fflags := x.fflags ||| fl, orFl := x.orFl ||| fl }
  else { x with fflags := x.fflags ||| fl, orAt := t, orFl := fl, orOld := x.fflags }
/-- The flags of the resolutions of this cycle, which an SWR in it comes before (R237). -/
def Ctx.lateFlags (x : Ctx) (t : Nat) : BitVec 5 := if x.orAt = t then x.orFl else 0
/-- FFLAGS as an SWR finds it: before the resolutions of its cycle (R237). -/
def Ctx.flagsBefore (x : Ctx) (t : Nat) : BitVec 5 := if x.orAt = t then x.orOld else x.fflags

/-- An engine operation resolves: its handle, its place in the unacknowledged count where it has one, and its flags
(R166, R210). -/
def State.resolveOp (s : State) (o : OpHead) (counted : Bool) (w : W64) (denied : Option W64) : State :=
  let s := match o.handle with
    | some h => s.resolveHandle o.owner h o.serial w denied
    | none => s
  s.modCtx o.owner (fun x =>
    let x := if counted then x.setCount o.tag (x.count o.tag - 1) else x
    x.orFlags s.cycle o.flags)

/-- The pending handle slots of a context issued at a depth (R385, R391). -/
def Ctx.pendingAt (x : Ctx) (depth : Nat) : List (Fin 16) :=
  allHandles.filter (fun h => (x.hslot h).state == .pending && (x.hslot h).engine && (x.hslot h).depth == depth)
/-- Some engine operation issued at a depth is pending. -/
def Ctx.busyAt (x : Ctx) (depth : Nat) : Bool := !(x.pendingAt depth).isEmpty
/-- Some engine operation of the context is pending. -/
def Ctx.busy (x : Ctx) : Bool := allHandles.any (fun h => (x.hslot h).state == .pending && (x.hslot h).engine)
/-- The operations of a context in the queues of its core that have no handle slot (R283). -/
def Core.loose (k : Core) (c : CtxId) : List OpHead :=
  (k.copyQ.map (fun o => o.head) ++ k.vecQ.map (fun o => o.head) ++ k.matQ.map (fun o => o.head)
    ++ k.intQ.map (fun o => o.head)).filter (fun o => o.owner == c && o.handle.isNone)
/-- Some engine operation of a context, issued at a depth, is not resolved (R385, R391). -/
def State.busyAt (s : State) (c : CtxId) (depth : Nat) : Bool :=
  (s.ctx c).busyAt depth || ((s.core c.core).loose c).any (fun o => o.depth == depth)
/-- Some engine operation of a context is not resolved (R401). -/
def State.busy (s : State) (c : CtxId) : Bool := (s.ctx c).busy || !((s.core c.core).loose c).isEmpty
/-- Request the cancel of those operations without a handle slot that satisfy a test. -/
def State.cancelLoose (s : State) (c : CtxId) (f : OpHead → Bool) : State :=
  let see : OpHead → OpHead := fun o => if o.owner == c && o.handle.isNone && f o then { o with cancel := true } else o
  if (s.core c.core).loose c = [] then s
  else s.modCore c.core (fun k => { k with
    copyQ := k.copyQ.map (fun o => { o with head := see o.head })
    vecQ := k.vecQ.map (fun o => { o with head := see o.head })
    matQ := k.matQ.map (fun o => { o with head := see o.head })
    intQ := k.intQ.map (fun o => { o with head := see o.head }) })
/-- Request the cancel of pending operations (R169). -/
def Ctx.cancelAll (x : Ctx) (hs : List (Fin 16)) : Ctx :=
  hs.foldl (fun y h => y.setHslot h { y.hslot h with cancel := true }) x

/-- A context ends: it is FREE, what it waited for is dropped, and no handler of it runs any more (R399). Registers, handle
slots, rings and ports stay (R337). -/
def Ctx.ended (x : Ctx) : Ctx :=
  { x with status := .free, remote := none, sysreq := none, revoke := false, sending := none, fan := none, refusal := none, closing := none
           rep := none, pending := none, reading := none, kept := none, lag := 0, poison := none, badRead := false, place := none
           spin := [], attached := false, follow := [], bights := [], resident := 0, creason := 0, cdepth := 0
           tstat := { x.tstat with inh := false, suph := false } }

/-- The wait for a response is abandoned: the request that is posted and not answered stands (R408). -/
def State.abandon (s : State) (c : CtxId) : State :=
  match (s.ctx c).sysreq with
  | some r =>
    let s := s.modCtx c (fun x => { x with sysreq := none })
    if r.answer.isNone then { s with posted := s.posted ++ [⟨c, s.partOf c.sl, r⟩] } else s
  | none => s

/-- Every pending handle of a context resolves 0x8301 (R163, R364). -/
def State.killHandles (s : State) (c : CtxId) : State :=
  allHandles.foldl (fun t h =>
    let q := (t.ctx c).hslot h
    if q.state = .pending then t.resolveHandle c h q.serial 0x8301 none else t) s

/-- The bytes of a core's accumulator set (R267). -/
def accBytes : Nat := 8192
/-- Where the accumulator set of a core begins. -/
def accPlace (core : Fin 4608) : Nat := accBase + core.val * accBytes

/-- Zero the accumulator set of a core, its KIND fields and its fault record, and clear V (R278). -/
def State.clearAcc (s : State) (core : Fin 4608) : State :=
  { s.modCore core (fun k => { k with accown := AccOwn.none, accFault := none }) with
    mem := dropRange s.mem (accPlace core) (accPlace core + accBytes) }

/-- The engine operations of some contexts leave the queues of a core; a matrix command that resolves 0x8301 takes the fault
record of the set with it (R280). -/
def State.dropOpsOf (s : State) (core : Fin 4608) (gone : CtxId → Bool) : State :=
  s.modCore core (fun k => { k with
    copyQ := k.copyQ.filter (fun o => !gone o.head.owner)
    vecQ := k.vecQ.filter (fun o => !gone o.head.owner)
    matQ := k.matQ.filter (fun o => !gone o.head.owner)
    intQ := k.intQ.filter (fun o => !gone o.head.owner)
    syncs := k.syncs.filter (fun o => !gone o.head.owner)
    accFault := if k.matQ.any (fun o => gone o.head.owner) then none else k.accFault })

/-- The engine operations of a slot leave the queues of its core. -/
def State.dropOps (s : State) (sl : SlotId) : State := s.dropOpsOf sl.core (fun c => c.sl == sl)

/-- Change the requests that wait at the hanks of a cluster. -/
def State.modWaiters (s : State) (n : Fin 576) (f : List HankWait → List HankWait) : State :=
  s.modCluster n (fun u => { u with hanks := u.hanks.map (fun p => (p.1, { p.2 with waiters := f p.2.waiters })) })

/-- The context that an arrival count belongs to (R106). -/
def arrivalCtx (k : Nat) : CtxId := ctxOfKey (k / 32768)

/-- What is under way for some contexts is dropped: stores in flight, acknowledgements, posts, and the arrival counts of those
contexts (R106, R108). -/
def State.dropFlying (s : State) (gone : CtxId → Bool) : State :=
  { s with
    stores := s.stores.filter (fun r => !gone r.ctx)
    acks := s.acks.filter (fun r => !gone r.ctx)
    evmsgs := s.evmsgs.filter (fun r => !gone r.ctx)
    ringmsgs := s.ringmsgs.filter (fun r => !gone r.ctx)
    arrivals := s.arrivals.filter (fun p => !gone (arrivalCtx p.1))
    seen := s.seen.filter (fun p => !gone (arrivalCtx p.1)) }

/-- What waits in the network, at domains or at hanks for the contexts of a slot is dropped (R108). -/
def State.dropTraffic (s : State) (sl : SlotId) : State :=
  let s := (s.modWaiters (clusterOf sl.core) (fun l => l.filter (fun w => w.ctx.sl != sl || w.away.isSome))).dropFlying
    (fun c => c.sl == sl)
  { s with doms := s.doms.map (fun d => { d with handles := d.handles.filter (fun a => a.1.sl != sl) }) }

/-- Evicted slots are given up, with what waits for their contexts at domains and hanks (R372). -/
def State.dropSaved (s : State) (gone : Saved → Bool) : State :=
  (s.saved.filter gone).foldl (fun t v =>
    let b := v.slot.bind
    let t := t.modWaiters (clusterOf v.sl.core) (fun l => l.filter (fun w => !(w.ctx.sl == v.sl && w.away == some (b.part, b.taskid))))
    { t with
      doms := t.doms.map (fun d => { d with handles := d.handles.filter (fun a => !(a.1.sl == v.sl && d.part == b.part)) })
      saved := t.saved.filter (fun w => w != v) }) s

/-- The bank that an event addresses (R295). -/
def QEvent.bank (e : QEvent) : Nat := (e.header.extractLsb' 16 3).toNat

/-! The service area of a slot (R410). -/

/-- Where the service area of a slot begins. -/
def serviceArea (sl : SlotId) : Nat := 0x00FFFF0000000000 + 0x20000 * (4 * sl.core.val + sl.slot.val)
/-- The pages of the service area of a slot. -/
def servicePages (sl : SlotId) : List Nat := (List.range 22).map (fun i => serviceArea sl + 4096 * i)

/-- Unmap 4 KiB pages of HBM that firmware mapped, and list their frames. -/
def State.unmapPages (s : State) (part : Fin 64) : List Nat → State × List Nat
  | [] => (s, [])
  | dva :: r =>
    match s.walk (s.part part).ptroot (BitVec.ofNat 64 dva) with
    | .ok l =>
      if pteMT l.pte = 0 ∧ l.size = 4096 then
        let q := State.unmapPages (s.setHbm64 l.pteAt 0) part r
        (q.1, pteFrame l.pte :: q.2)
      else State.unmapPages s part r
    | .error _ => State.unmapPages s part r

/-- Unmap the service area of a slot and shoot it down: its frames go back to the pool when the shootdown completes (R81). -/
def State.unmapService (s : State) (part : Fin 64) (sl : SlotId) : State :=
  let q := s.unmapPages part (servicePages sl)
  if q.2.isEmpty then s
  else { q.1 with shoots := q.1.shoots ++ [⟨part, BitVec.ofNat 64 (serviceArea sl), 0x16000, none, false, q.2⟩] }

/-! Save areas (R365). -/

/-- The bytes of a save area: 4 MiB, as it is aligned (R364, R365). -/
def saveSize : Nat := 0x400000

/-- The save areas of the slots that tenants hold, evicted ones included. -/
def State.saveAreas (s : State) : List Nat :=
  (s.slotIds.filter s.slotHeld).map (fun sl => (s.slot sl).bind.save.toNat) ++ s.saved.map (fun v => v.slot.bind.save.toNat)

/-! Unbinding (R364). -/

/-- The partitions that hold a slot of the device, evicted ones included (R371). -/
def State.tenants (s : State) : List (Fin 64) :=
  ((s.slotIds.filter s.slotHeld).map s.partOf ++ s.saved.map (fun v => v.slot.bind.part)).dedup

/-- Remember when slots of more than one tenant last stood (R371). -/
def State.markShared (s : State) : State :=
  if 1 < s.tenants.length then { s with clock := { s.clock with shared := s.timeNs } } else s

/-- The contexts, operations, messages and events of a slot, and its accumulator set, go (R364, R278). -/
def State.clearSlot (s : State) (sl : SlotId) : State :=
  let s := (ctxsOf sl).foldl (fun t c => (t.killHandles c).modCtx c (fun x => { x.ended with counts := [] })) s
  let s := (s.dropOps sl).dropTraffic sl
  let own := (s.core sl.core).accown
  let s := if own.v && own.slot.toNat == sl.slot.val then s.clearAcc sl.core else s
  let banks := (s.slot sl).bind.banks
  s.modCore sl.core (fun k => { k with events := k.events.filter (fun e => !banks.getLsbD e.bank) })

/-- Unbind a slot (R364): its contexts end, its set is dropped (R278), its pending handles resolve 0x8301, its service area is
unmapped (R410). -/
def State.unbindSlot (s : State) (sl : SlotId) : State :=
  let s := (s.markShared.unmapService (s.partOf sl) sl).clearSlot sl
  s.modSlot sl (fun q => { q with phase := .unbound, bind := BindRec.none, portOvf := [], evtOvf := [] })

/-- Change the task with an order number of a partition. -/
def Partition.modTask (p : Partition) (order : Nat) (f : Task → Task) : Partition :=
  { p with tasks := p.tasks.map (fun t => if t.order = order then f t else t) }

/-- The task that holds a slot, if one does. -/
def State.taskOf (s : State) (sl : SlotId) : Option Task :=
  (s.part (s.partOf sl)).tasks.find? (fun t =>
    t.state != .done && t.slots.contains sl && t.recd.taskid == (s.slot sl).bind.taskid)

/-- A slot of a task is unbound, on its core or in its save area (R369, R372). -/
def State.giveUp (p : Fin 64) (taskid : W64) (s : State) (sl : SlotId) : State :=
  if s.slotHeld sl && s.partOf sl == p && (s.slot sl).bind.taskid == taskid then s.unbindSlot sl
  else
    ((s.markShared).unmapService p sl).dropSaved (fun v => v.sl == sl && v.slot.bind.part == p && v.slot.bind.taskid == taskid)

/-- The context 0 of a slot of a task, on its core or evicted (R369). -/
def State.taskCtx (s : State) (p : Fin 64) (taskid : W64) (sl : SlotId) : Ctx :=
  if s.slotHeld sl && s.partOf sl == p && (s.slot sl).bind.taskid == taskid then s.ctx ⟨sl.core, sl.slot, 0⟩
  else
    match s.saved.find? (fun v => v.sl == sl && v.slot.bind.part == p && v.slot.bind.taskid == taskid) with
    | some v => v.ctxs.headD Ctx.reset
    | none => Ctx.reset

/-- RESULT: g4 of context 0 of the lowest-numbered core at its EXIT (R361); none where it has not executed EXIT. -/
def State.taskResult (s : State) (p : Fin 64) (t : Task) : Option (BitVec 32) :=
  match t.slots.mergeSort (fun a b => decide (a.core.val ≤ b.core.val)) with
  | sl :: _ =>
    let x := s.taskCtx p t.recd.taskid sl
    if x.exited then some ((x.reg 4).lo.setWidth 32) else none
  | [] => none

/-- A task ends with a status and a reason: its slots are unbound and its completion word is written (R361, R372). The
RESULT of an aborted task that ran and has not exited is not stated: a free value (assumption log 1). -/
def State.finishTask (s : State) (p : Fin 64) (t : Task) (status : BitVec 16) (reason : BitVec 8) (result : BitVec 32) :
    State :=
  let s := t.slots.foldl (State.giveUp p t.recd.taskid) s
  let s := s.modPart p (fun q => q.modTask t.order (fun u =>
    { u with state := .done, status := status, reason := reason, result := result, slots := [] }))
  s.complete p t.recd.cdva (completionWord result reason status)

/-- Firmware acts: it is up, and no update is under way (R429, R430). -/
def State.firmwareActs (s : State) : Bool := s.fw.boot == .ready && s.fw.update == .idle

/-- Abort a task with STATUS 0x8301 (R361, R362, R413): at once, or when the firmware that completes it acts again (R430). -/
def State.abortTask (s : State) (p : Fin 64) (t : Task) : State :=
  if s.firmwareActs = false then s.modPart p (fun q => q.modTask t.order (fun u => { u with abort := true }))
  else if t.state = .running then
    match s.taskResult p t with
    | some r => s.finishTask p t 0x8301 0 r
    | none => s.takeFresh.finishTask p t 0x8301 0 (BitVec.ofNat 32 (Config.freeNat s.fresh))
  else s.finishTask p t 0x8301 0 0

/-- The event record of a double trap (R413). -/
def State.doubleEvent (s : State) (c : CtxId) (cause : Nat) : State :=
  s.toPart (s.partOf c.sl) (s.evRec 0x0406 1 (0x10 + (dieOf c.core).val)
    (c.core.val * 2 ^ 6 + c.slot.val * 2 ^ 4 + c.ctx.val) cause)

/-- The last step of DOUBLE_TRAP (R401): the context is FREE, the record goes out, and the task of a context 0 is
aborted. -/
def State.doubleEnd (s : State) (c : CtxId) (cause : Nat) : State :=
  let s := (s.modCtx c Ctx.ended).doubleEvent c cause
  if c.ctx = 0 then
    match s.taskOf c.sl with
    | some t => s.abortTask (s.partOf c.sl) t
    | none => s
  else s

end Sys2Proof.Machine
end

