-- ==== Sys2Proof/Machine/Access.lean ====
section
/-! DEFINITION. Machine/Access.lean: the checks of an access in their order (R139), where it lands, which destination and
home that is (R106, R320), and the write of bytes that every agent makes (R140, R342). -/
namespace Sys2Proof.Machine

/-! Formats. -/

/-- The width of an element in bits (R197, R203). -/
def fmtWidth (code : Nat) : Nat :=
  match code with
  | 0 | 1 | 2 | 13 | 14 | 19 | 21 | 22 | 26 | 27 => 8
  | 3 | 4 | 11 | 12 => 16
  | 5 | 6 | 10 => 32
  | 7 | 8 | 9 => 64
  | 15 | 16 | 23 | 24 => 6
  | 17 | 18 | 20 | 25 => 4
  | 29 => 512
  | _ => 128

/-- Elements of a block under BLK 1 to 3 (R203). -/
def Fmt.block (f : Fmt) : Nat :=
  match f.blk.toNat with
  | 1 => 32
  | 2 => 16
  | 3 => 64
  | _ => 0

/-- The format code as a number. -/
def Fmt.n (f : Fmt) : Nat := f.code.toNat
/-- The operand is blocked: under BLK 1 to 3. BLK 4 to 7 has no geometry (R198): its first element access faults. -/
def Fmt.blocked (f : Fmt) : Bool := decide (1 ≤ f.blk.toNat ∧ f.blk.toNat ≤ 3)

/-- Elements of a unit (R155, R238). SPL4 packs two to the byte as R155 says. -/
def Fmt.group (f : Fmt) : Nat :=
  if f.blocked then f.block
  else match fmtWidth f.n with
    | 4 => 2
    | 6 => 4
    | _ => 1

/-- Bytes of a unit (R155). -/
def Fmt.unit (f : Fmt) : Nat :=
  if f.blocked then f.block * fmtWidth f.n / 8 + 1
  else f.group * fmtWidth f.n / 8

/-- A block at an offset of a page or granule of `len` bytes runs into its tail or past it. -/
def Fmt.inTail (f : Fmt) (off len : Nat) : Bool :=
  f.blocked && decide (len / f.unit * f.unit < off + f.unit)

/-- A scalar access of `n` bytes takes in the first element of a block that would run into the tail of a page or granule of
`len` bytes, or past it (R122, R124, R204). -/
def Fmt.headInTail (f : Fmt) (off n len : Nat) : Bool :=
  let tail := len / f.unit * f.unit
  f.blocked && tail != len && decide (off ≤ tail ∧ tail < off + n)

/-- The format and geometry of a granule of a slot (R122). -/
def State.lsgFmt (s : State) (sl : SlotId) (off : Nat) : Fmt :=
  let v := Sparse.get 0 (s.slot sl).lsg (off / Config.granuleBytes)
  ⟨v.extractLsb' 0 5, v.extractLsb' 5 3⟩

/-- FORMAT_FAULT at the first element access (R74, R122, R198). -/
def Fmt.bad (f : Fmt) : Bool :=
  f.code == 31 || decide (4 ≤ f.blk.toNat) ||
    ((decide (1 ≤ f.blk.toNat)) != (decide (21 ≤ f.code.toNat ∧ f.code.toNat ≤ 26)))

/-- A scalar access of `n` bytes at an offset of a slot meets a FORMAT_FAULT there (R122, R124). -/
def State.granuleBad (s : State) (sl : SlotId) (off n : Nat) : Bool :=
  let f := s.lsgFmt sl off
  f.bad || f.headInTail (off % Config.granuleBytes) n Config.granuleBytes

/-! Destinations and homes. -/

/-- The destination of an access (R106): a core's router, a base die, a weight store, a CXL port of the I/O die, or the port's
CXL.cache, by which host memory is reached and whose accesses R90 does not bind to those of MT 3 pages (assumption log 8). -/
def Loc.dest (l : Loc) : Nat :=
  match l with
  | .localStore core _ _ _ => core.val
  | .hbm pa => 4608 + pa / 4096 % 8
  | .weight die _ => 4640 + die.val
  | .expansion none pa => 4608 + pa / 4096 % 8
  | .expansion (some p) _ => 4616 + p.val
  | .host _ _ => 4620

/-- The number of a scope (R319). -/
def Scope.code : Scope → Nat
  | .ctx => 0
  | .core => 1
  | .clu => 2
  | .die => 3
  | .dev => 4
  | .sys => 5

/-- The narrowest scope of a core that contains the home of a location (R319, R320), for an access that is not through the
private alias. -/
def Loc.home (l : Loc) (core : Fin 4608) : Scope :=
  match l with
  | .localStore k _ _ _ =>
    if k = core then .core else if clusterOf k = clusterOf core then .clu else if dieOf k = dieOf core then .die else .dev
  | .hbm _ => .dev
  | .weight d _ => if d = dieOf core then .die else .dev
  | .expansion none _ => .dev
  | .expansion (some _) _ => .sys
  | .host _ _ => .sys

/-! The Lay (R98 to R100). -/

/-- The home channel that a request of a core crosses (R98); none where it stays on its die. For a line of CXL-private memory (MT 2)
R98 names none: it crosses that of its base die's cache, as a line of HBM does (DESIGN CHOICE, assumption log 10). -/
def Loc.channel (l : Loc) (core : Fin 4608) : Option Nat :=
  match l with
  | .localStore k _ _ _ => if dieOf k = dieOf core then none else some (26 * (dieOf k).val + k.val % 1152 / 48)
  | .weight d _ => if d = dieOf core then none else some (26 * d.val + 24)
  | .hbm pa => some (104 + 12 * (pa / 4096 % 8) + pa / 64 % 12)
  | .expansion none pa => some (104 + 12 * (pa / 4096 % 8) + pa / 64 % 12)
  | .expansion (some p) pa => some (200 + 2 * p.val + pa / 64 % 2)
  | .host _ va => some (200 + va / 64 % 2)

/-- What a core sends over a home channel waits for the channel's messenger (R99, R100); its cluster presents it (R101). -/
def State.enframe (s : State) (core : Fin 4608) (l : Loc) (item : Nat) (op : FrameOp) (tag : Fin 4) : State :=
  match l.channel core with
  | some ch => { s with frames := s.frames ++ [⟨ch, (dieOf core).val, core.val % 1152 / 8, item, core, l.dest, op, tag⟩] }
  | none => s

/-- Who answers a request (R101): the source die of the reply, and the requester of that die that presents it: a cluster, the
weight-store port, the memory-controller or the memory-side-cache port, or a CXL port. R101 does not say which replies the two ports
of a base die present: here HBM's and those of cached expansion memory (DESIGN CHOICE, assumption log 10). -/
def Loc.replier (l : Loc) : Nat × Nat :=
  match l with
  | .localStore k _ _ _ => ((dieOf k).val, k.val % 1152 / 8)
  | .weight d _ => (d.val, 144)
  | .hbm pa => (4 + pa / 4096 % 8, 0)
  | .expansion none pa => (4 + pa / 4096 % 8, 1)
  | .expansion (some p) _ => (12, p.val)
  | .host _ _ => (12, 0)

/-- A reply crosses the channel of the cluster that asked (R98). -/
def State.enframeReply (s : State) (core : Fin 4608) (l : Loc) (item : Nat) (tag : Fin 4) : State :=
  if (l.channel core).isSome then
    { s with frames := s.frames ++
        [⟨26 * (dieOf core).val + core.val % 1152 / 48, l.replier.1, l.replier.2, item, core, core.val, .reply, tag⟩] }
  else s

/-- What has a number has crossed. -/
def State.crossed (s : State) (item : Nat) : Bool := !(s.frames.any (fun f => f.item == item))

/-! Refresh of the weight store (R138). -/

/-- The bank group of an offset of the weight store (R135). -/
def wsGroup (off : Nat) : Fin 8 := ⟨off / 4096 % 8, by omega⟩
/-- A bank group is in its refresh window (R138). -/
def State.refreshing (s : State) (g : Fin 8) : Bool :=
  decide (8000 * g.val ≤ s.timeNs % 64000 ∧ s.timeNs % 64000 < 8000 * g.val + 1600)

/-! Lines that hosts hold (R86). -/

/-- The line of an HBM location. -/
def Loc.line (l : Loc) : Option Nat :=
  match l with
  | .hbm pa => some (pa / 64)
  | _ => none

/-- A device access must first snoop hosts for its line (R86): a write for any holder, a read for a holder that has it
exclusive or modified. -/
def State.mustSnoop (s : State) (l : Loc) (write : Bool) : Option Nat :=
  match l.line with
  | some n =>
    match Sparse.find? s.hostLines n with
    | some h => if !h.holders.isEmpty && (write || h.excl) then some n else none
    | none => none
  | none => none

/-- The line of a page-table entry that a first write must dirty, where hosts hold it (R76, R86). -/
def State.dirtySnoop (s : State) (wr : Bool) (x : Xl) : Option Nat :=
  if wr && x.pte &&& diBit == 0 then s.mustSnoop (.hbm x.pteAt) true else none

/-- The base die sends its snoops for a line (R86). -/
def State.snoop (s : State) (n : Nat) (write_ : Bool) : State :=
  { s with hostLines := s.hostLines.map (fun p => if p.1 = n then (p.1, { p.2 with snooping := some write_ }) else p) }

/-- A line of HBM that hosts hold and in whose bytes or tags two states differ (R86, R140). -/
def State.wroteHeld (s t : State) : Option Nat :=
  (List.find? (fun h => !h.2.holders.isEmpty &&
    (s.readBytes (.hbm (64 * h.1)) 64 != t.readBytes (.hbm (64 * h.1)) 64
      || (List.range 4).any (fun i => s.tagAt (64 * h.1 + 16 * i) != t.tagAt (64 * h.1 + 16 * i)))) s.hostLines).map (fun h => h.1)

/-- The first line of `n` bytes that must be snooped before they are read (R86). -/
def State.mustSnoopAny (s : State) (l : Loc) (n : Nat) : Option Nat :=
  if s.hostLines.isEmpty then none
  else (0 :: (List.range (n / 64)).map (fun i => 64 * i + 63)).findSome? (fun i => s.mustSnoop (l.plus i) false)

/-! The access. -/

/-- Where an access that passed its checks lands: its location, whether the unit keeps tags (R140), its format, its memory
type where it was translated, the translation, the slot a global address names, and whether it went by the private alias. -/
structure Spot where
  loc    : Loc
  tags   : Bool
  xl     : Option Xl
  target : Option SlotId
  own    : Bool
deriving DecidableEq, Repr

/-- Memory type MT n serves the access. -/
def Spot.isMt (p : Spot) (n : Nat) : Bool :=
  match p.xl with
  | some x => x.mt == n
  | none => false

/-- The page whose TLB entry an access used (R81). -/
def Spot.page (p : Spot) : Option (Nat × Nat) := p.xl.map (fun x => (x.vbase, x.size))

/-- An access of `n` bytes may tear at its 8-byte midpoint (R321): 16 bytes, outside the local store and MT 0 pages. -/
def Spot.tears (p : Spot) (n : Nat) : Bool :=
  n == 16 && (match p.xl with
    | some x => x.mt != 0
    | none => false)

/-- What the checks of an access give. -/
inductive Reach where
  | ok (p : Spot)
  | trap (c : Cause) (tval : W64) (pfr : Nat)
  | wait (w : Wait)
deriving DecidableEq, Repr

/-- A page fault (R72, R83). -/
def Reach.page (r : PageReason) (dva : W64) : Reach := .trap .pageFault dva r.code

/-- The first check of a list of permission masks that fails, in the order of check_cap for each (R146). -/
def firstFail (live : BitVec 12 → Bool) (unsealed : Bool) (cap : Reg) (addr : W64) (size : Nat) :
    List (BitVec 12) → Option Cause
  | [] => none
  | p :: r =>
    match (if unsealed then checkCapUnsealed live cap p addr size else checkCap live cap p addr size) with
    | some c => some c
    | none => firstFail live unsealed cap addr size r

/-- What an access asks of its place besides its capability (R139). -/
structure Ask where
  perms    : List (BitVec 12)
  kind     : Access
  atomic   : Bool
  size     : Nat
  align    : Nat
  unsealed : Bool
deriving DecidableEq, Repr

/-- Steps 4 to 6 of R139 for translated memory. -/
def State.reachPage (s : State) (c : CtxId) (cap : Reg) (a : Ask) (addr : W64) : Reach :=
  let part := s.partOf c.sl
  let refused := match (s.ctx c).refusal with
    | some (d, r) => if d.toNat / 4096 = addr.toNat / 4096 then some r else none
    | none => none
  match refused with
  | some r => Reach.page r addr
  | none =>
    match s.lookPage c.core part (s.slot c.sl).bind.ptroot a.kind addr with
    | .fault r => Reach.page r addr
    | .walk => .wait (.walk addr (a.kind == .write))
    | .service => .wait (.service addr (a.kind == .write))
    | .ok x =>
      if a.atomic = true ∧ pteRD x.pte = false then Reach.page .permission addr
      else if x.mt = 1 ∧ a.kind = .write ∧ a.atomic = false then .trap .wsWriteDenied addr 0
      else if x.mt = 1 ∧ a.atomic = false ∧ a.kind = .read ∧ lacks cap permW then .trap .capPerm addr 0
      else if a.atomic = true ∧ (x.mt = 1 ∨ x.mt = 3) then Reach.page .atomicUnsupported addr
      else if (x.fmt.bad || x.fmt.headInTail (addr.toNat - x.vbase) a.size x.size) && a.kind != .exec then
        .trap .formatFault addr 0
      else if a.kind = .write ∧ x.mt = 4 ∧ (s.part part).writing.any (fun d => d.toNat / 4096 == addr.toNat / 4096) then
        .wait (.writeback addr)
      else
        match s.dirtySnoop (a.kind == .write) x with
        | some n => .wait (.snoop n true)
        | none => .ok ⟨x.loc, x.cap, some x, none, false⟩

/-- The checks of an access by a context, in the order of R139: capability, alignment, permission M of a global address
(R69), decode, translation, memory type, format. -/
def State.reach (s : State) (c : CtxId) (cap : Reg) (a : Ask) (addr : W64) : Reach :=
  match firstFail (s.live (dieOf c.core)) a.unsealed cap addr a.size a.perms with
  | some e => .trap e addr 0
  | none =>
    if addr.toNat % a.align ≠ 0 then .trap .align addr 0
    else if addr.toNat / 2 ^ 56 = 1 ∧ lacks cap permM then .trap .capPerm addr 0
    else
      match s.named c.sl addr a.size with
      | .fault r d => Reach.page r d
      | .own off =>
        if s.granuleBad c.sl off a.size && a.kind != .exec then .trap .formatFault addr 0
        else .ok ⟨s.slotLoc c.sl off, true, none, none, true⟩
      | .global t off =>
        if s.present (s.partOf c.sl) t && s.granuleBad t off a.size && a.kind != .exec then .trap .formatFault addr 0
        else .ok ⟨s.slotLoc t off, true, none, some t, false⟩
      | .translated => s.reachPage c cap a addr

/-- A location is shared (R145): translated memory, or the local store of another slot. -/
def Spot.shared (p : Spot) (sl : SlotId) : Bool :=
  if p.own then false else match p.target with
    | some t => t != sl
    | none => true

/-- A miss of every TLB level in the reach of a core joins its die's walks, once for a partition and a 4 KiB page (R79). -/
def State.joinMiss (s : State) (core : Fin 4608) (part : Fin 64) (dva : W64) : State :=
  let k := (part, dva.toNat / 4096)
  if (s.tlbFind core part dva).isSome || (s.die (dieOf core)).walks.contains k then s
  else s.modDie (dieOf core) (fun d => { d with walks := d.walks ++ [k] })

/-- So does a miss that a context's access makes. -/
def State.joinWalk (s : State) (c : CtxId) (dva : W64) : State := s.joinMiss c.core (s.partOf c.sl) dva

/-! Writes. -/

/-- A write of `n` bytes at a location touches the 8-byte granule at a place. -/
def Loc.touches (l : Loc) (n place : Nat) : Bool :=
  (List.range n).any (fun i => decide (place ≤ l.place i) && decide (l.place i < place + 8))

/-- A context that watches a granule through a monitor entry sees it written (R342). -/
def markHit (l : Loc) (n : Nat) (x : Ctx) : Ctx :=
  let see : Watch → Watch := fun w => if w.monitored && l.touches n (w.loc.place 0 / 8 * 8) then { w with hit := true } else w
  match x.status with
  | .belayed w => { x with status := .belayed (see w) }
  | .parked w => { x with status := .parked (see w) }
  | _ => x

/-- Some context watches a granule. -/
def Ctx.watches (x : Ctx) : Bool :=
  match x.status with
  | .belayed w => w.monitored
  | .parked w => w.monitored
  | _ => false

/-- Show a write of `n` bytes to the monitors of the cores (R342). -/
def State.notice (s : State) (l : Loc) (n : Nat) : State :=
  if s.ctxs.any (fun p => p.2.watches) then
    { s with ctxs := s.ctxs.map (fun p => (p.1, markHit l n p.2)) }
  else s

/-! Expansion memory (R89, R90). -/

/-- A location in expansion memory. -/
def Loc.inExp (l : Loc) : Bool :=
  match l with
  | .expansion _ _ => true
  | _ => false

/-- The lines that `n` bytes of expansion memory touch. -/
def expLinesOf (pa n : Nat) : List Nat := (List.range ((pa % 64 + n + 63) / 64)).map (fun i => pa / 64 + i)

/-- An access through the memory-side cache takes its lines into it, and a write makes them dirty (R89): `State.mem` then
holds what the cache holds. -/
def State.touchExp (s : State) (l : Loc) (n : Nat) (wr : Bool) : State :=
  match l with
  | .expansion none pa => (expLinesOf pa n).foldl (fun t i =>
      match Sparse.find? t.expLines i with
      | some e => { t with expLines := Sparse.put t.expLines i { e with dirty := e.dirty || wr } }
      | none => { t with expLines := Sparse.put t.expLines i ⟨wr, t.readBytes (.expansion none (64 * i)) 64⟩ }) s
  | _ => s

/-- The cached lines under an access that goes past the cache change places with what the memory itself holds (R90). -/
def State.swapExp (s : State) (l : Loc) (n : Nat) : State :=
  match l with
  | .expansion (some _) pa => (expLinesOf pa n).foldl (fun t i =>
      match Sparse.find? t.expLines i with
      | some e =>
        { t.writeBytes (.expansion none (64 * i)) e.below with
          expLines := Sparse.put t.expLines i { e with below := t.readBytes (.expansion none (64 * i)) 64 } }
      | none => t) s
  | _ => s

/-- The state in which an access of `n` bytes at a location finds its bytes in `State.mem`; `swapExp` puts the lines back. -/
def State.reached (s : State) (l : Loc) (n : Nat) (wr : Bool) : State := (s.touchExp l n wr).swapExp l n

/-- A line of expansion memory leaves the cache: written back where it is dirty (R89). -/
def State.dropExp (s : State) (i : Nat) : State :=
  match Sparse.find? s.expLines i with
  | some e =>
    let t := if e.dirty then s else s.writeBytes (.expansion none (64 * i)) e.below
    { t with expLines := Sparse.erase s.expLines i }
  | none => s

/-- A write by any agent: the bytes, their tag bits cleared, and the monitors that see it (R140, R342). -/
def State.poke (s : State) (l : Loc) (bs : List Byte) : State := (s.writeBytes l bs).notice l bs.length

/-- The 16 bytes of a unit and its tag bit, as a register (R144), where the location keeps tags and the capability may
load them. -/
def State.readReg (s : State) (l : Loc) (tags : Bool) : Reg :=
  loadTagged (BitVec.ofNat 128 (s.readNat l 16)) (tags && s.tagAt (l.tagKey 0))

/-- Write a unit and its tag bit (R145). -/
def State.pokeReg (s : State) (l : Loc) (r : Reg) (tag : Bool) : State :=
  (s.poke l (bytesLE 16 r.bits.toNat)).setTagAt (l.tagKey 0) tag

/-- An earlier store of a context to a destination has not taken effect (R106, R321). -/
def State.storesTo (s : State) (c : CtxId) (dest : Nat) : Bool :=
  s.stores.any (fun r => r.ctx == c && r.dest == dest && (match r.phase with | .arrived _ => false | _ => true))

/-- An earlier event post of a context to a core has not been taken there (R309, R330). -/
def State.postsTo (s : State) (c : CtxId) (dest : Nat) : Bool :=
  s.evmsgs.any (fun e => e.ctx == c && e.target.val == dest && e.op.isNone && e.arrived.isNone)

/-- The key of an arrival count (R106). -/
def arrivalKey (c : CtxId) (tag : Fin 4) (dest : Nat) : Nat := (c.key * 4 + tag.val) * 8192 + dest

/-- Bytes whose values the spec leaves open are written at a location (assumption log 14). -/
def State.scribble (s : State) (l : Loc) (n : Nat) : State :=
  { s.writeBytes l ((List.range n).map (fun i => Config.freeByte (s.fresh + i))) with fresh := s.fresh + n }

/-- The memory-side cache holds a host line that is read or written (R91); whether a line that it reads comes shared or
exclusive is the host's choice (assumption log 1). -/
def State.cacheLine (s : State) (n : Nat) (write_ : Bool) : State :=
  if write_ then { s with sideCache := Sparse.put s.sideCache n .modified }
  else if (Sparse.find? s.sideCache n).isSome then s
  else
    { s with sideCache := Sparse.put s.sideCache n (if Config.freeBit s.fresh then .exclusive else .shared)
             fresh := s.fresh + 1 }

/-- The memory-side cache holds the host lines that `len` bytes at a location lie in (R91). -/
def State.cacheHost (s : State) (l : Loc) (len : Nat) (write_ : Bool) : State :=
  match l with
  | .host _ _ => (List.range ((l.place 0 % 64 + len + 63) / 64)).foldl (fun t i => t.cacheLine (l.place 0 / 64 + i) write_) s
  | _ => s

/-- A read that an instruction makes of a record within its own step (R152, R351, R358, R360, R390): the checks of R139;
then the context's own stores to that destination, snoops, a slot that is being evicted and a refresh window are waited
for. A transaction to expansion memory may fail (R88). -/
def State.reachRecord (s : State) (c : CtxId) (cap : Reg) (a : Ask) (addr : W64) : Reach :=
  match s.reach c cap a addr with
  | .ok p =>
    if !p.own && s.storesTo c p.loc.dest then .wait (.ownStores p.loc.dest)
    else match s.mustSnoop p.loc (a.kind == .write) with
      | some n => .wait (.snoop n (a.kind == .write))
      | none =>
        match p.target with
        | some t => if s.present (s.partOf c.sl) t then .ok p else .wait .evicting
        | none =>
          match p.loc with
          | .weight d off => if s.refreshing (wsGroup off) then .wait (.refresh d (wsGroup off)) else .ok p
          | .expansion _ _ => if (s.ctx c).badRead then Reach.page .expansionError addr else .ok p
          | _ => .ok p
  | r => r

end Sys2Proof.Machine
end

