-- ==== Sys2Proof/Machine/Stack.lean ====
section
/-! DEFINITION. Machine/Stack.lean: the domain stack: bights, their homes (R379, R380), the gate record (R376, R377), the
domains and deadlines of a stack (R381, R383) and the unwind check (R385). -/
namespace Sys2Proof.Machine

/-! Bights. The head of the list is the top bight, bight DSDEPTH. -/

/-- Bight j, 1 to DSDEPTH. -/
def Ctx.bight (x : Ctx) (j : Nat) : Option Bight := if j = 0 then none else x.bights[x.depth - j]?
/-- The domain at a depth (R381): the callee of the bight that entered it; at depth 0 the root. -/
def Ctx.domAt (x : Ctx) (j : Nat) : BitVec 12 :=
  match x.bight j with
  | some b => b.callee
  | none => match x.bight 1 with
    | some b => b.caller
    | none => x.dom

/-- The registers a bight keeps: g1 to g3, g12 to g31 (R379). -/
def savedRegs : List (Fin 32) :=
  [1, 2, 3, 12, 13, 14, 15, 16, 17, 18, 19, 20, 21, 22, 23, 24, 25, 26, 27, 28, 29, 30, 31]

/-- Set registers from a list of values. -/
def Ctx.setRegs (x : Ctx) : List (Fin 32) → List Reg → Ctx
  | r :: rs, v :: vs => (x.setReg r v).setRegs rs vs
  | _, _ => x

/-- Set registers to data 0. -/
def Ctx.clearRegs (x : Ctx) (rs : List (Fin 32)) : Ctx := rs.foldl (fun y r => y.setReg r Reg.zero) x

/-- The MODE word of a bight (R379). -/
def Bight.mode (b : Bight) : Nat :=
  b.frm.toNat + b.fflags.toNat * 2 ^ 11 + b.dscope.toNat * 2 ^ 16 + b.htrap.toNat * 2 ^ 19 + b.inh.toNat * 2 ^ 20
    + b.suph.toNat * 2 ^ 21
/-- The DOM word of a bight (R379). -/
def Bight.domWord (b : Bight) : Nat :=
  b.caller.toNat + b.callee.toNat * 2 ^ 12 + b.foreign.toNat * 2 ^ 24 + b.nest.toNat * 2 ^ 25
/-- The TAGS word, two bits each from bit 0 (R379). -/
def tagsWord : List Reg → Nat
  | [] => 0
  | r :: rs => r.tag.toNat + 4 * tagsWord rs

/-- The registers of a bight in the order of its bytes. -/
def Bight.all (b : Bight) : List Reg := b.ret :: (b.regs ++ [b.gate, b.tvec])

/-- The 512 bytes of a bight (R379). -/
def Bight.bytes (b : Bight) : List Byte :=
  b.all.flatMap (fun r => bytesLE 16 r.bits.toNat) ++ bytesLE 8 (tagsWord b.all) ++ bytesLE 8 b.domWord
    ++ bytesLE 8 b.deadline.toNat ++ bytesLE 8 b.mode ++ bytesLE 8 b.srseed.toNat ++ bytesLE 8 b.srseq.toNat
    ++ bytesLE 8 b.loopc.toNat ++ bytesLE 8 b.loopb.toNat ++ bytesLE 8 b.loope.toNat ++ bytesLE 8 b.serial.toNat
    ++ bytesLE 16 0

/-- The 64-bit word at a byte offset of a list of bytes. -/
def wordAt (bs : List Byte) (off : Nat) : W64 := BitVec.ofNat 64 (ofBytesLE ((bs.drop off).take 8))
/-- The number of `n` bytes at an offset of a list of bytes. -/
def numAt (bs : List Byte) (off n : Nat) : Nat := ofBytesLE ((bs.drop off).take n)

/-- Register number i of a bight's bytes, with its tag. -/
def bightReg (bs : List Byte) (i : Nat) : Reg :=
  ⟨BitVec.ofNat 128 (numAt bs (16 * i) 16), (wordAt bs 416).extractLsb' (2 * i) 2⟩

/-- The bight that 512 bytes hold (R379). -/
def Bight.ofBytes (bs : List Byte) : Bight :=
  let dw := wordAt bs 424
  let mw := wordAt bs 440
  { ret := bightReg bs 0
    regs := (List.range 23).map (fun i => bightReg bs (i + 1))
    gate := bightReg bs 24
    tvec := bightReg bs 25
    caller := dw.extractLsb' 0 12
    callee := dw.extractLsb' 12 12
    foreign := dw.getLsbD 24
    nest := dw.getLsbD 25
    deadline := wordAt bs 432
    frm := mw.extractLsb' 0 11
    fflags := mw.extractLsb' 11 5
    dscope := mw.extractLsb' 16 3
    htrap := mw.getLsbD 19
    inh := mw.getLsbD 20
    suph := mw.getLsbD 21
    srseed := wordAt bs 448
    srseq := wordAt bs 456
    loopc := wordAt bs 464
    loopb := wordAt bs 472
    loope := wordAt bs 480
    serial := (wordAt bs 488).setWidth 48 }

/-! Homes (R380). -/

/-- The home of bight j of a context. -/
def State.homeDva (s : State) (c : CtxId) (j : Nat) : W64 :=
  (s.slot c.sl).dsbase + BitVec.ofNat 64 (8192 * c.ctx.val + 512 * (j - 1))

/-- Where a home lies, and the state with the entry's AC bit, and DI for a spill, set: translation alone, with V, L and MT 0
(R380). -/
def State.homeAt (s : State) (c : CtxId) (dva : W64) (write : Bool) : Option (State × Loc) :=
  let part := s.partOf c.sl
  if dva.toNat < 2 ^ 32 ∨ dva.toNat ≥ 2 ^ 56 then none
  else
    let hit : Option (W64 × Nat × Nat) := match s.tlbFind c.core part dva with
      | some e => some (e.pte, e.pteAt, e.vbase)
      | none => match s.walk (s.slot c.sl).bind.ptroot dva with
        | .ok l => some (l.pte, l.pteAt, l.vbase)
        | .error _ => none
    match hit with
    | some (pte, pteAt, vbase) =>
      if pteMT pte ≠ 0 then none
      else
        let bits := if write then acBit ||| diBit else acBit
        some (s.setHbm64 pteAt (s.hbm64 pteAt ||| bits), s.pageLoc part pte (dva.toNat - vbase))
    | none => none

/-- Spill the oldest resident bight to its home (R380, R390). -/
def State.spill (s : State) (c : CtxId) : Option State :=
  let x := s.ctx c
  let j := x.depth + 1 - x.resident
  match x.bight j with
  | none => some s
  | some b =>
    match s.homeAt c (s.homeDva c j) true with
    | some (t, l) => some ((t.poke l b.bytes).modCtx c (fun y => { y with resident := y.resident - 1 }))
    | none => none

/-- Fill the top bight from its home where it is not resident (R380, R391). -/
def State.fill (s : State) (c : CtxId) : Option State :=
  let x := s.ctx c
  if x.resident > 0 then some s
  else
    match x.bights with
    | [] => some s
    | _ :: rest =>
      match s.homeAt c (s.homeDva c x.depth) false with
      | some (t, l) =>
        some (t.modCtx c (fun y => { y with bights := Bight.ofBytes (t.readBytes l 512) :: rest, resident := 1 }))
      | none => none

/-- The line that hosts must be snooped for before the top bight is filled from its home (R86). -/
def State.homeHeld (s : State) (c : CtxId) : Option Nat :=
  let x := s.ctx c
  if decide (0 < x.resident) || x.bights.isEmpty then none
  else (s.homeAt c (s.homeDva c x.depth) false).bind (fun q => s.mustSnoopAny q.2 512)

/-! Returning to the caller's state (R391, R385, R444). -/

/-- The context at depth k − 1, from bight k: everything GRET restores but the PC of a trap. -/
def Ctx.restore (x : Ctx) : Ctx :=
  match x.bights with
  | [] => x
  | b :: rest =>
    let y := x.setRegs savedRegs b.regs
    { y with
      tvec := b.tvec, frm := b.frm, fflags := b.fflags, dscope := b.dscope, htrapEn := b.htrap
      tstat := { y.tstat with inh := b.inh, suph := b.suph }
      srseed := b.srseed, srseq := b.srseq, loopc := b.loopc, loopb := b.loopb, loope := b.loope
      repc := 0, repi := 0, rep := none
      dom := b.caller, pcc := b.ret, bights := rest, resident := y.resident - 1 }

/-- g4 to g9. -/
def windowRegs : List (Fin 32) := [4, 5, 6, 7, 8, 9]

/-- The handle slots of the operations issued at a depth become FREE (R391). -/
def Ctx.freeAt (x : Ctx) (depth : Nat) : Ctx :=
  allHandles.foldl (fun y h =>
    let q := y.hslot h
    if q.depth = depth ∧ q.state ≠ .pending then y.setHslot h { q with state := .free } else y) x

/-- The pop of R385, once the operations of the depth have resolved: as GRET restores, its handle slots FREE; g4 to g9
data 0, g10 and g11 as given. No cleanup runs in the frame it comes to. -/
def Ctx.popped (x : Ctx) (st xv : W64) : Ctx :=
  let y := (x.freeAt x.depth).restore.clearRegs windowRegs
  { (y.setReg 10 (Reg.data xv)).setReg 11 (Reg.data st) with
    creason := 0, cdepth := 0, closing := none, remote := none, sysreq := none, revoke := false, sending := none, place := none
    fan := none, refusal := none, reading := none }

/-! Domains and deadlines. -/

/-- The domain at depth j is dead for the die of the context (R385). -/
def State.deadAt (s : State) (c : CtxId) (j : Nat) : Bool := !s.live (dieOf c.core) ((s.ctx c).domAt j)
/-- Frame j has expired (R383). -/
def Ctx.expired (x : Ctx) (j : Nat) : Bool :=
  match x.bight j with
  | some b => b.deadline != BitVec.allOnes 64 && decide (b.deadline.toNat ≤ x.charged)
  | none => false
/-- RUN of GSTAT (R381): charged cycles before the earliest deadline; all ones where there is none. -/
def Ctx.runLeft (x : Ctx) : W64 :=
  let ds := (x.bights.filter (fun b => b.deadline != BitVec.allOnes 64)).map (fun b => b.deadline.toNat)
  match ds with
  | [] => 0xFFFFFFFF
  | d :: r => BitVec.ofNat 64 (min ((r.foldl min d) - x.charged) 0xFFFFFFFF)
/-- The least depth from `j` on, below `k`, that satisfies a test. -/
def leastDepth (p : Nat → Bool) : Nat → Nat → Option Nat
  | _, 0 => none
  | j, n + 1 => if p j then some j else leastDepth p (j + 1) n

/-! Gate records (R376, R377). -/

/-- A gate record. -/
structure GateRec where
  entry    : Reg
  stack    : Reg
  data     : Reg
  cleanoff : Nat
  vecoff   : Nat
  limit    : Nat
  args     : Nat
  nest     : Bool
  xport    : Bool
  flags    : Nat
  rest     : Nat
deriving DecidableEq, Repr

/-- The gate record at a location (R376). -/
def State.gateRec (s : State) (l : Loc) (tags : Bool) : GateRec :=
  let fl := s.readNat (l.plus 61) 1
  { entry := s.readReg l tags, stack := s.readReg (l.plus 16) tags, data := s.readReg (l.plus 32) tags
    cleanoff := s.readNat (l.plus 48) 4, vecoff := s.readNat (l.plus 52) 4, limit := s.readNat (l.plus 56) 4
    args := s.readNat (l.plus 60) 1, nest := decide (fl % 2 = 1), xport := decide (fl / 2 % 2 = 1)
    flags := fl / 4, rest := s.readNat (l.plus 62) 2 }

/-- An offset names an even halfword of ENTRY's bounds (R377). -/
def GateRec.offOk (g : GateRec) (off : Nat) : Bool :=
  off % 2 == 0 && decide (capBase g.entry + off + 2 ≤ capTop g.entry)

/-- The record checks for a domain (R377). -/
def GateRec.ok (g : GateRec) (n : BitVec 12) : Bool :=
  g.entry.tag == 1 && g.entry.otype == 0 && !lacks g.entry permX && g.entry.owner == n
    && g.entry.lo.toNat % 2 == 0 && decide (capBase g.entry ≤ g.entry.lo.toNat) && decide (g.entry.lo.toNat < capTop g.entry)
    && g.stack.tag == 1 && g.stack.otype == 0 && !lacks g.stack (permL ||| permS) && g.stack.owner == n
    && g.data.tag == 1 && g.data.otype == 0 && g.data.owner == n
    && g.offOk g.cleanoff && (g.vecoff == 0xFFFFFFFF || g.offOk g.vecoff)
    && decide (1 ≤ g.args ∧ g.args ≤ 8) && g.flags == 0 && g.rest == 0 && (!g.xport || g.limit != 0)

/-- ENTRY with its cursor at an offset from its base (R385, R388). -/
def GateRec.at (g : GateRec) (off : Nat) : Reg := g.entry.withCursor (BitVec.ofNat 64 (capBase g.entry + off))
/-- The callee's TVEC (R388). -/
def GateRec.vector (g : GateRec) : Reg := if g.vecoff = 0xFFFFFFFF then Reg.zero else g.at g.vecoff

/-- What GCALL asks of the record (R390). -/
def gateAsk : Ask := ⟨[permL ||| permLC], .read, false, 64, 1, true⟩

/-! The unwind check (R385). -/

/-- What the unwind check comes to. -/
inductive Unwound where
  /-- Nothing to do: the context goes on. -/
  | quiet
  /-- The context stands at another place, or has ended. -/
  | moved (s : State)
  /-- It waits for engine operations, or for the fault service. -/
  | waits (s : State) (w : Wait)
  /-- A home faults: DSTACK_SPILL_FAULT at the boundary (R385). -/
  | spill (s : State) (home : W64)

/-- Cancel the operations of the top depth and pop it, or wait for them first (R385). -/
def State.tryPop (s : State) (c : CtxId) (st xv : W64) (mark : Closing) : Unwound :=
  let x := s.ctx c
  let k := x.depth
  let s := (s.setCtx c { x.cancelAll (x.pendingAt k) with closing := some mark }).cancelLoose c (fun o => o.depth == k)
  if s.busyAt c k then .waits s (.engines k)
  else if let some n := s.homeHeld c then .waits (s.snoop n false) (.snoop n false)
  else
    match s.fill c with
    | none => .spill s (s.homeDva c k)
    | some t => .moved ((t.abandon c).modCtx c (fun z => z.popped st xv))

/-- enter_cleanup (R385). -/
def State.enterCleanup (s : State) (c : CtxId) (reason xv : Nat) : Option (Unwound) :=
  let x := s.ctx c
  if let some n := s.homeHeld c then some (.waits (s.snoop n false) (.snoop n false))
  else
  match s.fill c with
  | none => some (.spill s (s.homeDva c x.depth))
  | some s =>
    match (s.ctx c).bights with
    | [] => none
    | b :: _ =>
      match s.reachRecord c b.gate gateAsk b.gate.lo with
      | .wait w => some (.waits (match w with
        | .snoop n b => s.snoop n b
        | .walk d _ => s.joinWalk c d
        | _ => s) w)
      | .trap _ _ _ => none
      | .ok p =>
        let g := s.gateRec p.loc p.tags
        if g.ok b.gate.owner = false then none
        else
          some (.moved ((s.abandon c).modCtx c (fun y =>
            let y := ((((y.setReg 2 g.stack).setReg 3 g.data).setReg 10 (Reg.data (BitVec.ofNat 64 xv))).setReg 11
              (Reg.data (BitVec.ofNat 64 reason)))
            { y with
              pcc := g.at g.cleanoff, creason := BitVec.ofNat 3 reason, cdepth := BitVec.ofNat 5 xv
              tvec := Reg.zero, loopc := 0, repc := 0, rep := none, cleanAt := y.charged, closing := none
              remote := none, sysreq := none, revoke := false, sending := none, place := none, fan := none, refusal := none
              reading := none })))

/-- The end of a context whose root is dead, as the abort ends it (R385): its stores in flight are discarded, and its counts
go with it (R108). -/
def State.endCtx (s : State) (c : CtxId) : State :=
  ((((s.abandon c).killHandles c).dropOpsOf c.core (fun e => e == c)).modCtx c (fun x => { x.ended with counts := [] })).dropFlying
    (fun e => e == c)

/-- unwind(st) of R385, from the pop of the top frame on: further dead frames pop too. -/
def State.unwindFrom (s : State) (c : CtxId) (st : W64) : Nat → Unwound
  | 0 => .moved s
  | f + 1 =>
    let x := s.ctx c
    let xv := x.cdepth.setWidth 64
    let r := x.creason
    match s.tryPop c st xv (.unwind st) with
    | .moved t =>
      if (t.ctx c).depth > 0 && t.deadAt c (t.ctx c).depth then
        State.unwindFrom (t.modCtx c (fun y => { y with creason := r, cdepth := x.cdepth })) c st f
      else if (t.ctx c).depth = 0 && t.deadAt c 0 then .moved (t.endCtx c)
      else if r = 3 ∧ st = 0x8402 then .moved (t.modCtx c (fun y => y.setReg 11 (Reg.data 0x8403)))
      else .moved t
    | u => u

/-- The unwind check, from the loop on (R385). `acted` says whether the context has already been moved. -/
def State.unwindLoop (c : CtxId) : Nat → State → Bool → Unwound
  | 0, s, _ => .moved s
  | f + 1, s, acted =>
    let stop : State → Unwound := fun t => if acted then .moved t else .quiet
    let x := s.ctx c
    let k := x.depth
    let again : Unwound → Unwound := fun u => match u with
      | .moved t => State.unwindLoop c f t true
      | u => u
    if k = 0 then stop s
    else
      match x.closing with
      | some (.pop st xv) => again (s.tryPop c st xv (.pop st xv))
      | some (.unwind st) => again (s.unwindFrom c st 20)
      | some (.double _) => stop s
      | none =>
        if s.deadAt c k then again (s.tryPop c 0x8401 (BitVec.ofNat 64 k) (.pop 0x8401 (BitVec.ofNat 64 k)))
        else if x.creason ≠ 0 then
          if x.charged - x.cleanAt ≥ Config.cleanupBudget then again (s.unwindFrom c 0x8406 20) else stop s
        else
          match leastDepth (s.deadAt c) 0 k with
          | some j =>
            match (if j = 0 then s.enterCleanup c 2 0 else s.enterCleanup c 1 j) with
            | some u => u
            | none => s.unwindFrom c 0x8406 20
          | none =>
            match leastDepth x.expired 1 k with
            | some j =>
              match s.enterCleanup c 3 j with
              | some u => u
              | none => s.unwindFrom c 0x8406 20
            | none => stop s

/-- The unwind check of a context (R385). -/
def State.unwind (s : State) (c : CtxId) : Unwound := State.unwindLoop c 40 s false

end Sys2Proof.Machine
end

