-- ==== Sys2Proof/Machine/Ops.lean ====
section
/-! DEFINITION. Machine/Ops.lean: what every instruction is made of: taking a trap (R396 to R403) and returning from it
(R407), fetching (R36 to R38), the loop and repeat state (R60 to R65), reading and writing register operands (R44 to R46,
R183 to R191), and how an instruction's outcome becomes the next state. -/
namespace Sys2Proof

/-- A q or p code (R44). -/
def RegCode.special : RegCode → Bool
  | .g _ => false
  | _ => true

end Sys2Proof

namespace Sys2Proof.Machine

/-! Traps. -/

/-- The codes of the trap causes (R397). -/
def Cause.code : Cause → Nat
  | .illegalInstruction => 0x01
  | .illegalOperand => 0x02
  | .repRange => 0x03
  | .capTag => 0x04
  | .capBounds => 0x05
  | .capPerm => 0x06
  | .capSealed => 0x07
  | .capDomainDead => 0x08
  | .align => 0x09
  | .pageFault => 0x0A
  | .formatFault => 0x0B
  | .fpTrap => 0x0D
  | .accNotOwned => 0x0E
  | .gateInvalid => 0x10
  | .gateDepth => 0x11
  | .dstackSpillFault => 0x12
  | .portDeadlock => 0x13
  | .wsWriteDenied => 0x14
  | .shapeInvalid => 0x15
  | .handleForeign => 0x16
  | .breakpoint => 0x17
  | .trapInstr => 0x18
  | .queueEmpty => 0x19
  | .queueFull => 0x1A
  | .doubleTrap => 0x1B
  | .machineCheck => 0x1C
  | .handleError => 0x1D

/-- The context waits (R338, R339). -/
def State.waitOn (s : State) (c : CtxId) (w : Wait) : State := s.modCtx c (fun x => { x with status := .waiting w })

/-- What trap entry saves, and the loop and repeat state it clears (R402). -/
def Ctx.saveTrap (x : Ctx) (t : TrapInfo) : Ctx :=
  { x with
    tcause := BitVec.ofNat 8 t.cause.code, tval := t.tval, tpc := x.pc, tcode := x.pcc
    tstat := ⟨x.loope, x.loopb, x.loopc, x.repc, x.repi, BitVec.ofNat 4 t.pfr, t.uw, x.tstat.suph, true⟩
    loopc := 0, repc := 0, repi := 0, rep := none, refusal := none, sending := none, fan := none, spin := []
    status := (if x.status = .issuing then .issuing else .ready), attached := false, follow := [] }

/-- The matrix commands that a context has in the queue of its core were issued before the trap entry that it takes
(R272). -/
def State.freezeOps (s : State) (c : CtxId) : State :=
  if (s.core c.core).matQ.isEmpty then s
  else s.modCore c.core (fun k => { k with
    matQ := k.matQ.map (fun o => if o.head.owner = c then { o with before := true } else o) })

/-- Entry at TVEC, in a cycle (R402): the handler's first instruction issues 4 cycles after it. -/
def Ctx.enterTvec (x : Ctx) (t : TrapInfo) (now : Nat) : Ctx := { x.saveTrap t with pcc := x.tvec, notBefore := now + 4 }

/-- The place of a context's supervisor stack (R410). -/
def supStack (c : CtxId) : Nat :=
  0x00FFFF0000000000 + 0x20000 * (4 * c.core.val + c.slot.val) + 8192 * c.ctx.val + 4096

/-- g2 of a supervisor entry, where SSP covers the stack and a page holds it (R402). -/
def State.supSp (s : State) (c : CtxId) : Option Reg :=
  let ssp := Sparse.get Reg.zero (s.die (dieOf c.core)).ssp (s.partOf c.sl).val
  let lo := supStack c
  if ssp.tag ≠ 1 then none
  else if lo < capBase ssp ∨ lo + 4096 > capTop ssp then none
  else
    match s.walk (s.slot c.sl).bind.ptroot (BitVec.ofNat 64 lo), encodeBounds lo (lo + 4096) with
    | .ok _, some e => some (withBounds (ssp.withCursor (BitVec.ofNat 64 (lo + 4096))) e)
    | _, _ => none

/-- SVEC of the context's partition, as its die holds it (R400). -/
def State.svec (s : State) (c : CtxId) : Reg :=
  Sparse.get Reg.zero (s.die (dieOf c.core)).svec (s.partOf c.sl).val

/-- Supervisor entry (R402), where it is possible. -/
def State.enterSup (s : State) (c : CtxId) (t : TrapInfo) : Option State :=
  let v := s.svec c
  if v.tag ≠ 1 then none
  else
    match s.supSp c with
    | none => none
    | some sp =>
      some ((s.freezeOps c).modCtx c (fun x =>
        let y := x.saveTrap t
        let y := { y with
          hidden2 := x.reg 2, hidden3 := x.reg 3, pcc := v, notBefore := s.cycle + 8, tstat := { y.tstat with suph := true }
          accHold := t.cause == Cause.accNotOwned }
        (y.setReg 2 sp).setReg 3 (Sparse.get Reg.zero (s.die (dieOf c.core)).sdd (s.partOf c.sl).val)))

/-- DOUBLE_TRAP (R401): the pending operations are cancelled and waited for; then the context ends. -/
def State.doubleTrap (s : State) (c : CtxId) (cause : Cause) : State :=
  let x := s.ctx c
  if s.busy c then
    (s.setCtx c { x.cancelAll allHandles with
      closing := some (.double (BitVec.ofNat 8 cause.code)), status := .waiting .ending }).cancelLoose c (fun _ => true)
  else s.doubleEnd c cause.code

/-- What R401 asks of a frame where a fill faults and the supervisor cannot be entered: the pop or the unwind under way goes on,
and a frame that goes on neither pops with 0x8404, or unwinds with 0x8406 in a cleanup. Each needs the same fill: the
context stands at the boundary, and applies the check again when it next issues. -/
def Ctx.spillAgain (x : Ctx) : Ctx :=
  let k := BitVec.ofNat 64 x.depth
  { x with
    status := (match x.status with
      | .issuing => .issuing
      | _ => .ready)
    attached := false, follow := []
    closing := (match x.closing with
      | some m => some m
      | none => if x.creason ≠ 0 then some (.unwind 0x8406) else some (.pop 0x8404 k)) }

/-- The instruction that a context waits in is abandoned without effect (R385): nothing of it is remembered, and a request
that it has posted stands (R408). -/
def State.forsake (s : State) (c : CtxId) : State :=
  (s.modCtx c (fun x => { x with
    refusal := none, sending := none, fan := none, spin := [], remote := none, revoke := false, reading := none
    badRead := false, place := none })).abandon c

/-- DSTACK_SPILL_FAULT of an unwind, at a boundary (R380, R385): it goes to the tenant supervisor whatever the frame's
state. -/
def State.spillTrap (s : State) (c : CtxId) (home : W64) : State :=
  let s := s.forsake c
  let t : TrapInfo := ⟨.dstackSpillFault, home, 0, true⟩
  match s.enterSup c t with
  | some u => u
  | none => s.modCtx c Ctx.spillAgain

/-- The state after an unwind check, or after a pop that a trap asked for. -/
def State.settle (s : State) (c : CtxId) (u : Unwound) : State :=
  match u with
  | .quiet => s
  | .moved t => t
  | .waits t w => t.waitOn c w
  | .spill t home => t.spillTrap c home

/-- The frame pops with 0x8404 (R386, R388). -/
def State.popTrap (s : State) (c : CtxId) : State :=
  let k := BitVec.ofNat 64 (s.ctx c).depth
  s.settle c (s.tryPop c 0x8404 k (.pop 0x8404 k))

/-- Delivery where the supervisor is not concerned: at TVEC, or as for TVEC data 0 (R401). -/
def State.deliverTvec (s : State) (c : CtxId) (t : TrapInfo) : State :=
  let x := s.ctx c
  if x.tvec.tag = 1 then (s.freezeOps c).setCtx c (x.enterTvec t s.cycle)
  else if x.depth > 0 then s.popTrap c
  else s.doubleTrap c t.cause

/-- As for TVEC data 0 (R401). -/
def State.deliverNone (s : State) (c : CtxId) (t : TrapInfo) : State :=
  if (s.ctx c).depth > 0 then s.popTrap c else s.doubleTrap c t.cause

/-- Take a trap: the first row of R401 that applies. -/
def State.takeTrap (s : State) (c : CtxId) (t : TrapInfo) : State :=
  let x := s.ctx c
  let s := (s.forsake c).modCtx c (fun y => { y with pending := none })
  let k := x.depth
  if s.deadAt c k then (if k = 0 then s.endCtx c else s.settle c (s.unwind c))
  else if x.creason ≠ 0 then s.settle c (s.unwindFrom c 0x8406 20)
  else if x.tstat.inh then (if k > 0 then s.popTrap c else s.doubleTrap c t.cause)
  else if t.cause = .accNotOwned ∨ t.cause = .dstackSpillFault then
    match s.enterSup c t with
    | some u => u
    | none => s.deliverNone c t
  else s.deliverTvec c t

/-! The loop and repeat state. -/

/-- Where the instruction that a context is at stands: the PC, or behind the REP while it repeats (R60, R62). -/
def Ctx.at (x : Ctx) : W64 := if x.repc ≠ 0 then x.pc + 4 else x.pc

/-- The context goes on at `next` after the instruction at `a`, closing the loop where `a` is LOOPE (R64). -/
def Ctx.closeLoop (x : Ctx) (a next : W64) : Except TrapInfo Ctx :=
  if x.loopc ≠ 0 ∧ a = x.loope then
    if x.loopc = 1 then .ok ({ x with loopc := 0 }.setPc next)
    else if x.loopb.getLsbD 0 then .error ⟨.align, x.loopb, 0, false⟩
    else if representable x.pcc x.loopb = false then .error ⟨.capBounds, x.loopb, 0, false⟩
    else .ok ({ x with loopc := x.loopc - 1 }.setPc x.loopb)
  else .ok (x.setPc next)

/-- The instruction of `len` bytes is complete and transfers nowhere: the next repetition, the loop back, or the next
instruction (R60, R62, R64). -/
def Ctx.advance (x : Ctx) (len : Nat) : Except TrapInfo Ctx :=
  if x.repc = 0 then x.closeLoop x.pc (x.pc + BitVec.ofNat 64 len)
  else if x.repc = 1 then
    { x with repc := 0, repi := 0, rep := none }.closeLoop (x.pc + 4) (x.pc + 4 + BitVec.ofNat 64 len)
  else .ok { x with repc := x.repc - 1, repi := x.repi + 1 }

/-! How an instruction runs. -/

/-- How an instruction stops short: a trap, or a wait without effect. -/
inductive Stop where
  | trap (t : TrapInfo)
  | wait (w : Wait)
deriving DecidableEq, Repr

/-- What follows an instruction whose effect is complete. -/
inductive Flow where
  /-- The next instruction in sequence (or the next repetition, or the loop back). -/
  | next
  /-- A target within the code capability. -/
  | goto (t : W64)
  /-- The PC, the code capability or the context's state stand as the instruction put them. -/
  | done
  /-- It completes, and then traps (R62, R170, R406). -/
  | trapAfter (t : TrapInfo)
  /-- What it has done stands; it waits, and is executed again, with nothing popped, received or written (R127). -/
  | hold (w : Wait)
  /-- As `hold`, parked on a watched granule (R350). -/
  | park (w : Watch)

/-- A piece of an instruction: it changes the state, gives a value, or stops short. -/
abbrev M (α : Type) := StateT State (Except Stop) α

/-- Raise a trap. -/
def raise {α : Type} (c : Cause) (tval : W64) : M α := fun _ => .error (.trap ⟨c, tval, 0, false⟩)
/-- Wait without effect. -/
def pause {α : Type} (w : Wait) : M α := fun _ => .error (.wait w)
/-- The context that executes. -/
def me : M Ctx := fun s => .ok (s.ctx s.cur, s)
/-- Its name. -/
def who : M CtxId := fun s => .ok (s.cur, s)
/-- Change the context that executes. -/
def edit (f : Ctx → Ctx) : M Unit := fun s => .ok ((), s.modCtx s.cur f)
/-- Use what a check gives: its trap or its wait stops the instruction. -/
def need (r : Reach) : M Spot := fun s =>
  match r with
  | .ok p => .ok (p, s)
  | .trap c v pfr => .error (.trap ⟨c, v, pfr, false⟩)
  | .wait w => .error (.wait w)

/-- Where a record lies that an instruction reads (`State.reachRecord`); the memory-side cache takes the host lines of it
(R91). -/
def record (cap : Reg) (a : Ask) (addr : W64) : M Spot := fun s =>
  match need (s.reachRecord s.cur cap a addr) s with
  | .ok (p, t) => .ok (p, t.cacheHost p.loc a.size (a.kind == .write))
  | .error e => .error e

/-- The instruction word, for TVAL (R397): a 16-bit instruction zero-extended. -/
def Instr.word (i : Instr) : W64 := BitVec.ofNat 64 (encode i)

/-! Rings and sends (R185 to R191). -/

/-- What a ring address names (R186). -/
structure RingAddr where
  core : Fin 4608
  ctx  : Fin 11
  ring : Fin 4
deriving DecidableEq, Repr

/-- Read a ring address; none where R186 refuses it. -/
def ringAddr (a : W64) : Option RingAddr :=
  let n := a.toNat
  let core := n / 2 ^ 16 % 2 ^ 13
  let ctx := n / 2 ^ 8 % 16
  if n / 2 ^ 29 ≠ 0 ∨ n / 2 ^ 12 % 16 ≠ 0 ∨ n / 4 % 64 ≠ 0 then none
  else if h : core < 4608 ∧ ctx < 11 then some ⟨⟨core, h.1⟩, ⟨ctx, h.2⟩, ⟨n % 4, by omega⟩⟩
  else none

/-- What becomes of a word that is sent (R187 to R190). -/
inductive Sent where
  | delivered (s : State)
  | diverted (s : State)
  | discarded (s : State)
  /-- The ring is full (R189). -/
  | full
  /-- The overflow ring is full (R189). -/
  | deadlock
  /-- The slot is being evicted (R108). -/
  | retry

/-- Words of a ring that stand in the overflow ring of its slot (R189). -/
def Slot.ovfFor (q : Slot) (x : Fin 11) (k : Fin 4) : List (Fin 11 × Fin 4 × W64) :=
  q.portOvf.filter (fun e => e.1 == x && e.2.1 == k)

/-- A word goes to the overflow ring of a slot (R189): 16 bytes of it, whose form the spec does not give, are written in the
save area (R365). -/
def State.toOverflow (s : State) (t : SlotId) (e : Fin 11 × Fin 4 × W64) : State :=
  let q := s.slot t
  (s.scribble (.hbm (q.bind.save.toNat + 0x30000 + 16 * (q.ovfAt % 4096))) 16).setSlot t
    { q with portOvf := q.portOvf ++ [e], ovfAt := q.ovfAt + 1 }

/-- A word that a context has sent is counted until it is acknowledged (R104, R106): it has arrived at the destination's
router. -/
def State.countSend (s : State) (c : CtxId) (core : Nat) : State :=
  let t := (s.ctx c).phaseTag
  let k := arrivalKey c t core
  { s.modCtx c (fun x => x.setCount t (x.count t + 1)) with arrivals := Sparse.put s.arrivals k (Sparse.get 0 s.arrivals k + 1) }

/-- The destination router writes a word into a ring that has room (R187). -/
def State.ringPut (s : State) (d : CtxId) (k : Fin 4) (w : W64) : State :=
  let r := (s.ctx d).ring k
  let l := s.slotLoc d.sl (r.base.toNat + 8 * (r.tail.toNat % r.size))
  (s.poke l (bytesLE 8 w.toNat)).modCtx d (fun x => x.setRing k (r.got s.cycle))

/-- The places of a slot's overflow ring that are kept for words still to come (R46, assumption log 8). -/
def State.keptPlaces (s : State) (t : SlotId) : Nat := s.ctxs.countP (fun p => p.2.place == some t)

/-- A word reaches its destination for a tenant's sender on a slot (R187, R189, R190). `divert` says that 4,096 cycles have
passed since the first refusal, `place` where the overflow ring keeps a place for the sender. -/
def State.sendWord (s : State) (from_ : SlotId) (a : RingAddr) (w : W64) (divert : Bool) (place : Option SlotId) : Sent :=
  match s.tenantSlot (s.partOf from_) a.core from_.slot with
  | none => .discarded s
  | some t =>
    if s.present (s.partOf from_) t = false then .retry
    else
      let d : CtxId := ⟨t.core, t.slot, a.ctx⟩
      let x := s.ctx d
      let r := x.ring a.ring
      if r.bound = false then
        .discarded (s.setCtx d { x with drops := if x.drops = 255 then 255 else x.drops + 1 })
      else if divert || !((s.slot t).ovfFor a.ctx a.ring).isEmpty then
        if place != some t && decide (4096 ≤ (s.slot t).portOvf.length + s.keptPlaces t) then .deadlock
        else .diverted (s.toOverflow t (a.ctx, a.ring, w))
      else if r.room s.cycle = false then .full
      else .delivered (s.ringPut d a.ring w)

/-- What a context remembers of a word that it is sending to a ring address. -/
def Ctx.sendingTo (x : Ctx) (addr : W64) : Sending :=
  match x.sending with
  | some q => if q.addr = addr then q else ⟨addr, none, false, none, none⟩
  | none => ⟨addr, none, false, none, none⟩

/-- The retry replies of an evicting slot have ended: their time does not count (R189). -/
def Sending.back (q : Sending) (now : Nat) : Sending :=
  match q.away with
  | some t => { q with since := q.since.map (fun n => n + (now - t)), away := none }
  | none => q

/-- A word that a context sends has crossed the Lay: its core's die is that of the ring, or its frame has gone (R98, R99). -/
def State.arrived (s : State) (c : CtxId) (a : RingAddr) (q : Sending) : Bool :=
  ((Loc.localStore a.core 0 0 0).channel c.core).isNone || (match q.frame with
    | some n => s.crossed n
    | none => false)

/-- Send a word to a ring from an instruction: it completes when the word is delivered, diverted or discarded (R191, R196):
0, 1 or 2. Earlier stores and event posts of the context to that destination take effect first (R106, R330). It crosses the Lay in
a frame (R99), and is counted until its acknowledgement (R104). An access that was performed for the instruction is not undone:
where the overflow ring is full against its kept place, the word waits (assumption log 8). `iw` is the instruction word. -/
def sendTo (iw addr w : W64) : M Nat := fun s =>
  let c := s.cur
  let x := s.ctx c
  match ringAddr addr with
  | none => .error (.trap ⟨.illegalOperand, iw, 0, false⟩)
  | some a =>
    if x.counted ≥ Config.uscMax then .error (.wait .uscRoom)
    else if s.storesTo c a.core.val then .error (.wait (.ownStores a.core.val))
    else if s.postsTo c a.core.val then .error (.wait (.ownPosts a.core.val))
    else
      let q := (x.sendingTo addr).back s.cycle
      if s.arrived c a q = false then .error (.wait (.frame addr))
      else
      match s.sendWord c.sl a w q.divert x.place with
      | .delivered t => .ok (0, t.countSend c a.core.val)
      | .diverted t => .ok (1, t.countSend c a.core.val)
      | .discarded t => .ok (2, t.countSend c a.core.val)
      | .full => .error (.wait (.ringRoom addr (q.since.getD s.cycle)))
      | .deadlock =>
        if x.remote.isSome || x.fan.isSome then .error (.wait (.ringRoom addr (q.since.getD s.cycle)))
        else .error (.trap ⟨.portDeadlock, addr, 0, false⟩)
      | .retry => .error (.wait (.ringAway addr))

/-! Register operands (R44 to R46). -/

/-- Read a register operand: g as it stands; q pops; p takes the word its latch holds. -/
def read (r : RegCode) : M Reg := fun s =>
  let c := s.cur
  let x := s.ctx c
  match r with
  | .g n => .ok (x.reg n, s)
  | .q n =>
    match (x.queue n).items with
    | w :: ws => .ok (Reg.data w, s.setCtx c (x.setQueue n { x.queue n with items := ws }))
    | [] => .error (.trap ⟨.queueEmpty, BitVec.ofNat 64 n.val, 0, false⟩)
  | .p m =>
    match (x.port m).latch with
    | w :: ws => .ok (Reg.data w, s.setCtx c (x.setPort m { x.port m with latch := ws }))
    | [] => .error (.wait (.port m))

/-- Read a register operand as data (R172). -/
def readData (r : RegCode) : M W64 := do
  let v ← read r
  pure v.lo

/-- Read a general register. -/
def greg (r : GReg) : M Reg := fun s => .ok ((s.ctx s.cur).reg r, s)

/-- An engine operation holds a port (R156). -/
def State.portHeld (s : State) (c : CtxId) (m : Fin 4) : Bool :=
  let k := s.core c.core
  let holds : Option Shape → Bool := fun o => match o with
    | some sh => sh.chan == some m
    | none => false
  k.copyQ.any (fun o => o.head.owner == c && (holds (some o.dst) || holds o.src))
    || k.vecQ.any (fun o => o.head.owner == c && (holds (some o.out) || holds (some o.a) || holds o.b || holds o.c))
    || k.intQ.any (fun o => o.head.owner == c && (match o.kind with
      | .postv sh => holds (some sh)
      | .tick _ => false))

/-- Write a register operand (R35, R46, R172): g with its tag; q pushes and p sends the low 64 bits. `w` is the instruction
word, for an unbound port. -/
def write (w : W64) (r : RegCode) (v : Reg) : M Unit := fun s =>
  let c := s.cur
  let x := s.ctx c
  match r with
  | .g n => .ok ((), s.setCtx c (x.setReg n v))
  | .q n =>
    let q := x.queue n
    if q.items.length < q.depth then .ok ((), s.setCtx c (x.setQueue n { q with items := q.items ++ [v.lo] }))
    else .error (.trap ⟨.queueFull, BitVec.ofNat 64 n.val, 0, false⟩)
  | .p m =>
    if (x.port m).bound = false then .error (.trap ⟨.illegalOperand, w, 0, false⟩)
    else if s.portHeld c m then .error (.wait (.portHeld m))
    else
      match sendTo w (x.port m).dest v.lo s with
      | .ok (_, t) => .ok ((), t)
      | .error e => .error e

/-- write_data (R35): the value as data. -/
def writeData (w : W64) (r : RegCode) (v : W64) : M Unit := write w r (Reg.data v)
/-- Write a general register. -/
def setG (r : GReg) (v : Reg) : M Unit := edit (fun x => x.setReg r v)

/-! Before the body: frozen codes, queues, ports (R46, R184, R191). -/

/-- How often a list of operands names a queue. -/
def countQ (n : Fin 8) (rs : List RegCode) : Nat := rs.countP (fun r => r == .q n)

/-- The first operand, in the order they are read, that finds its queue empty (R46); an unbound port in front of it is the first
failure instead (R191). `seen` are the operands in front. -/
def Ctx.shortFrom (x : Ctx) (seen : List RegCode) : List RegCode → Option (Fin 8)
  | [] => none
  | .q n :: rs =>
    if (x.queue n).items.length ≤ countQ n seen then some n else Ctx.shortFrom x (.q n :: seen) rs
  | .p m :: rs => if (x.port m).bound then Ctx.shortFrom x seen rs else none
  | .g _ :: rs => Ctx.shortFrom x seen rs

/-- The first queue that holds fewer entries than the instruction reads from it (R46). -/
def Ctx.shortQueue (x : Ctx) (rs : List RegCode) : Option (Fin 8) := x.shortFrom [] rs

/-- Receive into the latches what the instruction reads from ports (R46, R191): an empty ring stalls it, with nothing
received. Two words that an instruction has received from one port when it traps are held in their order (assumption log 36).
`seen` lists the port reads already supplied. -/
def State.receive (s : State) (c : CtxId) (w : W64) : List RegCode → List (Fin 4) → Except Stop State
  | [], _ => .ok s
  | .p m :: rs, seen =>
    let x := s.ctx c
    let p := x.port m
    if p.bound = false then .error (.trap ⟨.illegalOperand, w, 0, false⟩)
    else if s.portHeld c m then .error (.wait (.portHeld m))
    else if seen.count m < p.latch.length then State.receive s c w rs (m :: seen)
    else
      let r := x.ring p.ring
      if r.here s.cycle = 0 then .error (.wait (.port m))
      else
        let v := BitVec.ofNat 64 (s.readNat (s.slotLoc c.sl (r.base.toNat + 8 * (r.head.toNat % r.size))) 8)
        let x := (x.setRing p.ring (r.took s.cycle 1)).setPort m { p with latch := p.latch ++ [v] }
        State.receive (s.setCtx c x) c w rs (m :: seen)
  | _ :: rs, seen => State.receive s c w rs seen

/-- The queues, rings and ports of a context as they were. -/
def Ctx.keepIo (x old : Ctx) : Ctx := { x with q := old.q, rings := old.rings, ports := old.ports }

/-- What an instruction at LOOPE does to the loop (R64, R65): an ordinary one closes it; a control transfer, the gate
instructions and ERET among them, and REP are refused while LOOPC > 0. -/
inductive AtEnd where
  | closes | transfer
deriving DecidableEq, Repr

/-- The trap that the loop state raises before the instruction has any effect (R65, R407). -/
def Ctx.loopTrap (x : Ctx) (w : W64) (k : AtEnd) : Option TrapInfo :=
  if x.loopc ≠ 0 ∧ x.at = x.loope then
    match k with
    | .transfer => some ⟨.illegalInstruction, w, 0, false⟩
    | .closes => if x.loopc ≠ 1 ∧ x.repc ≤ 1 ∧ x.loopb.getLsbD 0 then some ⟨.align, x.loopb, 0, false⟩ else none
  else none

/-- The core does not issue for `n` cycles from now (R7, R229, R402). -/
def State.costs (s : State) (n : Nat) : State :=
  s.modCore s.cur.core (fun k => { k with nextIssue := s.cycle + n })

/-- The instruction is complete: what waited or was refused for it is forgotten. -/
def Ctx.settled (x : Ctx) : Ctx :=
  { x with
    refusal := none, sending := none, fan := none, remote := none, sysreq := none, revoke := false, reading := none, place := none }

/-- The frame of a word that a context sends goes on its way (R99). -/
def State.sendFrame (s : State) (c : CtxId) (addr : W64) : State :=
  let x := s.ctx c
  let q := x.sendingTo addr
  match ringAddr addr, q.frame with
  | some a, none =>
    ((s.modCtx c (fun x => { x with sending := some { q with frame := some s.nextSeq } })).enframe c.core (.localStore a.core 0 0 0)
      s.nextSeq .word x.phaseTag).bump
  | _, _ => s

/-- A wait without effect; one for a refresh window counts among the STALLS of WSSTAT (R150). -/
def State.stall (s : State) (c : CtxId) (w : Wait) : State :=
  let s := match w with
    | .refresh d _ => s.modCtx c (fun x => { x with stalls := Sparse.put x.stalls d.val (Sparse.get 0 x.stalls d.val + 1) })
    | .ringRoom a n => s.modCtx c (fun x => { x with sending := some { x.sendingTo a with since := some n, divert := false, away := none } })
    | .frame a => s.sendFrame c a
    | .record => s.modCtx c (fun x => { x with reading := some x.pc })
    | .ringAway a => s.modCtx c (fun x =>
        let q := x.sendingTo a
        { x with sending := some { q with away := some (q.away.getD s.cycle) } })
    | .snoop n w => s.snoop n w
    | .walk d _ => s.joinWalk c d
    | .queueRoom e => s.modCore c.core (fun k =>
        let q : EngineKind × CtxId × W64 := (e, c, (s.ctx c).pc)
        if k.entering.contains q then k else { k with entering := k.entering ++ [q] })
    | _ => s
  s.waitOn c w

/-- The trap of a completed instruction at the boundary behind it (R403): the unwind check comes first, and the trap is
taken in the frame that the check leaves, unless that frame is gone. -/
def State.trapNext (s : State) (c : CtxId) (e : TrapInfo) : State :=
  let k := (s.ctx c).depth
  if k = 0 then s.takeTrap c e
  else
    match s.unwind c with
    | .quiet => s.takeTrap c e
    | .moved t => if (t.ctx c).live && (t.ctx c).depth == k then t.takeTrap c e else t
    | .waits t w => (t.waitOn c w).modCtx c (fun x => { x with pending := some e })
    | .spill t home => (t.spillTrap c home).modCtx c (fun x => { x with pending := some e })

/-- After the effect: the PC, a trap that follows, or a wait that keeps what was done. `s` is the state before it, with what
was received in the latches; `t` the state after it. -/
def finish (len : Nat) (s t : State) (f : Flow) : State :=
  let c := t.cur
  match f with
  | .next =>
    match (t.ctx c).settled.advance len with
    | .ok x => t.setCtx c x
    | .error e => s.takeTrap c e
  | .goto p => (t.setCtx c ((t.ctx c).settled.setPc p)).costs 2
  | .done => t.modCtx c Ctx.settled
  | .trapAfter e =>
    match (t.ctx c).settled.advance len with
    | .error e' => s.takeTrap c e'
    | .ok x => (t.setCtx c x).trapNext c e
  | .hold w => (t.modCtx c (fun x => x.keepIo (s.ctx c))).stall c w
  | .park w => t.modCtx c (fun x => { (x.keepIo (s.ctx c)).settled with status := .parked w })

/-- The state a context comes to when its wait ends: READY, or executing its leader's instructions (R338, R343). -/
def Ctx.awake (x : Ctx) : CtxStatus := if x.attached then .following true else .ready

/-- A waiting instruction consumes its operand as it completes (R46): a queue pops, and a latch or else the ring gives its
word. -/
def Ctx.consume (x : Ctx) (now : Nat) (a : RegCode) : Ctx :=
  match a with
  | .g _ => x
  | .q n => x.setQueue n { x.queue n with items := (x.queue n).items.drop 1 }
  | .p m =>
    let p := x.port m
    match p.latch with
    | _ :: ws => x.setPort m { p with latch := ws }
    | [] => x.setRing p.ring ((x.ring p.ring).took now 1)

/-- A waiting instruction of `len` bytes completes: the context goes on behind it (R335, R348, R356). -/
def State.passOn (s : State) (c : CtxId) (len : Nat) : State :=
  let x := s.ctx c
  match x.settled.advance len with
  | .ok y => s.setCtx c { y with status := x.awake }
  | .error t => s.takeTrap c t

/-- Run an instruction: the checks of its operand codes, what it must check or do before it reads them, the body, and what
follows. `reads` are the operand codes it reads, in their order; `names` all that it names. A trap of the body leaves what was
received in the replay latches (R46), but for the causes of `undo`. A frozen code is refused before a transfer at LOOPE is
(assumption log 6). -/
def operateUndo (undo : Cause → Bool) (i : Instr) (e : AtEnd) (reads names : List RegCode) (pre : M Unit) (body : M Flow)
    (s : State) :
    Host.Outcome State Fault Refusal :=
  let c := s.cur
  let x := s.ctx c
  let w := Instr.word i
  .next (
    if x.depth > 0 && names.any RegCode.special then s.takeTrap c ⟨.illegalOperand, w, 0, false⟩
    else
      match x.loopTrap w e with
      | some t => s.takeTrap c t
      | none =>
        match pre s with
        | .error (.trap t) => s.takeTrap c t
        | .error (.wait v) => s.stall c v
        | .ok (_, s) =>
          match x.shortQueue reads with
          | some n => s.takeTrap c ⟨.queueEmpty, BitVec.ofNat 64 n.val, 0, false⟩
          | none =>
            match s.receive c w reads [] with
            | .error (.trap t) => s.takeTrap c t
            | .error (.wait v) => s.stall c v
            | .ok s1 =>
              match body s1 with
              | .error (.trap t) => (if undo t.cause then s else s1).takeTrap c t
              | .error (.wait v) => s.stall c v
              | .ok (f, s2) => finish i.size s1 s2 f)

/-- Run an instruction whose traps leave what it received in the replay latches (R46). -/
def operate (i : Instr) (e : AtEnd) (reads names : List RegCode) (pre : M Unit) (body : M Flow) (s : State) :
    Host.Outcome State Fault Refusal :=
  operateUndo (fun _ => false) i e reads names pre body s

/-- An instruction with nothing to check before its operands are read. -/
def run (i : Instr) (reads names : List RegCode) (body : M Flow) (s : State) : Host.Outcome State Fault Refusal :=
  operate i .closes reads names (pure ()) body s

/-! Fetching (R36 to R38). -/

/-- What a fetch asks of a halfword (R37). -/
def fetchAsk : Ask := ⟨[permX], .exec, false, 2, 1, false⟩

/-- The leader of a context that follows or may follow: context 0 of core 0 of its cluster, in the slot that R69 chooses
for the tenant (R343). -/
def State.leaderOf (s : State) (c : CtxId) : Option CtxId :=
  if c.ctx = 0 ∧ c.core.val % 8 ≠ 0 then
    (s.tenantSlot (s.partOf c.sl) ⟨c.core.val / 8 * 8, by omega⟩ c.slot).map (fun t => ⟨t.core, t.slot, 0⟩)
  else none

/-- The tenant of a slot holds another slot, on its core (R369). -/
def State.mates (s : State) (a b : SlotId) : Bool := s.slotHeld b && s.partOf b == s.partOf a

/-- The halfword at an address in a context's code: what memory holds, or a value it had before, where the agenda has chosen
one (R38). A read of the weight store waits for its refresh window (R138). -/
def State.codeHalf (s : State) (c : CtxId) (a : W64) : Except Stop Nat :=
  match s.reach c (s.ctx c).pcc fetchAsk a with
  | .trap e v pfr => .error (.trap ⟨e, v, pfr, false⟩)
  | .wait w => .error (.wait w)
  | .ok p =>
    match s.mustSnoop p.loc false with
    | some n => .error (.wait (.snoop n false))
    | none =>
      let window : Option (Fin 4 × Fin 8) := match p.loc with
        | .weight d off => if s.refreshing (wsGroup off) then some (d, wsGroup off) else none
        | _ => none
      if p.loc.inExp && (s.ctx c).badRead then .error (.trap ⟨.pageFault, a, PageReason.expansionError.code, false⟩)
      else
      match window, Sparse.find? (s.ctx c).stale (p.loc.place 0) with
      | some (d, g), _ => .error (.wait (.refresh d g))
      | none, some h => .ok h.toNat
      | none, none => .ok (s.readNat p.loc 2)

/-- The halfword that REP or LOOP looks at (R60, R64): a follower's own code capability is checked, and the leader's halfword is
taken, as it came with the instruction (R343). -/
def State.fetchHalf (s : State) (c : CtxId) (a : W64) : Except Stop Nat :=
  match s.codeHalf c a with
  | .error e => .error e
  | .ok h =>
    let x := s.ctx c
    match x.attached, x.follow, s.leaderOf c with
    | true, p :: _, some l =>
      match p.after.find? (fun q => q.1 == a) with
      | some q => .ok q.2
      | none => if s.mates c.sl l.sl then s.codeHalf l a else .ok h
    | _, _, _ => .ok h

/-- The memory-side cache holds the host lines that an instruction was fetched from (R91). -/
def State.cacheCode (s : State) (c : CtxId) (a : W64) (t : State) : State :=
  [a, a + 2].foldl (fun u h => match s.reach c (s.ctx c).pcc fetchAsk h with
    | .ok p => u.cacheHost p.loc 2 false
    | _ => u) t

/-- Fetch the instruction at an address: its bits and its length in bytes. -/
def State.fetch (s : State) (c : CtxId) (a : W64) : Except Stop (Nat × Nat) :=
  match s.codeHalf c a with
  | .error e => .error e
  | .ok h =>
    if h % 2 = 0 then .ok (h, 2)
    else
      match s.codeHalf c (a + 2) with
      | .error e => .error e
      | .ok g => .ok (h + g * 2 ^ 16, 4)

end Sys2Proof.Machine
end

