-- ==== Sys2Proof/Machine/Flags.lean ====
section
/-! DEFINITION. Machine/Flags.lean: number formats (R197 to R202), exact values, rounding with its flags (R208 to R210),
stochastic bits (R212, R213), conversions (R211), and the arithmetic of IEEE 754-2019 as R200 takes it. -/
namespace Sys2Proof.Machine

/-! Flags, in the bit positions of FFLAGS (R227). -/
/-- NX. -/
def fNX : BitVec 5 := 1
/-- UF. -/
def fUF : BitVec 5 := 2
/-- OF. -/
def fOF : BitVec 5 := 4
/-- DZ. -/
def fDZ : BitVec 5 := 8
/-- NV. -/
def fNV : BitVec 5 := 16

/-- A floating-point format (R199): exponent and mantissa bits, bias, whether it has infinity, whether it has NaN (and
whether only one, always quiet), and its largest finite value m · 2^e. -/
structure FFmt where
  e      : Nat
  m      : Nat
  bias   : Int
  inf    : Bool
  nan    : Bool
  oneNan : Bool
  maxM   : Nat
  maxE   : Int
deriving DecidableEq, Repr

/-- FP64. -/
def fp64 : FFmt := ⟨11, 52, 1023, true, true, false, 0x1FFFFFFFFFFFFF, 971⟩
/-- FP32. -/
def fp32 : FFmt := ⟨8, 23, 127, true, true, false, 0xFFFFFF, 104⟩
/-- FP16. -/
def fp16 : FFmt := ⟨5, 10, 15, true, true, false, 0x7FF, 5⟩
/-- BF16. -/
def bf16 : FFmt := ⟨8, 7, 127, true, true, false, 0xFF, 120⟩
/-- FP8E4M3. -/
def fp8e4m3 : FFmt := ⟨4, 3, 7, false, true, true, 14, 5⟩
/-- FP8E5M2. -/
def fp8e5m2 : FFmt := ⟨5, 2, 15, true, true, false, 7, 13⟩
/-- FP6E3M2. -/
def fp6e3m2 : FFmt := ⟨3, 2, 3, false, false, false, 7, 2⟩
/-- FP6E2M3. -/
def fp6e2m3 : FFmt := ⟨2, 3, 1, false, false, false, 15, -1⟩
/-- FP4E2M1. -/
def fp4e2m1 : FFmt := ⟨2, 1, 1, false, false, false, 3, 1⟩

/-- The least exponent of a normal number. -/
def FFmt.emin (f : FFmt) : Int := 1 - f.bias
/-- The width in bits. -/
def FFmt.width (f : FFmt) : Nat := 1 + f.e + f.m
/-- All ones of the exponent field. -/
def FFmt.ones (f : FFmt) : Nat := 2 ^ f.e - 1

/-- The canonical NaN (R201); for a format without NaN, +0 (R209). -/
def FFmt.cnan (f : FFmt) : Nat :=
  if f.nan = false then 0
  else if f.oneNan then 2 ^ (f.e + f.m) - 1
  else f.ones * 2 ^ f.m + 2 ^ (f.m - 1)
/-- The sign bit in its place. -/
def FFmt.sign (f : FFmt) (neg : Bool) : Nat := if neg then 2 ^ (f.e + f.m) else 0
/-- ±∞. -/
def FFmt.infBits (f : FFmt) (neg : Bool) : Nat := f.sign neg + f.ones * 2 ^ f.m

/-! Values. -/

/-- An exact value: NaN, ±∞, or ±(m + δ)·2^e with 0 < δ < 1 where `sticky`, δ = 0 else. Zero keeps its sign. -/
inductive Val where
  | nan (signalling : Bool)
  | inf (neg : Bool)
  | fin (neg : Bool) (m : Nat) (e : Int) (sticky : Bool)
deriving DecidableEq, Repr

/-- Zero of a sign. -/
def Val.zero (neg : Bool) : Val := .fin neg 0 0 false
/-- An integer as a value. -/
def Val.ofInt (n : Int) : Val := .fin (decide (n < 0)) n.natAbs 0 false
/-- The value is a NaN. -/
def Val.isNan : Val → Bool
  | .nan _ => true
  | _ => false
/-- The value is a signalling NaN. -/
def Val.isSnan : Val → Bool
  | .nan s => s
  | _ => false
/-- The value is ±0. -/
def Val.isZero : Val → Bool
  | .fin _ 0 _ false => true
  | _ => false
/-- The sign; a NaN's has no meaning (R199). -/
def Val.neg? : Val → Bool
  | .nan _ => false
  | .inf n => n
  | .fin n _ _ _ => n
/-- The value with the other sign. -/
def Val.negate : Val → Val
  | .nan s => .nan s
  | .inf n => .inf (!n)
  | .fin n m e s => .fin (!n) m e s
/-- The magnitude. -/
def Val.abs : Val → Val
  | .nan s => .nan s
  | .inf _ => .inf false
  | .fin _ m e s => .fin false m e s
/-- Times a power of two. -/
def Val.scale (k : Int) : Val → Val
  | .fin n m e s => .fin n m (e + k) s
  | v => v

/-- The value of a bit pattern of a format (R199). -/
def FFmt.val (f : FFmt) (w : Nat) : Val :=
  let neg := decide (w / 2 ^ (f.e + f.m) % 2 = 1)
  let ex := w / 2 ^ f.m % 2 ^ f.e
  let m := w % 2 ^ f.m
  if f.oneNan && ex == f.ones && m == 2 ^ f.m - 1 then .nan false
  else if f.inf && ex == f.ones then
    if m = 0 then .inf neg else .nan (decide (m < 2 ^ (f.m - 1)))
  else if ex = 0 then .fin neg m (f.emin - f.m) false
  else .fin neg (m + 2 ^ f.m) ((ex : Int) - f.bias - f.m) false

/-! Rounding (R208, R209). -/

/-- Whether a magnitude between two grid points, `rem` (and δ) of 2^sh above the lower one, goes up to the higher one: by
mode, sign, evenness of the lower one, and the bits r of R213 for SR; with δ > 0 the callers keep sh ≥ 24. -/
def roundsUp (mode : Nat) (neg : Bool) (odd : Bool) (sh rem : Nat) (sticky : Bool) (r : Nat) : Bool :=
  let half := 2 ^ sh
  let twice := 2 * rem
  match mode with
  | 0 => decide (half < twice) || (decide (twice = half) && (sticky || odd))
  | 1 => false
  | 2 => neg && (rem != 0 || sticky)
  | 3 => !neg && (rem != 0 || sticky)
  | 4 => decide (half ≤ twice)
  | _ =>
    if rem = 0 ∧ sticky = false then false
    else if neg then !decide (r * 2 ^ sh + rem * 2 ^ 24 < 2 ^ sh * 2 ^ 24)
    else decide (r * 2 ^ sh < rem * 2 ^ 24 ∨ (sticky = true ∧ r * 2 ^ sh = rem * 2 ^ 24))

/-- A magnitude (m + δ)·2^e on the grid of multiples of 2^q: the multiple, and whether it is inexact. -/
def onGrid (mode : Nat) (neg : Bool) (m : Nat) (e q : Int) (sticky : Bool) (r : Nat) : Nat × Bool :=
  if q ≤ e then (m * 2 ^ (e - q).toNat, sticky)
  else
    let sh := (q - e).toNat
    let lo := m / 2 ^ sh
    let rem := m % 2 ^ sh
    (if roundsUp mode neg (lo % 2 = 1) sh rem sticky r then lo + 1 else lo, rem != 0 || sticky)

/-- Compare magnitudes m·2^e. -/
def magLt (m : Nat) (e : Int) (n : Nat) (g : Int) : Bool :=
  if e ≤ g then decide (m < n * 2 ^ (g - e).toNat) else decide (m * 2 ^ (e - g).toNat < n)

/-- The bits of a magnitude on the grid of a format: M·2^q with q the exponent of the last place. -/
def FFmt.pack (f : FFmt) (neg : Bool) (m : Nat) (q : Int) : Nat :=
  if m = 0 then f.sign neg
  else
    let top := Nat.log2 m
    let ex : Int := q + top
    if ex < f.emin then f.sign neg + m * 2 ^ (q - (f.emin - f.m)).toNat
    else
      let mant := if top ≤ f.m then m * 2 ^ (f.m - top) else m / 2 ^ (top - f.m)
      f.sign neg + (ex + f.bias).toNat * 2 ^ f.m + mant % 2 ^ f.m

/-- The largest finite number. -/
def FFmt.maxBits (f : FFmt) (neg : Bool) : Nat := f.pack neg f.maxM f.maxE

/-- The result of an overflow (R209). -/
def FFmt.overflow (f : FFmt) (sat : Bool) (mode : Nat) (neg : Bool) : Nat :=
  if f.inf = false ∨ sat = true then f.maxBits neg
  else
    match mode with
    | 1 => f.maxBits neg
    | 2 => if neg then f.infBits true else f.maxBits false
    | 3 => if neg then f.maxBits true else f.infBits false
    | _ => f.infBits neg

/-- round(v, f, m), and round_sat where `sat` (R209), with the flags of R210. `r` are the bits of R213 for mode SR. -/
def FFmt.round (f : FFmt) (sat : Bool) (mode : Nat) (r : Nat) (v : Val) : Nat × BitVec 5 :=
  match v with
  | .nan s => if f.nan then (f.cnan, if s then fNV else 0) else (0, fNV)
  | .inf n => if f.inf && !sat then (f.infBits n, 0) else (f.maxBits n, fNV)
  | .fin neg m e sticky =>
    if m = 0 then (f.sign neg, 0)
    else
      let ex : Int := e + Nat.log2 m
      let q := max (ex - f.m) (f.emin - f.m)
      let beyond := magLt f.maxM f.maxE m e || (sticky && !magLt m e f.maxM f.maxE)
      if beyond && mode == 5 then
        let near := onGrid 0 neg m e q sticky r
        if magLt f.maxM f.maxE near.1 q then (f.overflow sat 5 neg, fOF ||| fNX) else (f.maxBits neg, fNX)
      else
        let (g, inexact) := onGrid mode neg m e q sticky r
        if magLt f.maxM f.maxE g q then (f.overflow sat mode neg, fOF ||| fNX)
        else
          let tiny : Bool :=
            if f.emin ≤ ex then false
            else if ex + 1 < f.emin then true
            else (onGrid mode neg m e (ex - f.m) sticky r).1 < 2 ^ (f.m + 1)
          (f.pack neg g q, (if inexact then fNX else 0) ||| (if inexact && tiny then fUF else 0))

/-- A value rounded to an integer in a mode, and whether that is inexact; 0 for what is not finite. -/
def Val.roundInt (mode : Nat) (r : Nat) : Val → Int × Bool
  | .fin neg m e sticky =>
    let (g, x) := onGrid mode neg m e 0 sticky r
    (if neg then -(g : Int) else g, x)
  | _ => (0, false)

/-! Stochastic bits (R213). -/

/-- srbits (R213). -/
def srbits (seed seq : W64) (idx : Nat) : Nat :=
  let x := seed ^^^ (seq * 0x9E3779B97F4A7C15) ^^^ (BitVec.ofNat 64 idx * 0xD1B54A32D192ED03)
  let x := (x ^^^ (x >>> 30)) * 0xBF58476D1CE4E5B9
  let x := (x ^^^ (x >>> 27)) * 0x94D049BB133111EB
  let x := x ^^^ (x >>> 31)
  (x >>> 40).toNat

/-! Arithmetic on values. -/

/-- An exact sum of finite values, with the sign of an exact zero (IEEE 754-2019): −0 in mode RDN unless both are +0. -/
def addFin (mode : Nat) (n1 : Bool) (m1 : Nat) (e1 : Int) (n2 : Bool) (m2 : Nat) (e2 : Int) : Val :=
  if m1 = 0 ∧ m2 = 0 then Val.zero (if n1 = n2 then n1 else mode == 2)
  else
    let e := min e1 e2
    let a : Int := m1 * 2 ^ (e1 - e).toNat
    let b : Int := m2 * 2 ^ (e2 - e).toNat
    let s : Int := (if n1 then -a else a) + (if n2 then -b else b)
    if s = 0 then Val.zero (mode == 2) else .fin (decide (s < 0)) s.natAbs e false

/-- x + y, and NV for ∞ − ∞ or a signalling NaN. -/
def addV (mode : Nat) (x y : Val) : Val × BitVec 5 :=
  if x.isNan || y.isNan then (.nan false, if x.isSnan || y.isSnan then fNV else 0)
  else
    match x, y with
    | .inf a, .inf b => if a = b then (.inf a, 0) else (.nan false, fNV)
    | .inf a, _ => (.inf a, 0)
    | _, .inf b => (.inf b, 0)
    | .fin n1 m1 e1 _, .fin n2 m2 e2 _ => (addFin mode n1 m1 e1 n2 m2 e2, 0)
    | _, _ => (.nan false, 0)

/-- x · y exactly, and NV for ∞ · 0 or a signalling NaN. -/
def mulV (x y : Val) : Val × BitVec 5 :=
  if x.isNan || y.isNan then (.nan false, if x.isSnan || y.isSnan then fNV else 0)
  else
    let n := x.neg? != y.neg?
    match x, y with
    | .fin _ m1 e1 _, .fin _ m2 e2 _ => (.fin n (m1 * m2) (e1 + e2) false, 0)
    | x, y => if x.isZero || y.isZero then (.nan false, fNV) else (.inf n, 0)

/-- x / y with enough bits for every rounding, and its flags (R210). -/
def divV (x y : Val) : Val × BitVec 5 :=
  if x.isNan || y.isNan then (.nan false, if x.isSnan || y.isSnan then fNV else 0)
  else
    let n := x.neg? != y.neg?
    match x, y with
    | .inf _, .inf _ => (.nan false, fNV)
    | .inf _, _ => (.inf n, 0)
    | _, .inf _ => (Val.zero n, 0)
    | .fin _ m1 e1 _, .fin _ m2 e2 _ =>
      if m2 = 0 then (if m1 = 0 then (.nan false, fNV) else (.inf n, fDZ))
      else if m1 = 0 then (Val.zero n, 0)
      else
        let k := 100 + Nat.log2 m2 - Nat.log2 m1
        let a := m1 * 2 ^ k
        (.fin n (a / m2) (e1 - e2 - k) (a % m2 != 0), 0)
    | _, _ => (.nan false, 0)

/-- The integer square root, bit by bit from 2^k down. -/
def isqrtFrom (n : Nat) : Nat → Nat → Nat
  | 0, r => if (r + 1) * (r + 1) ≤ n then r + 1 else r
  | k + 1, r => isqrtFrom n k (if (r + 2 ^ (k + 1)) * (r + 2 ^ (k + 1)) ≤ n then r + 2 ^ (k + 1) else r)

/-- √x with enough bits for every rounding; √−0 = −0; NV below 0 (R222). -/
def sqrtV (x : Val) : Val × BitVec 5 :=
  match x with
  | .nan s => (.nan false, if s then fNV else 0)
  | .inf n => if n then (.nan false, fNV) else (.inf false, 0)
  | .fin n m e _ =>
    if m = 0 then (Val.zero n, 0)
    else if n then (.nan false, fNV)
    else
      let k : Nat := if (e - 200) % 2 = 0 then 200 else 201
      let a := m * 2 ^ k
      let r := isqrtFrom a (Nat.log2 a / 2 + 1) 0
      (.fin false r ((e - k) / 2) (r * r != a), 0)

/-- ±(x · y) + z with one rounding to come (R224). -/
def fmaV (mode : Nat) (n : Bool) (x y z : Val) : Val × BitVec 5 :=
  let p := mulV x y
  let q := if n then p.1.negate else p.1
  let r := addV mode q z
  (r.1, p.2 ||| r.2)

/-- x < y for values that are no NaN; −0 and +0 are equal. -/
def ltV (x y : Val) : Bool :=
  match x, y with
  | .inf a, .inf b => a && !b
  | .inf a, _ => a
  | _, .inf b => !b
  | .fin n1 m1 e1 _, .fin n2 m2 e2 _ =>
    if m1 = 0 ∧ m2 = 0 then false
    else if m1 = 0 then !n2
    else if m2 = 0 then n1
    else if n1 = n2 then (if n1 then magLt m2 e2 m1 e1 else magLt m1 e1 m2 e2)
    else n1
  | _, _ => false
/-- x = y for values that are no NaN. -/
def eqV (x y : Val) : Bool := !ltV x y && !ltV y x

/-- Whether the lower operand is the first one, −0 below +0 (R222). -/
def leZero (x y : Val) : Bool := ltV x y || (eqV x y && (x.neg? || !y.neg?))

/-- FMIN and FMAX pick an operand: minimumNumber and maximumNumber, or minimum and maximum where `strict` (R222). -/
def pickV (max_ strict : Bool) (x y : Val) : Option Bool × BitVec 5 :=
  let fl : BitVec 5 := if x.isSnan || y.isSnan then fNV else 0
  if x.isNan && y.isNan then (none, fl)
  else if x.isNan then (if strict then none else some false, fl)
  else if y.isNan then (if strict then none else some true, fl)
  else (some (leZero x y != max_), fl)

/-- FCLASS (R223): the number of the bit. -/
def FFmt.classBit (f : FFmt) (v : Val) : Nat :=
  match v with
  | .nan s => if s then 8 else 9
  | .inf n => if n then 0 else 7
  | .fin n m e _ =>
    if m = 0 then (if n then 3 else 4)
    else
      let sub := decide (e + Nat.log2 m < f.emin)
      if n then (if sub then 2 else 1) else (if sub then 5 else 6)

/-! Conversions to integers (R211). -/

/-- A value to an integer of n bits: the bits mod 2^n, or clamped, with the flags (R211). -/
def Val.toIntBits (n : Nat) (signed sat : Bool) (mode r : Nat) (v : Val) : Nat × BitVec 5 :=
  let lo : Int := if signed then -(2 ^ (n - 1) : Nat) else 0
  let hi : Int := if signed then (2 ^ (n - 1) : Nat) - 1 else (2 ^ n : Nat) - 1
  let bits : Int → Nat := fun t => (t % (2 ^ n : Nat)).toNat
  match v with
  | .nan _ => (0, fNV)
  | .inf ng => (if sat then bits (if ng then lo else hi) else 0, fNV)
  | v =>
    let (t, x) := v.roundInt mode r
    if t < lo ∨ hi < t then (bits (if sat then (if t < lo then lo else hi) else t), fNV)
    else (bits t, if x then fNX else 0)

/-- The exact integer of the low n bits of a word. -/
def intOf (n : Nat) (signed : Bool) (w : Nat) : Int :=
  let u := w % 2 ^ n
  if signed ∧ 2 ^ (n - 1) ≤ u then (u : Int) - (2 ^ n : Nat) else u

/-- An integer to an integer of n bits: mod 2^n, or clamped (R211). -/
def intToInt (n : Nat) (signed sat : Bool) (v : Int) : Nat :=
  let lo : Int := if signed then -(2 ^ (n - 1) : Nat) else 0
  let hi : Int := if signed then (2 ^ (n - 1) : Nat) - 1 else (2 ^ n : Nat) - 1
  ((if sat then (if v < lo then lo else if hi < v then hi else v) else v) % (2 ^ n : Nat)).toNat

end Sys2Proof.Machine
end

