-- ==== Sys2Proof/Machine/Operands.lean ====
section
/-! DEFINITION. Machine/Operands.lean: the operand forms that the scalar instructions share: one, two or three data
sources and a data destination (R215), the floating-point register forms (R173, R222, R225), a load or store address
(R40, R139), and the floating-point flags of a scalar instruction (R210, R212). -/
namespace Sys2Proof.Machine

/-! Integer forms (R215). -/

/-- d := f(a, b). -/
def alu3 (i : Instr) (d a b : RegCode) (f : W64 → W64 → W64) (s : State) : Host.Outcome State Fault Refusal :=
  run i [a, b] [d, a, b] (do
    let x ← readData a
    let y ← readData b
    writeData (Instr.word i) d (f x y)
    pure .next) s

/-- d := f(a, b, d): d is read after a and b (R46). -/
def alu4 (i : Instr) (d a b : RegCode) (f : W64 → W64 → W64 → W64) (s : State) : Host.Outcome State Fault Refusal :=
  run i [a, b, d] [d, a, b] (do
    let x ← readData a
    let y ← readData b
    let z ← readData d
    writeData (Instr.word i) d (f x y z)
    pure .next) s

/-- d := f(a). -/
def alu2 (i : Instr) (d a : RegCode) (f : W64 → W64) (s : State) : Host.Outcome State Fault Refusal :=
  run i [a] [d, a] (do
    let x ← readData a
    writeData (Instr.word i) d (f x)
    pure .next) s

/-- d := a value. -/
def alu1 (i : Instr) (d : RegCode) (v : W64) (s : State) : Host.Outcome State Fault Refusal :=
  run i [] [d] (do
    writeData (Instr.word i) d v
    pure .next) s

/-- A 13-bit immediate, sign-extended (R40). -/
def imm13 (k : BitVec 13) : W64 := k.signExtend 64
/-- 1 or 0. -/
def ofBool (b : Bool) : W64 := if b then 1 else 0
/-- The low 32 bits, sign-extended (R217). -/
def sx32 (x : W64) : W64 := (x.setWidth 32).signExtend 64
/-- Clamp to the range of a signed 64-bit number (R217). -/
def clamp64 (z : Int) : W64 :=
  BitVec.ofInt 64 (if z < -(2 ^ 63 : Int) then -(2 ^ 63) else if z > 2 ^ 63 - 1 then 2 ^ 63 - 1 else z)

/-- The number of one bits. -/
def popBits (x : W64) : Nat := (List.range 64).countP (fun i => x.getLsbD i)
/-- The number of zero bits above the highest one bit, 64 for 0. -/
def leadZeros (x : W64) : Nat := if x = 0 then 64 else 63 - Nat.log2 x.toNat
/-- The number of zero bits below the lowest one bit, 64 for 0. -/
def trailZeros (x : W64) : Nat := ((List.range 64).find? (fun i => x.getLsbD i)).getD 64
/-- The number whose bit i is `f i`, for i below n. -/
def ofBits (f : Nat → Bool) : Nat → Nat
  | 0 => 0
  | n + 1 => ofBits f n + (if f n then 2 ^ n else 0)
/-- The 128-bit carry-less product (R217). -/
def clmulNat (x y : W64) : Nat :=
  (List.range 64).foldl (fun acc i => if y.getLsbD i then acc ^^^ (x.toNat * 2 ^ i) else acc) 0

/-- EXTR (R218). -/
def extrVal (x y : W64) : W64 :=
  let p := (y.extractLsb' 0 6).toNat
  let w := min ((y.extractLsb' 6 6).toNat + 1) (64 - p)
  let f := x.toNat / 2 ^ p % 2 ^ w
  if y.getLsbD 12 ∧ 2 ^ (w - 1) ≤ f then BitVec.ofInt 64 ((f : Int) - (2 ^ w : Nat)) else BitVec.ofNat 64 f
/-- INSR (R218). -/
def insrVal (x y r : W64) : W64 :=
  let p := (y.extractLsb' 0 6).toNat
  let w := min ((y.extractLsb' 6 6).toNat + 1) (64 - p)
  let m : W64 := BitVec.ofNat 64 ((2 ^ w - 1) * 2 ^ p)
  (r &&& ~~~m) ||| ((x <<< p) &&& m)

/-- DIV (R218). -/
def divS (x y : W64) : W64 :=
  if y = 0 then BitVec.allOnes 64 else BitVec.ofInt 64 (x.toInt.tdiv y.toInt)
/-- REM (R218). -/
def remS (x y : W64) : W64 := if y = 0 then x else BitVec.ofInt 64 (x.toInt.tmod y.toInt)
/-- DIVN (R218). -/
def divU (x y : W64) : W64 := if y = 0 then BitVec.allOnes 64 else x / y
/-- REMN (R218). -/
def remU (x y : W64) : W64 := if y = 0 then x else x % y

/-! Floating-point forms (R173, R222, R225). -/

/-- The format of a precision. -/
def Prec.fmt : Prec → FFmt
  | .d => fp64
  | .s => fp32

/-- An FP32 value as it is read from 64 bits: boxed, or the canonical NaN (R173). -/
def unbox32 (x : W64) : Nat := if x >>> 32 = 0xFFFFFFFF then x.toNat % 2 ^ 32 else 0x7FC00000
/-- The boxed form of an FP32 value. -/
def box32 (w : Nat) : W64 := 0xFFFFFFFF00000000 ||| BitVec.ofNat 64 (w % 2 ^ 32)
/-- A 16-bit floating-point value as it is read from a register (R225). -/
def unbox16 (f : FFmt) (x : W64) : Nat := if x >>> 16 = 0xFFFFFFFFFFFF then x.toNat % 2 ^ 16 else f.cnan
/-- The boxed form of a 16-bit value. -/
def box16 (w : Nat) : W64 := 0xFFFFFFFFFFFF0000 ||| BitVec.ofNat 64 (w % 2 ^ 16)
/-- The bits of an operand of a precision. -/
def fpIn (p : Prec) (x : W64) : Nat :=
  match p with
  | .d => x.toNat
  | .s => unbox32 x
/-- A result of a precision as it is written. -/
def fpOut (p : Prec) (w : Nat) : W64 :=
  match p with
  | .d => BitVec.ofNat 64 w
  | .s => box32 w

/-- Raise flags: FP_TRAP where one is enabled, TVAL the flags; else they are ORed into FFLAGS (R210). SRSEQ advances where
the mode is SR (R212). -/
def raiseFlags (mode : Nat) (fl : BitVec 5) : M Unit := do
  let x ← me
  if fl &&& x.frm.extractLsb' 6 5 ≠ 0 then raise .fpTrap (fl.setWidth 64)
  else edit (fun y => { y with
    fflags := y.fflags ||| fl, srseq := if mode = 5 then y.srseq + 1 else y.srseq })

/-- The rounding mode of FRM. -/
def Ctx.mode (x : Ctx) : Nat := (x.frm.extractLsb' 0 3).toNat
/-- The bits of R213 for a scalar instruction. -/
def Ctx.draw (x : Ctx) : Nat := srbits x.srseed x.srseq 0

/-- A floating-point operation of two sources: f gives the written word and the flags from the mode, the bits of R213 and
the operands' bits. -/
def fp3 (i : Instr) (p : Prec) (d a b : RegCode) (f : Nat → Nat → Nat → Nat → W64 × BitVec 5) (s : State) :
    Host.Outcome State Fault Refusal :=
  run i [a, b] [d, a, b] (do
    let x ← readData a
    let y ← readData b
    let c ← me
    let r := f c.mode c.draw (fpIn p x) (fpIn p y)
    raiseFlags c.mode r.2
    writeData (Instr.word i) d r.1
    pure .next) s

/-- A floating-point operation of one source. -/
def fp2 (i : Instr) (p : Prec) (d a : RegCode) (f : Nat → Nat → Nat → W64 × BitVec 5) (s : State) :
    Host.Outcome State Fault Refusal :=
  run i [a] [d, a] (do
    let x ← readData a
    let c ← me
    let r := f c.mode c.draw (fpIn p x)
    raiseFlags c.mode r.2
    writeData (Instr.word i) d r.1
    pure .next) s

/-- Round a value of an operation, with the operation's own flags. -/
def roundOut (p : Prec) (mode r : Nat) (v : Val × BitVec 5) : W64 × BitVec 5 :=
  let o := (Prec.fmt p).round false mode r v.1
  (fpOut p o.1, v.2 ||| o.2)

/-! Addresses (R40, R139). -/

/-- cap[63:0] + signed(off8) · size. -/
def addrOf (cap : Reg) (off : BitVec 8) (size : Nat) : W64 :=
  cap.lo + off.signExtend 64 * BitVec.ofNat 64 size

end Sys2Proof.Machine
end

