-- ==== Sys2Proof/Machine/Alu.lean ====
section
/-! DEFINITION. Machine/Alu.lean: the ALU group (R217, R218). -/
namespace Sys2Proof.Machine

/-- ADD (R217). -/
def execAdd (d a b : RegCode) (s : State) : Host.Outcome State Fault Refusal :=
  alu3 (.add d a b) d a b (fun x y => x + y) s
/-- SUB (R217). -/
def execSub (d a b : RegCode) (s : State) : Host.Outcome State Fault Refusal :=
  alu3 (.sub d a b) d a b (fun x y => x - y) s
/-- MUL (R217). -/
def execMul (d a b : RegCode) (s : State) : Host.Outcome State Fault Refusal :=
  alu3 (.mul d a b) d a b (fun x y => x * y) s
/-- MULH (R217). -/
def execMulh (d a b : RegCode) (s : State) : Host.Outcome State Fault Refusal :=
  alu3 (.mulh d a b) d a b (fun x y => BitVec.ofInt 64 (x.toInt * y.toInt / 2 ^ 64)) s
/-- MULHN (R217). -/
def execMulhn (d a b : RegCode) (s : State) : Host.Outcome State Fault Refusal :=
  alu3 (.mulhn d a b) d a b (fun x y => BitVec.ofNat 64 (x.toNat * y.toNat / 2 ^ 64)) s
/-- DIV (R217, R218). -/
def execDiv (d a b : RegCode) (s : State) : Host.Outcome State Fault Refusal :=
  alu3 (.div d a b) d a b (fun x y => divS x y) s
/-- DIVN (R217, R218). -/
def execDivn (d a b : RegCode) (s : State) : Host.Outcome State Fault Refusal :=
  alu3 (.divn d a b) d a b (fun x y => divU x y) s
/-- REM (R217, R218). -/
def execRem (d a b : RegCode) (s : State) : Host.Outcome State Fault Refusal :=
  alu3 (.rem d a b) d a b (fun x y => remS x y) s
/-- REMN (R217, R218). -/
def execRemn (d a b : RegCode) (s : State) : Host.Outcome State Fault Refusal :=
  alu3 (.remn d a b) d a b (fun x y => remU x y) s
/-- AND (R217). -/
def execAnd (d a b : RegCode) (s : State) : Host.Outcome State Fault Refusal :=
  alu3 (.and_ d a b) d a b (fun x y => x &&& y) s
/-- OR (R217). -/
def execOr (d a b : RegCode) (s : State) : Host.Outcome State Fault Refusal :=
  alu3 (.or_ d a b) d a b (fun x y => x ||| y) s
/-- XOR (R217). -/
def execXor (d a b : RegCode) (s : State) : Host.Outcome State Fault Refusal :=
  alu3 (.xor d a b) d a b (fun x y => x ^^^ y) s
/-- ANDN (R217). -/
def execAndn (d a b : RegCode) (s : State) : Host.Outcome State Fault Refusal :=
  alu3 (.andn d a b) d a b (fun x y => x &&& ~~~y) s
/-- SHL (R217). -/
def execShl (d a b : RegCode) (s : State) : Host.Outcome State Fault Refusal :=
  alu3 (.shl d a b) d a b (fun x y => x <<< (y.toNat % 64)) s
/-- SHR (R217). -/
def execShr (d a b : RegCode) (s : State) : Host.Outcome State Fault Refusal :=
  alu3 (.shr d a b) d a b (fun x y => x >>> (y.toNat % 64)) s
/-- SAR (R217). -/
def execSar (d a b : RegCode) (s : State) : Host.Outcome State Fault Refusal :=
  alu3 (.sar d a b) d a b (fun x y => x.sshiftRight (y.toNat % 64)) s
/-- ROL (R217). -/
def execRol (d a b : RegCode) (s : State) : Host.Outcome State Fault Refusal :=
  alu3 (.rol d a b) d a b (fun x y => x.rotateLeft (y.toNat % 64)) s
/-- ROR (R217). -/
def execRor (d a b : RegCode) (s : State) : Host.Outcome State Fault Refusal :=
  alu3 (.ror d a b) d a b (fun x y => x.rotateRight (y.toNat % 64)) s
/-- SLT (R217). -/
def execSlt (d a b : RegCode) (s : State) : Host.Outcome State Fault Refusal :=
  alu3 (.slt d a b) d a b (fun x y => ofBool (x.slt y)) s
/-- SLTN (R217). -/
def execSltn (d a b : RegCode) (s : State) : Host.Outcome State Fault Refusal :=
  alu3 (.sltn d a b) d a b (fun x y => ofBool (x.ult y)) s
/-- SEQ (R217). -/
def execSeq (d a b : RegCode) (s : State) : Host.Outcome State Fault Refusal :=
  alu3 (.seq d a b) d a b (fun x y => ofBool (x == y)) s
/-- MIN (R217). -/
def execMin (d a b : RegCode) (s : State) : Host.Outcome State Fault Refusal :=
  alu3 (.min d a b) d a b (fun x y => if x.slt y then x else y) s
/-- MAX (R217). -/
def execMax (d a b : RegCode) (s : State) : Host.Outcome State Fault Refusal :=
  alu3 (.max d a b) d a b (fun x y => if x.slt y then y else x) s
/-- MINN (R217). -/
def execMinn (d a b : RegCode) (s : State) : Host.Outcome State Fault Refusal :=
  alu3 (.minn d a b) d a b (fun x y => if x.ult y then x else y) s
/-- MAXN (R217). -/
def execMaxn (d a b : RegCode) (s : State) : Host.Outcome State Fault Refusal :=
  alu3 (.maxn d a b) d a b (fun x y => if x.ult y then y else x) s
/-- CLZ (R217). -/
def execClz (d a : RegCode) (s : State) : Host.Outcome State Fault Refusal :=
  alu2 (.clz d a) d a (fun x => BitVec.ofNat 64 (leadZeros x)) s
/-- CTZ (R217). -/
def execCtz (d a : RegCode) (s : State) : Host.Outcome State Fault Refusal :=
  alu2 (.ctz d a) d a (fun x => BitVec.ofNat 64 (trailZeros x)) s
/-- POPC (R217). -/
def execPopc (d a : RegCode) (s : State) : Host.Outcome State Fault Refusal :=
  alu2 (.popc d a) d a (fun x => BitVec.ofNat 64 (popBits x)) s
/-- BREV (R217). -/
def execBrev (d a : RegCode) (s : State) : Host.Outcome State Fault Refusal :=
  alu2 (.brev d a) d a (fun x => BitVec.ofNat 64 (ofBits (fun i => x.getLsbD (63 - i)) 64)) s
/-- BSWAP (R217). -/
def execBswap (d a : RegCode) (s : State) : Host.Outcome State Fault Refusal :=
  alu2 (.bswap d a) d a (fun x => BitVec.ofNat 64 (ofBits (fun i => x.getLsbD (8 * (7 - i / 8) + i % 8)) 64)) s
/-- CLMUL (R217). -/
def execClmul (d a b : RegCode) (s : State) : Host.Outcome State Fault Refusal :=
  alu3 (.clmul d a b) d a b (fun x y => BitVec.ofNat 64 (clmulNat x y)) s
/-- CLMULH (R217). -/
def execClmulh (d a b : RegCode) (s : State) : Host.Outcome State Fault Refusal :=
  alu3 (.clmulh d a b) d a b (fun x y => BitVec.ofNat 64 (clmulNat x y / 2 ^ 64)) s
/-- ADDW (R217). -/
def execAddw (d a b : RegCode) (s : State) : Host.Outcome State Fault Refusal :=
  alu3 (.addw d a b) d a b (fun x y => sx32 (x + y)) s
/-- SUBW (R217). -/
def execSubw (d a b : RegCode) (s : State) : Host.Outcome State Fault Refusal :=
  alu3 (.subw d a b) d a b (fun x y => sx32 (x - y)) s
/-- MULW (R217). -/
def execMulw (d a b : RegCode) (s : State) : Host.Outcome State Fault Refusal :=
  alu3 (.mulw d a b) d a b (fun x y => sx32 (x * y)) s
/-- SEL (R217, R218): d is read after a and b. -/
def execSel (d a b : RegCode) (s : State) : Host.Outcome State Fault Refusal :=
  alu4 (.sel d a b) d a b (fun x y z => if z ≠ 0 then x else y) s
/-- EXTR (R217, R218). -/
def execExtr (d a b : RegCode) (s : State) : Host.Outcome State Fault Refusal :=
  alu3 (.extr d a b) d a b extrVal s
/-- INSR (R217, R218): d is read after a and b. -/
def execInsr (d a b : RegCode) (s : State) : Host.Outcome State Fault Refusal :=
  alu4 (.insr d a b) d a b (fun x y z => insrVal x y z) s
/-- ADDS (R217). -/
def execAdds (d a b : RegCode) (s : State) : Host.Outcome State Fault Refusal :=
  alu3 (.adds d a b) d a b (fun x y => clamp64 (x.toInt + y.toInt)) s
/-- SUBS (R217). -/
def execSubs (d a b : RegCode) (s : State) : Host.Outcome State Fault Refusal :=
  alu3 (.subs d a b) d a b (fun x y => clamp64 (x.toInt - y.toInt)) s

end Sys2Proof.Machine
end

