-- ==== Sys2Proof/Machine/Branch.lean ====
section
/-! DEFINITION. Machine/Branch.lean: branches (R228, R229) with belay (R341), JAL, JALR and RET (R230), LOOP (R63 to R65) and
REP (R59 to R62). -/
namespace Sys2Proof.Machine
open Sys2Proof

/-! Belay (R341, R342). -/

/-- An instruction that may stand in the path of a belay-eligible branch besides its load: majors 00 to 09 and 16 to 1B and
the 16-bit forms but five, naming no q or p code; and the load itself (R341). -/
def Instr.onPath (i : Instr) : Bool :=
  let w := encode i
  if w % 2 = 0 then
    let op := fld w 1 4
    decide (fld w 5 6 < 32) && op != 10 && op != 11 && !(op == 15 && (fld w 11 5 == 1 || fld w 11 5 == 2 || fld w 11 5 == 4))
  else
    let m := fld w 1 6
    let d := decide (fld w 7 6 < 32)
    let a := decide (fld w 13 6 < 32)
    if m = 0 then d && a && decide (fld w 19 6 < 32)
    else if m ≤ 8 then d && a
    else if m = 9 ∨ m = 0x10 then d
    else if 0x16 ≤ m ∧ m ≤ 0x1B then d && a
    else false

/-- The contexts that follow a leader, attached (R343). -/
def State.followers (s : State) (l : CtxId) : List CtxId :=
  if l.ctx = 0 ∧ l.core.val % 8 = 0 then
    ([1, 2, 3, 4, 5, 6, 7] : List Nat).flatMap (fun k => allSlots.filterMap (fun sl =>
      let c : CtxId := ⟨⟨(l.core.val + k) % 4608, by omega⟩, sl, 0⟩
      if (s.ctx c).attached && s.leaderOf c == some l && s.mates c.sl l.sl then some c else none))
  else []

/-- The monitor entries of a core that are taken (R342). -/
def State.monitors (s : State) (core : Fin 4608) : Nat :=
  (s.ctxs.filter (fun p => (ctxOfKey p.1).core == core && p.2.watches)).length

/-- Watch the first byte's granule of a load: by a monitor entry where the granule lies in the core's own local store and an
entry is free (R342). -/
def State.watch (s : State) (core : Fin 4608) (l : Loc) (v : W128) (size : Nat) (onCore : Bool) : Watch :=
  ⟨l, v, size, onCore && decide (s.monitors core < 8), false, s.cycle⟩

/-- A taken backward branch at `p` to `t`: the count of its consecutive taken executions, and the context, belayed where the
test of R341 holds. -/
def State.spun (s : State) (c : CtxId) (p t : W64) : State :=
  let x := s.ctx c
  if x.attached || !(s.followers c).isEmpty then s.setCtx c { x with spin := [] }
  else
    let others := x.spin.filter (fun q => !(q.branch == p && q.target == t))
    match x.spin.find? (fun q => q.branch == p && q.target == t) with
    | some q =>
      if q.loads = 1 then
        let n := q.count + 1
        let q' : Spin := { q with count := n, regs := x.g, loads := 0, before := some q.value }
        let x' : Ctx := { x with spin := q' :: others }
        if n ≥ 3 ∧ (allRegs.all (fun r => Sparse.get Reg.zero q.regs r.val == Sparse.get Reg.zero x.g r.val)) = true
            ∧ q.before = some q.value then
          s.setCtx c { x' with belays := x.belays + 1, status := .belayed (s.watch c.core q.loc q.value q.size q.onCore) }
        else s.setCtx c x'
      else s.setCtx c { x with spin := { q with count := 1, regs := x.g, loads := 0, before := none } :: others }
    | none =>
      s.setCtx c { x with spin := ⟨p, t, 1, x.g, 0, 0, none, .hbm 0, 0, false⟩ :: others }
where
  /-- Every general register. -/
  allRegs : List (Fin 32) :=
    [0, 1, 2, 3, 4, 5, 6, 7, 8, 9, 10, 11, 12, 13, 14, 15, 16, 17, 18, 19, 20, 21, 22, 23, 24, 25, 26, 27, 28, 29, 30, 31]

/-! Branches. -/

/-- A taken branch to `t` (R228, R229): the target is representable; outside the body the loop ends (R65); a backward one is
counted (R341). -/
def takeBranch (t : W64) : M Flow := fun s =>
  let c := s.cur
  let x := s.ctx c
  if representable x.pcc t = false then .error (.trap ⟨.capBounds, t, 0, false⟩)
  else
    let outside : Bool := decide (t.toNat < x.loopb.toNat) || decide (x.loope.toNat < t.toNat)
    let s1 := if outside then s.setCtx c { x with loopc := 0 } else s
    let s2 := if t.toNat < x.pc.toNat then s1.spun c x.pc t else s1
    .ok (.goto t, s2)

/-- A branch that is not taken ends the count of its own executions (R341). -/
def notTaken : M Flow := fun s =>
  .ok (.next, s.modCtx s.cur (fun x => { x with spin := x.spin.filter (fun q => q.branch != x.pc) }))

/-- A branch of format B (R228). -/
def branchOp (i : Instr) (a b : RegCode) (off : BitVec 13) (test : W64 → W64 → Bool) (s : State) :
    Host.Outcome State Fault Refusal :=
  operate i .transfer [a, b] [a, b] (pure ()) (do
    let x ← readData a
    let y ← readData b
    let c ← me
    if test x y then takeBranch (c.pc + 2 * off.signExtend 64) else notTaken) s

/-- BEQ (R228). -/
def execBeq (a b : RegCode) (off : BitVec 13) (s : State) : Host.Outcome State Fault Refusal :=
  branchOp (.beq a b off) a b off (fun x y => x == y) s
/-- BNE (R228). -/
def execBne (a b : RegCode) (off : BitVec 13) (s : State) : Host.Outcome State Fault Refusal :=
  branchOp (.bne a b off) a b off (fun x y => x != y) s
/-- BLT (R228). -/
def execBlt (a b : RegCode) (off : BitVec 13) (s : State) : Host.Outcome State Fault Refusal :=
  branchOp (.blt a b off) a b off (fun x y => x.slt y) s
/-- BGE (R228). -/
def execBge (a b : RegCode) (off : BitVec 13) (s : State) : Host.Outcome State Fault Refusal :=
  branchOp (.bge a b off) a b off (fun x y => !(x.slt y)) s
/-- BLTN (R228). -/
def execBltn (a b : RegCode) (off : BitVec 13) (s : State) : Host.Outcome State Fault Refusal :=
  branchOp (.bltn a b off) a b off (fun x y => x.ult y) s
/-- BGEN (R228). -/
def execBgen (a b : RegCode) (off : BitVec 13) (s : State) : Host.Outcome State Fault Refusal :=
  branchOp (.bgen a b off) a b off (fun x y => !(x.ult y)) s

/-- BNZ (R41, R42): BNE d, zero; taken, it goes to PC − 2·(b + 1). -/
def execBnz (d : RegCode) (k : BitVec 5) (s : State) : Host.Outcome State Fault Refusal :=
  operate (.bnz d k) .transfer [d] [d] (pure ()) (do
    let x ← readData d
    let c ← me
    if x ≠ 0 then takeBranch (c.pc - 2 * (k.setWidth 64 + 1)) else notTaken) s

/-! JAL, JALR and RET (R230). -/

/-- The link: the code capability with its cursor behind the instruction. -/
def Ctx.link (x : Ctx) : Reg := x.pcc.withCursor (x.pc + 4)

/-- JAL (R230). -/
def execJal (d : RegCode) (off : BitVec 19) (s : State) : Host.Outcome State Fault Refusal :=
  operate (.jal d off) .transfer [] [d] (pure ()) (do
    let x ← me
    let t := x.pc + 2 * off.signExtend 64
    if representable x.pcc t = false then raise .capBounds t
    else
      write (Instr.word (.jal d off)) d x.link
      pure (.goto t)) s

/-- The jump of JALR through a register to `t` (R230): the code capability it leaves, or the trap. -/
def jumpThrough (r : Reg) (t : W64) : M Reg := do
  let x ← me
  if r.tag = 2 then raise .capTag t
  else if r.tag = 3 then raise .capSealed t
  else
    let cap := if r.tag = 1 then r else x.pcc
    if r.tag = 1 ∧ lacks r permX then raise .capPerm t
    else if representable cap t = false then raise .capBounds t
    else if t.getLsbD 0 then raise .align t
    else pure cap

/-- JALR (R230). -/
def execJalr (d a : RegCode) (k : BitVec 13) (s : State) : Host.Outcome State Fault Refusal :=
  operate (.jalr d a k) .transfer [a] [d, a] (pure ()) (do
    let r ← read a
    let x ← me
    let t := r.lo + imm13 k
    let cap ← jumpThrough r t
    write (Instr.word (.jalr d a k)) d x.link
    edit (fun y => { y with pcc := cap })
    pure (.goto t)) s

/-- RET (R43): JALR zero, ln, #0. -/
def execRet (s : State) : Host.Outcome State Fault Refusal :=
  operate .ret .transfer [] [] (pure ()) (do
    let r ← greg 1
    let t := r.lo
    let cap ← jumpThrough r t
    edit (fun y => { y with pcc := cap })
    pure (.goto t)) s

/-! LOOP (R63 to R65). -/

/-- The halfword at an address of the code, as a fetch reads it (R37). -/
def peek (a : W64) : M Nat := fun s =>
  match s.fetchHalf s.cur a with
  | .ok h => .ok (h, s)
  | .error e => .error e

/-- The length of an instruction from its first halfword (R36). -/
def lengthOf (h : Nat) : Nat := if h % 2 = 0 then 2 else 4

/-- LOOP (R64). -/
def execLoop (a : RegCode) (half : BitVec 11) (s : State) : Host.Outcome State Fault Refusal :=
  run (.loop a half) [a] [a] (do
    let n ← readData a
    let x ← me
    if x.loopc ≠ 0 then raise .illegalInstruction (Instr.word (.loop a half))
    else
      let e := x.pc + 2 * half.setWidth 64
      if n = 0 then
        let h ← peek e
        edit (fun y => { y with loopb := x.pc + 4, loope := e }.setPc (e + BitVec.ofNat 64 (lengthOf h)))
        pure .done
      else
        edit (fun y => { y with loopb := x.pc + 4, loope := e, loopc := n }.setPc (x.pc + 4))
        pure .done) s

/-! REP (R59 to R62). -/

/-- The instruction after a REP may be repeated (R61). -/
def repeatable (w : Nat) : Bool :=
  if w % 2 = 0 then
    let op := fld w 1 4
    op != 14 && (op != 15 || fld w 11 5 == 0)
  else
    let m := fld w 1 6
    !(decide (0x15 ≤ m ∧ m ≤ 0x1F) || m == 0x26 || decide (0x2A ≤ m ∧ m ≤ 0x2C))

/-- Format E (R49). -/
def formatE (m : Nat) : Bool := m == 0x30 || m == 0x31 || decide (0x33 ≤ m ∧ m ≤ 0x3A)

/-- The mask selects only fields the instruction has (R61). -/
def maskOk (w mask : Nat) : Bool :=
  if w % 2 = 0 then mask / 2 % 2 == 0 && mask / 8 % 2 == 0
  else
    let m := fld w 1 6
    mask / 8 % 2 == 0 || formatE m || m == 0x0C || m == 0x0D

/-- The lowest bits of the fields that a mask selects (R59), with their widths. -/
def maskFields (w mask : Nat) : List (Nat × Nat) :=
  let all := if w % 2 = 0 then [(0, 5, 6), (2, 11, 5)] else [(0, 7, 6), (1, 13, 6), (2, 19, 6), (3, 25, 6)]
  (all.filter (fun f => mask / 2 ^ f.1 % 2 == 1)).map (fun f => f.2)

/-- A stepped field stays among g0 to g31 up to the index `last` (R60). -/
def stepInRange (w : Nat) (step : Int) (last : Nat) (f : Nat × Nat) : Bool :=
  let b : Int := fld w f.1 f.2
  decide (b ≤ 31) && decide (0 ≤ b + last * step) && decide (b + last * step ≤ 31)

/-- The word of repetition `i`: each selected field is base + i·step (R60). -/
def stepWord (w mask : Nat) (step : Int) (i : Nat) : Nat :=
  (maskFields w mask).foldl (fun v f =>
    let old := fld v f.1 f.2
    let new := ((old : Int) + i * step).toNat % 2 ^ f.2
    v - old * 2 ^ f.1 + new * 2 ^ f.1) w

/-- REP (R60): the checks come before the first repetition; the repetitions are steps of their own. -/
def execRep (a : RegCode) (mask : BitVec 4) (k : BitVec 13) (s : State) : Host.Outcome State Fault Refusal :=
  let me_ := Instr.word (.rep a mask k)
  operate (.rep a mask k) .transfer [a] [a] (pure ()) (do
    let n ← readData a
    let x ← me
    let next := x.pc + 4
    let h ← peek next
    if n = 0 then
      match x.closeLoop next (next + BitVec.ofNat 64 (lengthOf h)) with
      | .ok y =>
        edit (fun z => { z with loopc := y.loopc, pcc := y.pcc })
        pure .done
      | .error t => fun _ => .error (.trap t)
    else
      let g ← (if h % 2 = 0 then pure 0 else peek (next + 2))
      let w := h + g * 2 ^ 16
      if repeatable w = false ∨ maskOk w mask.toNat = false then raise .illegalInstruction me_
      else if n.toNat > 65535 then raise .repRange n
      else if (maskFields w mask.toNat).all (stepInRange w k.toInt (n.toNat - 1)) = false then raise .repRange n
      else
        edit (fun z => { z with repc := BitVec.ofNat 16 n.toNat, repi := 0, rep := some ⟨w, mask, k⟩ })
        pure .done) s

end Sys2Proof.Machine
end

