-- ==== Sys2Proof/Machine/Cap.lean ====
section
/-! DEFINITION. Machine/Cap.lean: the CAP instructions (R180, R181), CSETBI and CINCI (R182), and the 16-bit MOV (R42). -/
namespace Sys2Proof.Machine
open Sys2Proof

/-- A register with a tag, or the trap that R180 gives: `changes` says that the member would change its source. -/
def wantTag (tags : List (BitVec 2)) (changes : Bool) (r : Reg) : M Unit :=
  if tags.contains r.tag then pure ()
  else if changes && r.tag == 3 then raise .capSealed r.lo
  else raise .capTag r.lo

/-- A member that reads a field of a (R180). -/
def capField (i : Instr) (d a : RegCode) (tags : List (BitVec 2)) (f : Reg → W64) (s : State) :
    Host.Outcome State Fault Refusal :=
  run i [a] [d, a] (do
    let r ← read a
    wantTag tags false r
    writeData (Instr.word i) d (f r)
    pure .next) s

/-- Any tag. -/
def anyTag : List (BitVec 2) := [0, 1, 2, 3]

/-- CGETA (R180). -/
def execCgeta (d a : RegCode) (s : State) : Host.Outcome State Fault Refusal :=
  capField (.cgeta d a) d a anyTag (fun r => r.lo) s
/-- CGETB (R180). -/
def execCgetb (d a : RegCode) (s : State) : Host.Outcome State Fault Refusal :=
  capField (.cgetb d a) d a [1, 3] (fun r => BitVec.ofNat 64 (capBase r)) s
/-- CGETL (R180). -/
def execCgetl (d a : RegCode) (s : State) : Host.Outcome State Fault Refusal :=
  capField (.cgetl d a) d a [1, 3] (fun r => BitVec.ofNat 64 (min (capTop r - capBase r) (2 ^ 64 - 1))) s
/-- CGETP (R180). -/
def execCgetp (d a : RegCode) (s : State) : Host.Outcome State Fault Refusal :=
  capField (.cgetp d a) d a [1, 3] (fun r => r.perms.setWidth 64) s
/-- CGETD (R180). -/
def execCgetd (d a : RegCode) (s : State) : Host.Outcome State Fault Refusal :=
  capField (.cgetd d a) d a [1, 3] (fun r => r.owner.setWidth 64) s
/-- CGETT (R180). -/
def execCgett (d a : RegCode) (s : State) : Host.Outcome State Fault Refusal :=
  capField (.cgett d a) d a anyTag (fun r => r.tag.setWidth 64) s
/-- CCLR (R180). -/
def execCclr (d a : RegCode) (s : State) : Host.Outcome State Fault Refusal :=
  capField (.cclr d a) d a anyTag (fun r => r.lo) s

/-- A register with its cursor moved: plain data, or a capability that stays representable (R181). -/
def moveCursor (r : Reg) (n : W64) : M Reg := do
  wantTag [0, 1] true r
  if r.tag = 0 then pure (Reg.data n)
  else if representable r n = false then raise .capBounds n
  else pure (r.withCursor n)

/-- CSETA (R181). -/
def execCseta (d a b : RegCode) (s : State) : Host.Outcome State Fault Refusal :=
  run (.cseta d a b) [a, b] [d, a, b] (do
    let r ← read a
    let v ← readData b
    let x ← moveCursor r v
    write (Instr.word (.cseta d a b)) d x
    pure .next) s
/-- CINC (R181). -/
def execCinc (d a b : RegCode) (s : State) : Host.Outcome State Fault Refusal :=
  run (.cinc d a b) [a, b] [d, a, b] (do
    let r ← read a
    let v ← readData b
    let x ← moveCursor r (r.lo + v)
    write (Instr.word (.cinc d a b)) d x
    pure .next) s
/-- CINCI (R182). -/
def execCinci (d : RegCode) (a : GReg) (k : BitVec 13) (s : State) : Host.Outcome State Fault Refusal :=
  run (.cinci d a k) [] [d] (do
    let r ← greg a
    let x ← moveCursor r (r.lo + imm13 k)
    write (Instr.word (.cinci d a k)) d x
    pure .next) s

/-- Narrow the bounds of a capability to [cursor, cursor + v), exactly or to the least that contain it (R181). -/
def narrow (r : Reg) (v : Nat) (rounded : Bool) : M Reg := do
  wantTag [1] true r
  let nb := r.lo.toNat
  let nt := nb + v
  let bt := if rounded then roundBounds 8 nb nt else (nb, nt)
  if bt.1 < capBase r ∨ bt.2 > capTop r then raise .capBounds r.lo
  else
    match encodeBounds bt.1 bt.2 with
    | some e => if representable (withBounds r e) r.lo then pure (withBounds r e) else raise .capBounds r.lo
    | none => raise .capBounds r.lo

/-- CSETB (R181). -/
def execCsetb (d a b : RegCode) (s : State) : Host.Outcome State Fault Refusal :=
  run (.csetb d a b) [a, b] [d, a, b] (do
    let r ← read a
    let v ← readData b
    let x ← narrow r v.toNat false
    write (Instr.word (.csetb d a b)) d x
    pure .next) s
/-- CSETBR (R181). -/
def execCsetbr (d a b : RegCode) (s : State) : Host.Outcome State Fault Refusal :=
  run (.csetbr d a b) [a, b] [d, a, b] (do
    let r ← read a
    let v ← readData b
    let x ← narrow r v.toNat true
    write (Instr.word (.csetbr d a b)) d x
    pure .next) s
/-- CSETBI (R182). -/
def execCsetbi (d : RegCode) (a : GReg) (len : BitVec 12) (s : State) : Host.Outcome State Fault Refusal :=
  run (.csetbi d a len) [] [d] (do
    let r ← greg a
    let x ← narrow r len.toNat false
    write (Instr.word (.csetbi d a len)) d x
    pure .next) s
/-- CANDP (R180). -/
def execCandp (d a b : RegCode) (s : State) : Host.Outcome State Fault Refusal :=
  run (.candp d a b) [a, b] [d, a, b] (do
    let r ← read a
    let v ← readData b
    wantTag [1, 3] false r
    write (Instr.word (.candp d a b)) d (withPerms r (r.perms &&& v.setWidth 12))
    pure .next) s

/-- CSEAL (R181). -/
def execCseal (d a b : RegCode) (s : State) : Host.Outcome State Fault Refusal :=
  run (.cseal d a b) [a, b] [d, a, b] (do
    let r ← read a
    let k ← read b
    wantTag [1] true r
    if k.tag ≠ 1 then raise .capTag k.lo
    else if lacks k permSE ∨ k.owner ≠ r.owner then raise .capPerm k.lo
    else
      write (Instr.word (.cseal d a b)) d (withOtype r 3 3)
      pure .next) s
/-- CUNSEAL (R181). -/
def execCunseal (d a b : RegCode) (s : State) : Host.Outcome State Fault Refusal :=
  run (.cunseal d a b) [a, b] [d, a, b] (do
    let r ← read a
    let k ← read b
    wantTag [3] false r
    if r.otype ≠ 3 then raise .capSealed r.lo
    else if k.tag ≠ 1 then raise .capTag k.lo
    else if lacks k permUS ∨ k.owner ≠ r.owner then raise .capPerm k.lo
    else
      write (Instr.word (.cunseal d a b)) d (withOtype r 0 1)
      pure .next) s
/-- CTSUB (R181). -/
def execCtsub (d a b : RegCode) (s : State) : Host.Outcome State Fault Refusal :=
  run (.ctsub d a b) [a, b] [d, a, b] (do
    let r ← read a
    let k ← read b
    wantTag [1] false r
    if k.tag ≠ 1 then raise .capTag k.lo
    else
      writeData (Instr.word (.ctsub d a b)) d (r.lo - k.lo)
      pure .next) s

/-- MOVT (R180): all bits and the tag. -/
def execMovt (d a : RegCode) (s : State) : Host.Outcome State Fault Refusal :=
  run (.movt d a) [a] [d, a] (do
    let r ← read a
    write (Instr.word (.movt d a)) d r
    pure .next) s
/-- MOV (R42): MOVT from a general register. -/
def execMov (d : RegCode) (b : GReg) (s : State) : Host.Outcome State Fault Refusal :=
  run (.mov d b) [] [d] (do
    let r ← greg b
    write (Instr.word (.mov d b)) d r
    pure .next) s

end Sys2Proof.Machine
end

