-- ==== Sys2Proof/Machine/Formats.lean ====
section
/-! DEFINITION. Machine/Formats.lean: the element formats (R197 to R207): kinds, widths, units (R155), elements and their
values, rounding into any format (R208 to R211), and the quantisation of a block (R205). -/
namespace Sys2Proof.Machine
open Sys2Proof

/-- The kinds of formats (R239). -/
inductive FKind where
  | int | float | splice | none
deriving DecidableEq, Repr

/-- The kind of a format code (R197, R239). -/
def fmtKind (code : Nat) : FKind :=
  if code ≤ 8 ∨ code = 18 then .int
  else if code ≤ 17 ∨ (21 ≤ code ∧ code ≤ 27) then .float
  else if code = 19 ∨ code = 20 then .splice
  else .none

/-- An integer format is signed. -/
def fmtSigned (code : Nat) : Bool := code == 1 || code == 3 || code == 5 || code == 7 || code == 18

/-- The floating-point format of a code, the element format of an MX code (R199, R203). -/
def fmtFloat (code : Nat) : Option FFmt :=
  match code with
  | 9 => some fp64
  | 10 => some fp32
  | 11 => some fp16
  | 12 => some bf16
  | 13 | 21 => some fp8e4m3
  | 14 | 22 => some fp8e5m2
  | 15 | 23 => some fp6e3m2
  | 16 | 24 => some fp6e2m3
  | 17 | 25 => some fp4e2m1
  | _ => none

/-- The bits of element j of a unit, read as one little-endian number (R202, R203). -/
def Fmt.element (f : Fmt) (u : Nat) (j : Nat) : Nat := u / 2 ^ (fmtWidth f.n * j) % 2 ^ fmtWidth f.n
/-- A unit with the bits of element j replaced. -/
def Fmt.setElement (f : Fmt) (u : Nat) (j v : Nat) : Nat :=
  let w := fmtWidth f.n
  u - f.element u j * 2 ^ (w * j) + v % 2 ^ w * 2 ^ (w * j)
/-- The scale byte of a block (R203). -/
def Fmt.scaleByte (f : Fmt) (u : Nat) : Nat := u / 2 ^ (f.block * fmtWidth f.n) % 256

/-! Values. -/

/-- A number: an exact integer of an integer format, or a value of a float or splice format. -/
inductive Num where
  | int (v : Int)
  | flt (v : Val)
deriving DecidableEq, Repr

/-- A splice term (R206), in units of 2^−6. -/
def spliceTerm (t : Nat) : Int :=
  let c := t % 8
  let m : Int := if c = 7 then 0 else 2 ^ (6 - c)
  if t / 8 % 2 = 1 then -m else m

/-- The value of an E8M0 byte (R203): 2^(σ − 127); 255 is NaN. -/
def e8m0Val (b : Nat) : Val := if b = 255 then .nan false else .fin false 1 ((b : Int) - 127) false

/-- An exact integer times a power of two. -/
def Val.ofScaled (z : Int) (e : Int) : Val := .fin (decide (z < 0)) z.natAbs e false

/-- The value of an element's bits, with the scale byte of its block (R197, R199, R203, R206). -/
def fmtNum (code bits scale : Nat) : Num :=
  match fmtKind code with
  | .int => .int (intOf (fmtWidth code) (fmtSigned code) bits)
  | .splice =>
    let v := if code = 19 then spliceTerm (bits / 16) + spliceTerm (bits % 16) else spliceTerm bits
    .flt (Val.ofScaled v (-6))
  | _ =>
    if code = 27 then .flt (e8m0Val bits)
    else
      let v : Val :=
        if code = 26 then Val.ofScaled (intOf 8 true bits) (-6)
        else match fmtFloat code with
          | some f => f.val bits
          | none => .nan false
      if 21 ≤ code ∧ code ≤ 26 then
        if scale = 255 then .flt (.nan false) else .flt (v.scale ((scale : Int) - 127))
      else .flt v

/-- The value of element j of a unit. -/
def Fmt.num (f : Fmt) (u j : Nat) : Num := fmtNum f.n (f.element u j) (if f.blocked then f.scaleByte u else 0)

/-- The value as a float value: an integer exactly. -/
def Num.val : Num → Val
  | .int v => Val.ofInt v
  | .flt v => v
/-- The number is not 0; −0 counts as 0 and NaN as nonzero (R247, R260). -/
def Num.nonzero : Num → Bool
  | .int v => v != 0
  | .flt v => !v.isZero

/-! Rounding into a format. -/

/-- round into E8M0 (R211): the grid is the powers of two 2^−127 to 2^127, and evenness is that of σ. -/
def roundE8m0 (mode r : Nat) (v : Val) : Nat × BitVec 5 :=
  match v with
  | .nan _ => (0xFF, fNV)
  | .inf n => if n then (0xFF, fNV) else (0xFE, fNV)
  | .fin neg m e sticky =>
    if neg ∨ m = 0 then (0xFF, fNV)
    else
      let t := Nat.log2 m
      let ex : Int := e + t
      if ex < -127 then (0x00, fUF ||| fNX)
      else
        let rem := m - 2 ^ t
        let inexact := rem != 0 || sticky
        let s := (ex + 127).toNat
        let far := decide (ex ≥ 127) && inexact && mode == 5
        let up := if far then roundsUp 0 false (s % 2 == 1) t rem sticky 0
          else roundsUp mode false (s % 2 == 1) t rem sticky r
        let g := if up then s + 1 else s
        if g > 254 then (0xFE, fOF ||| fNX) else (g, if inexact then fNX else 0)

/-- round or round_sat of a value into a format (R209, R211): into an integer format as a float converts. -/
def fmtRound (code : Nat) (sat : Bool) (mode r : Nat) (v : Val) : Nat × BitVec 5 :=
  if code = 27 then roundE8m0 mode r v
  else if fmtKind code = .int then v.toIntBits (fmtWidth code) (fmtSigned code) sat mode r
  else match fmtFloat code with
    | some f => f.round sat mode r v
    | none => (0, 0)

/-- An integer into a format: reduced or clamped in an integer format, rounded in another (R211, R246). -/
def fmtInt (code : Nat) (sat : Bool) (mode r : Nat) (z : Int) : Nat × BitVec 5 :=
  if fmtKind code = .int then (intToInt (fmtWidth code) (fmtSigned code) sat z, 0)
  else fmtRound code sat mode r (Val.ofInt z)

/-- A number into a format. -/
def fmtPut (code : Nat) (sat : Bool) (mode r : Nat) : Num → Nat × BitVec 5
  | .int z => fmtInt code sat mode r z
  | .flt v => fmtRound code sat mode r v

/-! Blocks (R205). -/

/-- The exponent of the largest power of two of an MX element format (R205). -/
def mxEmax (code : Nat) : Int :=
  match code with
  | 21 => 8
  | 22 => 15
  | 23 => 4
  | 24 => 2
  | 25 => 2
  | _ => 0

/-- ⌊log2 of the largest magnitude⌋, none where every value is 0. -/
def topExp : List Val → Option Int
  | [] => none
  | .fin _ m e _ :: r =>
    let t := topExp r
    if m = 0 then t
    else
      let x : Int := e + Nat.log2 m
      match t with
      | some y => some (max x y)
      | none => some x
  | _ :: r => topExp r

/-- Some value is NaN or infinite. -/
def anySpecial (vs : List Val) : Bool :=
  vs.any (fun v => match v with
    | .fin _ _ _ _ => false
    | _ => true)

/-- The scale byte of a block (R205). -/
def blockScale (code : Nat) (vs : List Val) : Nat :=
  if anySpecial vs then 255
  else match topExp vs with
    | none => 0
    | some t => (min (max (t - mxEmax code + 127) 0) 254).toNat

/-- An element of a block with its scale (R205). -/
def blockElement (code scale mode r : Nat) (v : Val) : Nat × BitVec 5 :=
  if scale = 255 then
    (match fmtFloat code with
      | some f => f.cnan
      | none => 0, fNV)
  else
    let w := v.scale (127 - (scale : Int))
    if code = 26 then
      let (z, inexact) := (w.scale 6).roundInt mode r
      if z < -128 then (0x80, fOF ||| fNX)
      else if 127 < z then (0x7F, fOF ||| fNX)
      else ((z % 256).toNat, if inexact then fNX else 0)
    else match fmtFloat code with
      | some f => f.round true mode r w
      | none => (0, 0)

end Sys2Proof.Machine
end

