-- ==== Sys2Proof/Machine/Handle.lean ====
section
/-! DEFINITION. Machine/Handle.lean: handles (R159 to R162, R382), HWAIT, HTEST and HCANCEL (R169, R170). -/
namespace Sys2Proof.Machine
open Sys2Proof

/-! Allocation (R160, R382). -/

/-- The handle slot an allocation takes, or the wait or the trap. -/
def Ctx.pickSlot (x : Ctx) : Except Stop (Fin 16) :=
  let inState : HState → Fin 16 → Bool := fun st h => (x.hslot h).state == st
  match allHandles.find? (inState .free) with
  | some h => .ok h
  | none =>
    match allHandles.find? (inState .consumed) with
    | some h => .ok h
    | none =>
      let mine : Fin 16 → Bool := fun h => x.depth == 0 || (x.hslot h).depth == x.depth
      match allHandles.filter (fun h => inState .resolved h && mine h) with
      | h :: hs => .ok (hs.foldl (fun a b => if (x.hslot b).order < (x.hslot a).order then b else a) h)
      | [] =>
        if x.depth = 0 ∨ allHandles.any (fun h => inState .pending h && mine h) then .error (.wait .handleSlot)
        else .error (.trap ⟨.handleForeign, 0, 0, false⟩)

/-- The register of a handle (R159). -/
def handleReg (c : CtxId) (h : Fin 16) (serial : BitVec 16) : Reg :=
  ⟨BitVec.ofNat 128 (c.core.val * 2 ^ 26 + c.slot.val * 2 ^ 24 + c.ctx.val * 2 ^ 20 + h.val * 2 ^ 16 + serial.toNat), 2⟩

/-- Allocate a handle slot (R160): its number and serial. -/
def allocHandle (engine : Bool) : M (Fin 16 × BitVec 16) := fun s =>
  let x := s.ctx s.cur
  match x.pickSlot with
  | .error e => .error e
  | .ok h =>
    let y := x.setHslot h ⟨.pending, x.hserial, 0, false, x.dom, x.depth, 0, none, engine⟩
    .ok ((h, x.hserial), s.setCtx s.cur { y with hserial := x.hserial + 1 })

/-! HWAIT, HTEST, HCANCEL. -/

/-- What a handle register names (R161, R162): the owner and the slot, or that it is stale. -/
def lookHandle (r : Reg) : M (Option (CtxId × Fin 16)) := fun s =>
  let c := s.cur
  let n := r.lo.toNat
  if r.tag ≠ 2 then .error (.trap ⟨.capTag, r.lo, 0, false⟩)
  else
    let ctx := n / 2 ^ 20 % 16
    if h : ctx < 11 then
      let o : CtxId := ⟨c.core, c.slot, ⟨ctx, h⟩⟩
      let hs : Fin 16 := ⟨n / 2 ^ 16 % 16, by omega⟩
      let q := (s.ctx o).hslot hs
      if n / 2 ^ 26 % 2 ^ 13 ≠ c.core.val ∨ n / 2 ^ 24 % 4 ≠ c.slot.val ∨ q.dom ≠ (s.ctx c).dom then
        .error (.trap ⟨.handleForeign, r.lo, 0, false⟩)
      else if q.serial ≠ r.lo.setWidth 16 ∨ q.state = .free then .ok (none, s)
      else .ok (some (o, hs), s)
    else .error (.trap ⟨.handleForeign, r.lo, 0, false⟩)

/-- The result of a stale handle (R161). -/
def staleResult : W64 := 0x8003

/-- HWAIT and HTEST return a result word (R169): d is written, the slot is CONSUMED, and an error may trap (R170, R137). -/
def takeResult (w : W64) (d : RegCode) (o : CtxId) (h : Fin 16) : M Flow := do
  let s ← get
  let q := (s.ctx o).hslot h
  set (s.modCtx o (fun x => x.setHslot h { q with state := .consumed }))
  writeData w d q.result
  let x ← me
  match q.denied with
  | some dva => pure (.trapAfter ⟨.wsWriteDenied, dva, 0, false⟩)
  | none =>
    if x.htrapEn && q.result.getLsbD 15 then pure (.trapAfter ⟨.handleError, q.result, 0, false⟩) else pure .next

/-- A stale handle's result (R161, R170). -/
def takeStale (w : W64) (d : RegCode) : M Flow := do
  writeData w d staleResult
  let x ← me
  if x.htrapEn then pure (.trapAfter ⟨.handleError, staleResult, 0, false⟩) else pure .next

/-- HWAIT (R169). -/
def hwaitBody (w : W64) (d : RegCode) (a : GReg) : M Flow := do
  let r ← greg a
  match ← lookHandle r with
  | none => takeStale w d
  | some (o, h) =>
    let s ← get
    if ((s.ctx o).hslot h).state = .pending then pause (.handle o.ctx h) else takeResult w d o h

/-- HWAIT (R169, R170). -/
def execHwait (d : RegCode) (a : GReg) (s : State) : Host.Outcome State Fault Refusal :=
  run (.hwait d a) [] [d] (hwaitBody (Instr.word (.hwait d a)) d a) s

/-- HWAIT.C (R43): HWAIT d, d. -/
def execHwaitC (d : GReg) (s : State) : Host.Outcome State Fault Refusal :=
  run (.hwaitC d) [] [] (hwaitBody (Instr.word (.hwaitC d)) (.g d) d) s

/-- HTEST (R169, R170). -/
def execHtest (d : RegCode) (a : GReg) (s : State) : Host.Outcome State Fault Refusal :=
  let w := Instr.word (.htest d a)
  run (.htest d a) [] [d] (do
    let r ← greg a
    match ← lookHandle r with
    | none => takeStale w d
    | some (o, h) =>
      let s ← get
      if ((s.ctx o).hslot h).state = .pending then
        writeData w d (BitVec.allOnes 64)
        pure .next
      else takeResult w d o h) s

/-- HCANCEL (R169). -/
def execHcancel (d : RegCode) (a : GReg) (s : State) : Host.Outcome State Fault Refusal :=
  let w := Instr.word (.hcancel d a)
  run (.hcancel d a) [] [d] (do
    let r ← greg a
    match ← lookHandle r with
    | none =>
      writeData w d 0
      pure .next
    | some (o, h) =>
      let s ← get
      let q := (s.ctx o).hslot h
      if q.state = .pending then
        set (s.modCtx o (fun x => x.setHslot h { q with cancel := true }))
        writeData w d 1
        pure .next
      else
        writeData w d 0
        pure .next) s

end Sys2Proof.Machine
end

