-- ==== Sys2Proof/Machine/Memory.lean ====
section
/-! DEFINITION. Machine/Memory.lean: LD, ST, LDC, STC, the AMO family and CAS (R127, R139 to R148), remote stores at their
issue (R103 to R105), releases (R323), and WSWIN (R149). -/
namespace Sys2Proof.Machine

/-! Order (R141, R320, R323). -/

/-- The scope of an ord code (R17, R141); none for a plain access. -/
def Ctx.ordScope (x : Ctx) (o : BitVec 2) : Option Scope :=
  match o.toNat with
  | 0 => none
  | 1 => some (scopeOf x.dscope.toNat)
  | 2 => some .dev
  | _ => some .sys

/-- The home of an event post (R296, R309, R320): the target core. -/
def EvMsg.home (e : EvMsg) : Scope := (Loc.localStore e.target 0 0 0).home e.ev.core

/-- Stores and event posts of a context whose home lies within a scope and which have not been acknowledged (R323). -/
def State.pendingIn (s : State) (c : CtxId) (sc : Scope) : Bool :=
  s.stores.any (fun r => r.ctx == c && decide (r.home.code ≤ sc.code))
    || s.evmsgs.any (fun e => e.counted && e.ctx == c && decide (e.home.code ≤ sc.code))
/-- Loop-back accesses of a context that have not taken effect (R128). -/
def State.pendingLoop (s : State) (c : CtxId) : Bool := s.stores.any (fun r => r.ctx == c && r.loopback)

/-- A release at a scope must wait (R323). -/
def State.releaseBlocked (s : State) (c : CtxId) (sc : Scope) : Bool := s.pendingIn c sc || s.pendingLoop c

/-- Wait as a release at a scope (R323). -/
def releaseAt (sc : Scope) : M Unit := fun s =>
  if s.releaseBlocked s.cur sc then .error (.wait (.release sc)) else .ok ((), s)

/-- Wait as a release where the access is one. -/
def releaseIf (sc : Option Scope) : M Unit :=
  match sc with
  | some v => releaseAt v
  | none => pure ()

/-! Loads. -/

/-- What a load asks. -/
def loadAsk (size : Nat) : Ask := ⟨[permL], .read, false, size, size, false⟩
/-- What a store asks. -/
def storeAsk (size : Nat) : Ask := ⟨[permS], .write, false, size, size, false⟩
/-- What an AMO or CAS asks (R146). -/
def amoAsk (size : Nat) : Ask := ⟨[permL, permS, permA], .write, true, size, size, false⟩

/-- The checks of an access of the context, at an address (R139). -/
def access (cap : Reg) (a : Ask) (addr : W64) : M Spot := fun s => need (s.reach s.cur cap a addr) s

/-- A load in the path of a possible spin: the value it gave (R341). -/
def noteLoad (l : Loc) (size : Nat) (v : W128) : M Unit := fun s =>
  let near : Bool := match l with
    | .localStore k _ _ _ => k == s.cur.core
    | _ => false
  .ok ((), s.modCtx s.cur (fun x => { x with spin := x.spin.map (fun p =>
    { p with loads := p.loads + 1, value := v, loc := l, size := size, onCore := near }) }))

/-- The result can be written, as far as it is known before the access is performed: a full queue and an unbound port trap
(R46, R183, R191). -/
def mayWrite (w : W64) (d : RegCode) : M Unit := do
  let x ← me
  match d with
  | .g _ => pure ()
  | .q n => if (x.queue n).items.length < (x.queue n).depth then pure () else raise .queueFull (BitVec.ofNat 64 n.val)
  | .p m => if (x.port m).bound then pure () else raise .illegalOperand w

/-- Before an access is performed whose result is sent to a port: the word must find its way (R46, R189). It waits for room as
R189 gives, and traps PORT_DEADLOCK with nothing done; where the word can be taken, a place of the destination's overflow ring
is kept for it (assumption log 8). `w` is the instruction word. -/
def keepPlace (w : W64) (d : RegCode) : M Unit := fun s =>
  let c := s.cur
  let x := s.ctx c
  match d with
  | .p m =>
    match ringAddr (x.port m).dest with
    | none => .error (.trap ⟨.illegalOperand, w, 0, false⟩)
    | some a =>
      let addr := (x.port m).dest
      let q := (x.sendingTo addr).back s.cycle
      match s.sendWord c.sl a 0 q.divert x.place with
      | .full => .error (.wait (.ringRoom addr (q.since.getD s.cycle)))
      | .deadlock => .error (.trap ⟨.portDeadlock, addr, 0, false⟩)
      | .retry => .error (.wait (.ringAway addr))
      | _ => .ok ((), s.modCtx c (fun x => { x with place := s.tenantSlot (s.partOf c.sl) a.core c.slot }))
  | _ => .ok ((), s)

/-- Send an off-core access (R127, R339): the context waits for its reply. An AMO or CAS sets DI as it is sent (R76), one that
then writes nothing too: a CAS that does not match, an AMOFADD that traps (DESIGN CHOICE, assumption log 8). -/
def sendRemote (i : Instr) (op : RemoteOp) (p : Spot) (addr : W64) (size : Nat) (sc : Option Scope) : M Flow := fun s =>
  let r : Remote :=
    { phase := .sent, seq := s.nextSeq, instr := i, op := op, loc := p.loc, tags := p.tags, target := p.target
      dva := addr, size := size, home := p.loc.home s.cur.core, scope := sc, repaired := false
      page := p.page, tears := p.tears size, half := none }
  let s1 := ((s.modCtx s.cur (fun x => { x with remote := some r })).enframe s.cur.core p.loc s.nextSeq .load
    (s.ctx s.cur).phaseTag).bump
  let s2 := match p.xl with
    | some x => if op = .load then s1 else s1.markDirty x
    | none => s1
  .ok (.hold .reply, s2)

/-- What a reply gives to the instruction: the value with its tag bit and the flags; or its trap (R139). -/
def replyOf (r : Remote) : M (W128 × Bool × BitVec 5) :=
  match r.phase with
  | .replied v t fl => pure (v, t, fl)
  | .failed e => fun _ => .error (.trap ⟨.pageFault, r.dva, e.code, false⟩)
  | .fpTrap fl => raise .fpTrap (fl.setWidth 64)
  | _ => pause .reply

/-- A load (R142, R144): private accesses in the step itself, others through the network. `conv` gives the register from
the value, the tag bit and the capability. -/
def loadOp (i : Instr) (size : Nat) (o : BitVec 2) (d : RegCode) (a : GReg) (off : BitVec 8)
    (conv : W128 → Bool → Reg → Reg) (s : State) : Host.Outcome State Fault Refusal :=
  run i [] [d] (do
    let x ← me
    let cap ← greg a
    match x.remote with
    | some r =>
      let v ← replyOf r
      noteLoad r.loc size v.1
      write (Instr.word i) d (conv v.1 v.2.1 cap)
      pure .next
    | none =>
      let addr := addrOf cap off size
      let p ← access cap (loadAsk size) addr
      if p.own then
        let s ← get
        let v := BitVec.ofNat 128 (s.readNat p.loc size)
        noteLoad p.loc size v
        write (Instr.word i) d (conv v (p.tags && s.tagAt (p.loc.tagKey 0)) cap)
        pure .next
      else
        mayWrite (Instr.word i) d
        sendRemote i .load p addr size (x.ordScope o)) s

/-- The bytes of an access size (R53). -/
def loadBytes : LoadSize → Nat
  | .b | .bn => 1
  | .h | .hn => 2
  | .w | .wn => 4
  | .d => 8
/-- The value of a load as data: sign- or zero-extended (R142). -/
def loadConv (sz : LoadSize) (v : W128) : W64 :=
  match sz with
  | .b => (v.setWidth 8).signExtend 64
  | .h => (v.setWidth 16).signExtend 64
  | .w => (v.setWidth 32).signExtend 64
  | _ => v.setWidth 64

/-- LD (R142). -/
def execLd (sz : LoadSize) (o : BitVec 2) (d : RegCode) (a : GReg) (off : BitVec 8) (s : State) :
    Host.Outcome State Fault Refusal :=
  loadOp (.ld sz o d a off) (loadBytes sz) o d a off (fun v _ _ => Reg.data (loadConv sz v)) s

/-- LDC (R144). -/
def execLdc (o : BitVec 2) (d : RegCode) (a : GReg) (off : BitVec 8) (s : State) : Host.Outcome State Fault Refusal :=
  loadOp (.ldc o d a off) 16 o d a off (fun v t cap => loadTagged v (t && !lacks cap permLC)) s

/-- LD.D.C (R42): LD.D d, [b]. -/
def execLdDC (d : RegCode) (b : GReg) (s : State) : Host.Outcome State Fault Refusal :=
  loadOp (.ldDC d b) 8 0 d b 0 (fun v _ _ => Reg.data (v.setWidth 64)) s

/-! Stores. -/

/-- A remote store retires (R103 to R105): it travels, counted under the tag of PHTAG. -/
def State.sendStore (s : State) (p : Spot) (addr : W64) (bs : List Byte) (tag : Bool) (sc : Option Scope) : State :=
  let c := s.cur
  let x := s.ctx c
  let t := x.phaseTag
  let r : RStore :=
    { seq := s.nextSeq, ctx := c, tag := t, dest := p.loc.dest, home := p.loc.home c.core, loc := p.loc
      target := p.target, part := s.partOf c.sl, dva := addr, bytes := bs, setTag := tag, release := sc
      loopback := (match p.loc with
        | .localStore k _ _ _ => k == c.core
        | _ => false)
      repaired := false
      page := p.page
      tears := p.tears bs.length
      half := none
      phase := .flying }
  let s := { (s.setCtx c (x.setCount t (x.count t + 1))).enframe c.core p.loc s.nextSeq .store t with
    stores := s.stores ++ [r], nextSeq := s.nextSeq + 1 }
  match p.xl with
  | some x => s.markDirty x
  | none => s

/-- A private store of the current context has made `t` of `s`: it is kept for R70 where the context keeps them. -/
def State.keepStore (s t : State) (l : Loc) (n : Nat) : State :=
  match (s.ctx s.cur).kept, l with
  | some ks, .localStore _ _ _ off =>
    t.modCtx s.cur (fun x => { x with kept := some (⟨off, s.readBytes l n, s.tagAt (l.tagKey 0), t.readBytes l n⟩ :: ks) })
  | _, _ => t

/-- Perform a store that has passed its checks: at once through the private alias, else as a remote store. -/
def storeAt (p : Spot) (addr : W64) (bs : List Byte) (reg : Option Reg) (sc : Option Scope) : M Flow := do
  releaseIf sc
  if p.own then
    modify (fun s => s.keepStore (match reg with
      | some r => s.pokeReg p.loc r true
      | none => s.poke p.loc bs) p.loc bs.length)
    pure .next
  else
    let x ← me
    if x.usc ≥ Config.uscMax then pause .uscRoom
    else
      modify (fun s => s.sendStore p addr bs reg.isSome sc)
      pure .next

/-- A store of the low bytes of a register (R143): the address is checked before the register is read. -/
def storeOp (i : Instr) (size : Nat) (o : BitVec 2) (v : RegCode) (a : GReg) (off : BitVec 8) (s : State) :
    Host.Outcome State Fault Refusal :=
  let reach : M (Reg × Spot × W64) := do
    let cap ← greg a
    let addr := addrOf cap off size
    let p ← access cap (storeAsk size) addr
    pure (cap, p, addr)
  operate i .closes [v] [v] (do let _ ← reach) (do
    let (_, p, addr) ← reach
    let x ← me
    let r ← read v
    storeAt p addr (bytesLE size r.lo.toNat) none (x.ordScope o)) s

/-- The bytes of a store size (R53). -/
def storeBytes : StoreSize → Nat
  | .b => 1
  | .h => 2
  | .w => 4
  | .d => 8

/-- ST (R143). -/
def execSt (sz : StoreSize) (o : BitVec 2) (v : RegCode) (a : GReg) (off : BitVec 8) (s : State) :
    Host.Outcome State Fault Refusal :=
  storeOp (.st sz o v a off) (storeBytes sz) o v a off s

/-- ST.D.C (R42): ST.D d, [b]. -/
def execStDC (v : RegCode) (b : GReg) (s : State) : Host.Outcome State Fault Refusal :=
  storeOp (.stDC v b) 8 0 v b 0 s

/-- The checks of STC on what it stores (R145): the trap, if one. -/
def stcTrap (cap v : Reg) (p : Spot) (sl : SlotId) : Option Cause :=
  if v.tag = 2 then some .capTag
  else if v.tag = 0 then none
  else if lacks cap permSC then some .capPerm
  else if p.tags = false then some .capPerm
  else if p.shared sl && lacks v permG then some .capPerm
  else none

/-- STC (R145). -/
def execStc (o : BitVec 2) (v : RegCode) (a : GReg) (off : BitVec 8) (s : State) : Host.Outcome State Fault Refusal :=
  let reach : M (Reg × Spot × W64) := do
    let cap ← greg a
    let addr := addrOf cap off 16
    let p ← access cap (storeAsk 16) addr
    pure (cap, p, addr)
  operate (.stc o v a off) .closes [v] [v] (do let _ ← reach) (do
    let (cap, p, addr) ← reach
    let x ← me
    let c ← who
    let r ← read v
    match stcTrap cap r p c.sl with
    | some e => raise e addr
    | none =>
      storeAt p addr (bytesLE 16 r.bits.toNat) (if r.tag = 0 then none else some r) (x.ordScope o)) s

/-! AMO and CAS. -/

/-- Sign of a number of n bits. -/
def signedOf (n : Nat) (v : Nat) : Int := intOf n true v

/-- The combination of an AMO (R146), with the flags of AMOFADD. `bits` is 32 or 64. -/
def amoNew (op : Nat) (n : Bool) (bits old v mode r : Nat) : Nat × BitVec 5 :=
  match op with
  | 0 => ((old + v) % 2 ^ bits, 0)
  | 1 => (old &&& v, 0)
  | 2 => (old ||| v, 0)
  | 3 => (old ^^^ v, 0)
  | 4 => (v, 0)
  | 5 => (if n then min old v else if signedOf bits v < signedOf bits old then v else old, 0)
  | 6 => (if n then max old v else if signedOf bits old < signedOf bits v then v else old, 0)
  | _ =>
    let f := if bits = 32 then fp32 else fp64
    let s := addV mode (f.val old) (f.val v)
    let o := f.round false mode r s.1
    (o.1, s.2 ||| o.2)

/-- What an AMO or CAS does at its place, atomically (R146, R148): the state after it, the old value, and the flags; or the
flags of an FP_TRAP with nothing written. -/
def State.performAt (s : State) (op : RemoteOp) (l : Loc) (size : Nat) : Except (BitVec 5) (State × Nat × BitVec 5) :=
  let old := s.readNat l size
  match op with
  | .load => .ok (s, old, 0)
  | .amo op n v frm seed seq =>
    let r := amoNew op n (8 * size) old (v.toNat % 2 ^ (8 * size)) (frm.extractLsb' 0 3).toNat (srbits seed seq 0)
    if op = 7 ∧ r.2 &&& frm.extractLsb' 6 5 ≠ 0 then .error r.2
    else .ok (s.poke l (bytesLE size r.1), old, r.2)
  | .cas new exp =>
    if old = exp.toNat % 2 ^ (8 * size) then .ok (s.poke l (bytesLE size new.toNat), old, 0) else .ok (s, old, 0)

/-- The old value as an AMO or CAS writes it to d (R146, R148). -/
def oldOut (boxed : Bool) (size : Nat) (old : Nat) : W64 :=
  if size = 8 then BitVec.ofNat 64 old
  else if boxed then box32 old
  else sx32 (BitVec.ofNat 64 old)

/-- An atomic access that has read its operands: at once through the private alias, with 4 cycles without issue (R127), else
through the network. -/
def atomicOp (i : Instr) (op : RemoteOp) (size : Nat) (o : BitVec 2) (d : RegCode) (a : GReg) (fadd : Bool) : M Flow := do
  let x ← me
  let sr := if fadd then x.mode else 0
  match x.remote with
  | some r =>
    let v ← replyOf r
    if fadd then raiseFlags sr v.2.2 else pure ()
    write (Instr.word i) d (Reg.data (oldOut (fadd && size == 4) size v.1.toNat))
    pure .next
  | none =>
    let cap ← greg a
    let p ← access cap (amoAsk size) cap.lo
    releaseIf (x.ordScope o)
    if p.own then
      let s ← get
      match s.performAt op p.loc size with
      | .error fl => raise .fpTrap (fl.setWidth 64)
      | .ok (t, old, fl) =>
        set ((s.keepStore t p.loc size).costs 4)
        if fadd then raiseFlags sr fl else pure ()
        write (Instr.word i) d (Reg.data (oldOut (fadd && size == 4) size old))
        pure .next
    else
      mayWrite (Instr.word i) d
      keepPlace (Instr.word i) d
      sendRemote i op p cap.lo size (x.ordScope o)

/-- An AMO (R146). -/
def amoOp (i : Instr) (op : Nat) (n : Bool) (w8 : Bool) (o : BitVec 2) (d b : RegCode) (a : GReg) (s : State) :
    Host.Outcome State Fault Refusal :=
  run i [b] [d, b] (do
    let size := if w8 then 8 else 4
    let v ← readData b
    let x ← me
    let v := if op = 7 ∧ size = 4 then BitVec.ofNat 64 (unbox32 v) else v
    atomicOp i (.amo op n v x.frm x.srseed x.srseq) size o d a (op == 7)) s

/-- AMOADD (R146). -/
def execAmoadd (w8 : Bool) (o : BitVec 2) (d b : RegCode) (a : GReg) (s : State) : Host.Outcome State Fault Refusal :=
  amoOp (.amoadd w8 o d b a) 0 false w8 o d b a s
/-- AMOAND (R146). -/
def execAmoand (w8 : Bool) (o : BitVec 2) (d b : RegCode) (a : GReg) (s : State) : Host.Outcome State Fault Refusal :=
  amoOp (.amoand w8 o d b a) 1 false w8 o d b a s
/-- AMOOR (R146). -/
def execAmoor (w8 : Bool) (o : BitVec 2) (d b : RegCode) (a : GReg) (s : State) : Host.Outcome State Fault Refusal :=
  amoOp (.amoor w8 o d b a) 2 false w8 o d b a s
/-- AMOXOR (R146). -/
def execAmoxor (w8 : Bool) (o : BitVec 2) (d b : RegCode) (a : GReg) (s : State) : Host.Outcome State Fault Refusal :=
  amoOp (.amoxor w8 o d b a) 3 false w8 o d b a s
/-- AMOSWP (R146). -/
def execAmoswp (w8 : Bool) (o : BitVec 2) (d b : RegCode) (a : GReg) (s : State) : Host.Outcome State Fault Refusal :=
  amoOp (.amoswp w8 o d b a) 4 false w8 o d b a s
/-- AMOMIN (R146). -/
def execAmomin (w8 : Bool) (o : BitVec 2) (d b : RegCode) (a : GReg) (s : State) : Host.Outcome State Fault Refusal :=
  amoOp (.amomin w8 o d b a) 5 false w8 o d b a s
/-- AMOMAX (R146). -/
def execAmomax (w8 : Bool) (o : BitVec 2) (d b : RegCode) (a : GReg) (s : State) : Host.Outcome State Fault Refusal :=
  amoOp (.amomax w8 o d b a) 6 false w8 o d b a s
/-- AMOMINN (R146). -/
def execAmominn (w8 : Bool) (o : BitVec 2) (d b : RegCode) (a : GReg) (s : State) : Host.Outcome State Fault Refusal :=
  amoOp (.amominn w8 o d b a) 5 true w8 o d b a s
/-- AMOMAXN (R146). -/
def execAmomaxn (w8 : Bool) (o : BitVec 2) (d b : RegCode) (a : GReg) (s : State) : Host.Outcome State Fault Refusal :=
  amoOp (.amomaxn w8 o d b a) 6 true w8 o d b a s
/-- AMOFADD (R146, R147). -/
def execAmofadd (w8 : Bool) (o : BitVec 2) (d b : RegCode) (a : GReg) (s : State) : Host.Outcome State Fault Refusal :=
  amoOp (.amofadd w8 o d b a) 7 false w8 o d b a s

/-- CAS (R148): d is read after a and b. -/
def execCas (w8 : Bool) (o : BitVec 2) (d b : RegCode) (a : GReg) (s : State) : Host.Outcome State Fault Refusal :=
  run (.cas w8 o d b a) [b, d] [d, b] (do
    let size := if w8 then 8 else 4
    let new ← readData b
    let exp ← readData d
    atomicOp (.cas w8 o d b a) (.cas new exp) size o d a false) s

/-! The weight store (R149). -/

/-- The result of WSWIN for a bank group (R149). -/
def State.windowCycles (s : State) (g : Nat) : W64 :=
  let x : Int := (s.timeNs % 64000 : Nat) - (8000 * g : Nat)
  let x := if x < 0 then x + 64000 else x
  let n : Int := if x < 1600 then -(1600 - x) else 64000 - x
  BitVec.ofInt 64 ((n * s.clock.mhz).tdiv 1000)

/-- The byte at an address is not in the weight store: it lies in a local store, or on a page of another memory type (R149). -/
def State.notWeights (s : State) (c : CtxId) (addr : W64) : Bool :=
  match s.named c.sl addr 1 with
  | .fault _ _ => false
  | .own _ => true
  | .global _ _ => true
  | .translated =>
    match s.lookPage c.core (s.partOf c.sl) (s.slot c.sl).bind.ptroot .read addr with
    | .ok x => x.mt != 1
    | _ => false

/-- The check of WSWIN's cursor (R149): that of a 1-byte load, with PERMISSION in place of every fault of the format where the
byte is not in the weight store. -/
def weightByte (cap : Reg) : M Spot := fun s =>
  match s.reach s.cur cap (loadAsk 1) cap.lo with
  | .trap .formatFault v _ =>
    if s.notWeights s.cur cap.lo then .error (.trap ⟨.pageFault, cap.lo, PageReason.permission.code, false⟩)
    else .error (.trap ⟨.formatFault, v, 0, false⟩)
  | r => need r s

/-- WSWIN (R149). -/
def execWswin (d a : RegCode) (s : State) : Host.Outcome State Fault Refusal :=
  run (.wswin d a) [a] [d, a] (do
    let r ← read a
    let w := Instr.word (.wswin d a)
    if r.tag = 1 then
      let p ← weightByte r
      match p.xl, p.loc with
      | some x, .weight _ off =>
        if x.mt = 1 then
          let s ← get
          writeData w d (s.windowCycles (wsGroup off).val)
          pure .next
        else fun _ => .error (.trap ⟨.pageFault, r.lo, PageReason.permission.code, false⟩)
      | _, _ => fun _ => .error (.trap ⟨.pageFault, r.lo, PageReason.permission.code, false⟩)
    else if r.tag = 0 then
      let s ← get
      writeData w d (s.windowCycles (r.lo.toNat % 8))
      pure .next
    else raise .capTag r.lo) s

end Sys2Proof.Machine
end

