-- ==== Sys2Proof/Machine/Order.lean ====
section
/-! DEFINITION. Machine/Order.lean: FENCE (R332, R333), synchronisation domains and their phases (R327, R334, R335, R351 to
R354). -/
namespace Sys2Proof.Machine
open Sys2Proof

/-! FENCE (R333). -/

/-- An engine operation of a context has not resolved. -/
def State.opsOf (s : State) (c : CtxId) : Bool :=
  let k := s.core c.core
  k.copyQ.any (fun o => o.head.owner == c) || k.vecQ.any (fun o => o.head.owner == c)
    || k.matQ.any (fun o => o.head.owner == c) || k.intQ.any (fun o => o.head.owner == c)
    || k.syncs.any (fun o => o.head.owner == c)

/-- A FENCE must wait: for stores, event posts and sends with a home in the scope; for the loop-back port; for the
unacknowledged count; for engine operations (R333). Loads have returned when a later instruction issues (R321). -/
def State.fenceBlocked (s : State) (c : CtxId) (sc : Scope) (st lb rs eng : Bool) : Bool :=
  (st && s.pendingIn c sc) || ((lb || decide (2 ≤ sc.code)) && s.pendingLoop c) || (rs && (s.ctx c).usc != 0)
    || (eng && s.opsOf c)

/-- Wait as a FENCE (R333). -/
def fenceAt (sc : Scope) (st ld lb rs eng : Bool) : M Unit := fun s =>
  if s.fenceBlocked s.cur sc st lb rs eng then .error (.wait (.fence sc st ld lb rs eng)) else .ok ((), s)

/-- A FENCE with LB = 1 or of scope CLU or wider orders the two aliases of a context's own slot (R70): its later loads miss no
private store before it. -/
def State.joinAliases (s : State) (c : CtxId) : State :=
  if (s.ctx c).kept.isSome then s.modCtx c (fun x => { x with kept := some [] }) else s

/-- FENCE (R332, R333): LL, LS, SL and SS from bit 0 of the kinds. -/
def execFence (sc : Scope) (kinds : BitVec 4) (lb rs eng : Bool) (s : State) : Host.Outcome State Fault Refusal :=
  run (.fence sc kinds lb rs eng) [] [] (do
    fenceAt sc (kinds.getLsbD 2 || kinds.getLsbD 3) (kinds.getLsbD 0 || kinds.getLsbD 1) lb rs eng
    modify (fun s => if lb || decide (2 ≤ sc.code) then s.joinAliases s.cur else s)
    pure .next) s

/-! Domains (R351, R352). -/

/-- Two registers name the same domain: arrivals are matched by the record (R351), within one installation of it (R353). -/
def DomReg.same (d e : DomReg) : Bool :=
  d.valid && e.valid && d.key == e.key && d.level == e.level && d.cmask == e.cmask && d.cores == e.cores && d.epoch == e.epoch

/-- The least core of a level's set, for levels 0 to 3. -/
def domAnchor (level : BitVec 3) (core : Fin 4608) : Nat :=
  match level.toNat with
  | 0 => core.val
  | 1 => core.val / 8 * 8
  | 2 => core.val / 1152 * 1152
  | _ => 0

/-- A core lies in the set of a domain (R351). -/
def DomReg.covers (d : DomReg) (core : Nat) : Bool :=
  let a := d.cores.headD 0
  match d.level.toNat with
  | 0 => core == a
  | 1 => core / 8 == a / 8
  | 2 => core / 1152 == a / 1152
  | 3 => true
  | _ => d.cores.contains core

/-- The member cores (R351, R354): those of the set on which the tenant holds a slot, rising. -/
def State.memberCores (s : State) (part : Fin 64) (d : DomReg) : List Nat :=
  ((s.slotsOfPart part ++ (s.saved.filter (fun v => v.slot.bind.part == part)).map (fun v => v.sl)).map
    (fun sl => sl.core.val)).dedup.filter d.covers

/-- A context is a member (R351), as a context of slot `slot` names the members. -/
def State.isMember (s : State) (part : Fin 64) (slot : Fin 4) (d : DomReg) (c : CtxId) : Bool :=
  d.cmask.getLsbD c.ctx.val && d.covers c.core.val && s.tenantSlot part c.core slot == some c.sl

/-- The contexts of evicted slots that are live members (R369). -/
def State.awayMembers (s : State) (part : Fin 64) (slot : Fin 4) (d : DomReg) : List Ctx :=
  (s.saved.filter (fun v => v.slot.bind.part == part)).flatMap (fun v =>
    ((allCtx.zip v.ctxs).filter (fun p => p.2.live && s.isMember part slot d ⟨v.sl.core, v.sl.slot, p.1⟩)).map (fun p => p.2))

/-- The live members. One that is not live has arrived at every phase, with counts of zero. -/
def State.liveMembers (s : State) (part : Fin 64) (slot : Fin 4) (d : DomReg) : List CtxId :=
  s.ctxIds.filter (fun c => (s.ctx c).live && s.slotHeld c.sl && s.partOf c.sl == part && s.isMember part slot d c)

/-- Every domain register number. -/
def allDms : List (Fin 6) := [0, 1, 2, 3, 4, 5]

/-- The register of a context that names a domain. -/
def Ctx.dmFor (x : Ctx) (d : DomReg) : Option DomReg := (allDms.map (fun n => x.domReg n.val)).find? (fun e => e.same d)

/-- A member has arrived at phase p: its phase number lies beyond it (R335). -/
def Ctx.arrivedAt (x : Ctx) (d : DomReg) (p : BitVec 32) : Bool :=
  match x.dmFor d with
  | some e => decide (1 ≤ (e.phase - p).toNat ∧ (e.phase - p).toNat < 2 ^ 31)
  | none => false

/-- The count of a member for a tag, where its DSEL names the domain (R107). -/
def Ctx.countFor (x : Ctx) (d : DomReg) (t : Fin 4) : Nat := if (x.domReg x.dsel.toNat).same d then x.count t else 0

/-- Phase p completes: every member has arrived and the counts of its tag are 0 (R107, R335). -/
def State.phaseMet (s : State) (part : Fin 64) (slot : Fin 4) (d : DomReg) (p : BitVec 32) : Bool :=
  let met : Ctx → Bool := fun x => x.arrivedAt d p && x.countFor d ⟨p.toNat % 4, by omega⟩ == 0
  (s.liveMembers part slot d).all (fun c => met (s.ctx c)) && (s.awayMembers part slot d).all met

/-- A pending handle of a context resolves, in the registers that are saved with it. -/
def Ctx.resolveSaved (x : Ctx) (h : Fin 16) (serial : BitVec 16) (w : W64) (order : Nat) : Ctx :=
  let q := x.hslot h
  if q.state = .pending ∧ q.serial = serial then
    x.setHslot h { q with state := .resolved, result := w, order := order }
  else x

/-- A handle of a context resolves, whether its slot stands on its core or is evicted (R335, R370). -/
def State.resolveAnywhere (s : State) (part : Fin 64) (c : CtxId) (h : Fin 16) (serial : BitVec 16) (w : W64) : State :=
  if s.slotHeld c.sl && s.partOf c.sl == part then s.resolveHandle c h serial w none
  else
    let one : Saved → Saved := fun v =>
      if v.sl = c.sl ∧ v.slot.bind.part = part then
        { v with ctxs := v.ctxs.modify c.ctx.val (fun x => x.resolveSaved h serial w s.nextSeq) }
      else v
    { s with saved := s.saved.map one, nextSeq := s.nextSeq + 1 }

/-- The record of a domain is that of a register, whichever installation. -/
def SyncDom.named (y : SyncDom) (part : Fin 64) (d : DomReg) : Bool :=
  y.part == part && y.key == d.key && y.level == d.level && y.cmask == d.cmask && y.cores == d.cores

/-- A domain in progress is that of a register. -/
def SyncDom.isFor (y : SyncDom) (part : Fin 64) (d : DomReg) : Bool := y.named part d && y.epoch == d.epoch

/-- The first phase of a domain that is not complete. -/
def State.domNext (s : State) (part : Fin 64) (d : DomReg) : BitVec 32 :=
  match s.doms.find? (fun y => y.isFor part d) with
  | some y => y.next
  | none => 0

/-- Phase p has completed: PHASEA handles resolve with PROGRESS p, and PHASE completes in the contexts that wait (R335). -/
def State.closePhase (s : State) (part : Fin 64) (slot : Fin 4) (d : DomReg) (p : BitVec 32) : State :=
  let hs := (s.doms.filter (fun y => y.isFor part d)).flatMap (fun y => y.handles.filter (fun h => h.2.2.2 == p))
  let s := { s with doms := s.doms.map (fun (y : SyncDom) =>
    if y.isFor part d then { y with next := p + 1, handles := y.handles.filter (fun h => h.2.2.2 != p) } else y) }
  let s := hs.foldl (fun t h => t.resolveAnywhere part h.1 h.2.1 h.2.2.1 (resultWord 0 p.toNat 0)) s
  let waits : CtxId → Bool := fun c =>
    match (s.ctx c).status with
    | .waiting (.phase n q) => ((s.ctx c).domReg n.val).same d && q == p
    | _ => false
  ((s.liveMembers part slot d).filter waits).foldl (fun t c => t.passOn c 4) s

/-- Complete what can complete of a domain: at most two phases are in flight (R105). -/
def State.phaseSweep (s : State) (part : Fin 64) (slot : Fin 4) (d : DomReg) : Nat → State
  | 0 => s
  | f + 1 =>
    let p := s.domNext part d
    if d.valid && s.doms.any (fun y => y.isFor part d) && (s.liveMembers part slot d).any (fun c => (s.ctx c).arrivedAt d p)
        && s.phaseMet part slot d p then
      State.phaseSweep (s.closePhase part slot d p) part slot d f
    else s

/-- The domain of DMn, or the trap of R334: inside a callee none is named (R382). -/
def needDomain (n : Fin 6) : M DomReg := do
  let x ← me
  let d := x.domReg n.val
  if d.valid && x.depth == 0 then pure d else raise .illegalOperand (BitVec.ofNat 64 n.val)

/-- Arrive at the next phase of DMn (R335): the phase that the boundary closes. The previous phase must be complete. -/
def arrive (n : Fin 6) (d : DomReg) : M Unit := fun s =>
  let c := s.cur
  if s.domNext (s.partOf c.sl) d ≠ d.phase then .error (.wait (.phaseNone n))
  else .ok ((), s.modCtx c (fun x => x.setDomReg n.val { d with phase := d.phase + 1 }))

/-- Complete what the arrival completes. -/
def sweep (d : DomReg) : M Unit := fun s =>
  .ok ((), s.phaseSweep (s.partOf s.cur.sl) s.cur.slot d 2)

/-- PHASE (R334, R335): it arrives and waits; the completion of the phase completes the instruction. -/
def execPhase (n : Fin 6) (s : State) : Host.Outcome State Fault Refusal :=
  run (.phase n) [] [] (do
    let d ← needDomain n
    arrive n d
    let c ← who
    let s ← get
    set (s.waitOn c (.phase n d.phase))
    sweep d
    pure .done) s

/-- PHASEA (R334, R335). -/
def execPhasea (d : GReg) (n : Fin 6) (s : State) : Host.Outcome State Fault Refusal :=
  run (.phasea d n) [] [] (do
    let dom ← needDomain n
    let c ← who
    let h ← allocHandle false
    arrive n dom
    let s ← get
    let part := s.partOf c.sl
    set { s with doms := s.doms.map (fun (y : SyncDom) =>
      if y.isFor part dom then { y with handles := y.handles ++ [(c, h.1, h.2, dom.phase)] } else y) }
    setG d (handleReg c h.1 h.2)
    sweep dom
    pure .next) s

/-! DMSET and DMGET (R351 to R354). -/

/-- The installation of a record that a context comes to with DMSET (R353, assumption log 11): the last one, unless it takes part
in that; then the next. -/
def State.epochFor (s : State) (c : CtxId) (d : DomReg) : Nat :=
  let all := s.doms.filter (fun y => y.named (s.partOf c.sl) d)
  let last := all.foldl (fun n y => max n y.epoch) 0
  if all.any (fun y => y.epoch == last && y.joined.contains c) then last + 1 else last

/-- Install a domain register of a context (R353) with phase number 0: phase 0 of the domain is not complete while this
member has not arrived at it (assumption log 11). -/
def State.installDom (s : State) (c : CtxId) (n : Fin 6) (d : DomReg) : State :=
  if d.valid then
    let part := s.partOf c.sl
    let d := { d with epoch := s.epochFor c d }
    let mine := s.doms.filter (fun y => y.isFor part d)
    let y : SyncDom :=
      ⟨part, d.key, d.level, d.cmask, d.cores, 0, mine.flatMap (fun y => y.handles), d.epoch, mine.flatMap (fun y => y.joined) ++ [c]⟩
    { s with doms := y :: s.doms.filter (fun y => !(y.isFor part d)) }.modCtx c (fun x => x.setDomReg n.val d)
  else s.modCtx c (fun x => x.setDomReg n.val d)

/-- DMn as SRD and DMSET read it (R352). -/
def DomReg.word (d : DomReg) : W64 :=
  if d.valid then
    (d.key.setWidth 64 <<< 48) ||| 0x80000000 ||| (d.level.setWidth 64 <<< 24) ||| d.cmask.setWidth 64
  else 0

/-- What a record asks (R152 step 1). -/
def recordAsk (size : Nat) : Ask := ⟨[permL ||| permLC], .read, false, size, 64, false⟩

/-- Bytes of a record beyond one page: each byte by itself (R351). -/
def readSpan (cap : Reg) : Nat → W64 → M (List Byte)
  | 0, _ => pure []
  | n + 1, addr => do
    let s ← get
    let p ← record cap ⟨[permL], .read, false, 1, 1, false⟩ addr
    let r ← readSpan cap n (addr + 1)
    pure (s.byteAt (p.loc.place 0) :: r)

/-- The membership record at a capability's cursor (R351, R353). -/
def readDomain (cap : Reg) : M DomReg := do
  let s ← get
  let c ← who
  let addr := cap.lo
  let p ← record cap (recordAsk 64) addr
  let hdr := BitVec.ofNat 64 (s.readNat p.loc 8)
  let group := s.readReg (p.loc.plus 16) p.tags
  let level : BitVec 3 := hdr.extractLsb' 0 3
  let cmask : BitVec 11 := hdr.extractLsb' 4 11
  let bad : Bool := s.readNat (p.loc.plus 8) 8 != 0 || s.readNat (p.loc.plus 32) 32 != 0
    || hdr.extractLsb' 15 33 != 0 || hdr.getLsbD 3 || decide (6 ≤ level.toNat)
    || (decide (4 ≤ level.toNat) && group.tag != 1)
    || (decide (level.toNat < 4) && (group.bits != 0 || s.tagAt ((p.loc.plus 16).tagKey 0) && p.tags))
    || !cmask.getLsbD c.ctx.val
  if bad then raise .shapeInvalid addr
  else if level.toNat < 4 then pure ⟨true, hdr.extractLsb' 48 16, level, cmask, [domAnchor level c.core], 0, 0⟩
  else
    match checkCap (s.live (dieOf c.core)) group permL group.lo 576 with
    | some e => raise e group.lo
    | none =>
      let bs ← readSpan group 576 group.lo
      let w := ofBytesLE bs
      let cores := (List.range 4608).filter (fun k => w / 2 ^ k % 2 == 1)
      if cores.contains c.core.val then pure ⟨true, hdr.extractLsb' 48 16, level, cmask, cores, 0, 0⟩
      else raise .shapeInvalid addr

/-- DMSET (R353). -/
def execDmset (d : RegCode) (a : GReg) (b : RegCode) (s : State) : Host.Outcome State Fault Refusal :=
  let w := Instr.word (.dmset d a b)
  run (.dmset d a b) [b] [d, b] (do
    let x ← me
    let c ← who
    if x.depth > 0 then raise .illegalOperand w
    else
      let cap ← greg a
      let v ← readData b
      if h : v.toNat < 6 then
        let n : Fin 6 := ⟨v.toNat, h⟩
        let new ← (if a = 0 then pure DomReg.none else readDomain cap)
        let s ← get
        let old := x.domReg n.val
        if old.valid && s.domNext (s.partOf c.sl) old != old.phase then pause (.phaseNone n)
        else
          set (s.installDom c n new)
          writeData w d old.word
          pure .next
      else raise .illegalOperand w) s

/-- DMGET (R354). -/
def execDmget (d a : RegCode) (s : State) : Host.Outcome State Fault Refusal :=
  let w := Instr.word (.dmget d a)
  run (.dmget d a) [a] [d, a] (do
    let v ← readData a
    let c ← who
    let s ← get
    if v.toNat ≥ 8 then raise .illegalOperand w
    else if h : v.toNat < 6 then
      let e ← needDomain ⟨v.toNat, h⟩
      let cores := s.memberCores (s.partOf c.sl) e
      let rank := cores.countP (fun k => decide (k < c.core.val))
      writeData w d ((e.phase.setWidth 64 <<< 32) ||| BitVec.ofNat 64 (rank * 2 ^ 13 + cores.length))
      pure .next
    else raise .illegalOperand v) s

end Sys2Proof.Machine
end

