-- ==== Sys2Proof/Machine/Gate.lean ====
section
/-! DEFINITION. Machine/Gate.lean: the GATE instructions: GCALL, GRET, GRETS, GCLEAN, DSTAT, DREVOKE and GMAKE (R389 to R395,
R444). -/
namespace Sys2Proof.Machine
open Sys2Proof

/-! GCALL (R390). -/

/-- The partition of a domain, as a die's table holds it (R373). -/
def State.domPart (s : State) (d : Fin 4) (dom : BitVec 12) : Option (Fin 64) :=
  Sparse.find? (s.die d).owner dom.toNat

/-- An import grant of a gate stands for a partition (R384). -/
def State.granted (s : State) (p : Fin 64) (gc : Reg) : Bool :=
  (s.part p).grants.any (fun g => (s.part g.exporter).exports.any (fun e =>
    e.number == g.number && e.gate.lo == gc.lo && e.gate.owner == gc.owner))

/-- The return capability of a call (R378). -/
def returnCap (owner : BitVec 12) (serial : BitVec 48) (depth : Nat) : Reg :=
  ⟨(mkCap 0 owner (0, 0, 0) ((serial.setWidth 64 <<< 16) ||| BitVec.ofNat 64 depth)).bits ||| BitVec.ofNat 128 (2 * 2 ^ 100), 3⟩

/-- The bight that a call pushes (R379, R390). -/
def Ctx.newBight (x : Ctx) (gc : Reg) (g : GateRec) (foreign : Bool) : Bight :=
  { ret := x.pcc.withCursor (x.pc + 4)
    regs := savedRegs.map x.reg
    gate := gc, tvec := x.tvec, caller := x.dom, callee := gc.owner, foreign := foreign, nest := g.nest
    deadline := if g.limit = 0 then BitVec.allOnes 64 else BitVec.ofNat 64 (x.charged + g.limit)
    frm := x.frm, fflags := x.fflags, dscope := x.dscope, htrap := x.htrapEn, inh := x.tstat.inh, suph := x.tstat.suph
    srseed := x.srseed, srseq := x.srseq, loopc := x.loopc, loopb := x.loopb, loope := x.loope, serial := x.serial + 1 }

/-- The context as it enters the callee (R390, R444). -/
def Ctx.enterGate (x : Ctx) (gc : Reg) (g : GateRec) (foreign : Bool) : Ctx :=
  let dead : List (Fin 32) := [4, 5, 6, 7, 8, 9, 10, 11].filter (fun r => decide (4 + g.args ≤ r.val))
  let y := (x.clearRegs savedRegs).clearRegs dead
  let y := ((y.setReg 1 (returnCap gc.owner (x.serial + 1) (x.depth + 1))).setReg 2 g.stack).setReg 3 g.data
  { y with
    bights := x.newBight gc g foreign :: x.bights, resident := x.resident + 1, serial := x.serial + 1
    tvec := g.vector, frm := 0, fflags := 0, dscope := 4, htrapEn := false, loopc := 0
    tstat := { x.tstat with suph := false }
    dom := gc.owner, pcc := g.entry }

/-- Spill the oldest resident bight where four are resident; the cycles that it costs (R390). -/
def spillIfFull : M Nat := fun s =>
  let x := s.ctx s.cur
  if x.resident < 4 then .ok (0, s)
  else
    match s.spill s.cur with
    | some t => .ok (64, t)
    | none => .error (.trap ⟨.dstackSpillFault, s.homeDva s.cur (x.depth - 3), 0, false⟩)

/-- GCALL (R390): it is switched out while its record is read, and makes its checks on what it has read. -/
def execGcall (a : GReg) (s : State) : Host.Outcome State Fault Refusal :=
  operate (.gcall a) .transfer [] [] (pure ()) (do
    let c ← who
    let x ← me
    let gc ← greg a
    let s ← get
    let die := dieOf c.core
    let nestOk : Bool := match x.bight x.depth with
      | some b => b.nest
      | none => true
    if gc.tag ≠ 3 then raise .capTag gc.lo
    else if gc.otype ≠ 1 then raise .gateInvalid gc.lo
    else if s.live die gc.owner = false then raise .capDomainDead gc.lo
    else if x.depth > 0 ∧ (nestOk = false ∨ x.creason ≠ 0) then raise .gateInvalid gc.lo
    else if x.depth = Config.maxDepth then raise .gateDepth gc.lo
    else
      let p ← record gc gateAsk gc.lo
      if x.reading ≠ some x.pc then pause .record else pure ()
      let g := s.gateRec p.loc p.tags
      let mine := s.partOf c.sl
      let foreign := s.domPart die gc.owner != some mine
      if g.ok gc.owner = false then raise .gateInvalid gc.lo
      else if foreign ∧ (g.xport = false ∨ s.granted mine gc = false) then raise .gateInvalid gc.lo
      else
        let more ← spillIfFull
        edit (fun y => { y.enterGate gc g foreign with reading := none })
        modify (fun t => t.costs (16 + more))
        pure .done) s

/-! GRET and GRETS (R391). -/

/-- Return to the caller with a status for g11 (R391). -/
def gateReturn (r : Reg) (st : W64) : M Flow := do
  let c ← who
  let x ← me
  let serialOk : Bool := match x.bight x.depth with
    | some b => r.lo.extractLsb' 16 48 == b.serial
    | none => false
  if r.tag ≠ 3 then raise .capTag r.lo
  else if x.depth = 0 ∨ x.creason ≠ 0 ∨ r.otype ≠ 2 ∨ r.owner ≠ x.dom ∨ serialOk = false
      ∨ (r.lo.extractLsb' 0 5).toNat ≠ x.depth then raise .gateInvalid r.lo
  else
    let s ← get
    if let some n := s.homeHeld c then pause (.snoop n false)
    else
    match s.fill c with
    | none => raise .dstackSpillFault (s.homeDva c x.depth)
    | some t =>
      if s.busyAt c x.depth then pause (.engines x.depth)
      else
        set (t.modCtx c (fun y => ((y.freeAt y.depth).restore).setReg 11 (Reg.data st)))
        modify (fun t => t.costs 12)
        pure .done

/-- GRET (R391). -/
def execGret (a : GReg) (s : State) : Host.Outcome State Fault Refusal :=
  operate (.gret a) .transfer [] [] (pure ()) (do
    let r ← greg a
    gateReturn r 0) s

/-- GRETS (R391). -/
def execGrets (a : GReg) (b : RegCode) (s : State) : Host.Outcome State Fault Refusal :=
  operate (.grets a b) .transfer [b] [b] (pure ()) (do
    let r ← greg a
    let v ← readData b
    gateReturn r (0x10000 + (v &&& 0xFFFF))) s

/-- GCLEAN (R392). -/
def execGclean (s : State) : Host.Outcome State Fault Refusal :=
  operate .gclean .transfer [] [] (pure ()) (do
    let c ← who
    let x ← me
    let s ← get
    if x.creason = 0 then raise .gateInvalid 0
    else if s.busyAt c x.depth then pause (.engines x.depth)
    else
      modify (fun t => t.settle c (t.unwindFrom c 0x8402 20))
      pure .done) s

/-! DSTAT (R393). -/

/-- The least depth at which a domain appears on a stack. -/
def Ctx.depthOf (x : Ctx) (dom : BitVec 12) : Option Nat := leastDepth (fun j => x.domAt j == dom) 0 (x.depth + 1)

/-- A domain belongs to another partition (R393). -/
def State.otherPart (s : State) (c : CtxId) (dom : BitVec 12) : Bool :=
  match s.domPart (dieOf c.core) dom with
  | some p => p != s.partOf c.sl
  | none => false

/-- DSTAT (R393). -/
def execDstat (d : RegCode) (a : GReg) (s : State) : Host.Outcome State Fault Refusal :=
  let w := Instr.word (.dstat d a)
  run (.dstat d a) [] [d] (do
    let c ← who
    let x ← me
    let r ← greg a
    let s ← get
    let byData := a != 0 && r.tag == 0
    if a ≠ 0 ∧ r.tag = 2 then raise .capTag r.lo
    else if byData ∧ r.lo.toNat ≥ 2 ^ 12 then raise .illegalOperand w
    else
      let dom := if a = 0 then x.dom else if byData then r.lo.setWidth 12 else r.owner
      let at_ := x.depthOf dom
      let die := dieOf c.core
      if byData ∧ s.otherPart c dom = true ∧ at_.isNone then
        writeData w d 0
        pure .next
      else
        writeData w d (BitVec.ofNat 64 (dom.toNat * 256 + at_.getD 0 * 4 + at_.isSome.toNat * 2 + (s.live die dom).toNat))
        pure .next) s

/-! DREVOKE and GMAKE (R394, R395). -/

/-- A manager capability (R394). -/
def needManager (m : Reg) : M Unit :=
  if m.tag = 3 then raise .capSealed m.lo
  else if m.tag ≠ 1 then raise .capTag m.lo
  else if lacks m (permSE ||| permUS) ∨ capTop m - capBase m ≠ 0 then raise .capPerm m.lo
  else pure ()

/-- Every die. -/
def allDies : List (Fin 4) := [0, 1, 2, 3]

/-- DREVOKE (R394): the revocation spreads by LIVENESS_UPDATE; the instruction completes when every die has taken it. -/
def execDrevoke (d : RegCode) (a : GReg) (s : State) : Host.Outcome State Fault Refusal :=
  let w := Instr.word (.drevoke d a)
  run (.drevoke d a) [] [d] (do
    let c ← who
    let x ← me
    let m ← greg a
    let s ← get
    let n := m.owner
    if x.revoke then
      if allDies.all (fun i => !s.live i n) then
        writeData w d 0
        edit (fun y => { y with revoke := false })
        pure .next
      else pause (.revoke n)
    else
      needManager m
      if s.live (dieOf c.core) n = false then
        if s.revoking.contains n then pause (.revoke n)
        else do
          writeData w d 1
          pure .next
      else
        fenceAt .dev true false false false false
        set { s with revoking := if s.revoking.contains n then s.revoking else n :: s.revoking }
        edit (fun y => { y with revoke := true })
        pure (.hold (.revoke n))) s

/-- The permissions a gate capability keeps (R395). -/
def gatePerms : BitVec 12 := permL ||| permLC ||| permM ||| permG

/-- GMAKE (R395). -/
def execGmake (d : RegCode) (a b : GReg) (s : State) : Host.Outcome State Fault Refusal :=
  let w := Instr.word (.gmake d a b)
  run (.gmake d a b) [] [d] (do
    let c ← who
    let m ← greg a
    let r ← greg b
    let s ← get
    let die := dieOf c.core
    needManager m
    if s.live die m.owner = false then raise .capDomainDead m.lo
    else if r.tag ≠ 1 then raise .capTag r.lo
    else
      match checkCap (s.live die) r (permL ||| permLC) r.lo 64 with
      | some e => raise e r.lo
      | none =>
        if r.lo.toNat % 64 ≠ 0 then raise .align r.lo
        else if r.owner ≠ m.owner then raise .capPerm r.lo
        else
          let p ← record r (recordAsk 64) r.lo
          match encodeBounds r.lo.toNat (r.lo.toNat + 64) with
          | some e =>
            if p.tags ∧ (s.gateRec p.loc p.tags).ok m.owner then
              write w d (withOtype (withPerms (withBounds r e) (r.perms &&& gatePerms)) 1 3)
              pure .next
            else raise .gateInvalid r.lo
          | none => raise .gateInvalid r.lo) s

end Sys2Proof.Machine
end

