-- ==== Sys2Proof/Machine/Network.lean ====
section
/-! DEFINITION. Machine/Network.lean: the network's steps: stores, loads and atomics at their destinations, acknowledgements,
retries, repairs of releases that were too narrow (R106, R108, R139, R325), the messengers of the Lay (R100), and ring
deliveries (R187 to R190). A step that is not due changes nothing. -/
namespace Sys2Proof.Machine
open Sys2Proof

/-- A step of the hardware, the firmware or a host: it happens where it is due and no machine check has stopped the device
(R414); else nothing changes. -/
def State.on (s : State) (due : Bool) (f : State → State) : Host.Outcome State Fault Refusal :=
  .next (if due && !s.mcheck then f s else s)

/-- A context that waits becomes READY (R338). -/
def Ctx.wake (x : Ctx) : Ctx :=
  match x.status with
  | .waiting _ => { x with status := x.awake }
  | _ => x

/-! The messengers (R100). -/

/-- How far a requester stands behind the one that its die served last, in the ring of the die's requesters (R101): 1 for
the next. -/
def turnsAfter (last r : Nat) : Nat := (r + 255 - last) % 256 + 1

/-- The frame that a die sends next on a channel (R101): of the requester whose turn comes first, the first that it formed. -/
def State.nextFrame (s : State) (ch die : Nat) : Option Frame :=
  let last := Sparse.get 255 s.frameTurn (16 * ch + die)
  match s.frames.filter (fun f => f.channel == ch && f.source == die) with
  | [] => none
  | f :: fs => some (fs.foldl (fun a b => if turnsAfter last b.requester < turnsAfter last a.requester then b else a) f)

/-- A die sends up to `n` frames on a channel, one of each requester in turn (R101). -/
def State.sendFrames (s : State) (ch die : Nat) : Nat → State
  | 0 => s
  | n + 1 =>
    match s.nextFrame ch die with
    | none => s
    | some f =>
      State.sendFrames { s with frames := s.frames.erase f, frameTurn := Sparse.put s.frameTurn (16 * ch + die) f.requester } ch die n

/-- MESSENGER_PASS (R100): the die that holds the messenger of a channel sends up to four frames and passes it on. -/
def execMessengerPass (ch : Fin 208) (s : State) : Host.Outcome State Fault Refusal :=
  s.on true (fun s =>
    let m := Sparse.get 0 s.messenger ch.val
    { s.sendFrames ch.val m 4 with messenger := Sparse.put s.messenger ch.val ((m + 1) % 13) })

/-! Remote stores (R106, R108). -/

/-- A store has taken effect. -/
def RStore.landed (r : RStore) : Bool :=
  match r.phase with
  | .arrived _ => true
  | _ => false

/-- The oldest store of a context to a destination that has not taken effect. -/
def State.nextStore (s : State) (c : CtxId) (dest : Nat) : Option RStore :=
  s.stores.find? (fun r => r.ctx == c && r.dest == dest && !r.landed)

/-- Change the store of a number. -/
def State.modStore (s : State) (seq : Nat) (f : RStore → RStore) : State :=
  { s with stores := s.stores.map (fun r => if r.seq = seq then f r else r) }

/-- The arrival count rises (R106). -/
def State.countArrival (s : State) (r : RStore) : State :=
  let k := arrivalKey r.ctx r.tag r.dest
  let n := Sparse.get 0 s.arrivals k + 1
  { s.modStore r.seq (fun q => { q with phase := .arrived n }) with arrivals := Sparse.put s.arrivals k n }

/-- Where a store or an access to a slot lands as the slot stands now; none where the tenant holds it no more (R108). -/
def State.landing (s : State) (t : SlotId) (part : Fin 64) (l : Loc) (n : Nat) : Option Loc :=
  match l with
  | .localStore _ _ _ off =>
    if s.slotHeld t && s.partOf t == part && decide (off + n ≤ (s.slot t).bind.size) then some (s.slotLoc t off) else none
  | l => some l

/-- Where in its bytes what is left of a store begins, and what is left: the other half where one has taken effect (R321). -/
def RStore.rest (r : RStore) : Nat × List Byte :=
  match r.half with
  | none => (0, r.bytes)
  | some true => (0, r.bytes.take 8)
  | some false => (8, r.bytes.drop 8)

/-- Bytes are written at a location, through the caches of host and expansion memory (R89 to R91, R140). -/
def State.pokeAt (s : State) (l : Loc) (bs : List Byte) : State :=
  (((s.reached l bs.length true).poke l bs).swapExp l bs.length).cacheHost l bs.length true

/-- A store takes effect at its place (R106, R140). -/
def State.landStore (s : State) (r : RStore) (l : Loc) : State :=
  let t := s.pokeAt (l.plus r.rest.1) r.rest.2
  (if r.setTag then t.setTagAt (l.tagKey 0) true else t).countArrival r

/-- An earlier counted event of the context to that destination has not been taken there (R106, R309). -/
def State.olderEvent (s : State) (c : CtxId) (dest seq : Nat) : Bool :=
  s.evmsgs.any (fun e => e.counted && e.arrived.isNone && e.ctx == c && e.target.val == dest && decide (e.seq < seq))

/-- A release that is too narrow (R325); the loop-back port lies inside its router. -/
def RStore.narrow (r : RStore) : Bool :=
  match r.release with
  | some sc => decide (sc.code < r.home.code) && !r.loopback
  | none => false

/-- Which boundary strips a release that is too narrow for its home (R325): 1 the core's router, 2 the cluster router, 3 the
die's interface, 4 the I/O die. -/
def boundary (sc : Scope) : Nat := max 1 sc.code

/-- A context's own narrow releases reach a boundary in their order: no older one is on its way to this or a nearer one (R325).
Only the I/O die's lies beyond the Lay. -/
def State.atBoundary (s : State) (c : CtxId) (sc : Scope) (seq : Nat) : Bool :=
  !(s.stores.any (fun q => q.ctx == c && decide (q.seq < seq) && q.phase == .flying && q.narrow
      && (match q.release with
        | some v => decide (boundary v ≤ boundary sc)
        | none => false)))
    && (decide (boundary sc < 4) || s.crossed seq)

/-- The store that is stripped next of a context's to a destination (R325). -/
def State.nextNarrow (s : State) (c : CtxId) (dest : Nat) : Option RStore :=
  s.stores.find? (fun r => r.ctx == c && r.dest == dest && r.phase == .flying && r.narrow
    && (match r.release with
      | some sc => s.atBoundary c sc r.seq
      | none => false))

/-- The store has reached its destination, in the order of its context's stores and posts there (R99, R106). -/
def State.storeHere (s : State) (r : RStore) : Bool :=
  r.phase == .flying && s.crossed r.seq && !s.olderEvent r.ctx r.dest r.seq

/-- One half of a 16-byte store takes effect first (R321). -/
def State.tearStore (s : State) (seq : Nat) (hi : Bool) : State :=
  match s.stores.find? (fun r => r.seq == seq) with
  | none => s
  | some r =>
    if r.tears && r.half.isNone && s.storeHere r && s.nextStore r.ctx r.dest == some r && !r.narrow
        && (s.mustSnoop r.loc true).isNone then
      let i := 8 * hi.toNat
      (s.pokeAt (r.loc.plus i) ((r.bytes.drop i).take 8)).modStore seq (fun q => { q with half := some hi })
    else s

/-- Two runs of bytes at locations share a byte. -/
def Loc.overlaps (l : Loc) (n : Nat) (m : Loc) (k : Nat) : Bool :=
  decide (l.place 0 < m.place 0 + k) && decide (m.place 0 < l.place 0 + n)

/-- A location of an MT 3 page (R90). -/
def Loc.uncached (l : Loc) : Bool :=
  match l with
  | .expansion (some _) _ => true
  | _ => false

/-- A store to an MT 3 page goes before the older ones of its context: only those to the same bytes keep their place (R90,
R321). -/
def State.overtake (s : State) (seq : Nat) : State :=
  match s.stores.find? (fun r => r.seq == seq) with
  | none => s
  | some r =>
    let older := s.stores.takeWhile (fun q => q.seq != seq)
    if r.phase == .flying && r.loc.uncached && !(older.any (fun q => q.ctx == r.ctx && !q.landed
        && q.loc.overlaps q.bytes.length r.loc r.bytes.length)) then
      { s with stores := r :: s.stores.erase r }
    else s

/-- REMOTE_STORE_ARRIVE (R106, R108, R325): a release that is too narrow is stripped at the first boundary that it would cross;
a slot that is being evicted answers with a retry; one that the tenant has let go discards the store. -/
def execRemoteStoreArrive (c : CtxId) (dest : Nat) (s : State) : Host.Outcome State Fault Refusal :=
  match s.nextNarrow c dest, s.nextStore c dest with
  | some r, _ => s.on true (fun s => (s.modStore r.seq (fun q => { q with phase := .missed s.nextSeq })).bump)
  | none, none => .next s
  | none, some r =>
    s.on (s.storeHere r && !r.narrow) (fun s =>
      match r.target with
      | some t =>
        if s.away r.part t then s.modStore r.seq (fun q => { q with phase := .retry })
        else
          match s.landing t r.part r.loc r.bytes.length with
          | some l => s.landStore r l
          | none => s.countArrival r
      | none =>
        match s.mustSnoop r.loc true with
        | some n => s.snoop n true
        | none => s.landStore r r.loc)

/-- REMOTE_ACK_SEND (R106): one cumulative acknowledgement for a context and tag. -/
def execRemoteAckSend (c : CtxId) (tag : Fin 4) (dest : Nat) (s : State) : Host.Outcome State Fault Refusal :=
  let k := arrivalKey c tag dest
  let n := Sparse.get 0 s.arrivals k
  s.on (n != Sparse.get 0 s.seen k && !(s.acks.any (fun a => a.ctx == c && a.tag == tag && a.dest == dest && a.count == n)))
    (fun s => { s with acks := s.acks ++ [⟨dest, c, tag, n⟩] })

/-- SMISS of a context's slot counts repairs (R326). -/
def State.countMiss (s : State) (c : CtxId) (n : Nat) : State :=
  if n = 0 then s else s.modSlot c.sl (fun q => { q with smiss := q.smiss + BitVec.ofNat 32 n })

/-- REMOTE_ACK_ARRIVE (R106, R326): the count of the tag falls by the increase of the arrival count. -/
def execRemoteAckArrive (c : CtxId) (tag : Fin 4) (dest : Nat) (s : State) : Host.Outcome State Fault Refusal :=
  match s.acks.find? (fun a => a.ctx == c && a.tag == tag && a.dest == dest) with
  | none => .next s
  | some a =>
    s.on true (fun s =>
      let k := arrivalKey c tag dest
      let d := (a.count - Sparse.get 0 s.seen k).toNat
      let done : RStore → Bool := fun r =>
        match r.phase with
        | .arrived n => r.ctx == c && r.tag == tag && r.dest == dest && decide ((a.count - n).toNat < 2 ^ 15)
        | _ => false
      let taken : EvMsg → Bool := fun e =>
        match e.arrived with
        | some n => e.ctx == c && e.tag == tag && e.target.val == dest && decide ((a.count - n).toNat < 2 ^ 15)
        | none => false
      let fixed := s.stores.countP (fun r => done r && r.repaired)
      { (s.modCtx c (fun x => x.setCount tag (x.count tag - d))).countMiss c fixed with
        acks := s.acks.erase a, seen := Sparse.put s.seen k a.count, stores := s.stores.filter (fun r => !done r)
        evmsgs := s.evmsgs.filter (fun e => !taken e) })

/-- The frame of a store. -/
def State.frameStore (s : State) (r : RStore) : State := s.enframe r.ctx.core r.loc r.seq .store r.tag

/-- RETRY_RESEND (R108): the source router sends the store, or its posts to that core, again. -/
def execRetryResend (c : CtxId) (dest : Nat) (s : State) : Host.Outcome State Fault Refusal :=
  let again : Option RStore := (s.nextStore c dest).filter (fun r => r.phase == .retry)
  match again with
  | none =>
    s.on (s.evmsgs.any (fun e => e.ctx == c && e.target.val == dest && e.retry)) (fun s =>
      let s := (s.evmsgs.filter (fun e => e.ctx == c && e.target.val == dest && e.retry)).foldl (fun t e =>
        t.enframe c.core (.localStore e.target 0 0 0) e.seq .event e.tag) s
      { s with evmsgs := s.evmsgs.map (fun (e : EvMsg) =>
          if e.ctx == c && e.target.val == dest then { e with retry := false } else e) })
  | some r => s.on true (fun s => (s.modStore r.seq (fun q => { q with phase := .flying })).frameStore r)

/-! Off-core loads, AMOs and CAS (R127, R139, R147, R321). -/

/-- Change the outstanding access of a context. -/
def State.modRemote (s : State) (c : CtxId) (f : Remote → Remote) : State :=
  s.modCtx c (fun x => { x with remote := x.remote.map f })

/-- An earlier store of the context to that destination has not taken effect (R106, R321). -/
def State.olderStore (s : State) (c : CtxId) (dest seq : Nat) : Bool :=
  s.stores.any (fun r => r.ctx == c && r.dest == dest && decide (r.seq < seq) && !r.landed)

/-- An earlier store of the context that its access must find done has not taken effect: one to that destination (R106,
R321); on an MT 3 page, one to the same bytes (R90). -/
def State.ownStoreDue (s : State) (c : CtxId) (r : Remote) : Bool :=
  if r.loc.uncached then
    s.stores.any (fun q => q.ctx == c && decide (q.seq < r.seq) && !q.landed && q.loc.overlaps q.bytes.length r.loc r.size)
  else s.olderStore c r.loc.dest r.seq

/-- The access has reached its destination, behind the context's own earlier stores (R99, R106, R321). -/
def State.accessHere (s : State) (c : CtxId) (r : Remote) : Bool :=
  (r.phase == .sent || r.phase == .stalled) && s.crossed r.seq && !(s.ownStoreDue c r)

/-- The answer of an access goes back (R98). -/
def State.reply (s : State) (c : CtxId) (r : Remote) (p : RemotePhase) : State :=
  (s.enframeReply c.core r.loc r.seq (s.ctx c).phaseTag).modRemote c (fun q => { q with phase := p })

/-- An access by the global alias of the context's own slot may miss earlier private stores (R70, R329): a load, and an AMO or CAS
that is no release. -/
def Remote.mayMiss (r : Remote) (c : CtxId) : Bool := (r.op == .load || r.scope.isNone) && r.target == some c.sl

/-- The memory as such an access finds it (R70): without the newest private stores that it misses, as far as nobody has written
over them; with the list of those and of the tag bits behind them, oldest first. -/
def State.missing (s : State) (c : CtxId) (r : Remote) : State × List (Kept × Bool) :=
  let x := s.ctx c
  if r.mayMiss c then
    ((x.kept.getD []).take x.lag).foldl (fun q e =>
      let l := q.1.slotLoc c.sl e.off
      if q.1.readBytes l e.new.length = e.new then ((q.1.writeBytes l e.old).setTagAt (l.tagKey 0) e.oldT, (e, q.1.tagAt (l.tagKey 0)) :: q.2) else q) (s, [])
  else (s, [])

/-- The private stores that an AMO or CAS missed come behind it in the order of the location (R329). -/
def State.overMissed (s : State) (sl : SlotId) (es : List (Kept × Bool)) : State :=
  es.foldl (fun t e => (t.writeBytes (t.slotLoc sl e.1.off) e.1.new).setTagAt ((t.slotLoc sl e.1.off).tagKey 0) e.2) s

/-- After an access by the global alias: no later one misses a store to its bytes that it has not missed, nor, after an AMO or CAS,
any store to them (R321). -/
def Ctx.notMissed (x : Ctx) (r : Remote) : Ctx :=
  match x.kept, r.loc with
  | some ks, .localStore _ _ _ off =>
    let n := if r.op == .load then x.lag else 0
    { x with lag := 0, kept := some (ks.take n ++ (ks.drop n).filter (fun e =>
        decide (e.off + e.new.length ≤ off) || decide (off + r.size ≤ e.off))) }
  | _, _ => x

/-- The value of an access, with the half that was read first (R321). -/
def Remote.joined (r : Remote) (v : Nat) : Nat :=
  match r.half with
  | none => v
  | some (true, h) => v % 2 ^ 64 + h * 2 ^ 64
  | some (false, h) => v / 2 ^ 64 * 2 ^ 64 + h

/-- The access is performed at a location, and its reply goes back. -/
def State.performRemote (s : State) (c : CtxId) (r : Remote) (l : Loc) : State :=
  let wr := r.op != .load
  let q := s.missing c r
  match (q.1.reached l r.size wr).performAt r.op l r.size with
  | .error fl => s.reply c r (.fpTrap fl)
  | .ok (u, old, fl) =>
    let t := if wr then u.overMissed c.sl q.2 else s.reached l r.size wr
    let v := r.joined old
    ((((t.swapExp l r.size).cacheHost l r.size wr).modCtx c (fun x => x.notMissed r)).modRemote c (fun q => { q with loc := l })).reply c r
      (.replied (BitVec.ofNat 128 v) (r.tags && q.1.tagAt (l.tagKey 0)) fl)

/-- One half of a 16-byte load is read first (R321). -/
def State.tearLoad (s : State) (c : CtxId) (hi : Bool) : State :=
  match (s.ctx c).remote with
  | none => s
  | some r =>
    let open_ := match r.loc with
      | .weight _ off => !s.refreshing (wsGroup off)
      | .expansion _ pa => s.inWindow pa
      | _ => true
    if r.tears && r.op == .load && r.half.isNone && s.accessHere c r && (s.mustSnoop r.loc false).isNone && open_ then
      let l := r.loc.plus (8 * hi.toNat)
      let u := s.reached l 8 false
      (u.swapExp l 8).modRemote c (fun q => { q with half := some (hi, u.readNat l 8) })
    else s

/-- A release that is an AMO or CAS of a context of a core is too narrow (R325); the loop-back port lies inside its router. -/
def Remote.narrow (r : Remote) (core : Fin 4608) : Bool :=
  match r.scope with
  | some sc => r.op != .load && decide (sc.code < r.home.code) && !(match r.loc with
    | .localStore k _ _ _ => k == core
    | _ => false)
  | none => false

/-- A narrow release that is an AMO or CAS has come to the boundary that strips it (R325). -/
def State.stripped (s : State) (c : CtxId) (r : Remote) : Bool :=
  r.phase == .sent && r.narrow c.core && (match r.scope with
    | some sc => s.atBoundary c sc r.seq
    | none => false)

/-- REMOTE_LOAD_ARRIVE (R127, R138, R139, R325): a release that is too narrow is stripped; else it is performed at its destination, or meets a refresh window, a snoop, a
slot that is being evicted (it is sent again), or one that the tenant has let go. -/
def execRemoteLoadArrive (c : CtxId) (s : State) : Host.Outcome State Fault Refusal :=
  match (s.ctx c).remote with
  | none => .next s
  | some r =>
    s.on (if r.narrow c.core then s.stripped c r else s.accessHere c r) (fun s =>
      if r.narrow c.core then (s.modRemote c (fun q => { q with phase := .missed s.nextSeq })).bump
      else
        match r.target with
        | some t =>
          if s.away (s.partOf c.sl) t then s
          else
            match s.landing t (s.partOf c.sl) r.loc r.size with
            | some l => s.performRemote c r l
            | none => s.reply c r (.failed .noSlot)
        | none =>
          match s.mustSnoop r.loc (r.op != .load) with
          | some n => s.snoop n (r.op != .load)
          | none =>
            match r.loc with
            | .weight d off =>
              if s.refreshing (wsGroup off) then
                if r.phase = .stalled then s
                else (s.modRemote c (fun q => { q with phase := .stalled })).modCtx c (fun x =>
                  { x with stalls := Sparse.put x.stalls d.val (Sparse.get 0 x.stalls d.val + 1) })
              else s.performRemote c r r.loc
            | .expansion _ pa =>
              if s.inWindow pa then s.performRemote c r r.loc
              else s.reply c r (.failed .expansionError)
            | _ => s.performRemote c r r.loc)

/-- The reply of the outstanding access stands ready. -/
def Remote.answered (r : Remote) : Bool :=
  match r.phase with
  | .replied _ _ _ => true
  | .failed _ => true
  | .fpTrap _ => true
  | _ => false

/-- REMOTE_REPLY_ARRIVE (R139, R326, R339): the context is READY; its instruction writes its result or traps when it issues. -/
def execRemoteReplyArrive (c : CtxId) (s : State) : Host.Outcome State Fault Refusal :=
  let x := s.ctx c
  s.on (x.status == .waiting .reply && (match x.remote with | some r => r.answered && s.crossed r.seq | none => false)) (fun s =>
    let fixed := match x.remote with
      | some r => r.repaired.toNat
      | none => 0
    ((s.modRemote c (fun q => { q with repaired := false })).modCtx c Ctx.wake).countMiss c fixed)

/-- EXPANSION_TIMEOUT (R88): a transaction to expansion memory fails. -/
def execExpansionTimeout (c : CtxId) (s : State) : Host.Outcome State Fault Refusal :=
  match (s.ctx c).remote with
  | none => .next s
  | some r =>
    let exp := match r.loc with
      | .expansion _ _ => true
      | _ => false
    s.on (exp && r.phase == .sent) (fun s => s.modRemote c (fun q => { q with phase := .failed .expansionError }))

/-- A store to expansion memory times out at its destination (R88): it has retired, so that no trap can come of it; it has no
effect and is acknowledged (assumption log 8). -/
def State.failStore (s : State) (seq : Nat) : State :=
  match s.stores.find? (fun r => r.seq == seq) with
  | none => s
  | some r => if r.loc.inExp && s.storeHere r && s.nextStore r.ctx r.dest == some r && !r.narrow then s.countArrival r else s

/-- WS_REFRESH_WINDOW (R138): a window has ended, and what waited for its bank group goes on. -/
def execWsRefreshWindow (grp : Fin 8) (s : State) : Host.Outcome State Fault Refusal :=
  s.on (!s.refreshing grp) (fun s =>
    { s with ctxs := s.ctxs.map (fun p => (p.1, match p.2.status with
        | .waiting (.refresh _ g) => if g = grp then p.2.wake else p.2
        | _ => match p.2.remote with
          | some r => (match r.phase, r.loc with
            | .stalled, .weight _ off =>
              if wsGroup off = grp then { p.2 with remote := some { r with phase := .sent } } else p.2
            | _, _ => p.2)
          | none => p.2)) })

/-! Repairs (R325, R326). -/

/-- The narrowest scope that holds the home is the one a repair uses; every earlier store and event post with a home in it has
taken effect (R323, R325). -/
def State.repairReady (s : State) (c : CtxId) (w : Scope) (seq : Nat) : Bool :=
  !(s.stores.any (fun r => r.ctx == c && decide (r.seq < seq) && decide (r.home.code ≤ w.code) && !r.landed))
    && !(s.evmsgs.any (fun e => e.counted && e.ctx == c && decide (e.seq < seq) && decide (e.home.code ≤ w.code) && e.arrived.isNone))

/-- When the miss of a store arrived. -/
def RStore.missedAt (r : RStore) : Option Nat :=
  match r.phase with
  | .missed n => some n
  | _ => none

/-- The missed store of a context whose miss arrived first, among those whose repair waits for no other missed store: where the
miss of a later store arrives before that of an earlier one which its repair waits for, the earlier one is repaired first
(assumption log 8). -/
def State.firstMiss (s : State) (c : CtxId) : Option RStore :=
  let missed := s.stores.filter (fun r => r.ctx == c && r.missedAt.isSome)
  match missed.filter (fun r => !(missed.any (fun q => decide (q.seq < r.seq) && decide (q.home.code ≤ r.home.code)))) with
  | [] => none
  | r :: rs => some (rs.foldl (fun a b => if b.missedAt.getD 0 < a.missedAt.getD 0 then b else a) r)

/-- SCOPE_MISS_REPAIR (R325): the missed release of a context whose miss arrived first is issued again, as a release at the
scope of its home. -/
def execScopeMissRepair (c : CtxId) (s : State) : Host.Outcome State Fault Refusal :=
  let atomic : Option (Remote × Nat) := match (s.ctx c).remote with
    | some r => (match r.phase with
      | .missed n => some (r, n)
      | _ => none)
    | none => none
  let fixStore : RStore → Host.Outcome State Fault Refusal := fun r =>
    s.on (s.repairReady c r.home r.seq) (fun s =>
      (s.modStore r.seq (fun q => { q with phase := .flying, release := some r.home, repaired := true })).frameStore r)
  let fixRemote : Remote → Host.Outcome State Fault Refusal := fun r =>
    s.on (s.repairReady c r.home r.seq) (fun s =>
      (s.enframe c.core r.loc r.seq .load (s.ctx c).phaseTag).modRemote c (fun q =>
        { q with phase := .sent, scope := some r.home, repaired := true }))
  match s.firstMiss c, atomic with
  | some r, none => fixStore r
  | none, some q => fixRemote q.1
  | some r, some q =>
    if r.missedAt.getD 0 < q.2 ∨ (r.seq < q.1.seq ∧ r.home.code ≤ q.1.home.code) then fixStore r else fixRemote q.1
  | none, none => .next s

/-! Rings (R187 to R190). -/

/-- What becomes of an engine's word tells its operation: it goes on with the next one, or the overflow ring is full
(R156, R189). -/
def State.wordEnds (s : State) (m : RingMsg) (sent : Bool) : State :=
  s.modCore m.ctx.core (fun k => { k with
    copyQ := k.copyQ.map (fun o => if o.head.owner == m.ctx && o.head.issued == m.op then
      (if sent then { o with k := o.k + 1, sent := false } else { o with pause := some .overflow, sent := false }) else o) })

/-- RING_DELIVER (R187, R190): the n-th word that an engine has sent reaches its ring: it is written there, diverted after
4,096 cycles of refusal, or discarded. One that finds its ring full stays, and its first refusal is noted. -/
def execRingDeliver (n : Nat) (s : State) : Host.Outcome State Fault Refusal :=
  match s.ringmsgs[n]? with
  | none => .next s
  | some m =>
    match ringAddr m.addr with
    | none => .next s
    | some a =>
      let first := !((s.ringmsgs.take n).any (fun q => q.ctx == m.ctx && q.addr == m.addr))
      s.on (first && s.crossed m.seq) (fun s =>
        let gone : State → Bool → State := fun t ok =>
          (({ t with ringmsgs := t.ringmsgs.eraseIdx n } : State)).wordEnds m ok
        let since := match m.away with
          | some t => m.since.map (fun n => n + (s.cycle - t))
          | none => m.since
        let divert := match since with
          | some t => decide (t + 4096 ≤ s.cycle)
          | none => false
        match s.sendWord m.ctx.sl a m.word divert none with
        | .delivered t => gone t true
        | .diverted t => gone t true
        | .discarded t => gone t true
        | .full =>
          if m.since.isSome && m.away.isNone then s
          else { s with ringmsgs := s.ringmsgs.set n { m with since := some (since.getD s.cycle), away := none } }
        | .deadlock => gone s false
        | .retry =>
          if m.away.isSome then s else { s with ringmsgs := s.ringmsgs.set n { m with away := some s.cycle } })

/-- RING_RETRY (R189): a refused word finds room, and the context that sends it goes on; or the slot is now being evicted, and its
retry replies begin, whose time does not count. -/
def execRingRetry (c : CtxId) (s : State) : Host.Outcome State Fault Refusal :=
  match (s.ctx c).status with
  | .waiting (.ringRoom addr _) =>
    match ringAddr addr with
    | none => .next s
    | some a =>
      match s.sendWord c.sl a 0 false (s.ctx c).place with
      | .full => .next s
      | .retry => s.on true (fun s => s.stall c (.ringAway addr))
      | _ => s.on true (fun s => s.modCtx c Ctx.wake)
  | _ => .next s

/-- OVERFLOW_DIVERT (R189): after 4,096 cycles of refusal the word goes to the overflow ring when the instruction issues. -/
def execOverflowDivert (c : CtxId) (s : State) : Host.Outcome State Fault Refusal :=
  match (s.ctx c).status with
  | .waiting (.ringRoom addr since) =>
    let away := match ringAddr addr with
      | some a => (match s.sendWord c.sl a 0 false (s.ctx c).place with
        | .retry => true
        | _ => false)
      | none => false
    s.on (decide (since + 4096 ≤ s.cycle) && !away) (fun s =>
      s.modCtx c (fun x => { x.wake with sending := some { x.sendingTo addr with since := some since, divert := true, away := none } }))
  | _ => .next s

/-- Take out the first element that satisfies a test. -/
def takeFirst {α : Type} (p : α → Bool) : List α → Option (α × List α)
  | [] => none
  | a :: r => if p a then some (a, r) else (takeFirst p r).map (fun q => (q.1, a :: q.2))

/-- OVERFLOW_MOVE (R189): the oldest overflow word of a ring moves into it. A ring that RBIND has unbound meanwhile (R193) discards
the word, which DROPS counts (DESIGN CHOICE, assumption log 10). -/
def execOverflowMove (c : CtxId) (k : Fin 4) (s : State) : Host.Outcome State Fault Refusal :=
  match takeFirst (fun e => e.1 == c.ctx && e.2.1 == k) (s.slot c.sl).portOvf with
  | none => .next s
  | some (e, rest) =>
    let r := (s.ctx c).ring k
    s.on (!r.bound || r.room s.cycle) (fun s =>
      let t := s.modSlot c.sl (fun q => { q with portOvf := rest })
      if r.bound then t.ringPut c k e.2.2
      else t.modCtx c (fun x => { x with drops := if x.drops = 255 then 255 else x.drops + 1 }))

end Sys2Proof.Machine
end

