-- ==== Sys2Proof/Machine/Translation.lean ====
section
/-! DEFINITION. Machine/Translation.lean: the page walker (R79, R80), shootdowns (R81), the fault service (R82 to R84), FILE
pages and the NVMe initiator (R94 to R97), host translation and page requests (R91 to R93), and hosts' accesses to HBM and
their snoops (R86, R87, R91). -/
namespace Sys2Proof.Machine
open Sys2Proof

/-! Who waits for a page. -/

/-- Two DVAs lie in one 4 KiB page. -/
def samePage (a b : W64) : Bool := a.toNat / 4096 == b.toNat / 4096

/-- A context waits for a miss of a page. -/
def Ctx.walkOf (x : Ctx) (d : W64) : Bool :=
  match x.status with
  | .waiting (.walk e _) => samePage d e
  | _ => false
/-- A context waits for a service of a page that begins at `base` and has `n` bytes. -/
def Ctx.serviceIn (x : Ctx) (base n : Nat) : Bool :=
  match x.status with
  | .waiting (.service e _) => decide (base ≤ e.toNat ∧ e.toNat < base + n)
  | _ => false
/-- A context waits for a service of a 4 KiB page. -/
def Ctx.serviceOf (x : Ctx) (d : W64) : Bool := x.serviceIn (d.toNat / 4096 * 4096) 4096
/-- An engine operation waits for a miss of a page. -/
def pausedWalk (p : Option Pause) (d : W64) : Bool :=
  match p with
  | some (.walk e _) => samePage d e
  | _ => false
/-- An engine operation waits for a service of a page that begins at `base` and has `n` bytes. -/
def pausedIn (p : Option Pause) (base n : Nat) : Bool :=
  match p with
  | some (.service e _) => decide (base ≤ e.toNat ∧ e.toNat < base + n)
  | _ => false
/-- An engine operation waits for a service of a 4 KiB page. -/
def pausedService (p : Option Pause) (d : W64) : Bool := pausedIn p (d.toNat / 4096 * 4096) 4096

/-- Change what the engine operations of the slots that satisfy a test stand still for. -/
def Core.mapPauses (k : Core) (mine : CtxId → Bool) (f : Option Pause → Option Pause) : Core :=
  { k with
    copyQ := k.copyQ.map (fun o => if mine o.head.owner then { o with pause := f o.pause } else o)
    vecQ := k.vecQ.map (fun o => if mine o.head.owner then { o with pause := f o.pause } else o)
    matQ := k.matQ.map (fun o => if mine o.head.owner then { o with pause := f o.pause } else o)
    intQ := k.intQ.map (fun o => if mine o.head.owner then { o with pause := f o.pause } else o) }

/-- What the engine operations of a core, of a partition, stand still for. -/
def State.pausesOf (s : State) (k : Core) (part : Fin 64) : List (Option Pause) :=
  let mine : CtxId → Bool := fun c => s.partOf c.sl == part
  (k.copyQ.filter (fun o => mine o.head.owner)).map (fun o => o.pause)
    ++ (k.vecQ.filter (fun o => mine o.head.owner)).map (fun o => o.pause)
    ++ (k.matQ.filter (fun o => mine o.head.owner)).map (fun o => o.pause)
    ++ (k.intQ.filter (fun o => mine o.head.owner)).map (fun o => o.pause)

/-- Some engine operation of a core, of a partition, stands still in a way. -/
def State.anyPause (s : State) (k : Core) (part : Fin 64) (p : Option Pause → Bool) : Bool := (s.pausesOf k part).any p

/-- The cores that have a record. -/
def State.coreIds (s : State) : List (Fin 4608) := s.cores.map (fun p => ⟨p.1 % 4608, by omega⟩)

/-- The cores on which a context or an engine operation of a partition waits in a way. -/
def State.waitCores (s : State) (part : Fin 64) (c : Ctx → Bool) (p : Option Pause → Bool) : List (Fin 4608) :=
  (((s.ctxIds.filter (fun i => s.partOf i.sl == part && c (s.ctx i))).map (fun i => i.core))
    ++ s.coreIds.filter (fun k => s.anyPause (s.core k) part p)).dedup

/-- The contexts and engine operations of a partition that wait in a way go on. -/
def State.release (s : State) (part : Fin 64) (c : Ctx → Bool) (p : Option Pause → Bool) (to_ : Option Pause) : State :=
  let s := s.ctxIds.foldl (fun t i => if t.partOf i.sl = part ∧ c (t.ctx i) then t.modCtx i Ctx.wake else t) s
  s.coreIds.foldl (fun t k =>
    t.modCore k (fun q => q.mapPauses (fun o => t.partOf o.sl == part) (fun x => if p x then to_ else x))) s

/-- The fault records of a page of a partition are done with. -/
def State.dropFaults (s : State) (part : Fin 64) (base n : Nat) : State :=
  { s with faults := s.faults.filter (fun f => !(f.part == part && decide (base ≤ f.dva.toNat ∧ f.dva.toNat < base + n))) }

/-- A fault is refused to everyone of a partition who waits for the 4 KiB page (R83). -/
def State.refuse (s : State) (part : Fin 64) (d : W64) (r : PageReason) : State :=
  let s := s.dropFaults part (d.toNat / 4096 * 4096) 4096
  let s := s.ctxIds.foldl (fun t i =>
    match (t.ctx i).status with
    | .waiting (.service e _) =>
      if t.partOf i.sl = part ∧ samePage d e then t.modCtx i (fun x => { x.wake with refusal := some (e, r) }) else t
    | _ => t) s
  s.coreIds.foldl (fun t k =>
    t.modCore k (fun q => q.mapPauses (fun o => t.partOf o.sl == part) (fun x =>
      match x with
      | some (.service e _) => if samePage d e then some (.refused e r) else x
      | _ => x))) s

/-- A page of `n` bytes has become usable: everyone of a partition who waits in it goes on (R82, R83). -/
def State.resolvePage (s : State) (part : Fin 64) (base n : Nat) : State :=
  (s.dropFaults part base n).release part (fun x => x.serviceIn base n) (fun p => pausedIn p base n) none

/-! Lines of HBM that hosts hold, before the device's own accesses (R86). -/

/-- The first line that must be snooped before some words of HBM are read and some ranges written, and whether for a write. -/
def State.heldLine (s : State) (reads : List Nat) (writes : List (Nat × Nat)) : Option (Nat × Bool) :=
  match List.find? (fun h => !h.2.holders.isEmpty &&
      writes.any (fun r => decide (64 * h.1 < r.1 + r.2) && decide (r.1 < 64 * h.1 + 64))) s.hostLines with
  | some h => some (h.1, true)
  | none => (reads.findSome? (fun a => s.mustSnoop (.hbm a) false)).map (fun n => (n, false))

/-- A step of the device that reads words and writes ranges of HBM: while hosts hold such a line, the step sends its snoops
only. -/
def State.afterSnoops (s : State) (reads : List Nat) (writes : List (Nat × Nat)) (f : State → State) : State :=
  match s.heldLine reads writes with
  | some (n, w) => s.snoop n w
  | none => f s

/-- The addresses of the entries that a walk reads (R73). -/
def State.walkPath (s : State) (dva : Nat) : Nat → Nat → List Nat
  | lvl, tbl =>
    let idx := if lvl = 4 then dva / 2 ^ 48 % 256 else dva / 2 ^ (12 + 9 * lvl) % 512
    let at_ := tbl + 8 * idx
    let pte := s.hbm64 at_
    if pteV pte && !pteL pte then
      match lvl with
      | 0 => [at_]
      | l + 1 => at_ :: State.walkPath s dva l (pteFrame pte)
    else [at_]

/-- The entries of a partition's tables that a walk for a DVA reads. -/
def State.pathOf (s : State) (part : Fin 64) (dva : W64) : List Nat := s.walkPath dva.toNat 4 (s.part part).ptroot.toNat

/-- The entry that a walk ends on, where it has yet to set AC there (R76). -/
def State.acWrite (s : State) (part : Fin 64) (dva : W64) : List (Nat × Nat) :=
  match s.walk (s.part part).ptroot dva with
  | .ok l => if l.pte &&& acBit = 0 then [(l.pteAt, 8)] else []
  | .error _ => []

/-! The page walker (R79, R80). -/

/-- How a miss ends for those who wait for it. -/
inductive WalkResult where
  | found | service
  | fault (r : PageReason)

/-- A context that waits for a miss of a page goes on, waits for a service, or has its fault (R80, R82). -/
def Ctx.walkEnds (x : Ctx) (d : W64) (e : WalkResult) : Ctx :=
  match x.status with
  | .waiting (.walk a w) =>
    if samePage d a then
      match e with
      | .found => x.wake
      | .service => { x with status := .waiting (.service a w) }
      | .fault r => { x.wake with refusal := some (a, r) }
    else x
  | _ => x

/-- So does an engine operation. -/
def pauseEnds (d : W64) (e : WalkResult) (p : Option Pause) : Option Pause :=
  match p with
  | some (.walk a w) =>
    if samePage d a then
      match e with
      | .found => none
      | .service => some (.service a w)
      | .fault r => some (.refused a r)
    else p
  | _ => p

/-- A miss ends for the contexts and operations of a core. -/
def State.endMiss (s : State) (part : Fin 64) (dva : W64) (core : Fin 4608) (e : WalkResult) : State :=
  let s := (allSlots.flatMap (fun k => ctxsOf ⟨core, k⟩)).foldl (fun t i =>
    if t.partOf i.sl = part ∧ (t.ctx i).walkOf dva then t.modCtx i (fun x => x.walkEnds dva e) else t) s
  s.modCore core (fun q => q.mapPauses (fun o => s.partOf o.sl == part) (pauseEnds dva e))

/-- A NOT_PRESENT fault becomes a fault record for the service of its die (R82); there is one for a page. -/
def State.noteFault (s : State) (part : Fin 64) (dva : W64) (die : Fin 4) : State :=
  if s.faults.any (fun f => f.part == part && samePage f.dva dva) then s
  else { s with faults := s.faults ++ [⟨part, dva, die⟩] }

/-- The core that an incoming operation names. -/
def Incoming.core (i : Incoming) : Fin 4608 := Fin.ofNat 4608 i.dcore.toNat

/-- An incoming operation fails for its next element's page (R443); before its kick, at ordinal 0. -/
def Incoming.failPage (i : Incoming) (r : PageReason) : Incoming :=
  { i with asks := none, walks := none, failed := some (0x8102, if i.fmt.isNone then 0 else i.k, r.code) }

/-- An incoming operation waits for a walk of a page. -/
def Incoming.walkOf (i : Incoming) (part : Fin 64) (d : W64) : Bool :=
  i.part == part && (match i.walks with
    | some e => samePage d e
    | none => false)

/-- A miss ends for an incoming operation (R79, R443): it goes on, asks the host by ATS, or fails. -/
def Incoming.walkEnds (i : Incoming) (e : WalkResult) : Incoming :=
  match e with
  | .found => { i with walks := none }
  | .service => { i with walks := none, asks := i.walks }
  | .fault r => i.failPage r

/-- A miss ends for the incoming operations that name a core. -/
def State.endIncoming (s : State) (part : Fin 64) (dva : W64) (core : Fin 4608) (e : WalkResult) : State :=
  { s with links := s.links.map (fun p => (p.1, { p.2 with arriving := p.2.arriving.map (fun (i : Incoming) =>
      if i.core == core && i.walkOf part dva then i.walkEnds e else i) })) }

/-- The cores for which incoming operations wait for a walk of a page (R79, R443). -/
def State.incomingWalks (s : State) (part : Fin 64) (d : W64) : List (Fin 4608) :=
  s.links.flatMap (fun p => (p.2.arriving.filter (fun i => i.walkOf part d)).map Incoming.core)

/-- The cores on which a context or an engine operation of a partition waits for a walk of a page. -/
def State.missCores (s : State) (part : Fin 64) (d : W64) : List (Fin 4608) :=
  s.waitCores part (fun x => x.walkOf d) (fun p => pausedWalk p d)

/-- The miss of a core ends: by an entry that a level of its reach holds, or by a walk (R78 to R80, R82). No fault of an
incoming operation is serviced (R443). -/
def State.endMissOf (s : State) (die : Fin 4) (part : Fin 64) (dva : W64) (core : Fin 4608) : State :=
  let all : State → WalkResult → State := fun t e => (t.endMiss part dva core e).endIncoming part dva core e
  match s.tlbFind core part dva with
  | some e => all (s.refill core e) .found
  | none =>
    match s.missWalk core part (s.part part).ptroot dva with
    | .filled t => all t .found
    | .host => all s .service
    | .absent file =>
      ((if file || !(s.missCores part dva).contains core then s else s.noteFault part dva die).endMiss part dva core .service).endIncoming
        part dva core (.fault .notPresent)
    | .fault r => all s (.fault r)

/-- PAGE_WALK (R78 to R80, R82): misses of a page of a partition on a die end. Those that another TLB level serves end at
once; the others with the die's walk for the page, which runs when it is one of the 64 oldest. A miss whose entry has left
the TLBs meanwhile joins the walks. -/
def execPageWalk (die : Fin 4) (part : Fin 64) (dva : W64) (s : State) : Host.Outcome State Fault Refusal :=
  let cores := ((s.missCores part dva ++ s.incomingWalks part dva).dedup).filter (fun k => dieOf k == die)
  let key := (part, dva.toNat / 4096)
  let near := cores.filter (fun k => (s.tlbFind k part dva).isSome)
  let far := cores.filter (fun k => (s.tlbFind k part dva).isNone)
  let walks := (s.die die).walks
  s.on (!cores.isEmpty || walks.contains key) (fun s =>
    let s := near.foldl (fun t k => t.endMissOf die part dva k) s
    if (walks.take 64).contains key then
      s.afterSnoops (s.pathOf part dva) (s.acWrite part dva) (fun s =>
        far.foldl (fun t k => t.endMissOf die part dva k) (s.modDie die (fun d => { d with walks := d.walks.filter (fun q => q != key) })))
    else if far.isEmpty || walks.contains key then s
    else s.modDie die (fun d => { d with walks := d.walks ++ [key] }))

/-! Shootdowns (R81). -/

/-- An address lies in a range; length 0 means every address. -/
def inRange (base len d : W64) : Bool := len == 0 || decide (base.toNat ≤ d.toNat ∧ d.toNat < base.toNat + len.toNat)

/-- A page shares a byte with a range; length 0 means every address. -/
def pageIn (base len : W64) (page : Option (Nat × Nat)) : Bool :=
  match page with
  | some (v, n) => len == 0 || (decide (v < base.toNat + len.toNat) && decide (base.toNat < v + n))
  | none => false

/-- A location of host memory. -/
def Loc.isHost (l : Loc) : Bool :=
  match l with
  | .host _ _ => true
  | _ => false

/-- A store or an access of a partition that used an entry of a range has not completed (R81); `ats`: an entry of a host
page. -/
def State.usesRange (s : State) (part : Fin 64) (base len : W64) (ats : Bool) : Bool :=
  s.stores.any (fun r => r.part == part && !r.landed && pageIn base len r.page && (!ats || r.loc.isHost))
    || s.ctxs.any (fun p => match p.2.remote with
      | some r => s.partOf (ctxOfKey p.1).sl == part && !r.answered && pageIn base len r.page && (!ats || r.loc.isHost)
      | none => false)

/-- Fill the response of a mailbox (R421). -/
def Mailbox.answer (m : Mailbox) (status : Nat) (w1 : W64) : Mailbox :=
  let q := m.req.headD 0
  { m with
    resp := [BitVec.ofNat 64 (q.toNat % 2 ^ 32 + status * 2 ^ 32), w1, 0, 0, 0, 0, 0, 0], mstate := 2 }

/-- Answer the request of a function's mailbox; vector 2 fires (R421). -/
def State.answer (s : State) (f : HostFn) (status : Nat) (w1 : W64) : State :=
  (match f with
    | .pf n => s.modPf n (fun p => { p with mbox := p.mbox.answer status w1 })
    | .vf n => s.modVf n (fun v => { v with mbox := v.mbox.answer status w1 })).fire f 2

/-- SHOOTDOWN_COMPLETE (R81): no access that used a named entry is under way; every TLB has dropped them, and frames that waited
for it go back to the pool. An ATS invalidation names the MT 5 entries of its range, and its completion is returned (R91). -/
def execShootdownComplete (n : Nat) (s : State) : Host.Outcome State Fault Refusal :=
  match s.shoots[n]? with
  | none => .next s
  | some h =>
    s.on (!(s.usesRange h.part h.base h.len h.ats)) (fun s =>
      let s : State := { s with shoots := s.shoots.eraseIdx n }
      let s := if h.ats then
          { s with
            tlb := s.tlb.filter (fun e => !(e.part == h.part && pteMT e.pte == 5 && pageIn h.base h.len (some (e.vbase, e.size))))
            invalDone := (h.part, h.base, h.len) :: s.invalDone }
        else s.tlbDrop h.part h.base h.len
      let s := if h.frees.isEmpty then s
        else s.modPart h.part (fun p => { p with pool := p.pool.filter (fun q => !h.frees.contains q.1) })
      match h.asker with
      | some f => s.answer f 0 0
      | none => s)

/-- ATS_INVALIDATE (R91): a host asks; the answer follows the completion. -/
def execAtsInvalidate (part : Fin 64) (dva len : W64) (s : State) : Host.Outcome State Fault Refusal :=
  s.on true (fun s => { s with shoots := s.shoots ++ [⟨part, dva, len, none, true, []⟩] })

/-! The fault service (R82, R83). -/

/-- A leaf template (R83). -/
def isTemplate (p : W64) (lvl : Nat) : Bool :=
  !pteV p && pteL p && pteMT p == 0 && !pteCT p && decide (lvl ≤ 2) && !leafMalformed (withFrame p 0) lvl

/-- A range of HBM lies in the pool of a partition, aligned to its size, and holds no frame that is taken or out of service. -/
def State.frameFree (s : State) (part : Fin 64) (f n : Nat) : Bool :=
  decide (f % n = 0) && (s.part part).ranges.any (fun q => decide (q.1 ≤ f) && decide (f + n ≤ q.1 + q.2)) &&
    s.parts.all (fun p => p.2.pool.all (fun q => decide (f + n ≤ q.1) || decide (q.1 + q.2 ≤ f))) &&
    s.badFrames.all (fun q => decide (f + n ≤ q.1) || decide (q.1 + q.2 ≤ f))

/-- Take zeroed frames for a partition (R83). -/
def State.takeFrame (s : State) (part : Fin 64) (f n : Nat) : State :=
  { s.modPart part (fun p => { p with pool := (f, n) :: p.pool }) with
    mem := dropRange s.mem f (f + n), tags := dropRange s.tags f (f + n) }

/-- A table entry that names a table (R73). -/
def tableEntry (f : Nat) : W64 := BitVec.ofNat 64 (1 + f / 4096 * 4096)
/-- The default leaf of the service: V, L, RD and WR (R83). -/
def defaultLeaf (f : Nat) : W64 := BitVec.ofNat 64 (15 + f / 4096 * 4096)

/-- Build the missing tables below an entry, and a page (R83): the frames are those of the tables and the page, whose leaf
`leaf` gives. -/
def State.buildPage (s : State) (leaf : Nat → W64) (dva : Nat) : Nat → Nat → List Nat → Option State
  | 0, at_, [f] => some (s.setHbm64 at_ (leaf f))
  | l + 1, at_, f :: fs =>
    State.buildPage (s.setHbm64 at_ (tableEntry f)) leaf dva l (f + 8 * (dva / 2 ^ (12 + 9 * l) % 512)) fs
  | _, _, _ => none

/-- The frames are free in a partition's pool, each of a size, and no two are the same. -/
def State.framesFree (s : State) (part : Fin 64) (n : Nat) : List Nat → Bool
  | [] => true
  | f :: fs => s.frameFree part f n && !fs.contains f && State.framesFree s part n fs

/-- The page of a fault lies wholly inside one registered region (R83, R422). -/
def Partition.allows (p : Partition) (base n : Nat) : Bool :=
  p.regions.any (fun r => decide (r.1.toNat ≤ base) && decide (base + n ≤ r.1.toNat + r.2.toNat))

/-- Make the page of a DVA present from an entry with V = 0, with the given frames (R83). -/
def State.makePage (s : State) (part : Fin 64) (dva lvl at_ : Nat) (pte : W64) (frames : List Nat) : Option State :=
  if isTemplate pte lvl then
    match frames with
    | [f] =>
      let n := entryBytes lvl
      if s.frameFree part f n then
        some ((s.takeFrame part f n).setHbm64 at_ ((withFrame pte f &&& ~~~(acBit ||| diBit)) ||| 1))
      else none
    | _ => none
  else if s.framesFree part 4096 frames then
    (frames.foldl (fun t f => t.takeFrame part f 4096) s).buildPage defaultLeaf dva lvl at_ frames
  else none

/-- Map a 4 KiB page of HBM, which must be absent: with the first frames of a list, of which the rest is left. The low bits of
the leaf are `flags` (R74). -/
def State.mapPage (s : State) (part : Fin 64) (flags : W64) (dva : Nat) (frames : List Nat) : Option (State × List Nat) :=
  match s.walkEnd dva 4 (s.part part).ptroot.toNat with
  | none => none
  | some (lvl, at_, _) =>
    let fs := frames.take (lvl + 1)
    if fs.length = lvl + 1 ∧ s.framesFree part 4096 fs then
      ((fs.foldl (fun t f => t.takeFrame part f 4096) s).buildPage
        (fun f => flags ||| BitVec.ofNat 64 (f / 4096 * 4096)) dva lvl at_ fs).map (fun t => (t, frames.drop (lvl + 1)))
    else none

/-- Map pages one after another. -/
def State.mapPages (s : State) (part : Fin 64) (flags : W64) : List Nat → List Nat → Option (State × List Nat)
  | [], frames => some (s, frames)
  | d :: r, frames =>
    match s.mapPage part flags d frames with
    | some (t, left) => State.mapPages t part flags r left
    | none => none

/-- The bytes of the page that the service would make. -/
def servicePage (pte : W64) (lvl : Nat) : Nat := if isTemplate pte lvl then entryBytes lvl else 4096

/-! FILE pages (R94 to R97). -/

/-- The address of a page-cache entry. -/
def State.pcEntry (s : State) (part : Fin 64) (idx : Nat) : Nat := (s.part part).pctb.toNat + 64 * idx
/-- STATE of an entry: 0 ABSENT, 1 READING, 2 RESIDENT, 3 WRITEBACK. -/
def State.pcState (s : State) (e : Nat) : Nat := s.readNat (.hbm e) 1 % 4
/-- Set STATE, ERR and NVST of an entry. -/
def State.setPcState (s : State) (e st err nvst : Nat) : State :=
  s.writeBytes (.hbm e) [BitVec.ofNat 8 st, BitVec.ofNat 8 err, BitVec.ofNat 8 nvst]
/-- The DVA of an entry's page. -/
def State.pcDva (s : State) (e : Nat) : W64 := s.hbm64 (e + 48)
/-- FRAMEPA of an entry. -/
def State.pcFrame (s : State) (e : Nat) : Nat := (s.hbm64 (e + 40)).toNat
/-- The index that an absent FILE leaf holds. -/
def fileIndex (p : W64) : Nat := (p.extractLsb' 12 44).toNat

/-- The level-0 entry that a DVA's walk reaches: its address. -/
def State.leafAt (s : State) (dva : Nat) : Nat → Nat → Option Nat
  | lvl, tbl =>
    let idx := if lvl = 4 then dva / 2 ^ 48 % 256 else dva / 2 ^ (12 + 9 * lvl) % 512
    let at_ := tbl + 8 * idx
    match lvl with
    | 0 => some at_
    | l + 1 => if pteV (s.hbm64 at_) && !pteL (s.hbm64 at_) then State.leafAt s dva l (pteFrame (s.hbm64 at_)) else none

/-- The entry of a FILE page. -/
def State.fileLeaf (s : State) (part : Fin 64) (d : W64) : Option Nat := s.leafAt d.toNat 4 (s.part part).ptroot.toNat

/-- A resident FILE page is clean: DI is clear in its leaf. -/
def State.fileClean (s : State) (part : Fin 64) (idx : Nat) : Bool :=
  let e := s.pcEntry part idx
  s.pcState e == 2 && (match s.fileLeaf part (s.pcDva e) with
    | some a => s.hbm64 a &&& diBit == 0
    | none => false)

/-- The words of HBM that tell which of a partition's FILE pages are clean: their leaves, and their entries. -/
def State.fileWords (s : State) (part : Fin 64) : List Nat :=
  if s.hostLines.isEmpty then []
  else (s.part part).files.flatMap (fun i => s.pcEntry part i :: s.pathOf part (s.pcDva (s.pcEntry part i)))

/-- Put a clean FILE page back in absent form and shoot it down; its frame is free when that completes (R81, R96). -/
def State.dropFile (s : State) (part : Fin 64) (idx : Nat) : State :=
  let e := s.pcEntry part idx
  let d := s.pcDva e
  let s := match s.fileLeaf part d with
    | some a => s.setHbm64 a ((withFrame (s.hbm64 a) (idx * 4096)) &&& ~~~(1 ||| acBit ||| diBit))
    | none => s
  let f := s.pcFrame e
  let s := ((s.setPcState e 0 0 0).setHbm64 (e + 40) 0).modPart part (fun p =>
    { p with files := p.files.filter (fun i => i != idx) })
  { s with shoots := s.shoots ++ [⟨part, d, 4096, none, false, [f]⟩] }

/-- The command of the initiator for an entry (R95, R97): its fields, with a frame and the die that it serves. -/
def State.nvmeCmd (s : State) (part : Fin 64) (idx : Nat) (write : Bool) (f : Nat) (die : Fin 4) : NvmeCmd :=
  let e := s.pcEntry part idx
  ⟨part, idx, write, BitVec.ofNat 16 (s.readNat (.hbm (e + 20)) 2), BitVec.ofNat 32 (s.readNat (.hbm (e + 16)) 4), s.hbm64 (e + 24),
    f, die⟩

/-- Start the read of an absent FILE page into a frame (R95). -/
def State.startRead (s : State) (part : Fin 64) (idx f : Nat) (die : Fin 4) : State :=
  let e := s.pcEntry part idx
  let s := (s.takeFrame part f 4096).setPcState e 1 0 (s.readNat (.hbm (e + 2)) 1)
  { s with nvme := s.nvme ++ [s.nvmeCmd part idx false f die] }

/-- Who waits for a page, or for its write-back, as a number: contexts and engine operations (R94). -/
def State.waiters (s : State) (part : Fin 64) (d : W64) : Nat :=
  s.ctxIds.countP (fun i => s.partOf i.sl == part && ((s.ctx i).serviceOf d || (match (s.ctx i).status with
    | .waiting (.writeback e) => samePage d e
    | _ => false)))
    + (s.coreIds.flatMap (fun k => s.pausesOf (s.core k) part)).countP (fun p => pausedService p d || (match p with
      | some (.writeback e) => samePage d e
      | _ => false))

/-- The free bytes of a partition's pool. -/
def State.poolLeft (s : State) (part : Fin 64) : Nat :=
  let p := s.part part
  let sum : List (Nat × Nat) → Nat := fun l => l.foldl (fun n q => n + q.2) 0
  let inside : Nat × Nat → Bool := fun q => p.ranges.any (fun r => decide (r.1 ≤ q.1) && decide (q.1 + q.2 ≤ r.1 + r.2))
  sum p.ranges - sum p.pool - sum (s.badFrames.filter (fun q => inside q && !p.pool.any (fun r => decide (r.1 ≤ q.1 ∧ q.1 < r.1 + r.2))))

/-- AC is set in the leaf of a resident FILE page. -/
def State.fileAccessed (s : State) (part : Fin 64) (idx : Nat) : Bool :=
  match s.fileLeaf part (s.pcDva (s.pcEntry part idx)) with
  | some a => s.hbm64 a &&& acBit != 0
  | none => false

/-- The clock sweep over the clean resident pages (R96): AC is cleared in those that were accessed since, with a shootdown
(R76), until one was not; the hand stays behind it. -/
def State.sweep (s : State) (part : Fin 64) : List Nat → State × Option Nat
  | [] => (s, none)
  | i :: r =>
    if s.fileClean part i then
      if s.fileAccessed part i then
        let d := s.pcDva (s.pcEntry part i)
        let t := match s.fileLeaf part d with
          | some a => s.setHbm64 a (s.hbm64 a &&& ~~~acBit)
          | none => s
        State.sweep { t with shoots := t.shoots ++ [⟨part, d, 4096, none, false, []⟩] } part r
      else (s.modPart part (fun p => { p with hand := p.files.idxOf i }), some i)
    else State.sweep s part r

/-- A fault on an absent FILE page (R95, R96): the initiator reads it into a free frame of the pool, while fewer than 256
reads are outstanding for the die; with no frame free, the least recently accessed clean resident page goes, and with none
of those the fault is refused. -/
def State.serveFile (s : State) (part : Fin 64) (dva : W64) (idx : Nat) (frames : List Nat) : State :=
  let e := s.pcEntry part idx
  let die := (((s.waitCores part (fun x => x.serviceOf dva) (fun p => pausedService p dva)).head?).map dieOf).getD 0
  if s.pcState e ≠ 0 then s
  else
    match frames with
    | [f] =>
      if s.frameFree part f 4096 && decide (s.nvme.countP (fun c => c.die == die && !c.write) < 256) then
        s.afterSnoops [] [(f, 4096), (e, 64)] (fun s => s.startRead part idx f die)
      else s
    | [] =>
      let files := (s.part part).files
      let hand := (s.part part).hand
      if 4096 ≤ s.poolLeft part ∨ s.shoots.any (fun h => h.part == part && !h.frees.isEmpty) then s
      else if files.any (s.fileClean part) then
        let ring := files.drop hand ++ files.take hand
        s.afterSnoops (s.fileWords part) [] (fun s =>
          match s.sweep part (ring ++ ring) with
          | (t, some i) => t.dropFile part i
          | (t, none) => t)
      else (s.setPcState e 0 2 (s.readNat (.hbm (e + 2)) 1)).refuse part dva .poolExhausted
    | _ => s

/-- A page lies in the service range (R410). -/
def inService (base n : Nat) : Bool := decide (0x00FFFF0000000000 < base + n)

/-- A fault record of a page of a partition stands. -/
def State.faultNoted (s : State) (part : Fin 64) (dva : W64) : Bool := s.faults.any (fun f => f.part == part && samePage f.dva dva)

/-- The service acts on a fault record (R83): it makes the page present where a registered region holds it and the service range
does not, with frames of the pool; else it refuses the fault. While the pool has no free frame of the size, those who wait go on
waiting: R83 says neither that they wait nor that the fault is refused (DESIGN CHOICE, assumption log 9). -/
def State.serveFault (s : State) (part : Fin 64) (dva : W64) (lvl at_ : Nat) (pte : W64) (frames : List Nat) : State :=
  let n := servicePage pte lvl
  let base := dva.toNat / n * n
  if (s.part part).allows base n && !inService base n && !(pteL pte && pteMT pte == 5) then
    match s.makePage part dva.toNat lvl at_ pte frames with
    | some t =>
      s.afterSnoops (s.pathOf part dva) ((at_, 8) :: frames.map (fun f => (f, n))) (fun _ => t.resolvePage part base n)
    | none => s
  else s.refuse part dva .notPresent

/-- FAULT_SERVICE (R82 to R84, R95, R96): the service acts on a fault record, whether or not someone still waits; for an
absent FILE page that someone waits for, the initiator or the service cores act. -/
def execFaultService (part : Fin 64) (dva : W64) (frames : List Nat) (s : State) : Host.Outcome State Fault Refusal :=
  s.on (s.faultNoted part dva || decide (0 < s.waiters part dva)) (fun s =>
    match s.walkEnd dva.toNat 4 (s.part part).ptroot.toNat with
    | none => if s.faultNoted part dva then s.resolvePage part (dva.toNat / 4096 * 4096) 4096 else s
    | some (lvl, at_, pte) =>
      if isAbsentFile pte lvl then if 0 < s.waiters part dva then s.serveFile part dva (fileIndex pte) frames else s
      else if s.faultNoted part dva then s.serveFault part dva lvl at_ pte frames
      else s)

/-- The outstanding command for an entry. -/
def State.nvmeFor (s : State) (part : Fin 64) (idx : Nat) (write : Bool) : Option NvmeCmd :=
  s.nvme.find? (fun c => c.part == part && c.index == idx && c.write == write)

/-- NVME_READ_COMPLETE (R95, R96): a read succeeds and the page is resident, or it fails and the fault is refused. -/
def execNvmeReadComplete (part : Fin 64) (idx : Nat) (status : BitVec 8) (data : List Byte) (s : State) :
    Host.Outcome State Fault Refusal :=
  let e := s.pcEntry part idx
  match s.nvmeFor part idx false with
  | none => .next s
  | some c =>
    s.on (s.pcState e == 1) (fun s =>
      let f := c.frame
      let d := s.pcDva e
      let leaf := s.fileLeaf part d
      s.afterSnoops [] ([(f, 4096), (e, 64)] ++ leaf.toList.map (fun a => (a, 8))) (fun s =>
        let s : State := { s with nvme := s.nvme.erase c }
        if status = 0 then
          let s := s.poke (.hbm f) ((data ++ List.replicate 4096 0).take 4096)
          let s := ((s.setPcState e 2 0 0).setHbm64 (e + 40) (BitVec.ofNat 64 f)).modPart part (fun p =>
            { p with files := p.files ++ [idx] })
          let s := match leaf with
            | some a => s.setHbm64 a ((withFrame (s.hbm64 a) f &&& ~~~(acBit ||| diBit)) ||| 1)
            | none => s
          s.resolvePage part (d.toNat / 4096 * 4096) 4096
        else
          ((s.setPcState e 0 1 status.toNat).modPart part (fun p => { p with pool := p.pool.filter (fun q => q.1 != f) })).refuse
            part d .fileReadError))

/-- The entries whose dirty pages a write-back of a range takes (R97). -/
def State.dirtyFiles (s : State) (part : Fin 64) (d len : W64) : List Nat :=
  (s.part part).files.filter (fun i =>
    let e := s.pcEntry part i
    let p := (s.pcDva e).toNat
    s.pcState e == 2 && !(s.fileClean part i) && decide (p < d.toNat + len.toNat) && decide (d.toNat < p + 4096))

/-- Start the write-back of the dirty pages of a range (R97): of a page, when no store to it is under way. Lines that hosts hold
are snooped first (R86). -/
def State.startSync (s : State) (part : Fin 64) (d len : W64) : State :=
  let dirty := s.dirtyFiles part d len
  s.afterSnoops (s.fileWords part) (dirty.map (fun i => (s.pcEntry part i, 64))) (fun s =>
    dirty.foldl (fun t i =>
      let e := t.pcEntry part i
      if t.usesRange part (t.pcDva e) 4096 false then t
      else
        let u := (t.setPcState e 3 0 0).modPart part (fun p => { p with writing := t.pcDva e :: p.writing })
        { u with nvme := u.nvme ++ [u.nvmeCmd part i true (u.pcFrame e) 0] }) s)

/-- The write-back of an entry is over (R97). -/
def State.endSync (s : State) (part : Fin 64) (idx : Nat) : State :=
  let e := s.pcEntry part idx
  let d := s.pcDva e
  { (s.setPcState e 2 0 0).modPart part (fun p => { p with writing := p.writing.filter (fun x => x != d) }) with
    nvme := s.nvme.filter (fun c => !(c.part == part && c.index == idx && c.write)) }

/-- A write-back of a range is under way. -/
def State.syncing (s : State) (part : Fin 64) (d len : W64) : Bool :=
  (s.part part).writing.any (fun p => decide (p.toNat < d.toNat + len.toNat) && decide (d.toNat < p.toNat + 4096))

/-- WRITEBACK_COMPLETE (R97): STATE is RESIDENT again and DI is clear. -/
def execWritebackComplete (part : Fin 64) (idx : Nat) (s : State) : Host.Outcome State Fault Refusal :=
  let e := s.pcEntry part idx
  let leaf := s.fileLeaf part (s.pcDva e)
  s.on (s.pcState e == 3) (fun s =>
    s.afterSnoops (s.pathOf part (s.pcDva e)) ((e, 64) :: leaf.toList.map (fun a => (a, 8))) (fun s =>
      let s := s.endSync part idx
      match leaf with
      | some a =>
        { s.setHbm64 a (s.hbm64 a &&& ~~~diBit) with
          tlb := s.tlb.map (fun t => if t.pteAt = a then { t with pte := t.pte &&& ~~~diBit } else t) }
      | none => s))

/-! WAITERS (R94). -/

/-- The DVAs of the pages that contexts and engine operations of partitions wait for. -/
def State.pagesWaited (s : State) : List (Fin 64 × W64) :=
  (s.ctxIds.filterMap (fun i => match (s.ctx i).status with
    | .waiting (.service e _) => some (s.partOf i.sl, e)
    | _ => none))
  ++ s.coreIds.flatMap (fun k =>
    let q := s.core k
    (q.copyQ.map (fun o => (o.head.owner, o.pause)) ++ q.vecQ.map (fun o => (o.head.owner, o.pause))
      ++ q.matQ.map (fun o => (o.head.owner, o.pause)) ++ q.intQ.map (fun o => (o.head.owner, o.pause))).filterMap (fun o =>
        match o.2 with
        | some (.service e _) => some (s.partOf o.1.sl, e)
        | _ => none))

/-- The page-cache entries that have waiters, or had some. -/
def State.entriesWaited (s : State) : List (Fin 64 × Nat) :=
  (s.counted ++ s.nvme.map (fun c => (c.part, c.index)) ++ s.pagesWaited.filterMap (fun q =>
    match s.walkEnd q.2.toNat 4 (s.part q.1).ptroot.toNat with
    | some (lvl, _, p) => if isAbsentFile p lvl then some (q.1, fileIndex p) else none
    | none => none)).dedup

/-- WAITERS of a page-cache entry is how many requesters wait for it now (R94). While hosts hold its line, it waits for the
answers to the snoops (R86). -/
def State.recountFile (s : State) (q : Fin 64 × Nat) : State :=
  let e := s.pcEntry q.1 q.2
  let n := s.waiters q.1 (s.pcDva e)
  let keep : State → State := fun t => if t.counted.contains q then t else { t with counted := t.counted ++ [q] }
  let done : State → State := fun t => if n = 0 then { t with counted := t.counted.filter (fun c => c != q) } else keep t
  if s.hbm64 (e + 8) = BitVec.ofNat 64 n then done s
  else
    match s.heldLine [] [(e + 8, 8)] with
    | some (i, w) => keep (s.snoop i w)
    | none => done (s.setHbm64 (e + 8) (BitVec.ofNat 64 n))

/-- WAITERS of each entry is kept as requesters join and leave (R94). -/
def State.recountFiles (s : State) : State := s.entriesWaited.foldl State.recountFile s

/-! Hosts' translations (R91 to R93). -/

/-- The lowest free page request group of a function. -/
def Vf.freeGroup (v : Vf) : Option Nat := (List.range 256).find? (fun i => (Sparse.find? v.groups i).isNone)

/-- A page request goes out for a page, where none is out for it and a group is free (R92). After a Response Failure none
goes out any more, and what becomes of a fault that needs one is not stated: it is refused HOST_DENIED at once (DESIGN
CHOICE, assumption log 9). -/
def State.askPage (s : State) (part : Fin 64) (dva : W64) : State :=
  let n := (s.part part).vf
  let v := s.vf n
  if v.noPri then s.refuse part dva .hostDenied
  else if v.groups.any (fun g => !g.2.orphaned && g.2.part == part && samePage g.2.dva dva) then s
  else
    match v.freeGroup with
    | some i => s.modVf n (fun v => { v with groups := Sparse.put v.groups i ⟨dva, part, false, 0⟩ })
    | none => s

/-- The requesters of a die that wait for a page, with whether one of them writes. -/
def State.serviceWrite (s : State) (part : Fin 64) (dva : W64) : Bool :=
  s.ctxs.any (fun p => s.partOf (ctxOfKey p.1).sl == part && (match p.2.status with
    | .waiting (.service e w) => samePage dva e && w
    | _ => false))
  || s.coreIds.any (fun k => s.anyPause (s.core k) part (fun p => match p with
    | some (.service e w) => samePage dva e && w
    | _ => false))

/-- The cores for which incoming operations of a partition wait for the translation of a host page (R91, R443). -/
def State.incomingAsks (s : State) (part : Fin 64) (d : W64) : List (Fin 4608) :=
  s.links.flatMap (fun p => (p.2.arriving.filter (fun i => i.part == part && (match i.asks with
    | some e => samePage d e
    | none => false))).map Incoming.core)

/-- The incoming operations that wait for a host page are answered: they go on, or fail, since no page fault of theirs is
serviced (R443). -/
def State.answerIncoming (s : State) (part : Fin 64) (d : W64) (ok : Bool) (r : PageReason) : State :=
  { s with links := s.links.map (fun p => (p.1, { p.2 with arriving := p.2.arriving.map (fun (i : Incoming) =>
      if i.part == part && (match i.asks with | some e => samePage d e | none => false) then
        (if ok then { i with asks := none } else i.failPage r)
      else i) })) }

/-- The requesters of a partition that wait for a service of a page for a read go on (R92). -/
def State.releaseReaders (s : State) (part : Fin 64) (base n : Nat) : State :=
  s.release part
    (fun x => x.serviceIn base n && (match x.status with
      | .waiting (.service _ w) => !w
      | _ => false))
    (fun p => pausedIn p base n && (match p with
      | some (.service _ w) => !w
      | _ => false)) none

/-- ATS_TRANSLATION_COMPLETION (R91, R92): the translation fills the TLBs of those who wait on the die; a page that is not
present, or not writable for a write, is asked for. Where it may only be read, its readers go on and its writers wait. -/
def execAtsTranslationCompletion (die : Fin 4) (part : Fin 64) (dva : W64) (rd wr : Bool) (s : State) :
    Host.Outcome State Fault Refusal :=
  let cores := (s.waitCores part (fun x => x.serviceOf dva) (fun p => pausedService p dva) ++ s.incomingAsks part dva).filter
    (fun k => dieOf k == die)
  let leaf : Option Leaf := match s.walk (s.part part).ptroot dva with
    | .ok l => if pteMT l.pte = 5 then some l else none
    | .error _ => none
  match leaf with
  | none => .next s
  | some l =>
    s.on (!cores.isEmpty) (fun s =>
      let ask : State → State := fun t =>
        if (t.waitCores part (fun x => x.serviceOf dva) (fun p => pausedService p dva)).isEmpty then t else t.askPage part dva
      if !rd then (ask s).answerIncoming part dva false .notPresent
      else
        s.afterSnoops (s.pathOf part dva) (s.acWrite part dva) (fun s =>
          let mask : W64 := if wr then BitVec.allOnes 64 else ~~~8
          let page := dva.toNat / 4096 * 4096
          let t := cores.foldl (fun t k => t.tlbFill k part { l with pte := l.pte &&& mask }) s
          (if s.serviceWrite part dva && !wr && pteWR l.pte then ask (t.releaseReaders part page 4096)
            else t.resolvePage part page 4096).answerIncoming part dva wr .permission))

/-- PRI_RESPONSE (R92, R93): success lets the requesters ask again; anything else refuses; a response for an orphaned group
is discarded and counted. -/
def execPriResponse (vf : Fin 64) (grp : Fin 256) (code : PriCode) (s : State) : Host.Outcome State Fault Refusal :=
  match Sparse.find? (s.vf vf).groups grp.val with
  | none => .next s
  | some g =>
    s.on true (fun s =>
      let s := s.modVf vf (fun v => { v with groups := Sparse.erase v.groups grp.val })
      if g.orphaned then s.modVf vf (fun v => { v with latePrg := v.latePrg + 1 })
      else
        match code with
        | .success => s
        | .invalid => s.refuse g.part g.dva .hostDenied
        | .failure => (s.modVf vf (fun v => { v with noPri := true })).refuse g.part g.dva .hostDenied)

/-- PRG_QUARANTINE_EXPIRE (R93): 2 s after the reset. -/
def execPrgQuarantineExpire (vf : Fin 64) (grp : Fin 256) (s : State) : Host.Outcome State Fault Refusal :=
  match Sparse.find? (s.vf vf).groups grp.val with
  | none => .next s
  | some g =>
    s.on (g.orphaned && decide (g.since + 2000000000 ≤ s.timeNs)) (fun s =>
      s.modVf vf (fun v => { v with groups := Sparse.erase v.groups grp.val }))

/-! Hosts and HBM (R86, R87); host lines (R91). -/

/-- HOST_SNOOP (R91): a host snoops a line that the memory-side cache holds: it invalidates it, or leaves it shared. -/
def execHostSnoop (part : Fin 64) (line : W64) (inv : Bool) (s : State) : Host.Outcome State Fault Refusal :=
  let n := (Loc.host part (line.toNat * 64)).place 0 / 64
  s.on ((Sparse.find? s.sideCache n).isSome) (fun s =>
    { s with sideCache := if inv then Sparse.erase s.sideCache n else Sparse.put s.sideCache n .shared })

/-- Change what hosts hold of a line; a line that none holds is not listed. -/
def State.setLine (s : State) (n : Nat) (h : HostLine) : State :=
  { s with hostLines := if h.holders.isEmpty then Sparse.erase s.hostLines n else Sparse.put s.hostLines n h }

/-- BISNP_RESPONSE (R86): a host answers a snoop, with the line where it had modified it; BISnpInv takes the line away, and
BISnpData leaves it shared. -/
def execBisnpResponse (host : Fin 16) (line : W64) (data : List Byte) (s : State) : Host.Outcome State Fault Refusal :=
  let n := line.toNat
  match Sparse.find? s.hostLines n with
  | none => .next s
  | some h =>
    s.on (h.holders.contains host) (fun s =>
      let s := if h.excl then s.poke (.hbm (64 * n)) (data.take 64) else s
      match h.snooping with
      | some false => s.setLine n { h with excl := false, snooping := none }
      | _ =>
        let left := h.holders.filter (fun x => x != host)
        s.setLine n { holders := left, excl := false, snooping := if left.isEmpty then none else h.snooping })

/-- An HBM range lies in the window of a logical device (R86). -/
def State.inHdm (s : State) (host : Fin 16) (addr : W64) (n : Nat) : Bool :=
  let p := s.pf host
  decide (p.hbmBase.toNat ≤ addr.toNat) && decide (addr.toNat + n ≤ p.hbmBase.toNat + p.hbmSize.toNat)
    && decide (addr.toNat + n ≤ Config.hbmBytes)

/-- HOST_HDM_WRITE (R86, R87, R140): a host's write completes at the device; tags are cleared. -/
def execHostHdmWrite (host : Fin 16) (addr : W64) (data : List Byte) (s : State) : Host.Outcome State Fault Refusal :=
  s.on (s.inHdm host addr data.length) (fun s => s.poke (.hbm addr.toNat) data)

/-- The base die of a line of HBM. -/
def lineDie (n : Nat) : Nat := 64 * n / 4096 % 8

/-- The line that a directory must evict before it records a new one (R86): where the directory of a base die is full and
which of its lines goes are the model's free choices (assumption log 1). -/
def State.evicts (s : State) (lines : List Nat) : Option Nat :=
  match lines.find? (fun n => (Sparse.find? s.hostLines n).isNone) with
  | none => none
  | some n =>
    let mine := s.hostLines.filter (fun h => lineDie h.1 == lineDie n)
    if Config.freeBit s.fresh then (mine[Config.freeNat s.fresh % mine.length]?).map (fun h => h.1) else none

/-- HOST_HDM_READ (R86): a host reads, and may keep the lines it read, shared or exclusive. While a full directory evicts a
line with BISnpInv, the read waits. -/
def execHostHdmRead (host : Fin 16) (addr : W64) (n : Nat) (excl : Bool) (s : State) : Host.Outcome State Fault Refusal :=
  s.on (s.inHdm host addr n) (fun s =>
    let lines := (List.range ((addr.toNat % 64 + n + 63) / 64)).map (fun i => addr.toNat / 64 + i)
    match s.evicts lines with
    | some v => { s.snoop v true with fresh := s.fresh + 1 }
    | none =>
      let s : State := { s with hostRead := s.readBytes (.hbm addr.toNat) n, fresh := s.fresh + 1 }
      lines.foldl (fun t i =>
        let h := (Sparse.find? t.hostLines i).getD ⟨[], false, none⟩
        let others := h.holders.filter (fun x => x != host)
        t.setLine i { h with holders := host :: (if excl then [] else others), excl := excl }) s)

end Sys2Proof.Machine
end

