-- ==== Sys2Proof/Machine/TrapInstr.lean ====
section
/-! DEFINITION. Machine/TrapInstr.lean: TRAP, BKPT and ERET (R405 to R407), SYSCALL (R408 to R411) and LAUNCH (R363). -/
namespace Sys2Proof.Machine
open Sys2Proof

/-! TRAP and BKPT (R406). -/

/-- TRAP (R406): it completes, pops and all, and then traps. -/
def execTrap (a : RegCode) (s : State) : Host.Outcome State Fault Refusal :=
  run (.trap a) [a] [a] (do
    let v ← readData a
    pure (.trapAfter ⟨.trapInstr, v, 0, false⟩)) s

/-- BKPT (R406). -/
def execBkpt (s : State) : Host.Outcome State Fault Refusal :=
  run .bkpt [] [] (pure (.trapAfter ⟨.breakpoint, 0, 0, false⟩)) s

/-! ERET (R407). -/

/-- The context as ERET leaves it: the loop and repeat state of TSTAT, the hidden registers of a supervisor entry, and the
code capability of the trapped context with its cursor at TPC. -/
def Ctx.returned (x : Ctx) : Ctx :=
  let t := x.tstat
  let y := if t.suph then (x.setReg 2 x.hidden2).setReg 3 x.hidden3 else x
  { y with
    loopc := t.loopc, loopb := t.loopb, loope := t.loope
    repc := if t.uw then 0 else t.repc
    repi := if t.uw || t.repc == 0 then 0 else t.repi
    tstat := { t with inh := false, suph := false }
    pcc := x.tcode.withCursor x.tpc
    ibuf := []
    stale := []
    rep := none
    accHold := x.accHold && !t.suph }

/-- The return thaws the frozen commands of the context (R272). -/
def Core.returned (k : Core) (c : CtxId) : Core :=
  { k with
    matQ := k.matQ.map (fun o => if o.head.owner == c then { o with before := false } else o) }

/-- ERET (R407). Its target follows the rule for control transfers (R37, R229). -/
def execEret (s : State) : Host.Outcome State Fault Refusal :=
  let w := Instr.word .eret
  operate .eret .transfer [] [] (pure ()) (do
    let c ← who
    let x ← me
    if x.tstat.inh = false then raise .illegalInstruction w
    else if x.tpc.getLsbD 0 then raise .align x.tpc
    else if representable x.tcode x.tpc = false then raise .capBounds x.tpc
    else
      modify (fun t => ((t.modCtx c Ctx.returned).modCore c.core (fun k => k.returned c)).costs 4)
      pure .done) s

/-! SYSCALL (R408 to R411). -/

/-- Bytes of the spill region of a slot (R380). -/
def spillBytes : Nat := 90112

/-- A range touches a slot's local store, through either alias, or its spill region (R409). -/
def State.mustStage (s : State) (sl : SlotId) (r : Reg) : Bool :=
  let b := capBase r
  let t := capTop r
  let ds := (s.slot sl).dsbase.toNat
  r.tag == 1 && decide (b < t) &&
    (decide (b < (s.slot sl).bind.size) || (decide (b < 2 ^ 57) && decide (2 ^ 56 < t))
      || (decide (b < ds + spillBytes) && decide (ds < t)))

/-- The bounce buffer of a context (R410). -/
def bounce (c : CtxId) : Nat := supStack c - 4096

/-- An address lies in the spill region of a slot, and in no local store (R68, R380). -/
def State.inSpill (s : State) (sl : SlotId) (a : Nat) : Bool :=
  let ds := (s.slot sl).dsbase.toNat
  decide (ds ≤ a) && decide (a < ds + spillBytes) && decide ((s.slot sl).bind.size ≤ a) && decide (a < 2 ^ 56)

/-- Where a byte of an argument lies, and whether its place keeps tags: an access with a permission (R139), but the spill
region by translation alone (R380, R409). -/
def argSpot (cap : Reg) (write_ : Bool) (addr : W64) : M (Loc × Bool) := fun s =>
  let c := s.cur
  let perm := if write_ then permS else permL
  if s.inSpill c.sl addr.toNat then
    match checkCap (s.live (dieOf c.core)) cap perm addr 1 with
    | some e => .error (.trap ⟨e, addr, 0, false⟩)
    | none =>
      match s.homeAt c addr write_ with
      | some (t, l) => .ok ((l, true), t)
      | none => .error (.trap ⟨.dstackSpillFault, addr, 0, false⟩)
  else
    match s.reachRecord c cap ⟨[perm], if write_ then .write else .read, false, 1, 1, false⟩ addr with
    | .ok p =>
      let t := match p.xl with
        | some x => if write_ then s.markDirty x else s
        | none => s
      .ok ((p.loc, p.tags), t.cacheHost p.loc 1 write_)
    | .trap e v pfr => .error (.trap ⟨e, v, pfr, false⟩)
    | .wait w => .error (.wait w)

/-- Read bytes, each with the tag of its unit. -/
def copyIn (spot : W64 → M (Loc × Bool)) : Nat → W64 → M (List (Byte × Bool))
  | 0, _ => pure []
  | n + 1, a => do
    let p ← spot a
    let s ← get
    let r ← copyIn spot n (a + 1)
    pure ((s.byteAt (p.1.place 0), p.2 && s.tagAt (p.1.tagKey 0)) :: r)

/-- Write bytes; their tags are cleared (R140). -/
def copyOut (spot : W64 → M (Loc × Bool)) : List (Byte × Bool) → W64 → M Unit
  | [], _ => pure ()
  | (b, _) :: r, a => do
    let p ← spot a
    modify (fun s => s.poke p.1 [b])
    copyOut spot r (a + 1)

/-- The tags of the units that lie wholly inside go with them (R409). -/
def copyTags (spot : W64 → M (Loc × Bool)) : List (Byte × Bool) → W64 → M Unit
  | [], _ => pure ()
  | (_, t) :: r, a => do
    if a.toNat % 16 = 0 ∧ 15 ≤ r.length ∧ t then
      let p ← spot a
      modify (fun s => if p.2 then s.setTagAt (p.1.tagKey 0) true else s)
    else pure ()
    copyTags spot r (a + 1)

/-- Copy a range with its tags. -/
def copyRange (from_ to_ : W64 → M (Loc × Bool)) (n : Nat) (a b : W64) : M Unit := do
  let l ← copyIn from_ n a
  copyOut to_ l b
  copyTags to_ l b

/-- The bounce buffer as a place of bytes; its pages keep tags (R410). -/
def bufAt (part : Fin 64) (a : W64) : M (Loc × Bool) := fun s =>
  match s.partLoc part a with
  | some l => .ok ((l, true), s)
  | none => .error (.trap ⟨.pageFault, a, 0, false⟩)

/-- The argument as the service sees it: its bounds and cursor moved to the buffer (R409). -/
def rebase (r : Reg) (base n : Nat) : Reg :=
  let cur := BitVec.ofNat 64 (base + (r.lo.toNat + 2 ^ 64 - capBase r))
  match encodeBounds base (base + n) with
  | some e => withBounds (r.withCursor cur) e
  | none => r.withCursor cur

/-- The arguments that are staged (R409): the sent argument registers and the staged ranges, or EARGSPACE with none. -/
def stageArgs (c : CtxId) (part : Fin 64) : List (Fin 32) → Nat → M (Option (List Reg × List (Nat × W64 × Nat × Nat)))
  | [], _ => pure (some ([], []))
  | i :: is, off => do
    let r ← greg i
    let s ← get
    if s.mustStage c.sl r then
      let b := capBase r
      let n := capTop r - b
      let lo := b % 16
      if off + lo + n > 4096 then pure none
      else
        let buf := bounce c + off + lo
        if (s.partLoc part (BitVec.ofNat 64 buf)).isNone then pure none
        else
          copyRange (argSpot r false) (bufAt part) n (BitVec.ofNat 64 b) (BitVec.ofNat 64 buf)
          match ← stageArgs c part is (off + (lo + n + 15) / 16 * 16) with
          | some (rs, st) => pure (some (rebase r buf n :: rs, (i.val, BitVec.ofNat 64 b, n, buf) :: st))
          | none => pure none
    else
      match ← stageArgs c part is off with
      | some (rs, st) => pure (some ((if r.tag = 2 then ⟨r.bits, 0⟩ else r) :: rs, st))
      | none => pure none

/-- The statuses of R411 that the model's services give. -/
def stOk : W64 := 0
/-- ENOSYS. -/
def stNoSys : W64 := 0x21
/-- EARGSPACE. -/
def stArgSpace : W64 := 0x22
/-- EDOMAINS. -/
def stDomains : W64 := 0x23
/-- EBADCAP. -/
def stBadCap : W64 := 0x24
/-- ENOIMPORT. -/
def stNoImport : W64 := 0x25
/-- EIO. -/
def stIo : W64 := 0x26
/-- ECOPYBACK. -/
def stCopyBack : W64 := 0x2A

/-- The services that exist (R97, R375). -/
def isService (n : Nat) : Bool := n == 0x31 || decide (0x40 ≤ n ∧ n ≤ 0x43)

/-- The copy back of the staged arguments, and the status that goes to g4 (R409). -/
def copyBack (part : Fin 64) : List (Nat × W64 × Nat × Nat) → W64 → M W64
  | [], st => pure st
  | (i, b, n, buf) :: r, st => fun s =>
    let cap := (s.ctx s.cur).reg ⟨i % 32, by omega⟩
    if lacks cap permS then copyBack part r st s
    else
      match copyRange (bufAt part) (argSpot cap true) n (BitVec.ofNat 64 buf) b s with
      | .ok (_, t) => copyBack part r st t
      | .error (.wait w) => .error (.wait w)
      | .error (.trap _) => .ok (stCopyBack, s)

/-- The response has arrived (R408 step 5). -/
def sysReturn (r : SysReq) (st : W64) (v : Option Reg) : M Flow := do
  let c ← who
  let s ← get
  let st ← copyBack (s.partOf c.sl) r.staged st
  match v with
  | some g => setG 5 g
  | none => pure ()
  setG 4 (Reg.data st)
  pure .next

/-- SYSCALL (R408): the release, the staging, the request, and the wait for the answer. -/
def execSyscall (s : State) : Host.Outcome State Fault Refusal :=
  run .syscall [] [] (do
    let c ← who
    let x ← me
    match x.sysreq with
    | some r =>
      match r.answer with
      | some (st, v) => sysReturn r st v
      | none => pause .syscall
    | none =>
      releaseAt .sys
      let s ← get
      match ← stageArgs c (s.partOf c.sl) [5, 6, 7, 8, 9, 10] 0 with
      | none =>
        setG 4 (Reg.data stArgSpace)
        pure .next
      | some (rs, st) =>
        let g4 := (x.reg 4).lo
        let known := decide (g4.toNat < 2 ^ 16) && isService g4.toNat
        let req : SysReq := { service := g4.setWidth 16, args := rs, staged := st, answer := if known then none else some (stNoSys, none) }
        if known then
          edit (fun y => { y with sysreq := some req })
          pure (.hold .syscall)
        else sysReturn req stNoSys none) s

/-! LAUNCH (R363). -/

/-- Entries of the device launch queue (R363). -/
def devQueueSize : Nat := 64

/-- LAUNCH (R363). -/
def execLaunch (d : RegCode) (a : GReg) (s : State) : Host.Outcome State Fault Refusal :=
  let w := Instr.word (.launch d a)
  run (.launch d a) [] [d] (do
    let c ← who
    let cap ← greg a
    let s ← get
    let p ← record cap ⟨[permL], .read, false, 128, 128, false⟩ cap.lo
    releaseAt .dev
    let part := s.partOf c.sl
    if (s.part part).devQueue.length ≥ devQueueSize then
      writeData w d 1
      pure .next
    else
      modify (fun t => t.modPart part (fun q => { q with devQueue := q.devQueue ++ [s.readBytes p.loc 128] }))
      writeData w d 0
      pure .next) s

end Sys2Proof.Machine
end

