-- ==== Sys2Proof/Machine/Services.lean ====
section
/-! DEFINITION. Machine/Services.lean: what the service cores answer to SYSCALL: DOMNEW, DOMGRANT, DSPAGE and GIMPORT (R375,
R438), and FSYNC (R97). Each answers a request of its service that has none; the context then completes its SYSCALL. -/
namespace Sys2Proof.Machine
open Sys2Proof

/-- A posted request is one of a context for a service. -/
def Posted.isFor (p : Posted) (c : CtxId) (service : Nat) : Bool := p.ctx == c && p.req.service.toNat == service

/-- The request of a context for a service that has no answer yet, and the partition it is for: one whose wait was abandoned
still stands, and is served first (R408). -/
def State.asks (s : State) (c : CtxId) (service : Nat) : Option (SysReq × Fin 64) :=
  match s.posted.find? (fun p => p.isFor c service) with
  | some p => some (p.req, p.part)
  | none =>
    match (s.ctx c).sysreq with
    | some r =>
      if r.service.toNat = service ∧ r.answer.isNone ∧ (s.ctx c).status = .waiting .syscall then some (r, s.partOf c.sl) else none
    | none => none

/-- Drop the first request of a list that is one of a context for a service. -/
def dropPosted (c : CtxId) (service : Nat) : List Posted → List Posted
  | [] => []
  | p :: r => if p.isFor c service then r else p :: dropPosted c service r

/-- The response of a service reaches its context; that to an abandoned request reaches nobody (R408). -/
def State.respond (s : State) (c : CtxId) (service : Nat) (st : W64) (v : Option Reg) : State :=
  if s.posted.any (fun p => p.isFor c service) then { s with posted := dropPosted c service s.posted }
  else s.modCtx c (fun x => { x.wake with sysreq := x.sysreq.map (fun r => { r with answer := some (st, v) }) })

/-- The ids of a partition (R373). -/
def State.idsOf (s : State) (p : Fin 64) : Nat := ((s.die 0).owner.filter (fun q => q.2 == p)).length

/-- Give an id to a partition, live on every die (R373). -/
def State.giveId (s : State) (p : Fin 64) (id : BitVec 12) : State :=
  s.modDies (fun d => { d with owner := Sparse.put d.owner id.toNat p, live := Sparse.put d.live id.toNat true })

/-- The manager capability of a domain (R438). -/
def managerCap (n : BitVec 12) : Reg := mkCap (permSE ||| permUS ||| permG) n (0, 0, 0) 0

/-- DOMNEW (R375, R438): a new domain, with an id that no partition holds. -/
def execDomnew (c : CtxId) (id : BitVec 12) (s : State) : Host.Outcome State Fault Refusal :=
  match s.asks c 0x40 with
  | none => .next s
  | some (_, p) =>
    if s.idsOf p ≥ 256 then s.on true (fun s => s.respond c 0x40 stDomains none)
    else s.on ((s.domPart 0 id).isNone) (fun s => (s.giveId p id).respond c 0x40 stOk (some (managerCap id)))

/-- A register is a manager capability (R374). -/
def isManager (m : Reg) : Bool :=
  m.tag == 1 && m.otype == 0 && !lacks m (permSE ||| permUS) && capTop m == capBase m

/-- DOMGRANT (R375, R438): the capability as it stood before staging, re-owned. -/
def execDomgrant (c : CtxId) (s : State) : Host.Outcome State Fault Refusal :=
  match s.asks c 0x41 with
  | none => .next s
  | some _ =>
    s.on true (fun s =>
      let x := s.ctx c
      let m := x.reg 5
      let g := x.reg 6
      let n := m.owner
      if isManager m && s.live (dieOf c.core) n && s.domPart (dieOf c.core) n == some (s.partOf c.sl)
          && g.tag == 1 && g.otype == 0 && g.owner == x.dom then
        s.respond c 0x41 stOk (some (withPerms (withOwner g n) (g.perms &&& ~~~(permSE ||| permUS))))
      else s.respond c 0x41 stBadCap none)

/-- DSPAGE (R375, R380): the page of a bight home becomes resident, with the frames the service takes. -/
def execDspage (c : CtxId) (frames : List Nat) (s : State) : Host.Outcome State Fault Refusal :=
  match s.asks c 0x42 with
  | none => .next s
  | some (r, p) =>
    s.on true (fun s =>
      let d := (r.args.headD Reg.zero).lo
      let ds := (s.slot c.sl).dsbase.toNat
      if d.toNat < ds ∨ ds + spillBytes ≤ d.toNat then s.respond c 0x42 stBadCap none
      else
        s.afterSnoops (s.pathOf p d) [] (fun s =>
          match s.walkEnd d.toNat 4 (s.part p).ptroot.toNat with
          | none => s.respond c 0x42 stOk none
          | some (lvl, at_, pte) =>
            match s.makePage p d.toNat lvl at_ pte frames with
            | some t =>
              s.afterSnoops [] ((at_, 8) :: frames.map (fun f => (f, 4096))) (fun _ =>
                (t.resolvePage p (d.toNat / 4096 * 4096) 4096).respond c 0x42 stOk none)
            | none => s))

/-- The gate capability of an import of a partition (R375, R422). -/
def State.importOf (s : State) (p : Fin 64) (index : W64) : Option Reg :=
  match (s.part p).grants.find? (fun g => g.index.setWidth 64 == index) with
  | some g => ((s.part g.exporter).exports.find? (fun e => e.number == g.number)).map (fun e => e.gate)
  | none => none

/-- GIMPORT (R375). -/
def execGimport (c : CtxId) (s : State) : Host.Outcome State Fault Refusal :=
  match s.asks c 0x43 with
  | none => .next s
  | some (r, p) =>
    s.on true (fun s =>
      match s.importOf p (r.args.headD Reg.zero).lo with
      | some g => s.respond c 0x43 stOk (some g)
      | none => s.respond c 0x43 stNoImport none)

/-- The pages of a range that are still being written back return to RESIDENT, dirty (R97): the write-back failed. -/
def State.failSync (s : State) (part : Fin 64) (d len : W64) : State :=
  (s.part part).files.foldl (fun t i =>
    let e := t.pcEntry part i
    let p := t.pcDva e
    if t.pcState e = 3 ∧ p.toNat < d.toNat + len.toNat ∧ d.toNat < p.toNat + 4096 then
      t.endSync part i
    else t) s

/-- FSYNC (R97): the first step starts the write-back of the dirty pages of the range; when none is under way it answers,
and one that has failed answers EIO. -/
def execFsync (c : CtxId) (ok : Bool) (s : State) : Host.Outcome State Fault Refusal :=
  match s.asks c 0x31 with
  | none => .next s
  | some (r, p) =>
    s.on true (fun s =>
      let d := (r.args.headD Reg.zero).lo
      let len := ((r.args.drop 1).headD Reg.zero).lo
      if s.syncing p d len then
        if ok then s else (s.failSync p d len).respond c 0x31 stIo none
      else if (s.dirtyFiles p d len).isEmpty then s.respond c 0x31 stOk none
      else s.startSync p d len)

end Sys2Proof.Machine
end

