-- ==== Sys2Proof/Machine/Engine.lean ====
section
/-! DEFINITION. Machine/Engine.lean: what the engines share: shape records (R151 to R153), the issue of an operation (R104,
R157, R160, R164), the checks of an element (R154, R155, R158, R204), its bytes, and how an operation runs, stands still and
resolves (R157, R163, R169). -/
namespace Sys2Proof.Machine
open Sys2Proof

/-! Shape records (R151, R152). -/

/-- The count of a shape (R153). -/
def Shape.count (sh : Shape) : Nat := (sh.ext.take sh.ndim).foldl (fun n e => n * e) 1

/-- A signed 32-bit number at an offset of a list of bytes. -/
def i32At (bs : List Byte) (off : Nat) : Int := intOf 32 true (numAt bs off 4)

/-- The fields of a shape record (R151): DATA is given as LDC would load it (R144). -/
def shapeOf (bs : List Byte) (data : Reg) (addr : W64) : Shape :=
  let flags := numAt bs 40 2
  { data := data
    ext := [numAt bs 16 2, numAt bs 18 2, numAt bs 20 2, numAt bs 22 2]
    str := [i32At bs 24, i32At bs 28, i32At bs 32, i32At bs 36]
    ndim := flags / 8 % 8
    edge := flags / 2 % 4
    chan := if flags % 2 = 1 then some ⟨numAt bs 44 4 % 4, by omega⟩ else none
    addr := addr
    channel := BitVec.ofNat 32 (numAt bs 44 4) }

/-- The record passes R152 step 2. -/
def shapeOk (bs : List Byte) (sh : Shape) : Bool :=
  numAt bs 40 2 / 64 == 0 && numAt bs 42 2 == 0 && numAt bs 48 16 == 0
    && decide (1 ≤ sh.ndim ∧ sh.ndim ≤ 4) && (sh.chan.isNone || numAt bs 44 4 / 4 == 0) && decide (sh.count < 2 ^ 32)

/-- Read a shape record (R152). Step 3 is check_cap's tag, seal and permission order, with TVAL the record's address. -/
def readShape (r : GReg) : M Shape := do
  let s ← get
  let cap ← greg r
  let addr := cap.lo
  let p ← record cap (recordAsk 64) addr
  let bs := s.readBytes p.loc 64
  let sh := shapeOf bs (s.readReg p.loc p.tags) addr
  if shapeOk bs sh = false then raise .shapeInvalid addr
  else if sh.chan.isSome then pure sh
  else if sh.data.tag ≠ 1 ∧ sh.data.tag ≠ 3 then raise .capTag addr
  else if sh.data.otype ≠ 0 then raise .capSealed addr
  else if lacks sh.data permE then raise .capPerm addr
  else pure sh

/-- The exact offset of ordinal k in units (R153). -/
def strideSum : List Nat → List Int → Nat → Int
  | e :: es, t :: ts, k => t * ((k % e : Nat) : Int) + strideSum es ts (k / e)
  | _, _, _ => 0

/-- The address of ordinal k for a unit of u bytes (R153). -/
def Shape.addrAt (sh : Shape) (u k : Nat) : W64 :=
  sh.data.lo + BitVec.ofInt 64 ((u : Int) * strideSum (sh.ext.take sh.ndim) (sh.str.take sh.ndim) k)

/-! Issue (R104, R157, R160, R164, R242). -/

/-- The number of operations in an engine queue of a core. -/
def Core.queued (k : Core) (e : EngineKind) : Nat :=
  match e with
  | .copy => k.copyQ.length
  | .vector => k.vecQ.length
  | .matrix => k.matQ.length
  | .integrator => k.intQ.length

/-- An instruction that found the queue full earlier still waits for it (R164). -/
def State.earlier (s : State) (c : CtxId) (e : EngineKind) : Bool :=
  let mine : List (EngineKind × CtxId × W64) := (s.core c.core).entering.filter (fun q => q.1 == e)
  (mine.takeWhile (fun q => q.2.1 != c)).any (fun q =>
    (s.ctx q.2.1).live && (s.ctx q.2.1).pc == q.2.2)

/-- Wait for an entry of an engine's queue (R164); those who wait are admitted in the order of their first attempt. -/
def queueRoom (e : EngineKind) : M Unit := fun s =>
  let c := s.cur
  if (s.core c.core).queued e ≥ Config.queueEntries then .error (.wait (.queueRoom e))
  else if s.earlier c e then .error (.wait (.queueRoom e))
  else .ok ((), s.modCore c.core (fun k => { k with entering := k.entering.filter (fun q => q.1 != e || q.2.1 != c) }))

/-- An operation that is counted waits while COUNT is 1,024 (R104). -/
def countRoom : M Unit := do
  let x ← me
  if x.usc ≥ Config.uscMax then pause .uscRoom else pure ()

/-- The store-release to a kick register (R157): at DSCOPE, or at DEV where DSCOPE is narrower. -/
def kickRelease : M Unit := do
  let x ← me
  releaseAt (if x.dscope.toNat < 5 then .dev else .sys)

/-- The LSG registers of a tenant's slots, evicted ones too: the elements of an operation may lie in any of them (R123). -/
def State.lsgsOf (s : State) (p : Fin 64) : List (SlotId × Sparse (BitVec 8)) :=
  (s.slotsOfPart p).map (fun t => (t, (s.slot t).lsg))
    ++ (s.saved.filter (fun v => v.slot.bind.part == p)).map (fun v => (v.sl, v.slot.lsg))

/-- Issue an operation (R157, R160, R164, R166, R237): it is counted under PHTAG's tag, takes a handle slot where it has one,
and keeps FRM, the stochastic state and the formats of its tenant's granules (R123). -/
def issueHead (handle : Bool) (counted : Bool) : M OpHead := do
  let hs ← if handle then (do
    let h ← allocHandle true
    pure (some h)) else pure none
  let s ← get
  let c ← who
  let x ← me
  let n := (s.core c.core).opSerial
  let o : OpHead :=
    { owner := c
      handle := hs.map (fun h => h.1)
      serial := (hs.map (fun h => h.2)).getD 0
      tag := x.phaseTag
      frm := x.frm
      seed := x.srseed
      seq := x.srseq
      flags := 0
      supv := (s.slot c.sl).bind.supv
      depth := x.depth
      issued := n
      lsgs := s.lsgsOf (s.partOf c.sl)
      cancel := false
      lay := [] }
  let s := s.modCore c.core (fun k => { k with opSerial := n + 1 })
  set (if counted then s.modCtx c (fun y => y.setCount o.tag (y.count o.tag + 1)) else s)
  pure o

/-- The handle of an operation, written to h (R159). -/
def OpHead.reg (o : OpHead) : Reg :=
  match o.handle with
  | some h => handleReg o.owner h o.serial
  | none => Reg.zero

/-! The checks of an element (R154, R155, R158). -/

/-- A run of bytes of a unit: where it lies, and the page it was translated by. -/
structure Piece where
  loc : Loc
  n   : Nat
  xl  : Option Xl

/-- How an element fares. -/
inductive Elem (α : Type) where
  | ok (a : α)
  /-- EDGE ZERO or DROP takes it out (R154). -/
  | zero
  | drop
  | fail (status : Nat) (reason : Nat) (denied : Option W64)
  | halt (p : Pause)
  /-- Its slot is being evicted (R108). -/
  | stay

/-- FAULT_CAP. -/
def faultCap : Nat := 0x8103
/-- FAULT_PAGE. -/
def faultPage : Nat := 0x8102
/-- FAULT_FORMAT. -/
def faultFormat : Nat := 0x8105
/-- FAULT_SHAPE. -/
def faultShape : Nat := 0x8104
/-- CANCELLED. -/
def cancelled : Nat := 0x8001

/-- Step 1 (R154): the address that EDGE lets an element of u bytes have. -/
def Shape.edgeAt (sh : Shape) (u : Nat) (addr : W64) : Elem W64 :=
  let b := capBounds sh.data
  let inside : Nat → Bool := fun a => decide (b.1 ≤ a ∧ a + u ≤ b.2)
  if inside addr.toNat then .ok addr
  else
    match sh.edge with
    | 1 => .zero
    | 2 => .drop
    | 3 =>
      if b.2 ≤ b.1 then .fail faultCap 0 none
      else
        let a := (((b.1 : Int) + ((addr.toNat : Int) - b.1) % ((b.2 : Int) - b.1)).toNat)
        if inside a then .ok (BitVec.ofNat 64 a) else .fail faultCap 0 none
    | _ => .fail faultCap 0 none

/-- Steps 2 and 3: permissions and liveness. -/
def State.capAt (s : State) (core : Fin 4608) (data : Reg) (wr : Bool) (addr : W64) : Bool :=
  let need := if addr.toNat / 2 ^ 56 = 1 then permM else 0
  !lacks data ((if wr then permS else permL) ||| need) && s.live (dieOf core) data.owner

/-- The format of a granule as a kick found it (R123). -/
def State.keptFmt (s : State) (lsgs : List (SlotId × Sparse (BitVec 8))) (sl : SlotId) (off : Nat) : Fmt :=
  match lsgs.find? (fun p => p.1 == sl) with
  | some p =>
    let v := Sparse.get 0 p.2 (off / Config.granuleBytes)
    ⟨v.extractLsb' 0 5, v.extractLsb' 5 3⟩
  | none => s.lsgFmt sl off

/-- The format of a granule as the kick of an operation found it. -/
def State.granuleFmt (s : State) (h : OpHead) (sl : SlotId) (off : Nat) : Fmt := s.keptFmt h.lsgs sl off

/-- Translate a unit for an engine: at most two pages (R158 step 4). A transaction to expansion memory may fail (R88). -/
def State.seekPages (s : State) (h : OpHead) (k : Access) : Nat → W64 → Nat → Elem (List Piece)
  | 0, _, _ => .ok []
  | f + 1, addr, n =>
    let c := h.owner
    match s.lookPage c.core (s.partOf c.sl) (s.slot c.sl).bind.ptroot k addr with
    | .fault r => .fail faultPage r.code none
    | .walk => .halt (.walk addr (k == .write))
    | .service => .halt (.service addr (k == .write))
    | .ok x =>
      if x.loc.inExp && (s.ctx c).poison == some h.issued then .fail faultPage PageReason.expansionError.code none
      else
      let m := min n (x.vbase + x.size - addr.toNat)
      if m ≥ n then .ok [⟨x.loc, n, some x⟩]
      else
        match State.seekPages s h k f (addr + BitVec.ofNat 64 m) (n - m) with
        | .ok ps => .ok (⟨x.loc, m, some x⟩ :: ps)
        | e => e

/-- Where a unit lies (step 4): its runs of bytes, and the format of its first byte's granule or page with the offset there and
the size. -/
def State.seek (s : State) (h : OpHead) (wr : Bool) (addr : W64) (u : Nat) : Elem (List Piece × Fmt × Nat × Nat) :=
  let c := h.owner
  match s.named c.sl addr u with
  | .fault r _ => .fail faultPage r.code none
  | .own off =>
    .ok ([⟨s.slotLoc c.sl off, u, none⟩], s.granuleFmt h c.sl off, off % Config.granuleBytes, Config.granuleBytes)
  | .global t off =>
    if s.present (s.partOf c.sl) t = false then .stay
    else .ok ([⟨s.slotLoc t off, u, none⟩], s.granuleFmt h t off, off % Config.granuleBytes, Config.granuleBytes)
  | .translated =>
    match s.seekPages h (if wr then .write else .read) 2 addr u with
    | .ok ps =>
      match ps.head? with
      | some p =>
        match p.xl with
        | some x => .ok (ps, x.fmt, addr.toNat - x.vbase, x.size)
        | none => .ok (ps, ⟨0, 0⟩, 0, u)
      | none => .ok ([], ⟨0, 0⟩, 0, u)
    | .zero => .zero
    | .drop => .drop
    | .fail a b d => .fail a b d
    | .halt p => .halt p
    | .stay => .stay

/-- The page of a run of bytes agrees with a unit size, and its format is one that may be read (R68, R122, R155). -/
def Piece.agrees (u : Nat) (p : Piece) : Bool :=
  match p.xl with
  | some x => !x.fmt.bad && x.fmt.unit == u
  | none => true

/-- A run of bytes lies in the weight store. -/
def Piece.inWs (p : Piece) : Bool :=
  match p.loc with
  | .weight _ _ => true
  | _ => false

/-- The weight store of a die is open for a partition (R137): no running launched task of it holds a slot there. -/
def State.wsOpen (s : State) (part : Fin 64) (die : Fin 4) : Bool :=
  !((s.part part).tasks.any (fun t => t.state == .running && t.slots.any (fun sl => dieOf sl.core == die)))

/-- The write of a copy to a run of bytes is refused (R137): a copy of the supervisor's or of firmware's writes an open weight
store; any other engine write there is refused. -/
def State.wsRefused (s : State) (h : OpHead) (copy : Bool) (p : Piece) : Bool :=
  match p.loc with
  | .weight die _ => !(copy && h.supv && s.wsOpen (s.partOf h.owner.sl) die)
  | _ => false

/-- What a run of bytes must wait for: snoops of its lines, a write-back of its page, a refresh window (R86, R97, R138). R150
does not say whether an engine's read that waits for a window counts in STALLS of the context that issued it: here it does not
(DESIGN CHOICE, assumption log 15). -/
def State.pieceWait (s : State) (part : Fin 64) (wr : Bool) (p : Piece) : Option Pause :=
  match s.mustSnoop p.loc wr, s.mustSnoop (p.loc.plus (p.n - 1)) wr, p.xl.bind (s.dirtySnoop wr) with
  | some n, _, _ => some (.snoop n wr)
  | none, some n, _ => some (.snoop n wr)
  | none, none, some n => some (.snoop n true)
  | none, none, none =>
    let busy : Option W64 :=
      if wr then
        match p.xl with
        | some x =>
          if x.mt = 4 then (s.part part).writing.find? (fun d => d.toNat / 4096 == x.vbase / 4096) else none
        | none => none
      else none
    match busy with
    | some d => some (.writeback d)
    | none =>
      match p.loc with
      | .weight die off => if s.refreshing (wsGroup off) then some (.refresh die (wsGroup off)) else none
      | _ => none

/-- The frame that an element of an engine waits for (R99): its data crosses the Lay where it lies on another die; what is read
comes back in a reply. -/
def State.layWait (s : State) (h : OpHead) (wr : Bool) (ps : List Piece) (addr : W64) : Option Pause :=
  match ps.find? (fun p => (p.loc.channel h.owner.core).isSome) with
  | none => none
  | some p =>
    match h.lay.find? (fun q => q.1 == addr && q.2.2.1 == !wr) with
    | some (_, n, rd, back) =>
      if s.crossed n = false then some (.lay addr p.loc rd back)
      else if rd && !back then some (.lay addr p.loc true true)
      else none
    | none => some (.lay addr p.loc (!wr) false)

/-- An element at an address that the edge policy has let through: steps 2 to 6 of R158, then what it waits for. `want` says
which formats the operand admits (step 6), `place` where the member lets it lie (R168). -/
def State.elemAt (s : State) (h : OpHead) (copy wr : Bool) (want : Fmt → Bool) (place : W64 → Bool) (sh : Shape) (addr : W64)
    (u : Nat) : Elem (List Piece) :=
  if s.capAt h.owner.core sh.data wr addr = false then .fail faultCap 0 none
  else if place addr = false then .fail faultCap 0 none
  else
    match s.seek h wr addr u with
    | .ok (ps, f, off, len) =>
      if !wr && lacks sh.data permW && ps.any Piece.inWs then .fail faultCap 0 none
      else if wr && ps.any (s.wsRefused h copy) then .fail faultPage 2 (some addr)
      else if f.bad || !want f || f.inTail off len || !ps.all (Piece.agrees f.unit) then .fail faultFormat 0 none
      else
        match ps.findSome? (s.pieceWait (s.partOf h.owner.sl) wr) with
        | some p => .halt p
        | none =>
          match s.layWait h wr ps addr with
          | some p => .halt p
          | none => .ok ps
    | .zero => .zero
    | .drop => .drop
    | .fail a b d => .fail a b d
    | .halt p => .halt p
    | .stay => .stay

/-- An element by its ordinal: all the steps of R158. -/
def State.elem (s : State) (h : OpHead) (copy wr : Bool) (want : Fmt → Bool) (place : W64 → Bool) (sh : Shape) (u k : Nat) :
    Elem (List Piece) :=
  match sh.edgeAt u (sh.addrAt u k) with
  | .ok a => s.elemAt h copy wr want place sh a u
  | .zero => .zero
  | .drop => .drop
  | .fail a b d => .fail a b d
  | .halt p => .halt p
  | .stay => .stay

/-- No limit on where an element lies. -/
def anywhere (_ : W64) : Bool := true

/-- The bytes of a unit. -/
def State.getPieces (s : State) (ps : List Piece) : List Byte :=
  ps.flatMap (fun p => (s.reached p.loc p.n false).readBytes p.loc p.n)

/-- Write the bytes of a unit: tags are cleared, DI is set (R76, R140). -/
def State.putPieces (s : State) : List Piece → List Byte → State
  | [], _ => s
  | p :: ps, bs =>
    let t := s.pokeAt p.loc (bs.take p.n)
    let t := match p.xl with
      | some x => t.markDirty x
      | none => t
    State.putPieces t ps (bs.drop p.n)

/-- A read of host or expansion memory leaves its lines in the memory-side cache (R89, R91). -/
def State.seePieces (s : State) (ps : List Piece) : State :=
  ps.foldl (fun t p => (t.touchExp p.loc p.n false).cacheHost p.loc p.n false) s

/-- The runs of bytes of a unit as its pages stand, whatever it would wait for; an address that the micro-TLB lacks goes through
the tables. -/
def State.piecesNow (s : State) (h : OpHead) (sh : Shape) (u k : Nat) : Nat → Option (List Piece)
  | 0 => none
  | n + 1 =>
    match sh.edgeAt u (sh.addrAt u k) with
    | .ok a =>
      match s.seek h false a u with
      | .ok p => some p.1
      | .halt (.walk d _) =>
        match s.missWalk h.owner.core (s.partOf h.owner.sl) (s.slot h.owner.sl).bind.ptroot d with
        | .filled t => State.piecesNow t h sh u k n
        | _ => none
      | _ => none
    | _ => none

/-! The kick (R123, R155). -/

/-- The format that holds DATA's cursor, with only the decode and the translation of R158 step 4. R155 does not say which permission
the read of a destination's format asks for: that of a read, and where a read is refused that of a write (DESIGN CHOICE,
assumption log 15). -/
def State.kickFmt (s : State) (h : OpHead) (wr : Bool) (sh : Shape) : Elem Fmt :=
  let c := h.owner
  let a := sh.data.lo
  match s.named c.sl a 1 with
  | .fault r _ => .fail faultPage r.code none
  | .own off => .ok (s.granuleFmt h c.sl off)
  | .global t off => .ok (s.granuleFmt h t off)
  | .translated =>
    let get : Access → Elem Fmt := fun k => match s.lookPage c.core (s.partOf c.sl) (s.slot c.sl).bind.ptroot k a with
      | .ok x => .ok x.fmt
      | .fault r => .fail faultPage r.code none
      | .walk => .halt (.walk a (k == .write))
      | .service => .halt (.service a (k == .write))
    match get .read with
    | .fail st r d => if wr && r == 2 then get .write else .fail st r d
    | e => e

/-- The format of an operand as far as it can be read at issue: none where the page is not present or may not be read. -/
def State.issueFmt (s : State) (c : CtxId) (wr : Bool) (sh : Shape) : Option Fmt :=
  let a := sh.data.lo
  match s.named c.sl a 1 with
  | .fault _ _ => none
  | .own off => some (s.lsgFmt c.sl off)
  | .global t off => some (s.lsgFmt t off)
  | .translated =>
    match s.walk (s.slot c.sl).bind.ptroot a with
    | .ok l => if leafPermits l.pte .read || (wr && leafPermits l.pte .write) then some (pteFmt l.pte) else none
    | .error _ => none

/-! How an operation runs. -/

/-- One step of an operation: it goes on, stands still, or resolves with a result word. -/
inductive EngStep (α : Type) where
  | go (s : State) (o : α)
  | halt (s : State) (o : α)
  | done (s : State) (o : α) (w : W64) (denied : Option W64)

/-- Run an operation for at most `fuel` steps. -/
def runOp {α : Type} (step : State → α → EngStep α) : Nat → State → α → EngStep α
  | 0, s, o => .halt s o
  | n + 1, s, o =>
    match step s o with
    | .go t p => runOp step n t p
    | e => e

/-- A cancel of the operation is requested (R169). -/
def State.cancelAsked (s : State) (o : OpHead) : Bool :=
  match o.handle with
  | some h =>
    let q := (s.ctx o.owner).hslot h
    q.state == .pending && q.serial == o.serial && q.cancel
  | none => o.cancel

/-- A pause that only another step ends (R79, R82, R83). -/
def Pause.stuck (p : Pause) : Bool :=
  match p with
  | .walk _ _ => true
  | .service _ _ => true
  | _ => false

/-- Standing still for snoops sends them (R86); for a walk, joins those of the die (R79); for a frame that is not on its way,
sends it (R99). -/
def State.pauseFor (s : State) (h : OpHead) (p : Pause) : State × OpHead :=
  match p with
  | .snoop n w => (s.snoop n w, h)
  | .walk d _ => (s.joinWalk h.owner d, h)
  | .lay a l rd back =>
    if h.lay.any (fun q => q.1 == a && q.2.2.1 == rd && q.2.2.2 == back) then (s, h)
    else
      let core := h.owner.core
      ((if back then s.enframeReply core l s.nextSeq h.tag else s.enframe core l s.nextSeq .data h.tag).bump,
        { h with lay := (a, s.nextSeq, rd, back) :: h.lay.filter (fun q => q.1 != a || q.2.2.1 != rd) })
  | _ => (s, h)

/-- A step is over: the frames of its elements have served (R99). -/
def OpHead.over (h : OpHead) : OpHead := { h with lay := [] }
/-- What an operation keeps changes where a step of it is over. -/
def EngStep.past {α : Type} (f : α → α) (e : EngStep α) : EngStep α :=
  match e with
  | .go s o => .go s (f o)
  | e => e

/-- The refusal of an operation's fault, when its operation goes on at an address of that page (R83): the reason. -/
def refusedReason (p : Option Pause) : Option PageReason :=
  match p with
  | some (.refused _ r) => some r
  | _ => none

/-- The mode of an operation (R246): FRM[2:0] at issue. -/
def OpHead.mode (o : OpHead) : Nat := (o.frm.extractLsb' 0 3).toNat
/-- The random number of an index (R213). -/
def OpHead.draw (o : OpHead) (idx : Nat) : Nat := srbits o.seed o.seq idx
/-- Raise flags (R210). -/
def OpHead.raise (o : OpHead) (fl : BitVec 5) : OpHead := { o with flags := o.flags ||| fl }

end Sys2Proof.Machine
end

