-- ==== Sys2Proof/Machine/Copy.lean ====
section
/-! DEFINITION. Machine/Copy.lean: the copy engine: CPY, CFILL, CPYR and CPYB (R167, R168), the copy program (R157), channel
operands (R156), broadcasts, copies to other devices (R110, R115, R440, R443), COPY_RESOLVE, and WSSTAT (R150). -/
namespace Sys2Proof.Machine
open Sys2Proof

/-! Links as the sender sees them (R110 to R113). -/

/-- A link takes new flits: it is not lost, no restripe is under way, and its window is not full (R113, R114). -/
def Link.takes (l : Link) : Bool := !l.lost && !l.restripe && decide (l.held.length < 256)

/-- The header of a flit (R111). -/
def flitHeader (f : Flit) : BitVec 128 :=
  f.reserved.extractLsb' 3 6 ++ BitVec.ofBool f.replay ++ BitVec.ofBool f.last ++ f.len ++ f.offset ++ f.opid ++ f.device
    ++ f.reserved.extractLsb' 0 3 ++ f.dcore ++ f.vc ++ f.ptag ++ f.ackseq ++ f.seq ++ f.kind

/-- The 96 bytes of a flit (R111): the payload, here with the bytes that follow it up to 64, the header, the CRC and the
parity. -/
def flitBytes (f : Flit) (rest : List Byte) : List Byte :=
  let body := (f.payload ++ rest).take 64 ++ bytesLE 16 (flitHeader f).toNat
  let data := body ++ bytesLE 4 (Config.crc32 body).toNat
  data ++ (List.range 12).map (Config.parity data)

/-- The wavelengths of a mask, ascending. -/
def wavelengths (m : BitVec 16) : List Nat := (List.range 16).filter (fun i => m.getLsbD i)

/-- A flit's bits striped over the wavelengths of a mask (R112): b = 768 / w bits each, the j-th wavelength bits b·j to
b·j + b − 1. -/
def stripe (m : BitVec 16) (bits : Nat) : List (Nat × Nat) :=
  let ws := wavelengths m
  let b := 768 / ws.length
  (List.range ws.length).map (fun j => (ws.getD j 0, bits / 2 ^ (b * j) % 2 ^ b))

/-- The bits that a receiver gathers from the wavelengths of a mask (R112). -/
def gather (m : BitVec 16) (lanes : List (Nat × Nat)) : Nat :=
  let ws := wavelengths m
  let b := 768 / ws.length
  (List.range ws.length).foldl (fun n j =>
    n + ((List.find? (fun p => p.1 == ws.getD j 0) lanes).map (fun p => p.2 % 2 ^ b)).getD 0 * 2 ^ (b * j)) 0

/-- A flit leaves on a link as one beat (R111 to R113): its ACKSEQ is the last number received in order; it is striped over
the live wavelengths, of which a dark one carries nothing (R114). The bytes that follow a payload shorter than 64 bytes are
free (assumption log 1). -/
def State.transmit (s : State) (n : Fin 256) (f : Flit) : State :=
  let free := 64 - f.payload.length
  let l := s.link n
  let f := { f with ackseq := l.expect - 1, mask := l.live }
  let bits := ofBytesLE (flitBytes f ((List.range free).map (fun i => Config.freeByte (s.fresh + i))))
  let lanes := (stripe l.live bits).map (fun p => if l.lit.getLsbD (p.1 / 4) then p else (p.1, 0))
  ({ s with fresh := s.fresh + free } : State).modLink n (fun l => { l with outgoing := l.outgoing ++ [⟨f, lanes⟩] })

/-- A numbered flit leaves on a link, and is held (R113). -/
def State.sendNumbered (s : State) (n : Fin 256) (f : Flit) : State :=
  let f := { f with seq := (s.link n).nextSeq }
  (s.transmit n f).modLink n (fun l =>
    { l with nextSeq := l.nextSeq + 1, held := l.held ++ [f], since := if l.held.isEmpty then s.timeNs else l.since })

/-- The links of a device that can be used (R110, R116). -/
def State.usable (s : State) (dev : BitVec 12) : List (Fin 256) :=
  (Sparse.get [] s.routes dev.toNat).filter (fun n => !(s.link n).lost)

/-- The link of an operation (R110). -/
def State.routeFor (s : State) (dev : BitVec 12) (core : Fin 4608) : Option (Fin 256) :=
  let us := s.usable dev
  us[core.val % us.length]?

/-- The core in the DCORE field (R440): the destination core where DATA lies in global local-store space, else the issuing
core. -/
def CopyOp.dcore (o : CopyOp) : BitVec 13 :=
  let a := o.dst.data.lo.toNat
  if a / 2 ^ 56 = 1 then BitVec.ofNat 13 (coreOf (a / 2 ^ 34 % 4) (a / 2 ^ 26 % 2 ^ 8) (a / 2 ^ 23 % 8)).val
  else BitVec.ofNat 13 o.head.owner.core.val

/-- A flit of an operation (R111, R440). `elems` and `note` are the model's own, for what the spec gives no bits (assumption
log 30): in a data flit the ordinals whose bytes end with it, and which of its bytes belong to dropped ordinals; in a descriptor
the unit size, the first ordinal and, in bit 63, whether a supervisor context issued the copy (R137). -/
def CopyOp.flit (o : CopyOp) (dev : BitVec 12) (opid : BitVec 16) (offset : BitVec 32) (payload : List Byte) (last : Bool)
    (elems : Nat) (note : W64) : Flit :=
  { kind := 1, seq := 0, ackseq := 0, ptag := BitVec.ofNat 2 o.head.tag.val, vc := 0, dcore := o.dcore, device := dev
    opid := opid, offset := offset, len := BitVec.ofNat 8 (payload.length - 1), last := last, replay := false
    payload := payload, reserved := 0, mask := 0, noise := [], elems := elems, result := note }

/-- The 64 bytes of a shape record (R151). -/
def Shape.record (sh : Shape) : List Byte :=
  bytesLE 16 sh.data.bits.toNat ++ sh.ext.flatMap (bytesLE 2) ++ sh.str.flatMap (fun t => bytesLE 4 (BitVec.ofInt 32 t).toNat)
    ++ bytesLE 2 (sh.ndim * 8 + sh.edge * 2 + (if sh.chan.isSome then 1 else 0)) ++ bytesLE 2 0
    ++ bytesLE 4 sh.channel.toNat ++ bytesLE 16 0

/-! Where the members let a destination lie (R168). -/

/-- CPY and CFILL: this core's local store by either alias, or translated memory. -/
def placeCpy (core : Fin 4608) (d : W64) : Bool :=
  let a := d.toNat
  a / 2 ^ 56 != 1 || coreOf (a / 2 ^ 34 % 4) (a / 2 ^ 26 % 2 ^ 8) (a / 2 ^ 23 % 8) == core
/-- CPYR on this device: global local-store space. -/
def placeCpyr (d : W64) : Bool := d.toNat / 2 ^ 56 == 1

/-- The place rule of a member. -/
def CopyOp.place (o : CopyOp) : W64 → Bool :=
  match o.kind with
  | .cpyr => placeCpyr
  | .cpy => placeCpy o.head.owner.core
  | .cfill _ => placeCpy o.head.owner.core
  | _ => anywhere

/-! The program (R157). -/

/-- The unit of an operand: 8 bytes for a channel (R156), else that of its format (R155). -/
def opUnit (sh : Shape) (f : Option Fmt) : Nat :=
  if sh.chan.isSome then 8 else match f with
    | some f => f.unit
    | none => 1

/-- The formats that an operand of a copy admits: those of its unit size (R155). -/
def unitIs (u : Nat) (f : Fmt) : Bool := f.unit == u

/-- An operand reads its format at the kick: not a channel, not an empty shape (R155), nor the destination of a copy to another
device (R168). -/
def State.kickOf (s : State) (h : OpHead) (wr : Bool) (sh : Option Shape) : Elem (Option Fmt) :=
  match sh with
  | none => .ok none
  | some sh =>
    if sh.chan.isSome || sh.count == 0 then .ok none
    else
      match s.kickFmt h wr sh with
      | .ok f => .ok (some f)
      | .zero => .zero
      | .drop => .drop
      | .fail a b d => .fail a b d
      | .halt p => .halt p
      | .stay => .stay

/-- The operation stops at ordinal k; a broadcast once its members have received the elements before (R168). -/
def CopyOp.stop (o : CopyOp) (s : State) (status k reason : Nat) (denied : Option W64) : EngStep CopyOp :=
  match o.kind with
  | .cpyrX _ _ _ =>
    if o.sent then .go s { o with ending := some (BitVec.ofNat 16 status, k, reason), pause := none }
    else .done s o (resultWord status k reason) denied
  | .cpyb _ =>
    if o.out.isEmpty then .done s o (resultWord status k reason) denied
    else .go s { o with ending := some (BitVec.ofNat 16 status, k, reason), pause := none }
  | _ => .done s o (resultWord status k reason) denied

/-- Stand still. -/
def CopyOp.wait (o : CopyOp) (s : State) (p : Pause) : EngStep CopyOp :=
  .halt (s.pauseFor o.head p).1 { o with head := (s.pauseFor o.head p).2, pause := some p }

/-- The copy crosses to another device. -/
def CopyOp.crosses (o : CopyOp) : Bool :=
  match o.kind with
  | .cpyrX _ _ _ => true
  | _ => false

/-- The kick: the formats are read, and the units agree (R155, R167). -/
def CopyOp.kick (s : State) (o : CopyOp) : EngStep CopyOp :=
  match s.kickOf o.head false o.src with
  | .fail st r d => .done s o (resultWord st 0 r) d
  | .halt p => o.wait s p
  | .ok sf =>
    match (if o.crosses then Elem.ok none else s.kickOf o.head true (some o.dst)) with
    | .fail st r d => .done s o (resultWord st 0 r) d
    | .halt p => o.wait s p
    | .ok df =>
      let ud := opUnit o.dst df
      let bad : Bool := o.n != 0 && !o.crosses && (match o.kind with
        | .cfill _ => !(ud == 1 || ud == 2 || ud == 4 || ud == 8)
        | _ => match o.src with
          | some sh => opUnit sh sf != ud
          | none => false)
      if bad then .done s o (resultWord faultFormat 0 0) none
      else .go s { o with fmts := some (sf, df), pause := none }
    | _ => .halt s o
  | _ => .halt s o

/-- The word at the head of a port's ring goes to the engine (R156). -/
def State.takePort (s : State) (c : CtxId) (m : Fin 4) : Option (State × List Byte) :=
  let x := s.ctx c
  let r := x.ring (x.port m).ring
  if r.here s.cycle = 0 then none
  else
    let bs := s.readBytes (s.slotLoc c.sl (r.base.toNat + 8 * (r.head.toNat % r.size))) 8
    some (s.setCtx c (x.setRing (x.port m).ring (r.took s.cycle 1)), bs)

/-- Read the source unit of ordinal k: its bytes with the state after it. -/
def CopyOp.fetch (s : State) (o : CopyOp) (sh : Shape) (u : Nat) : Elem (State × List Byte) :=
  match sh.chan with
  | some m =>
    if ((s.ctx o.head.owner).port m).bound = false then .fail faultShape 0 none
    else match s.takePort o.head.owner m with
      | some r => .ok r
      | none => .halt .portEmpty
  | none =>
    match s.elem o.head true false (unitIs u) anywhere sh u o.k with
    | .ok ps => .ok (s.seePieces ps, s.getPieces ps)
    | .zero => .ok (s, List.replicate u 0)
    | .drop => .drop
    | .fail a b d => .fail a b d
    | .halt p => .halt p
    | .stay => .stay

/-- One element for the same offset of every member's slot (R168): its checks at each of the slots, and what they are to
receive, on its way (R99). -/
def State.broadcast (s : State) (o : CopyOp) (u : Nat) (addr : W64) (bs : List Byte) :
    List SlotId → Elem (State × List (SlotId × Nat × List Byte × Nat))
  | [] => .ok (s, [])
  | t :: ts =>
    if s.present (s.partOf o.head.owner.sl) t = false then .stay
    else if addr.toNat + u > (s.slot t).bind.size then .fail faultPage 1 none
    else
      let f := s.granuleFmt o.head t addr.toNat
      if f.bad || !(unitIs u f) || f.inTail (addr.toNat % Config.granuleBytes) Config.granuleBytes then
        .fail faultFormat 0 none
      else
        match State.broadcast s o u addr bs ts with
        | .ok r =>
          let u := r.1
          .ok ((u.enframe o.head.owner.core (u.slotLoc t addr.toNat) u.nextSeq .data o.head.tag).bump,
            (t, addr.toNat, bs, u.nextSeq) :: r.2)
        | e => e

/-- The slots of the member cores of a broadcast (R69, R168). -/
def State.memberSlots (s : State) (o : CopyOp) (d : DomReg) : List SlotId :=
  let c := o.head.owner
  (s.memberCores (s.partOf c.sl) d).filterMap (fun k =>
    if h : k < 4608 then s.tenantSlot (s.partOf c.sl) ⟨k, h⟩ c.slot else none)

/-- An engine's word is on its way to a ring (R156). -/
def State.postWord (s : State) (o : OpHead) (addr w : W64) : State :=
  let s := match ringAddr addr with
    | some a => s.enframe o.owner.core (.localStore a.core 0 0 0) s.nextSeq .word o.tag
    | none => s
  { s with ringmsgs := s.ringmsgs ++ [⟨s.nextSeq, addr, w, o.owner, o.issued, none, none⟩], nextSeq := s.nextSeq + 1 }

/-- Write the destination unit of ordinal k. A word for a channel is on its way, and the operation waits for it: CHAN = 1 makes the
destination of CPYR and CPYB a channel too (assumption log 15). The members of a broadcast receive their element after one
another (R168). -/
def CopyOp.store (s : State) (o : CopyOp) (u : Nat) (bs : List Byte) : Elem (State × CopyOp) :=
  match o.dst.chan with
  | some m =>
    let x := s.ctx o.head.owner
    if (x.port m).bound = false then .fail faultShape 0 none
    else
      let w := BitVec.ofNat 64 (ofBytesLE bs)
      .ok (s.postWord o.head (x.port m).dest w, { o with sent := true })
  | none =>
    match o.kind with
    | .cpyb d =>
      match o.dst.edgeAt u (o.dst.addrAt u o.k) with
      | .ok a =>
        if lacks o.dst.data permM || !(s.capAt o.head.owner.core o.dst.data true a) then .fail faultCap 0 none
        else if decide (a.toNat < (s.slot o.head.owner.sl).bind.size) = false then .fail faultCap 0 none
        else match s.broadcast o u a bs (s.memberSlots o d) with
          | .ok es => .ok (es.1, { o with out := o.out ++ es.2 })
          | .zero => .zero
          | .drop => .drop
          | .fail e r dd => .fail e r dd
          | .halt p => .halt p
          | .stay => .stay
      | .zero => .ok (s, o)
      | .drop => .ok (s, o)
      | .fail e r dd => .fail e r dd
      | .halt p => .halt p
      | .stay => .stay
    | _ =>
      match s.elem o.head true true (unitIs u) o.place o.dst u o.k with
      | .ok ps => .ok (s.putPieces ps bs, o)
      | .zero => .ok (s, o)
      | .drop => .ok (s, o)
      | .fail a b d => .fail a b d
      | .halt p => .halt p
      | .stay => .stay

/-- One element of a copy on this device. A word of a channel source is received before its destination is checked, and is gone
where that fails (R157); where the destination waits, it stays in its ring until the destination can take it. -/
def CopyOp.element (s : State) (o : CopyOp) (u : Nat) : EngStep CopyOp :=
  let src : Elem (State × List Byte) := match o.kind, o.src with
    | .cfill w, _ => .ok (s, bytesLE u w.toNat)
    | _, some sh => o.fetch s sh u
    | _, none => .ok (s, List.replicate u 0)
  match src with
  | .fail st r d => o.stop s st o.k r d
  | .halt p => o.wait s p
  | .stay => .halt s o
  | .zero => .go s { o with k := o.k + 1, pause := none }
  | .drop => .go s { o with k := o.k + 1, pause := none }
  | .ok (t, bs) =>
    match o.store t u bs with
    | .fail st r d => o.stop t st o.k r d
    | .halt p => o.wait s p
    | .stay => .halt s o
    | .ok (t, p) => if p.sent then .halt t { p with pause := none } else .go t { p with k := o.k + 1, pause := none }
    | _ => .go t { o with k := o.k + 1, pause := none }

/-- The checks that the issuing device makes on the destination of a copy to another device (R443): steps 1 to 3. -/
def CopyOp.mayCross (s : State) (o : CopyOp) (u : Nat) : Bool :=
  match o.dst.edgeAt u (o.dst.addrAt u o.k) with
  | .ok a => s.capAt o.head.owner.core o.dst.data true a
  | .fail _ _ _ => false
  | _ => true

/-- Send the payload that fills a flit, or what is left (R440): one flit. -/
def CopyOp.sendData (s : State) (o : CopyOp) (l : Fin 256) (dev : BitVec 12) (opid : BitVec 16) (last : Bool) (u : Nat) :
    EngStep CopyOp :=
  if (s.link l).takes then
    let now := o.buf.take 64
    let whole := o.start + (64 * o.flits + now.length) / u
    let hole : Nat → Bool := fun i => o.holes.contains (o.start + (64 * o.flits + i) / u)
    let note := BitVec.ofNat 64 ((List.range now.length).foldl (fun n i => if hole i then n + 2 ^ i else n) 0)
    .go (s.sendNumbered l (o.flit dev opid (BitVec.ofNat 32 o.flits) now last whole note))
      { o with buf := o.buf.drop 64, flits := o.flits + 1, last := last, pause := none }
  else o.wait s .link

/-- The unit of a copy to another device is its source's. -/
def CopyOp.srcUnit (o : CopyOp) : Nat :=
  match o.src, o.fmts with
  | some sh, some f => opUnit sh f.1
  | _, _ => 1

/-- The failure that ends a copy to another device (R163): the one that its completion reports, which lies at an earlier ordinal
than any element this device did not send; else the one this device found. Bit 63 of what the completion flit carries is the
model's own (assumption log 30): the weight store refused the element (R137), and HWAIT is to give its DVA. -/
def CopyOp.failure (o : CopyOp) : Option (W64 × Option W64) :=
  match o.comp.filter (fun w => w.getLsbD 15), o.ending with
  | some w, _ =>
    let u := o.srcUnit
    let dva : Option W64 :=
      if w.getLsbD 63 then
        match o.dst.edgeAt u (o.dst.addrAt u (w.extractLsb' 16 32).toNat) with
        | .ok a => some a
        | _ => none
      else none
    some ((w.extractLsb' 0 52).setWidth 64, dva)
  | none, some (st, k, r) => some (resultWord st.toNat k r, none)
  | none, none => none

/-- The result of a copy to another device, once every flit is acknowledged and the completion has come (R115, R163, R443). -/
def CopyOp.outcome (o : CopyOp) : W64 × Option W64 :=
  match o.failure with
  | some r => r
  | none =>
    (if o.restriped then resultWord 0x0101 o.n 0
     else if o.replayed then resultWord 0x0102 o.n 0
     else resultWord 0 o.n 0, none)

/-- A step of a copy to another device (R110, R115, R440, R443): the descriptor, then the payload in ordinal order, 64 bytes
a flit, the last flit marked; then the acknowledgements and the completion. Where it stops with nothing left to send, the
flit marked LAST has no payload (assumption log 30). An ordinal that the source's EDGE drops has a place in the payload
whose bytes the spec does not state: free values (assumption log 1). -/
def CopyOp.cross (s : State) (o : CopyOp) (dev : BitVec 12) (link : Option (Fin 256)) (opid : BitVec 16) : EngStep CopyOp :=
  match link with
  | none => .done s o (resultWord 0x8201 o.k 0) none
  | some l =>
    let u := o.srcUnit
    let closed : Bool := o.ending.isSome || o.k == o.n
    if o.sent = false then
      if (s.link l).takes then
        .go (s.sendNumbered l (o.flit dev opid 0xFFFFFFFF o.dst.record (o.n == o.k) u
          (BitVec.ofNat 64 (o.start + if o.head.supv then 2 ^ 63 else 0)))) { o with sent := true, last := o.n == o.k, pause := none }
      else o.wait s .link
    else if 64 < o.buf.length ∨ (closed ∧ o.last = false) then
      o.sendData s l dev opid (closed && decide (o.buf.length ≤ 64)) u
    else if closed then
      match o.comp with
      | some _ => if (s.link l).held.any (fun f => f.opid == opid && f.kind == 1) then o.wait s .link
          else .done s o o.outcome.1 o.outcome.2
      | none => o.wait s .link
    else
      match o.src with
      | none => .halt s o
      | some sh =>
        match o.fetch s sh u with
        | .fail st r d => o.stop s st o.k r d
        | .halt p => o.wait s p
        | .stay => .halt s o
        | .zero => .go s { o with k := o.k + 1, pause := none }
        | .drop =>
          let free := (List.range u).map (fun i => Config.freeByte (s.fresh + i))
          .go { s with fresh := s.fresh + u } { o with k := o.k + 1, buf := o.buf ++ free, holes := o.k :: o.holes, pause := none }
        | .ok (t, bs) =>
          if o.mayCross s u then .go t { o with k := o.k + 1, buf := o.buf ++ bs, pause := none }
          else o.stop t faultCap o.k 0 none

/-- A member of a broadcast receives the first element that waits for it (R168); a member on which the tenant holds no slot any
more discards it (R108), and one that is being evicted leaves it waiting. -/
def State.memberStep (s : State) (o : CopyOp) (t : SlotId) : Option (State × CopyOp) :=
  let p := s.partOf o.head.owner.sl
  match o.out.find? (fun e => e.1 == t) with
  | none => none
  | some e =>
    let rest := { o with out := o.out.erase e }
    if s.away p t || !s.crossed e.2.2.2 then none
    else if s.present p t && decide (e.2.1 + e.2.2.1.length ≤ (s.slot t).bind.size) then
      some (s.poke (s.slotLoc t e.2.1) e.2.2.1, rest)
    else some (s, rest)

/-- One step of a copy operation as its program goes (R157, R163, R169). -/
def copyNext (s : State) (o : CopyOp) : EngStep CopyOp :=
  if s.cancelAsked o.head && !(o.dst.chan.isSome && o.sent) && o.ending.isNone && decide (o.k < o.n) then
    o.stop s cancelled o.k 0 none
  else
    match o.pause with
    | some (.refused _ r) => o.stop s faultPage (if o.fmts.isSome then o.k else 0) r.code none
    | some .overflow => o.stop s faultShape o.k 1 none
    | p =>
      if (match p with | some q => q.stuck | none => false) then .halt s o
      else
        match o.fmts with
        | none => o.kick s
        | some (_, df) =>
          match o.kind with
          | .cpyrX dev l id => o.cross s dev l id
          | _ =>
            if o.dst.chan.isSome && o.sent then .halt s o
            else if o.out.isEmpty = false then
              match o.out with
              | (t, _, _, _) :: _ => (match s.memberStep o t with
                | some q => .go q.1 q.2
                | none => .halt s o)
              | [] => .halt s o
            else match o.ending with
            | some (st, k, r) => .done s o (resultWord st.toNat k r) none
            | none =>
            if o.k < o.n then o.element s (opUnit o.dst df)
            else .done s o (resultWord 0 o.n 0) none

/-- What a copy operation keeps between two steps. -/
def CopyOp.over (o : CopyOp) : CopyOp := { o with head := o.head.over }

/-- One step of a copy operation (R157, R163, R169). -/
def copyStep (s : State) (o : CopyOp) : EngStep CopyOp := (copyNext s o).past CopyOp.over

/-- Put the head operation of a core's copy queue back, or take it out. -/
def State.setCopyHead (s : State) (core : Fin 4608) (o : Option CopyOp) : State :=
  s.modCore core (fun k => { k with copyQ := match k.copyQ, o with
    | _ :: r, some p => p :: r
    | _ :: r, none => r
    | [], _ => [] })

/-- A broadcast. -/
def CopyKind.spreads (k : CopyKind) : Bool :=
  match k with
  | .cpyb _ => true
  | _ => false

/-- Run the head copy operation of a core for a number of steps. -/
def State.runCopy (s : State) (core : Fin 4608) (fuel : Nat) : State :=
  match (s.core core).copyQ with
  | [] => s
  | o :: _ =>
    match runOp copyStep fuel s o with
    | .go t p => t.setCopyHead core (some p)
    | .halt t p => t.setCopyHead core (some p)
    | .done t p w d => (t.setCopyHead core none).resolveOp p.head true w d

/-- The head operation of a core's copy queue goes on with its next element while members wait for earlier ones (R168). -/
def State.spreadCopy (s : State) (core : Fin 4608) : State :=
  match (s.core core).copyQ with
  | o :: _ =>
    match o.fmts with
    | some (_, df) =>
      if o.kind.spreads && o.ending.isNone && o.pause.isNone && decide (o.k < o.n) && !s.cancelAsked o.head then
        match (o.element s (opUnit o.dst df)).past CopyOp.over with
        | .go t p => t.setCopyHead core (some p)
        | .halt t p => t.setCopyHead core (some p)
        | .done _ _ _ _ => s
      else s
    | none => s
  | [] => s

/-- A member of a broadcast receives its next element before others receive earlier ones of theirs (R168). -/
def State.memberTakes (s : State) (core : Fin 4608) (t : SlotId) : State :=
  match (s.core core).copyQ with
  | o :: _ =>
    match s.memberStep o t with
    | some (u, p) => u.setCopyHead core (some p)
    | none => s
  | [] => s

/-- Steps enough for what is left of a copy: a kick, a flit or an element each, for a broadcast one for each member, a
descriptor, the end. -/
def CopyOp.left (o : CopyOp) : Nat := (if o.kind.spreads then 4608 else 11) * (o.n - o.k) + o.buf.length / 64 + o.out.length + 8

/-- COPY_RESOLVE (R157): the head copy operation of a core runs until it resolves or stands still. -/
def execCopyResolve (core : Fin 4608) (s : State) : Host.Outcome State Fault Refusal :=
  match (s.core core).copyQ with
  | [] => .next s
  | o :: _ => s.on true (fun s => s.runCopy core o.left)

/-! The instructions (R167, R168). -/

/-- The options word of a copy (R167). -/
def optionsBad (w : W64) (dselUsed xdevUsed : Bool) : Bool :=
  let dsel := w.extractLsb' 45 3
  let xdev := w.getLsbD 44
  w.extractLsb' 48 16 != 0 || decide (6 ≤ dsel.toNat) || (!dselUsed && dsel != 0) || (!xdevUsed && xdev)
    || (!(xdevUsed && xdev) && w.extractLsb' 32 12 != 0)

/-- Issue a copy-engine operation (R157, R160, R164, R166). -/
def issueCopy (h : GReg) (kind : CopyKind) (dst : Shape) (src : Option Shape) (start : Nat) : M Flow := do
  queueRoom .copy
  countRoom
  kickRelease
  let head ← issueHead true true
  let o : CopyOp :=
    { head := head, kind := kind, dst := dst, src := src, k := start, n := dst.count, fmts := none, sent := false
      pause := none, buf := [], flits := 0, acked := start, comp := none, ending := none, restriped := false, replayed := false
      start := start, holes := [], last := false, out := [] }
  let c ← who
  let s ← get
  set (s.modCore c.core (fun k => { k with copyQ := k.copyQ ++ [o] }))
  setG h head.reg
  pure .next

/-- The body of CPY, CPYR and CPYB: the destination record, the source record, the options (R152, R167). -/
def copyBody (w : W64) (h a b : GReg) (c : RegCode) (dselUsed xdevUsed : Bool) (kind : W64 → M CopyKind) : M Flow := do
  let dst ← readShape a
  let src ← readShape b
  let opt ← readData c
  if optionsBad opt dselUsed xdevUsed then raise .illegalOperand w
  else
    let k ← kind opt
    let start := opt.toNat % 2 ^ 32
    if src.count ≠ dst.count ∨ start > dst.count then raise .shapeInvalid src.addr
    else issueCopy h k dst (some src) start

/-- CPY (R167, R168). -/
def execCpy (h a b : GReg) (c : RegCode) (s : State) : Host.Outcome State Fault Refusal :=
  let i : Instr := .cpy h a b c
  run i [c] [c] (copyBody (Instr.word i) h a b c false false (fun _ => pure .cpy)) s

/-- CFILL (R167). -/
def execCfill (h a : GReg) (c : RegCode) (s : State) : Host.Outcome State Fault Refusal :=
  run (.cfill h a c) [c] [c] (do
    let dst ← readShape a
    let v ← readData c
    issueCopy h (.cfill v) dst none 0) s

/-- CPYR (R167, R168, R110): a copy to another device takes its link and its operation number at issue. -/
def execCpyr (h a b : GReg) (c : RegCode) (s : State) : Host.Outcome State Fault Refusal :=
  let i : Instr := .cpyr h a b c
  run i [c] [c] (copyBody (Instr.word i) h a b c false true (fun opt =>
    if opt.getLsbD 44 then do
      let s ← get
      let x ← who
      let dev : BitVec 12 := opt.extractLsb' 32 12
      set { s with nextOp := s.nextOp + 1 }
      pure (.cpyrX dev (s.routeFor dev x.core) s.nextOp)
    else pure .cpyr)) s

/-- CPYB (R167, R168): DSEL must name a domain below level 5. -/
def execCpyb (h a b : GReg) (c : RegCode) (s : State) : Host.Outcome State Fault Refusal :=
  let i : Instr := .cpyb h a b c
  run i [c] [c] (copyBody (Instr.word i) h a b c true false (fun opt => do
    let x ← me
    let d := x.domReg (opt.extractLsb' 45 3).toNat
    if d.valid && d.level != 5 then pure (.cpyb d) else raise .illegalOperand (Instr.word i))) s

/-! WSSTAT (R150). -/

/-- Some element of a destination lies in the weight store of a die. -/
def State.writesWeights (s : State) (p : Fin 64) (die : Fin 4) (dst : Shape) (u : Nat) : Bool :=
  (List.range dst.count).any (fun i =>
    match dst.edgeAt u (dst.addrAt u i) with
    | .ok a => (match s.partLoc p a with
      | some (.weight d _) => d == die
      | _ => false)
    | _ => false)

/-- A copy of a partition that writes weight-store pages of a die is unresolved (R137, R150): one issued here, or one that arrives
from another device. Before its kick its unit is that of the format that the kick would read now. -/
def State.copyingWeights (s : State) (p : Fin 64) (die : Fin 4) : Bool :=
  s.cores.any (fun k => k.2.copyQ.any (fun o =>
    let f := match o.fmts with
      | some f => f.2
      | none => s.issueFmt o.head.owner true o.dst
    s.partOf o.head.owner.sl == p && !o.crosses && o.dst.chan.isNone && s.writesWeights p die o.dst (opUnit o.dst f)))
  || s.links.any (fun l => l.2.arriving.any (fun a =>
    a.part == p && a.done.isNone && a.failed.isNone && s.writesWeights p die a.shape a.unit))

/-- WSSTAT (R150). -/
def execWsstat (d a : RegCode) (s : State) : Host.Outcome State Fault Refusal :=
  run (.wsstat d a) [a] [d, a] (do
    let v ← readData a
    let c ← who
    let x ← me
    let s ← get
    let die : Fin 4 := ⟨v.toNat % 4, by omega⟩
    let p := s.partOf c.sl
    writeData (Instr.word (.wsstat d a)) d
      (((Sparse.get 0 x.stalls die.val).setWidth 64 <<< 32) ||| (ofBool (s.copyingWeights p die) <<< 1)
        ||| ofBool (s.wsOpen p die))
    pure .next) s

end Sys2Proof.Machine
end

