-- ==== Sys2Proof/Machine/Acc.lean ====
section
/-! DEFINITION. Machine/Acc.lean: the accumulator set of a core (R267, R268), the images of contexts (R275, R276) and the
hardware's take (R278). -/
namespace Sys2Proof.Machine
open Sys2Proof

/-! ACCOWN (R268). -/

/-- ACCOWN as it is read. -/
def AccOwn.word (a : AccOwn) : W64 :=
  BitVec.ofNat 64 (a.f64.toNat * 2 ^ 13 + a.k1.toNat * 2 ^ 12 + a.k0.toNat * 2 ^ 11 + a.d1.toNat * 2 ^ 10
    + a.d0.toNat * 2 ^ 9 + a.v.toNat * 2 ^ 8 + a.ctx.toNat * 4 + a.slot.toNat)
/-- ACCOWN from a word; reserved bits are ignored. -/
def AccOwn.ofWord (w : W64) : AccOwn :=
  ⟨w.getLsbD 13, w.getLsbD 12, w.getLsbD 11, w.getLsbD 10, w.getLsbD 9, w.getLsbD 8, w.extractLsb' 2 4, w.extractLsb' 0 2⟩
/-- ACCOWN as an SWR leaves it: the dirty bits are cleared. -/
def AccOwn.written (w : W64) : AccOwn := { AccOwn.ofWord w with d0 := false, d1 := false }
/-- The set is owned by a context. -/
def AccOwn.names (a : AccOwn) (c : CtxId) : Bool :=
  a.v && a.ctx.toNat == c.ctx.val && a.slot.toNat == c.slot.val
/-- The owner, where V = 1 names a context. -/
def AccOwn.owner (a : AccOwn) (core : Fin 4608) : CtxId :=
  ⟨core, ⟨a.slot.toNat, by have := a.slot.isLt; omega⟩, ⟨a.ctx.toNat % 11, by omega⟩⟩

/-- The cores of a cluster. -/
def coresOf (n : Fin 576) : List (Fin 4608) :=
  (List.range 8).map (fun i => ⟨(n.val * 8 + i) % 4608, by omega⟩)
/-- REGION of a B-reference word or a load word (R282, R285). -/
def wordRegion (w : W64) : Nat := w.toNat % 16

/-! Memory of a partition by its page tables alone: the path of the hardware and the firmware. -/

/-- The bytes at a DVA of a partition; a byte that does not translate reads as 0. -/
def State.partRead (s : State) (p : Fin 64) : Nat → W64 → List Byte
  | 0, _ => []
  | n + 1, d =>
    (match s.partLoc p d with
      | some l => s.byteAt (l.place 0)
      | none => 0) :: State.partRead s p n (d + 1)
/-- Write bytes at a DVA of a partition; a byte that does not translate is dropped. -/
def State.partWrite (s : State) (p : Fin 64) : List Byte → W64 → State
  | [], _ => s
  | b :: r, d =>
    State.partWrite (match s.partLoc p d with
      | some l => s.poke l [b]
      | none => s) p r (d + 1)

/-! Shape records as bytes (R151). -/

/-- A signed 32-bit number as it is stored. -/
def i32Nat (z : Int) : Nat := (BitVec.ofInt 32 z).toNat
/-- The 64 bytes of a shape record, as it was copied at issue. -/
def Shape.bytes (sh : Shape) : List Byte :=
  bytesLE 16 sh.data.bits.toNat ++ sh.ext.flatMap (fun e => bytesLE 2 e) ++ sh.str.flatMap (fun z => bytesLE 4 (i32Nat z))
    ++ bytesLE 2 (sh.ndim * 8 + sh.edge * 2 + (if sh.chan.isSome then 1 else 0)) ++ bytesLE 2 0
    ++ bytesLE 4 sh.channel.toNat ++ bytesLE 16 0
/-- The shape record that 64 bytes hold, with DATA's register given. -/
def Shape.ofBytes (data : Reg) (bs : List Byte) (addr : W64) : Shape :=
  let fl := numAt bs 40 2
  { data := data
    ext := (List.range 4).map (fun i => numAt bs (16 + 2 * i) 2)
    str := (List.range 4).map (fun i => (BitVec.ofNat 32 (numAt bs (24 + 4 * i) 4)).toInt)
    ndim := fl / 8 % 8
    edge := fl / 2 % 4
    chan := if fl % 2 = 1 then some ⟨numAt bs 44 4 % 4, by omega⟩ else none
    channel := BitVec.ofNat 32 (numAt bs 44 4)
    addr := addr }

/-! Images (R276). -/

/-- Bytes of an image. -/
def imageBytes : Nat := 8320

/-- The bytes of the set from an offset. -/
def State.accRead (s : State) (core : Fin 4608) (off n : Nat) : List Byte :=
  (List.range n).map (fun i => s.byteAt (accPlace core + off + i))
/-- Write bytes of the set. -/
def State.accWrite (s : State) (core : Fin 4608) (off : Nat) : List Byte → State
  | [] => s
  | b :: r => State.accWrite (s.setByteAt (accPlace core + off) b) core (off + 1) r

/-- The header of an image as a store of it writes it: OWN, FLAGS, the fault record (R276). -/
def imageHeader (k : Core) (oldFlags : Nat) : List Byte :=
  let a := k.accown
  let fl := 1 + (oldFlags / 2 % 4 ||| (a.d0.toNat + 2 * a.d1.toNat)) * 2 + (if k.accFault.isSome then 8 else 0)
  bytesLE 8 a.word.toNat ++ bytesLE 8 fl ++
    (match k.accFault with
      | some f => bytesLE 8 f.handle.toNat ++ bytesLE 8 (f.steps % 2 ^ 32 + (if f.sparse then 2 ^ 32 else 0))
          ++ bytesLE 8 f.b.toNat ++ bytesLE 8 f.c.toNat ++ bytesLE 16 0 ++ f.shape.bytes
      | none => bytesLE 112 0)

/-- After a store of an image, the tiles are clean (R276). -/
def Core.cleanTiles (k : Core) : Core := { k with accown := { k.accown with d0 := false, d1 := false } }

/-- The store of an image at a place keeps the capability of its fault record's DATA beside the 128 bits that it writes there
(R276; assumption log 18). -/
def State.saveCap (s : State) (part : Fin 64) (at_ : Option Nat) (f : Option FaultRec) : State :=
  match at_ with
  | none => s
  | some a =>
    let cap := match f with
      | some r => if r.shape.data.tag = 1 then [(part, a, r.shape.data.bits)] else []
      | none => []
    { s with imageCaps := s.imageCaps.filter (fun e => !(e.1 == part && e.2.1 == a)) ++ cap }

/-- The bits that an image's FSHAPE holds at a place are a capability that a store of an image put there. -/
def State.savedCap (s : State) (part : Fin 64) (at_ : Option Nat) (bits : Nat) : Bool :=
  match at_ with
  | none => false
  | some a => s.imageCaps.contains (part, a, BitVec.ofNat 128 bits)

/-- The set as a load of an image leaves it (R276). FSHAPE is the record as it was copied at issue: its DATA is the
capability that a store of an image put there; other bits load as data, since no instruction turns data into a capability
(R174, R179). -/
def State.loadImage (s : State) (core : Fin 4608) (bs : List Byte) (clean cap : Bool) : State :=
  let fl := numAt bs 8 8
  if fl % 2 = 0 then
    { s.modCore core (fun k => { k with
        accown := { k.accown with f64 := false, k1 := false, k0 := false, d1 := false, d0 := false }, accFault := none }) with
      mem := dropRange s.mem (accPlace core) (accPlace core + accBytes) }
  else
    let own := AccOwn.ofWord (wordAt bs 0)
    let p0 := decide (fl / 2 % 2 = 1)
    let p1 := decide (fl / 4 % 2 = 1)
    let fault : Option FaultRec :=
      if fl / 8 % 2 = 1 then
        some { handle := (wordAt bs 16).setWidth 39, steps := numAt bs 24 4, sparse := decide (numAt bs 28 1 % 2 = 1)
               b := wordAt bs 32, c := wordAt bs 40, shape := Shape.ofBytes (loadTagged (BitVec.ofNat 128 (numAt bs 64 16)) cap) ((bs.drop 64).take 64) 0 }
      else none
    let s := s.modCore core (fun k => { k with
      accown := { k.accown with f64 := own.f64, k1 := own.k1, k0 := own.k0, d1 := p1 && !clean, d0 := p0 && !clean }
      accFault := fault })
    let tile : Bool → Nat → List Byte := fun p o => if p then (bs.drop o).take 4096 else List.replicate 4096 0
    (s.accWrite core 0 (tile p0 128)).accWrite core 4096 (tile p1 4224)

/-- The image of a context in its slot's save area (R275). -/
def State.imageDva (s : State) (c : CtxId) : W64 :=
  (s.slot c.sl).bind.accdva + BitVec.ofNat 64 (imageBytes * c.ctx.val)

/-- FLAGS of a context's image. -/
def State.imageFlags (s : State) (c : CtxId) : Nat := ofBytesLE (s.partRead (s.partOf c.sl) 8 (s.imageDva c + 8))

/-- Clear the VALID flag of a context's image (R275). -/
def State.dropImage (s : State) (c : CtxId) : State :=
  s.partWrite (s.partOf c.sl) (bytesLE 8 (s.imageFlags c / 2 * 2)) (s.imageDva c + 8)

/-- The hardware stores the set of a core into the image of its owner (R278 step 1): the header, then each dirty tile. -/
def State.spillAcc (s : State) (core : Fin 4608) : State :=
  let k := s.core core
  let o := k.accown.owner core
  let p := s.partOf o.sl
  let d := s.imageDva o
  let old := s.imageFlags o
  let s := (s.partWrite p (imageHeader k old) d).saveCap p ((s.partLoc p (d + 64)).map (fun l => l.place 0)) k.accFault
  let s := if k.accown.d0 then s.partWrite p (s.accRead core 0 4096) (d + 128) else s
  let s := if k.accown.d1 then s.partWrite p (s.accRead core 4096 4096) (d + 4224) else s
  s.modCore core Core.cleanTiles

/-- The line that hosts must be snooped for before a context's image is read (R86). -/
def State.imageHeld (s : State) (c : CtxId) : Option Nat :=
  if s.hostLines.isEmpty then none
  else (List.range 3).findSome? (fun i =>
    (s.partLoc (s.partOf c.sl) (s.imageDva c + BitVec.ofNat 64 (4096 * i))).bind (fun l =>
      s.mustSnoopAny l (min 4096 (imageBytes - 4096 * i))))

/-- ACCOWN names a context of a slot that holds a tenant. -/
def State.accOwned (s : State) (core : Fin 4608) : Bool :=
  let a := (s.core core).accown
  a.v && decide (a.ctx.toNat < 11) && s.slotHeld (a.owner core).sl

/-- The hardware takes the set of the core for a context (R278). -/
def State.takeAcc (s : State) (c : CtxId) : State :=
  let s := if s.accOwned c.core then s.spillAcc c.core else s
  let s := s.clearAcc c.core
  let s := s.modCore c.core (fun k => { k with accown := { AccOwn.none with
    v := true, ctx := BitVec.ofNat 4 c.ctx.val, slot := BitVec.ofNat 2 c.slot.val } })
  if s.imageFlags c % 2 = 1 then
    let p := s.partOf c.sl
    let bs := s.partRead p imageBytes (s.imageDva c)
    s.loadImage c.core bs true (s.savedCap p ((s.partLoc p (s.imageDva c + 64)).map (fun l => l.place 0)) (numAt bs 64 16))
  else s

/-- A supervisor handler for ACC_NOT_OWNED of a context holds the set of its core (R434): it runs, or a callee that it entered
(R444). -/
def Ctx.holdsAcc (x : Ctx) : Bool := x.live && x.accHold && (x.tstat.suph || x.bights.any (fun b => b.suph))

/-- A handler of another context holds the set of the core (R434), where its slot is evicted too. -/
def State.accHeld (s : State) (c : CtxId) : Bool :=
  s.ctxs.any (fun p => (ctxOfKey p.1).core == c.core && ctxOfKey p.1 != c && p.2.holdsAcc)
    || s.saved.any (fun v => v.sl.core == c.core && v.ctxs.any Ctx.holdsAcc)

/-- The ownership check of a context has the hardware take the set (R273). -/
def State.takesAcc (s : State) (c : CtxId) : Bool :=
  let a := (s.core c.core).accown
  !a.names c && !(s.accOwned c.core && s.partOf (a.owner c.core).sl == s.partOf c.sl)

end Sys2Proof.Machine
end

