-- ==== Sys2Proof/Machine/Ctxt.lean ====
section
/-! DEFINITION. Machine/Ctxt.lean: the CTX instructions: START, EXIT, JOIN, BARC, YIELD, FOLLOW, UNFOLLOW, PARK and HELPERS
(R343 to R350), and NOP (R43). -/
namespace Sys2Proof.Machine
open Sys2Proof

/-! START (R345). -/

/-- The lowest FREE helper of a slot. -/
def State.freeHelper (s : State) (sl : SlotId) : Option (Fin 11) :=
  allCtx.find? (fun c => c != 0 && !(s.ctx ⟨sl.core, sl.slot, c⟩).live)

/-- A helper as START sets it: `x` is the helper, `m` the issuer, `h` the helper's number. -/
def Ctx.started (x m : Ctx) (h : Fin 11) (e v : Reg) : Ctx :=
  let y : Ctx := { x.settled with
    status := .ready, pcc := e, g := [], q := [], fflags := 0, srseq := 0, counts := [], belays := 0
    loopc := 0, loopb := 0, loope := 0, repc := 0, repi := 0
    frm := m.frm, srseed := m.srseed, dscope := m.dscope, dsel := m.dsel, htrapEn := m.htrapEn, tvec := m.tvec
    dom := m.dom, ibuf := [], stale := [], rep := none, pending := none, spin := [], bights := [], resident := 0, creason := 0
    cdepth := 0, held := 0
    dm := allDms.foldl (fun l n => if (m.domReg n.val).cmask.getLsbD h.val then Sparse.put l n.val (m.domReg n.val) else l) [] }
  (y.setReg 4 v).setReg 3 (m.reg 3)

/-- The checks of START, before it reads its operand (R345). -/
def startChecks (w : W64) (a : GReg) : M Unit := do
  let c ← who
  let m ← me
  let e ← greg a
  if c.ctx ≠ 0 ∨ m.depth ≠ 0 then raise .illegalInstruction w
  else if e.tag = 3 then raise .capSealed e.lo
  else if e.tag ≠ 1 then raise .capTag e.lo
  else if lacks e permX then raise .capPerm e.lo
  else if e.lo.getLsbD 0 then raise .align e.lo
  else pure ()

/-- A JOIN that waits completes (R347). -/
def State.joinDone (s : State) (c : CtxId) (a : RegCode) : State :=
  match (s.ctx c).settled.advance 4 with
  | .error t => s.takeTrap c t
  | .ok _ => (s.modCtx c (fun x => x.consume s.cycle a)).passOn c 4

/-- The JOINs complete that wait for a context which is FREE, before it is started again (R347). -/
def State.joinersOf (s : State) (k : CtxId) : State :=
  (ctxsOf k.sl).foldl (fun t c =>
    match (t.ctx c).status with
    | .waiting (.join h a) => if h = k.ctx then t.joinDone c a else t
    | _ => t) s

/-- A helper that is started takes part in the domains that it is given, and in no others (R345, R353). -/
def State.joinDoms (s : State) (k : CtxId) : State :=
  { s with doms := s.doms.map (fun y =>
    let old := y.joined.filter (fun c => c != k)
    { y with joined := if allDms.any (fun n => ((s.ctx k).domReg n.val).valid && y.isFor (s.partOf k.sl) ((s.ctx k).domReg n.val))
        then old ++ [k] else old }) }

/-- START (R345). -/
def execStart (d : RegCode) (a : GReg) (b : RegCode) (s : State) : Host.Outcome State Fault Refusal :=
  let w := Instr.word (.start d a b)
  operate (.start d a b) .closes [b] [d, b] (startChecks w a) (do
    let c ← who
    let e ← greg a
    let v ← read b
    releaseAt .core
    let s ← get
    match s.freeHelper c.sl with
    | none =>
      writeData w d (BitVec.allOnes 64)
      pure .next
    | some h =>
      let k : CtxId := ⟨c.core, c.slot, h⟩
      let m ← me
      set ((((s.joinersOf k).dropImage k).modCtx k (fun x => x.started m h e v)).joinDoms k)
      writeData w d (BitVec.ofNat 64 h.val)
      pure .next) s

/-! BARC (R348). -/

/-- A barrier of a waiting context holds: every context of its mask waits at a barrier or is not live. -/
def State.barrierMet (s : State) (sl : SlotId) (m : BitVec 11) : Bool :=
  allCtx.all (fun i => !m.getLsbD i.val ||
    (match (s.ctx ⟨sl.core, sl.slot, i⟩).status with
      | .waiting (.barrier _) => true
      | .free => true
      | _ => false))

/-- Every barrier of a slot whose condition holds completes, all at once (R348). -/
def State.barrierSweep (s : State) (sl : SlotId) : State :=
  let done := (ctxsOf sl).filter (fun c =>
    match (s.ctx c).status with
    | .waiting (.barrier m) => s.barrierMet sl m
    | _ => false)
  done.foldl (fun t c => t.passOn c 4) s

/-- BARC (R348): it arrives, a release at CORE, and waits; the completion completes the instruction. -/
def execBarc (a : RegCode) (s : State) : Host.Outcome State Fault Refusal :=
  run (.barc a) [a] [a] (do
    let v ← readData a
    let c ← who
    if v.toNat ≥ 2 ^ 11 ∨ v.getLsbD c.ctx.val = false then raise .illegalOperand v
    else
      releaseAt .core
      let s ← get
      set ((s.waitOn c (.barrier (v.setWidth 11))).barrierSweep c.sl)
      pure .done) s

/-! EXIT and JOIN (R346, R347). -/

/-- A helper of a slot is live. -/
def State.helpersLive (s : State) (sl : SlotId) : Bool :=
  allCtx.any (fun i => i != 0 && (s.ctx ⟨sl.core, sl.slot, i⟩).live)

/-- EXIT (R346): the waits, then FREE. -/
def exitBody (w : W64) : M Flow := do
  let c ← who
  let x ← me
  if x.depth ≠ 0 then raise .illegalInstruction w
  else
    let s ← get
    if c.ctx = 0 ∧ s.helpersLive c.sl then pause .helpers
    else
      fenceAt .sys true false true true false
      set ((s.modCtx c (fun x => { x.ended with exited := true })).barrierSweep c.sl)
      pure .done

/-- EXIT (R346). -/
def execExit (s : State) : Host.Outcome State Fault Refusal := run .exit [] [] (exitBody (Instr.word .exit)) s
/-- EXIT.C (R43). -/
def execExitC (s : State) : Host.Outcome State Fault Refusal := run .exitC [] [] (exitBody (Instr.word .exitC)) s

/-- JOIN (R347). -/
def execJoin (a : RegCode) (s : State) : Host.Outcome State Fault Refusal :=
  run (.join a) [a] [a] (do
    let v ← readData a
    let c ← who
    if h : 1 ≤ v.toNat ∧ v.toNat ≤ 10 then
      let k : Fin 11 := ⟨v.toNat, by omega⟩
      let s ← get
      if k = c.ctx then raise .illegalOperand v
      else if (s.ctx ⟨c.core, c.slot, k⟩).live then pause (.join k a)
      else pure .next
    else raise .illegalOperand v) s

/-! YIELD, HELPERS, NOP (R349, R43). -/

/-- YIELD (R349). -/
def execYield (s : State) : Host.Outcome State Fault Refusal :=
  run .yield_ [] [] (do
    edit (fun x => { x with status := x.awake })
    pure .next) s
/-- YIELD.C (R43). -/
def execYieldC (s : State) : Host.Outcome State Fault Refusal :=
  run .yieldC [] [] (do
    edit (fun x => { x with status := x.awake })
    pure .next) s

/-- HELPERS (R349). -/
def execHelpers (d : RegCode) (s : State) : Host.Outcome State Fault Refusal :=
  run (.helpers d) [] [d] (do
    let c ← who
    let s ← get
    let n := (allCtx.filter (fun i => (s.ctx ⟨c.core, c.slot, i⟩).live)).map (fun i => 2 ^ i.val)
    writeData (Instr.word (.helpers d)) d (BitVec.ofNat 64 n.sum)
    pure .next) s

/-- NOP (R43). -/
def execNop (s : State) : Host.Outcome State Fault Refusal := run .nop [] [] (pure .next) s

/-! FOLLOW and UNFOLLOW (R343, R344). -/

/-- The contexts that wait for a leader's FOLLOW. -/
def State.waitingFollowers (s : State) (l : CtxId) : List CtxId :=
  s.ctxIds.filter (fun c =>
    (match (s.ctx c).status with
      | .following false => true
      | _ => false) && s.leaderOf c == some l && s.mates c.sl l.sl)

/-- Attach a follower: it goes on where its leader goes on. -/
def Ctx.attach (x : Ctx) (p : W64) : Ctx := { x.setPc p with status := .following true, attached := true, follow := [], spin := [] }

/-- FOLLOW (R343). A follower that receives the leader's FOLLOW stays attached. -/
def execFollow (s : State) : Host.Outcome State Fault Refusal :=
  run .follow [] [] (do
    let c ← who
    let x ← me
    let s ← get
    if c.ctx ≠ 0 ∨ x.depth ≠ 0 then raise .illegalInstruction (Instr.word .follow)
    else if c.core.val % 8 = 0 then
      match x.advance 4 with
      | .error t => fun _ => .error (.trap t)
      | .ok y =>
        set ((s.waitingFollowers c).foldl (fun t f => t.modCtx f (fun z => z.attach y.pc)) s)
        pure .next
    else if x.attached then pure .next
    else if (s.leaderOf c).isNone then raise .illegalInstruction (Instr.word .follow)
    else
      edit (fun y => { y with status := .following false })
      pure .next) s

/-- UNFOLLOW (R344): the leader's word detaches each follower as it executes it (Turns.lean); the instruction itself has no
effect on the context that executes it. -/
def execUnfollow (s : State) : Host.Outcome State Fault Refusal := run .unfollow [] [] (pure .next) s

/-! PARK (R350). -/

/-- The word that PARK loads has come: it parks while the word is the expected one. -/
def parkOn (w : W64) (d : RegCode) (e : W64) (l : Loc) (v : W128) : M Flow := do
  if v.setWidth 64 = e then
    let c ← who
    let s ← get
    let near : Bool := match l with
      | .localStore k _ _ _ => k == c.core
      | _ => false
    pure (.park (s.watch c.core l v 8 near))
  else
    writeData w d (v.setWidth 64)
    pure .next

/-- PARK (R350). -/
def execPark (d : RegCode) (a : GReg) (b : RegCode) (s : State) : Host.Outcome State Fault Refusal :=
  let w := Instr.word (.park d a b)
  run (.park d a b) [b] [d, b] (do
    let cap ← greg a
    let e ← readData b
    let x ← me
    match x.remote with
    | some r =>
      let v ← replyOf r
      parkOn w d e r.loc v.1
    | none =>
      let p ← access cap (loadAsk 8) cap.lo
      if p.own then
        let s ← get
        parkOn w d e p.loc (BitVec.ofNat 128 (s.readNat p.loc 8))
      else sendRemote (.park d a b) .load p cap.lo 8 none) s

end Sys2Proof.Machine
end

