-- ==== Sys2Proof/Machine/Hank.lean ====
section
/-! DEFINITION. Machine/Hank.lean: hanks and FETCHT, TDCFG and TDSTAT (R355 to R359). -/
namespace Sys2Proof.Machine
open Sys2Proof

/-- A hank of a cluster. -/
def Cluster.hank (u : Cluster) (h : Fin 4) : Hank := Sparse.get Hank.idle u.hanks h.val
/-- Set a hank. -/
def Cluster.setHank (u : Cluster) (h : Fin 4) (k : Hank) : Cluster := { u with hanks := Sparse.put u.hanks h.val k }

/-- A byte of a grant register names a partition (R264, R355). -/
def grants (w : W64) (i : Nat) (p : Fin 64) : Bool :=
  let b := w.toNat / 2 ^ (8 * i) % 256
  decide (128 ≤ b) && b % 64 == p.val

/-- Tiles of a dimension (R356). -/
def Hank.counts (k : Hank) : List Nat := (k.ext.zip k.tile).map (fun p => (p.1 + p.2 - 1) / p.2)
/-- All tiles (R356). -/
def Hank.total (k : Hank) : Nat := k.counts.foldl (· * ·) 1

/-- The origins and extents of tile j (R356), dimension 0 first. -/
def tileDims : Nat → List (Nat × Nat) → List (Nat × Nat)
  | _, [] => []
  | j, (e, z) :: r =>
    let n := (e + z - 1) / z
    let o := j % n * z
    (o, min z (e - o)) :: tileDims (j / n) r

/-- Four 16-bit numbers in a word, the first lowest. -/
def pack16 (l : List Nat) : W64 := BitVec.ofNat 64 (l.foldr (fun x acc => x % 2 ^ 16 + acc * 2 ^ 16) 0)

/-- What a request to an armed or exhausted hank gives: the pair of FETCHT, and the hank after it (R356, R357). -/
def Hank.serve (k : Hank) : (W64 × W64) × Hank :=
  match k.state with
  | .armed =>
    let t := tileDims k.issued (k.ext.zip k.tile)
    let n := k.issued + 1
    ((pack16 (t.map (fun p => p.1)), pack16 (t.map (fun p => p.2))),
      { k with issued := n, state := if n ≥ k.total then .exhausted else .armed })
  | _ => ((BitVec.allOnes 64, 0), k)

/-- The pair of FETCHT is written (R357). -/
def Ctx.takeTile (x : Ctx) (d : GReg) (v : W64 × W64) : Ctx :=
  (x.setReg d (Reg.data v.1)).setReg (d + 1) (Reg.data v.2)

/-- The hank of an instruction, which its partition must hold (R355). -/
def needHank (v : W64) : M (Fin 4) := fun s =>
  let h : Fin 4 := ⟨v.toNat % 4, by omega⟩
  if grants (s.cluster (clusterOf s.cur.core)).hkgrant h.val (s.partOf s.cur.sl) then .ok (h, s)
  else .error (.trap ⟨.illegalOperand, BitVec.ofNat 64 h.val, 0, false⟩)

/-- FETCHT (R357): on an IDLE hank it waits in FIFO order; the TDCFG that arms the hank completes it. -/
def execFetcht (d : GReg) (a : RegCode) (s : State) : Host.Outcome State Fault Refusal :=
  let w := Instr.word (.fetcht d a)
  run (.fetcht d a) [a] [a] (do
    let v ← readData a
    if v.toNat ≥ 4 then raise .illegalOperand w
    else
      let h ← needHank v
      let c ← who
      let s ← get
      let u := s.cluster (clusterOf c.core)
      let k := u.hank h
      match k.state with
      | .idle =>
        let k := { k with waiters := k.waiters.filter (fun x => x.ctx != c || x.away.isSome) ++ [⟨c, d, a, none⟩] }
        set (s.setCluster (clusterOf c.core) (u.setHank h k))
        pure (.hold (.hank h))
      | _ =>
        let r := k.serve
        set (s.setCluster (clusterOf c.core) (u.setHank h r.2))
        edit (fun x => x.takeTile d r.1)
        pure .next) s

/-- A context waits at a hank. -/
def Ctx.atHank (x : Ctx) (h : Fin 4) : Bool :=
  match x.status with
  | .waiting (.hank g) => g == h
  | _ => false

/-- One request that waited at a hank is served, and its instruction completes (R356, R357). -/
def State.serveOne (s : State) (n : Fin 576) (h : Fin 4) (w : HankWait) : State :=
  match (s.ctx w.ctx).settled.advance 4 with
  | .error t => s.takeTrap w.ctx t
  | .ok _ =>
    let g := ((s.cluster n).hank h).serve
    ((s.modCluster n (fun u => u.setHank h g.2)).modCtx w.ctx (fun x => (x.consume s.cycle w.src).takeTile w.dst g.1)).passOn w.ctx 4

/-- Serve the requests that waited for a hank, oldest first (R356). One of an evicted slot keeps its place and is served
once the slot is restored (R370). -/
def State.serveHank (s : State) (n : Fin 576) (h : Fin 4) : List HankWait → State
  | [] => s
  | w :: r =>
    State.serveHank (if w.away.isNone && (s.ctx w.ctx).atHank h then s.serveOne n h w else s) n h r

/-- The requests that a hank still holds when those that are there have been served. -/
def Hank.left (k : Hank) : List HankWait := k.waiters.filter (fun w => w.away.isSome)

/-- TDCFG (R358). -/
def execTdcfg (d : RegCode) (a : GReg) (b : RegCode) (s : State) : Host.Outcome State Fault Refusal :=
  let w := Instr.word (.tdcfg d a b)
  run (.tdcfg d a b) [b] [d, b] (do
    let cap ← greg a
    let v ← readData b
    if v.toNat ≥ 4 then raise .illegalOperand w
    else
      let h ← needHank v
      let c ← who
      let n := clusterOf c.core
      if a = 0 then
        releaseAt .clu
        modify (fun s => s.modCluster n (fun u => u.setHank h { Hank.idle with waiters := (u.hank h).waiters }))
        writeData w d 0
        pure .next
      else
        let s ← get
        let p ← record cap (loadAsk 16) cap.lo
        releaseAt .clu
        let ext := (List.range 4).map (fun i => s.readNat (p.loc.plus (2 * i)) 2)
        let tile := (List.range 4).map (fun i => s.readNat (p.loc.plus (8 + 2 * i)) 2)
        let old := (s.cluster n).hank h
        let k : Hank := { state := .armed, ext := ext, tile := tile, issued := 0, waiters := old.left }
        if tile.contains 0 ∨ k.total > 2 ^ 32 - 1 then
          writeData w d 1
          pure .next
        else
          let k := { k with state := if k.total = 0 then .exhausted else .armed }
          let s ← get
          set ((s.modCluster n (fun u => u.setHank h k)).serveHank n h old.waiters)
          writeData w d 0
          pure .next) s

/-- The number of a hank's state (R359). -/
def HankState.code : HankState → Nat
  | .idle => 0
  | .armed => 1
  | .exhausted => 2

/-- TDSTAT (R359). -/
def execTdstat (d a : RegCode) (s : State) : Host.Outcome State Fault Refusal :=
  let w := Instr.word (.tdstat d a)
  run (.tdstat d a) [a] [d, a] (do
    let v ← readData a
    let h ← needHank v
    let c ← who
    let s ← get
    let k := (s.cluster (clusterOf c.core)).hank h
    let n := k.waiters.countP (fun x => x.away.isSome || (s.ctx x.ctx).atHank h)
    writeData w d (BitVec.ofNat 64 (k.state.code * 2 ^ 40 + min n 255 * 2 ^ 32 + k.issued % 2 ^ 32))
    pure .next) s

end Sys2Proof.Machine
end

