-- ==== Sys2Proof/Machine/Queue.lean ====
section
/-! DEFINITION. Machine/Queue.lean: the QCTL forms (R193, R194), RECV (R195) and SEND (R196). -/
namespace Sys2Proof.Machine
open Sys2Proof

/-- A form that no gate callee may execute (R184): a frozen q code stands among the codes it names. -/
def frozen (rs : List RegCode) : List RegCode := .q 0 :: rs

/-- The eight queue numbers. -/
def allQueues : List (Fin 8) := [0, 1, 2, 3, 4, 5, 6, 7]

/-- QCFG (R193). -/
def execQcfg (d : RegCode) (a : GReg) (s : State) : Host.Outcome State Fault Refusal :=
  run (.qcfg d a) [] (frozen [d]) (do
    let v := (← greg a).lo
    let depth : Fin 8 → Nat := fun i => (v.extractLsb' (8 * i.val) 8).toNat
    if allQueues.all (fun i => decide (depth i ≤ 16)) then
      edit (fun x => allQueues.foldl (fun y i => y.setQueue i ⟨depth i, []⟩) x)
      writeData (Instr.word (.qcfg d a)) d 0
      pure .next
    else
      writeData (Instr.word (.qcfg d a)) d 1
      pure .next) s

/-- QCLR (R193). -/
def execQclr (d : RegCode) (a : GReg) (s : State) : Host.Outcome State Fault Refusal :=
  run (.qclr d a) [] (frozen [d]) (do
    let v := (← greg a).lo
    let x ← me
    let named := allQueues.filter (fun i => v.getLsbD i.val)
    let n := (named.map (fun i => (x.queue i).items.length)).sum
    edit (fun y => named.foldl (fun z i => z.setQueue i { z.queue i with items := [] }) y)
    writeData (Instr.word (.qclr d a)) d (BitVec.ofNat 64 n)
    pure .next) s

/-- QCNT (R193). -/
def execQcnt (d : RegCode) (a : GReg) (s : State) : Host.Outcome State Fault Refusal :=
  run (.qcnt d a) [] (frozen [d]) (do
    let v := (← greg a).lo
    let x ← me
    let q := x.queue ⟨v.toNat % 8, by omega⟩
    writeData (Instr.word (.qcnt d a)) d (BitVec.ofNat 64 (q.depth * 256 + q.items.length))
    pure .next) s

/-- The ring a register names. -/
def ringOf (v : W64) : Fin 4 := ⟨v.toNat % 4, by omega⟩

/-- The ports bound to a ring become unbound (R193). -/
def Ctx.unbindPorts (x : Ctx) (k : Fin 4) : Ctx :=
  ([0, 1, 2, 3] : List (Fin 4)).foldl
    (fun y m => if (y.port m).bound && (y.port m).ring == k then y.setPort m ⟨false, 0, 0, []⟩ else y) x

/-- The checks of RBIND on a region (R194): the ring it makes. -/
def ringRegion (iw : W64) (cap : Reg) : M Ring := fun s =>
  let c := s.cur
  let cur := cap.lo
  let len := capTop cap - capBase cap
  let live := s.live (dieOf c.core)
  match firstFail live false cap cur len [permL, permS] with
  | some e => .error (.trap ⟨e, cur, 0, false⟩)
  | none =>
    let log := Nat.log2 (len / 8)
    if cur.toNat ≠ capBase cap ∨ len ≠ 8 * 2 ^ log ∨ log < 3 ∨ 12 < log then .error (.trap ⟨.illegalOperand, iw, 0, false⟩)
    else if cur.toNat % 8 ≠ 0 then .error (.trap ⟨.align, cur, 0, false⟩)
    else if cur.toNat + len > (s.slot c.sl).bind.size then .error (.trap ⟨.capBounds, cur, 0, false⟩)
    else .ok (⟨true, 0, 0, BitVec.ofNat 4 log, cur.setWidth 18, 0, 0, 0, 0⟩, s)

/-- RBIND (R193, R194). -/
def execRbind (d : RegCode) (a b : GReg) (s : State) : Host.Outcome State Fault Refusal :=
  let w := Instr.word (.rbind d a b)
  run (.rbind d a b) [] (frozen [d]) (do
    let cap ← greg a
    let k := ringOf (← greg b).lo
    let x ← me
    if a = 0 then
      let n := if (x.ring k).bound then (x.ring k).words else 0
      edit (fun y => (y.setRing k Ring.unbound).unbindPorts k)
      writeData w d (BitVec.ofNat 64 n)
      pure .next
    else if (x.ring k).bound then
      writeData w d 1
      pure .next
    else
      let r ← ringRegion w cap
      edit (fun y => y.setRing k r)
      writeData w d 0
      pure .next) s

/-- PBIND (R193, R194): a word in the replay latch is kept. -/
def execPbind (m : Fin 4) (a b : GReg) (s : State) : Host.Outcome State Fault Refusal :=
  let w := Instr.word (.pbind m a b)
  run (.pbind m a b) [] (frozen []) (do
    let k := ringOf (← greg a).lo
    let dest := (← greg b).lo
    let x ← me
    if (x.ring k).bound = false ∨ (ringAddr dest).isNone then raise .illegalOperand w
    else
      edit (fun y => y.setPort m { y.port m with bound := true, ring := k, dest := dest })
      pure .next) s

/-- PUNBIND (R193): the replay latch is cleared. -/
def execPunbind (m : Fin 4) (s : State) : Host.Outcome State Fault Refusal :=
  run (.punbind m) [] (frozen []) (do
    edit (fun y => y.setPort m ⟨false, 0, 0, []⟩)
    pure .next) s

/-- RPOLL (R193). -/
def execRpoll (d : RegCode) (a : GReg) (s : State) : Host.Outcome State Fault Refusal :=
  let w := Instr.word (.rpoll d a)
  run (.rpoll d a) [] (frozen [d]) (do
    let k := ringOf (← greg a).lo
    let x ← me
    let s ← get
    let r := x.ring k
    if r.bound = false then raise .illegalOperand w
    else
      writeData w d ((r.head.setWidth 64 <<< 32) ||| (r.seenTail s.cycle).setWidth 64)
      pure .next) s

/-- RADV (R193). -/
def execRadv (d : RegCode) (a b : GReg) (s : State) : Host.Outcome State Fault Refusal :=
  let w := Instr.word (.radv d a b)
  run (.radv d a b) [] (frozen [d]) (do
    let n := ((← greg a).lo).toNat % 2 ^ 32
    let k := ringOf (← greg b).lo
    let x ← me
    let s ← get
    let r := x.ring k
    if r.bound = false then raise .illegalOperand w
    else if n ≤ r.here s.cycle then
      edit (fun y => y.setRing k (r.took s.cycle n))
      writeData w d 0
      pure .next
    else
      writeData w d 1
      pure .next) s

/-- RECV (R195). -/
def execRecv (d : RegCode) (a : GReg) (k : Fin 4) (s : State) : Host.Outcome State Fault Refusal :=
  let w := Instr.word (.recv d a k)
  run (.recv d a k) [] (frozen [d]) (do
    let v := (← greg a).lo
    let x ← me
    let s ← get
    let r := x.ring k
    if r.bound = false then raise .illegalOperand w
    else if r.seenTail s.cycle = v.setWidth 32 then pause (.ring k (v.setWidth 32))
    else
      writeData w d ((r.seenTail s.cycle).setWidth 64)
      pure .next) s

/-- SEND (R196): its PORT_DEADLOCK and ILLEGAL_OPERAND leave a port it has read from, and its ring, as they were. -/
def execSend (d : RegCode) (a : GReg) (b : RegCode) (s : State) : Host.Outcome State Fault Refusal :=
  let w := Instr.word (.send d a b)
  operateUndo (fun e => e == .portDeadlock || e == .illegalOperand) (.send d a b) .closes [b] [d, b] (pure ()) (do
    let addr := (← greg a).lo
    let v ← readData b
    let n ← sendTo w addr v
    writeData w d (BitVec.ofNat 64 n)
    pure .next) s

end Sys2Proof.Machine
end

