-- ==== Sys2Proof/Machine/Security.lean ====
section
/-! DEFINITION. Machine/Security.lean: the steps of the domain stack that no instruction takes: the unwind check, the expiry
of frames and of a cleanup (R383, R385, R386), a revocation reaching a die and the abort of a tenant (R387). -/
namespace Sys2Proof.Machine
open Sys2Proof

/-- A handler that stands at a boundary with an unwind pending runs to its ERET before the check is made again (R385,
R407). -/
def Ctx.unwindHeld (x : Ctx) : Bool := x.tstat.uw && x.tstat.inh

/-- A context that the check has moved leaves what it waited for (R338, R385). -/
def Ctx.freed (x : Ctx) : Ctx :=
  match x.status with
  | .waiting _ => { x with status := .ready }
  | .belayed _ => { x with status := .ready }
  | .parked _ => { x with status := .ready }
  | .following _ => { x with status := .ready, attached := false, follow := [] }
  | _ => x

/-- The trap of a completed instruction, once the check that came before it is done (R403): it is taken in the frame it
arose in, and goes with that frame. -/
def State.afterCheck (s : State) (c : CtxId) (e : Option TrapInfo) (k : Nat) : State :=
  match e with
  | some t =>
    if (s.ctx c).live && (s.ctx c).depth == k then s.takeTrap c t else s.modCtx c (fun x => { x with pending := none })
  | none => s

/-- The unwind check of a context at a boundary: none where it changes nothing (R385). -/
def State.unwindStep (s : State) (c : CtxId) : Option State :=
  let x := s.ctx c
  if x.live = false ∨ x.depth = 0 ∨ x.unwindHeld then none
  else
    match s.unwind c with
    | .quiet => x.pending.map (fun e => (s.modCtx c Ctx.freed).takeTrap c e)
    | .moved t => some ((t.modCtx c Ctx.freed).afterCheck c x.pending x.depth)
    | .waits t w => if x.status = .waiting w ∧ x.closing.isSome then none else some (t.waitOn c w)
    | .spill t home => some ((t.modCtx c Ctx.freed).spillTrap c home)

/-- The unwind check of a context, as a step. -/
def State.checkUnwind (s : State) (c : CtxId) : State := (s.unwindStep c).getD s

/-- UNWIND_CHECK (R385). -/
def execUnwindCheck (c : CtxId) (s : State) : Host.Outcome State Fault Refusal :=
  s.on true (fun s => s.checkUnwind c)

/-- FRAME_EXPIRE (R383, R385): frame j + 1 has expired, and the check acts on it. -/
def execFrameExpire (c : CtxId) (j : Fin 16) (s : State) : Host.Outcome State Fault Refusal :=
  s.on ((s.ctx c).expired (j.val + 1)) (fun s => s.checkUnwind c)

/-- CLEANUP_BUDGET_EXPIRE (R385, R386). -/
def execCleanupBudgetExpire (c : CtxId) (s : State) : Host.Outcome State Fault Refusal :=
  let x := s.ctx c
  s.on (x.creason != 0 && decide (Config.cleanupBudget ≤ x.charged - x.cleanAt)) (fun s => s.checkUnwind c)

/-- LIVENESS_UPDATE (R387, R394): a revocation under way reaches a die. -/
def execLivenessUpdate (die : Fin 4) (dom : BitVec 12) (s : State) : Host.Outcome State Fault Refusal :=
  s.on (s.revoking.contains dom) (fun s =>
    let s := s.modDie die (fun d => { d with live := Sparse.put d.live dom.toNat false })
    if allDies.all (fun i => !s.live i dom) then { s with revoking := s.revoking.filter (fun d => d != dom) } else s)

/-! The abort of a tenant (R387, R108, R362). -/

/-- The domains of a partition. -/
def State.domsOf (s : State) (p : Fin 64) : List Nat :=
  ((s.die 0).owner.filter (fun q => q.2 == p)).map (fun q => q.1)

/-- Every domain of a partition dies, on every die. -/
def State.killDomains (s : State) (p : Fin 64) : State :=
  (s.domsOf p).foldl (fun t n => t.modDies (fun d => { d with live := Sparse.put d.live n false })) s

/-- A context is nested in a domain of another tenant. -/
def Ctx.foreignFrame (x : Ctx) : Bool := x.bights.any (fun b => b.foreign)

/-- A slot holds a context that is nested in a domain of another tenant. -/
def State.nestedSlot (s : State) (sl : SlotId) : Bool :=
  (ctxsOf sl).any (fun c => (s.ctx c).live && (s.ctx c).foreignFrame)

/-- An evicted slot holds such a context. -/
def Saved.nested (v : Saved) : Bool := v.ctxs.any (fun x => x.live && x.foreignFrame)

/-- The contexts of an evicted slot that are not nested in a domain of another tenant end, with their stores in flight and their
counts (R108, R387). -/
def Saved.endOwn (v : Saved) : Saved :=
  let gone : CtxId → Bool := fun c => match v.ctxs[c.ctx.val]? with
    | some x => x.live && !x.foreignFrame
    | none => false
  { v with
    ctxs := v.ctxs.map (fun x => if x.live && !x.foreignFrame then { x.ended with counts := [] } else x)
    stores := v.stores.filter (fun r => !gone r.ctx), acks := v.acks.filter (fun r => !gone r.ctx)
    evmsgs := v.evmsgs.filter (fun r => !gone r.ctx)
    arrivals := v.arrivals.filter (fun p => !gone (arrivalCtx p.1)), seen := v.seen.filter (fun p => !gone (arrivalCtx p.1)) }

/-- The contexts of a slot that are not nested in a domain of another tenant end, with their stores in flight and their counts
(R108). -/
def State.endSlot (s : State) (sl : SlotId) : State :=
  (ctxsOf sl).foldl (fun t c =>
    if (t.ctx c).live && !(t.ctx c).foreignFrame then
      (((t.killHandles c).dropOpsOf c.core (fun e => e == c)).modCtx c (fun x => { x.ended with counts := [] })).dropFlying (fun e => e == c)
    else t) s

/-- A slot of a task, on its core or evicted, holds a context that is nested in a domain of another tenant. -/
def State.nestedTask (s : State) (p : Fin 64) (taskid : W64) (sl : SlotId) : Bool :=
  if s.slotHeld sl && s.partOf sl == p && (s.slot sl).bind.taskid == taskid then s.nestedSlot sl
  else s.saved.any (fun v => v.sl == sl && v.slot.bind.part == p && v.slot.bind.taskid == taskid && v.nested)

/-- A task of an aborted tenant ends with STATUS 0x8301; a slot with a context in another tenant's domain is unbound
later. The RESULT of a task that ran is a free value (assumption log 1). -/
def State.killTask (s : State) (p : Fin 64) (t : Task) : State :=
  let keep := t.slots.filter (fun sl => s.nestedTask p t.recd.taskid sl)
  let s := (keep.filter s.slotHeld).foldl (fun u sl => if u.partOf sl = p then u.endSlot sl else u) s
  let s := s.modPart p (fun q => q.modTask t.order (fun u => { u with slots := u.slots.filter (fun sl => !keep.contains sl) }))
  match (s.part p).tasks.find? (fun u => u.order == t.order) with
  | some u => s.abortTask p u
  | none => s

/-- The abort of a tenant (R387): its domains die, its tasks end with STATUS 0x8301, and its slots are unbound. -/
def State.abortTenant (s : State) (p : Fin 64) : State :=
  let s := s.killDomains p
  let s := ((s.part p).tasks.filter (fun t => t.state != .done)).foldl (fun t u => t.killTask p u) s
  (s.slotsOfPart p).foldl (fun t sl => if t.nestedSlot sl then t.endSlot sl else t.unbindSlot sl) s

/-- Evicted slots of an aborted tenant are dropped, but for those with a context nested in a domain of another tenant: R385 ends it
once the slot is restored (R386, R387). -/
def State.dropAborted (s : State) (part : Fin 64) : State :=
  let s := s.dropSaved (fun v => v.slot.bind.part == part && !v.nested)
  { s with saved := s.saved.map (fun v => if v.slot.bind.part == part then v.endOwn else v) }

/-- TENANT_ABORT (R387), where firmware acts (R430). -/
def execTenantAbort (part : Fin 64) (s : State) : Host.Outcome State Fault Refusal :=
  s.on ((s.part part).assigned && s.firmwareActs) (fun s => (s.abortTenant part).dropAborted part)

end Sys2Proof.Machine
end

