-- ==== Sys2Proof/Machine/Scheduler.lean ====
section
/-! DEFINITION. Machine/Scheduler.lean: who issues: the conditions that contexts wait for (R338), the ring of contexts
(R339), the end of held cycles and of slices (R340, R366, R433), drowsy banks (R368), belayed and parked contexts (R342,
R350), and the completion of phases (R335). -/
namespace Sys2Proof.Machine
open Sys2Proof

/-! The end of a wait (R338). -/

/-- The micro-TLB holds the page of a DVA, or its fault has been refused. -/
def State.walked (s : State) (c : CtxId) (d : W64) : Bool :=
  (s.ctx c).refusal.isSome || (s.tlbMicro c.core (s.partOf c.sl) d).isSome

/-- The page of a DVA needs no service, or its fault has been refused. -/
def State.served (s : State) (c : CtxId) (d : W64) (wr : Bool) : Bool :=
  (s.ctx c).refusal.isSome ||
    (match s.walk (s.slot c.sl).bind.ptroot d with
      | .error .notPresent => false
      | .error _ => true
      | .ok l => pteMT l.pte != 5 || (match s.tlbFind c.core (s.partOf c.sl) d with
        | some e => leafPermits e.pte (if wr then .write else .read)
        | none => false))

/-- No tick of a slot stands in the queue of its core (R311). -/
def State.noTickOf (s : State) (sl : SlotId) : Bool :=
  (s.core sl.core).intQ.all (fun o => o.head.owner.sl != sl || (match o.kind with
    | .tick _ => false
    | _ => true))

/-- The condition that a context waits for holds. A reply, a phase and a hank end their waits themselves. -/
def State.waitMet (s : State) (c : CtxId) (w : Wait) : Bool :=
  let x := s.ctx c
  let k := s.core c.core
  match w with
  | .reply => false
  | .walk d _ => s.walked c d
  | .service d wr => s.served c d wr
  | .ownStores d => !s.storesTo c d
  | .port m => !(x.port m).bound || decide (0 < (x.ring (x.port m).ring).here s.cycle)
  | .ring r t => !(x.ring r).bound || (x.ring r).seenTail s.cycle != t
  | .ringRoom _ _ => false
  | .record => true
  | .evicting => !(s.slots.any (fun q => q.2.phase == .evicting))
  | .frame a => (match ringAddr a with
    | some r => s.arrived c r (x.sendingTo a)
    | none => true)
  | .ringAway _ => !(s.slots.any (fun q => q.2.phase == .evicting))
  | .ownPosts d => !s.postsTo c d
  | .enqueued => !s.postsTo c c.core.val
  | .portHeld m => !s.portHeld c m
  | .handle i h => ((s.ctx ⟨c.core, c.slot, i⟩).hslot h).state != .pending
  | .handleSlot => (match x.pickSlot with
    | .error (.wait _) => false
    | _ => true)
  | .uscRoom => decide (x.usc < Config.uscMax)
  | .uscZero => x.usc == 0
  | .release sc => !s.releaseBlocked c sc
  | .fence sc st _ lb rs eng => !s.fenceBlocked c sc st lb rs eng
  | .phase _ _ => false
  | .phaseNone n => s.domNext (s.partOf c.sl) (x.domReg n.val) == (x.domReg n.val).phase
  | .helpers => !s.helpersLive c.sl
  | .join i _ => !(s.ctx ⟨c.core, c.slot, i⟩).live
  | .barrier m => s.barrierMet c.sl m
  | .hank _ => false
  | .queueRoom e => decide (k.queued e < Config.queueEntries) && !s.earlier c e
  | .matrixEmpty => k.matQ.isEmpty && !s.accHeld c && !((s.ctx c).holdsAcc && s.takesAcc c)
  | .noTick => s.noTickOf c.sl
  | .syscall => (match x.sysreq with
    | some r => r.answer.isSome
    | none => true)
  | .revoke n => allDies.all (fun i => !s.live i n)
  | .engines d => !s.busyAt c d
  | .refresh _ g => !s.refreshing g
  | .writeback d => !((s.part (s.partOf c.sl)).writing.any (fun p => samePage p d))
  | .snoop n wr => (match Sparse.find? s.hostLines n with
    | some h => h.holders.isEmpty || (!wr && !h.excl)
    | none => true)
  | .ending => !s.busy c

/-- A context waits for something that has come. -/
def State.wakeable (s : State) (c : CtxId) : Bool :=
  match (s.ctx c).status with
  | .waiting w => s.waitMet c w
  | _ => false

/-- CONTEXT_WAKE (R338): what a context waits for has come. One that ends by DOUBLE_TRAP ends (R401); the barriers of a slot
whose condition has come to hold complete together (R348). -/
def execContextWake (c : CtxId) (s : State) : Host.Outcome State Fault Refusal :=
  s.on (s.wakeable c) (fun s =>
    match (s.ctx c).status, (s.ctx c).closing with
    | .waiting .ending, some (.double cause) => s.doubleEnd c cause.toNat
    | .waiting (.barrier _), _ => s.barrierSweep c.sl
    | .waiting (.join _ a), _ => s.joinDone c a
    | _, _ => s.modCtx c Ctx.wake)

/-! The ring of contexts (R339, R366). -/

/-- The next READY context of a slot after a number, round the ring. -/
def State.nextReady (s : State) (sl : SlotId) (last : Fin 11) : Option CtxId :=
  ((List.range 11).map (fun i => (⟨sl.core, sl.slot, last + 1 + Fin.ofNat 11 i⟩ : CtxId))).find?
    (fun c => (s.ctx c).status == .ready)

/-- The context of a slot that is ISSUING. -/
def State.issuer (s : State) (sl : SlotId) : Option CtxId := (ctxsOf sl).find? (fun c => (s.ctx c).status == .issuing)

/-- A context of a slot is READY or ISSUING, and the core issues for the slot (R369). -/
def State.slotRuns (s : State) (sl : SlotId) : Bool :=
  s.slotOn sl &&
    (ctxsOf sl).any (fun c => (s.ctx c).status == .ready || (s.ctx c).status == .issuing)

/-- The next slot that may hold issue after a slot, round the ring (R366). -/
def State.nextSlot (s : State) (core : Fin 4608) (after : Fin 4) : Option (Fin 4) :=
  ([after + 1, after + 2, after + 3, after] : List (Fin 4)).find? (fun k =>
    s.slotOn ⟨core, k⟩ && (ctxsOf ⟨core, k⟩).any (fun c => (s.ctx c).status == .ready))

/-- The first cycle in which a context can issue, for its core and for a handler that it has entered (R7, R402). -/
def State.issueAt (s : State) (c : CtxId) : Nat := max (s.core c.core).nextIssue (s.ctx c).notBefore

/-- The cycle at whose begin a slot has held issue for its LEN (R366). -/
def State.sliceEnd (s : State) (sl : SlotId) : Nat :=
  max s.cycle (s.slot sl).holdFrom + ((s.slot sl).sliceLen - (s.slot sl).used)

/-- The slot that holds issue has held it for its LEN before it issues again (R366). -/
def State.sliceOver (s : State) (sl : SlotId) : Bool :=
  s.slotRuns sl && (match (s.issuer sl).or (s.nextReady sl (s.slot sl).lastRun) with
    | some c => decide (s.sliceEnd sl ≤ max s.cycle (s.issueAt c))
    | none => false)

/-- The cycle at whose begin an ISSUING context has held issue for 4,096 held cycles (R340). -/
def State.heldEnd (s : State) (c : CtxId) : Nat := s.cycle + (Config.heldMax - (s.ctx c).held)

/-- An ISSUING context has held issue for 4,096 held cycles before it issues again (R340). -/
def State.heldOver (s : State) (c : CtxId) : Bool := decide (s.heldEnd c ≤ max s.cycle (s.issueAt c))

/-- Issue passes to a slot (R366, R368): a new slice from a cycle on; its commands thaw (R433); a drowsy bank wakes in 24 cycles.
What the core still waits for is that of the slot that it leaves, where its slice has ended. -/
def State.giveIssue (s : State) (core : Fin 4608) (k : Fin 4) (start : Nat) (ended : Bool) : State :=
  let q := s.slot ⟨core, k⟩
  let first := if q.drowsy then max start (q.waking.getD (start + 23)) else start
  let s := s.modCore core (fun q => { q with holds := k, nextIssue := if ended then first else max q.nextIssue first })
  s.modSlot ⟨core, k⟩ (fun q => { q with
    used := 0, sliced := false, drowsy := false, waking := none, heldAt := s.cycle, holdFrom := first })

/-- A context becomes ISSUING (R338, R339). -/
def State.issueTo (s : State) (c : CtxId) : State :=
  (s.modCtx c (fun x => { x with status := .issuing, held := 0 })).modSlot c.sl (fun q => { q with lastRun := c.ctx })

/-- The ISSUING context of a slot goes to READY. -/
def State.stepDown (s : State) (sl : SlotId) : State :=
  match s.issuer sl with
  | some c => s.modCtx c (fun x => { x with status := .ready })
  | none => s

/-- HELD_CYCLES_EXPIRE (R340): the next context issues in the cycle behind the 4,096th. -/
def execHeldCyclesExpire (c : CtxId) (s : State) : Host.Outcome State Fault Refusal :=
  s.on ((s.ctx c).status == .issuing && s.heldOver c) (fun s =>
    (s.modCtx c (fun x => { x with status := .ready, held := 0 })).modCore c.core (fun k =>
      { k with nextIssue := min k.nextIssue (s.heldEnd c) }))

/-- SLICE_EXPIRE (R366, R433): the slot that holds issue has held it for its LEN. -/
def execSliceExpire (core : Fin 4608) (s : State) : Host.Outcome State Fault Refusal :=
  let sl : SlotId := ⟨core, (s.core core).holds⟩
  s.on (s.sliceOver sl) (fun s =>
    let start := s.sliceEnd sl
    let s := s.stepDown sl
    match s.nextSlot core sl.slot with
    | some k => (s.modSlot sl (fun q => { q with sliced := k != sl.slot })).giveIssue core k start true
    | none => s)

/-- DROWSY (R368): 1,000 cycles without issue. -/
def execDrowsy (sl : SlotId) (s : State) : Host.Outcome State Fault Refusal :=
  s.on ((s.core sl.core).holds != sl.slot && decide ((s.slot sl).heldAt + 1000 ≤ s.cycle))
    (fun s => s.modSlot sl (fun q => { q with drowsy := true }))

/-- A register of a slot is read from outside (R368): a drowsy bank begins to wake; the read is done when it is awake. -/
def State.wakeBank (s : State) (sl : SlotId) (f : State → State) : State :=
  let q := s.slot sl
  match q.drowsy, q.waking with
  | false, _ => f s
  | true, none => s.setSlot sl { q with waking := some (s.cycle + 24) }
  | true, some n => if n ≤ s.cycle then f (s.setSlot sl { q with drowsy := false, waking := none, heldAt := s.cycle }) else s

/-! Belayed and parked contexts (R342, R350). -/

/-- What a context watches. -/
def Ctx.watching (x : Ctx) : Option Watch :=
  match x.status with
  | .belayed w => some w
  | .parked w => some w
  | _ => none

/-- BELAY_WAKE (R342): the watched granule was written. A parked context loads its word again when it issues. -/
def execBelayWake (c : CtxId) (s : State) : Host.Outcome State Fault Refusal :=
  let hit := match (s.ctx c).watching with
    | some w => w.monitored && w.hit
    | none => false
  s.on hit (fun s => s.modCtx c (fun x => { x with status := x.awake }))

/-- A watching context goes on watching, from a word read in this cycle. -/
def Ctx.watchOn (x : Ctx) (now : Nat) : Ctx :=
  match x.status with
  | .belayed w => { x with status := .belayed { w with readAt := now } }
  | .parked w => { x with status := .parked { w with readAt := now } }
  | _ => x

/-- BELAY_RECHECK (R342): every 2,048 cycles the core loads an unmonitored word again; a new value makes the context READY. -/
def execBelayRecheck (c : CtxId) (s : State) : Host.Outcome State Fault Refusal :=
  match (s.ctx c).watching with
  | none => .next s
  | some w =>
    s.on (!w.monitored && decide (w.readAt + 2048 ≤ s.cycle)) (fun s => s.modCtx c (fun x =>
      if BitVec.ofNat 128 (s.readNat w.loc w.size) != w.value then { x with status := x.awake } else x.watchOn s.cycle))

/-! Phases (R335). -/

/-- PHASE_COMPLETE (R335): the phase that DMn's domain closes next completes, if its members have arrived and the counts of
its tag are 0. -/
def execPhaseComplete (c : CtxId) (n : Fin 6) (s : State) : Host.Outcome State Fault Refusal :=
  let d := (s.ctx c).domReg n.val
  s.on ((s.ctx c).live && d.valid) (fun s => s.phaseSweep (s.partOf c.sl) c.slot d 1)

end Sys2Proof.Machine
end

