-- ==== Sys2Proof/Machine/Integrator.lean ====
section
/-! DEFINITION. Machine/Integrator.lean: the event integrator of a core (R291 to R318, R436, R437): events and their keys, their
delivery, leak, integration, fan-out and drain, ticks, EPOSTV, the steps of the integrator, and its eight instructions. -/
namespace Sys2Proof.Machine
open Sys2Proof

/-! Events (R295, R297). -/

/-- TS. -/
def QEvent.ts (e : QEvent) : BitVec 32 := e.header.extractLsb' 32 32
/-- NEURON. -/
def QEvent.neuron (e : QEvent) : Nat := (e.header.extractLsb' 8 8).toNat
/-- A cluster above 143, or reserved bits that are not zero (R313). -/
def badHeader (h : W64) : Bool := h.extractLsb' 0 8 != 0 || decide (143 < (h.extractLsb' 22 8).toNat)
/-- The core that a header names (R295). -/
def headerCore (h : W64) : Fin 4608 :=
  Fin.ofNat 4608 ((h.extractLsb' 30 2).toNat * 1152 + (h.extractLsb' 22 8).toNat * 8 + (h.extractLsb' 19 3).toNat)
/-- A neuron in the layout of event bits [95:64] (R305). -/
def neuronId (core : Fin 4608) (bank n : Nat) : Nat :=
  core.val / 1152 * 2 ^ 30 + core.val % 1152 / 8 * 2 ^ 22 + core.val % 8 * 2 ^ 19 + bank * 2 ^ 16 + n * 2 ^ 8

/-- One source sequence precedes another (R297): the context, then the counts as serial numbers. -/
def seqBefore (a b : BitVec 32) : Bool :=
  let x := a.extractLsb' 28 4
  let y := b.extractLsb' 28 4
  if x ≠ y then decide (x.toNat < y.toNat)
  else
    let d := (b.extractLsb' 0 28 - a.extractLsb' 0 28).toNat
    if d = 2 ^ 27 then Config.tieFirst a b else decide (1 ≤ d ∧ d < 2 ^ 27)

/-- One event precedes another in key order (R297). -/
def QEvent.before (a b : QEvent) : Bool :=
  if a.ts ≠ b.ts then decide (a.ts.toNat < b.ts.toNat)
  else if a.core ≠ b.core then decide (a.core.val < b.core.val)
  else seqBefore a.seq b.seq

/-- Put an event into a list in key order. -/
def insertEvent (e : QEvent) : List QEvent → List QEvent
  | [] => [e]
  | x :: r => if e.before x then e :: x :: r else x :: insertEvent e r
/-- Events in key order. -/
def sortEvents : List QEvent → List QEvent
  | [] => []
  | e :: r => insertEvent e (sortEvents r)

/-! Delivery (R296, R298, R309). -/

/-- Entries of a core's queue (R298). -/
def eventQueue : Nat := 1024
/-- Entries of a slot's overflow area (R298). -/
def eventOverflow : Nat := 65536

/-- A count of ESTAT goes up and stops at 65,535 (R317). -/
def countUp (n : BitVec 16) : BitVec 16 := if n = 0xFFFF then n else n + 1
/-- LOST of a slot goes up. -/
def State.loseEvent (s : State) (sl : SlotId) : State := s.modSlot sl (fun q => { q with lost := countUp q.lost })

/-- The slot of a partition on a core that holds a bank (R296). -/
def State.bankSlot (s : State) (part : Fin 64) (core : Fin 4608) (bank : Nat) : Option SlotId :=
  ((allSlots.map (fun k => (⟨core, k⟩ : SlotId))).find? (fun t => match s.heldBind part t with
    | some b => b.banks.getLsbD bank
    | none => false))

/-- An event reaches its core: it is enqueued, or discarded because no slot takes it or it is late; none where it is refused:
both places are full, or the slot is being evicted or is evicted (R296, R298, R310). An entry of the overflow area is 32 bytes
whose form the spec does not give (assumption log 14). -/
def State.takeEvent (s : State) (part : Fin 64) (core : Fin 4608) (e : QEvent) : Option State :=
  match s.bankSlot part core e.bank with
  | none => some s
  | some t =>
    if s.present part t = false then none
    else if decide (e.ts.toNat < (s.slot t).time.toNat) then some (s.modSlot t (fun q => { q with late := countUp q.late }))
    else if (s.core core).events.length < eventQueue then
      some (s.modCore core (fun k => { k with events := k.events ++ [e] }))
    else if (s.slot t).evtOvf.length < eventOverflow then
      let q := s.slot t
      some ((s.scribble (.hbm (q.bind.save.toNat + 0x200000 + 32 * q.evtOvf.length)) 32).setSlot t { q with evtOvf := q.evtOvf ++ [e] })
    else none

/-- An event sets out for its core (R309). -/
def State.sendEvent (s : State) (c : CtxId) (e : QEvent) (tag : Fin 4) (op : Option Nat) (counted retry : Bool) : State :=
  let t := headerCore e.header
  let m : EvMsg :=
    { ev := e, part := s.partOf c.sl, target := t, ctx := c, tag := tag, op := op, seq := s.nextSeq, retry := retry
      counted := counted, arrived := none }
  let s := if counted then s.modCtx c (fun x => x.setCount tag (x.count tag + 1)) else s
  { s.enframe c.core (.localStore t 0 0 0) s.nextSeq .event tag with evmsgs := s.evmsgs ++ [m], nextSeq := s.nextSeq + 1 }

/-- What a context's event carries: the header, the payload, its core and its source sequence (R297). -/
def State.eventOf (s : State) (c : CtxId) (h p : W64) : QEvent :=
  ⟨h, p, c.core, BitVec.ofNat 32 (c.ctx.val * 2 ^ 28 + (s.ctx c).evtSeq.toNat)⟩

/-- The own core of a context refuses an event (R296, R298). -/
def State.postRefused (s : State) (c : CtxId) (h p : W64) : Bool :=
  headerCore h == c.core && h.extractLsb' 32 32 != BitVec.allOnes 32
    && (s.takeEvent (s.partOf c.sl) c.core (s.eventOf c h p)).isNone

/-- The post of an event adds to the unacknowledged count (R309): it goes to another core, or an engine's to its own core is
refused there. -/
def State.postCounts (s : State) (c : CtxId) (h p : W64) (engine : Bool) : Bool :=
  headerCore h != c.core || (engine && s.postRefused c h p)

/-- Post an event of a context (R296, R297, R309, R313); one stamped 0xFFFF_FFFF is not sent and counts in LOST. A post of an
instruction to its own core is not counted: where it is refused the context waits for it (assumption log 22). -/
def State.postEvent (s : State) (c : CtxId) (h p : W64) (tag : Fin 4) (op : Option Nat) : State :=
  if h.extractLsb' 32 32 = BitVec.allOnes 32 then s.loseEvent c.sl
  else
    let e := s.eventOf c h p
    let t := s.modCtx c (fun x => { x with evtSeq := x.evtSeq + 1 })
    if headerCore h = c.core then
      match t.takeEvent (t.partOf c.sl) c.core e with
      | some u => u
      | none => t.sendEvent c e tag op op.isSome true
    else t.sendEvent c e tag op true false

/-- The arrival count rises for an event that its destination has taken (R106, R309); one that is not counted is done. -/
def State.tookEvent (s : State) (n : Nat) (m : EvMsg) : State :=
  if m.counted then
    let k := arrivalKey m.ctx m.tag m.target.val
    let a := Sparse.get 0 s.arrivals k + 1
    { s with arrivals := Sparse.put s.arrivals k a, evmsgs := s.evmsgs.set n { m with arrived := some a } }
  else { s with evmsgs := s.evmsgs.eraseIdx n }

/-- EVENT_DELIVER (R296, R298, R309, R310): the n-th event under way reaches its core; a refused one is answered with a retry
reply. A context's events and stores to one core arrive in their order (R106). -/
def execEventDeliver (n : Nat) (s : State) : Host.Outcome State Fault Refusal :=
  match s.evmsgs[n]? with
  | none => .next s
  | some m =>
    let first := !m.counted || (!s.olderEvent m.ctx m.target.val m.seq && !s.olderStore m.ctx m.target.val m.seq)
    s.on (m.arrived.isNone && !m.retry && s.crossed m.seq && first) (fun s =>
      match s.takeEvent m.part m.target m.ev with
      | some t => t.tookEvent n m
      | none => { s with evmsgs := s.evmsgs.set n { m with retry := true } })

/-! Numbers in the state format (R292, R302). -/

/-- The value of bits in a state format. -/
def stateVal (f : BitVec 2) (w : W64) : Val :=
  match f.toNat with
  | 0 => fp64.val w.toNat
  | 1 => fp32.val (w.toNat % 2 ^ 32)
  | _ =>
    let z := intOf 32 true (w.toNat % 2 ^ 32)
    .fin (decide (z < 0)) z.natAbs (-16) false

/-- An integer number of 2^-16, clamped to Q16.16, with the flags of R302. -/
def clampQ (z : Int) (inexact : Bool) : Nat × BitVec 5 :=
  if z < -(2 ^ 31) then (2 ^ 31, fOF ||| fNX)
  else if 2 ^ 31 - 1 < z then (2 ^ 31 - 1, fOF ||| fNX)
  else ((z % 2 ^ 32).toNat, if inexact then fNX else 0)

/-- round(v, SF, RNE) (R302): the bits and the flags. Q16.16 has no NaN and no infinity, and its sums and leaks give none. -/
def stateRound (f : BitVec 2) (v : Val) : W64 × BitVec 5 :=
  let p := match f.toNat with
    | 0 => fp64.round false 0 0 v
    | 1 => fp32.round false 0 0 v
    | _ =>
      match v with
      | .fin n m e st =>
        let g := onGrid 0 n m e (-16) st 0
        clampQ (if n then -(g.1 : Int) else (g.1 : Int)) g.2
      | .inf n => clampQ (if n then -(2 ^ 32) else 2 ^ 32) false
      | .nan _ => (0, fNV)
  (BitVec.ofNat 64 p.1, p.2)

/-- round(x + y, SF, RNE) with all its flags. -/
def stateAdd (f : BitVec 2) (x y : Val) : W64 × BitVec 5 :=
  let v := addV 0 x y
  let p := stateRound f v.1
  (p.1, v.2 ||| p.2)

/-- x is greater than y, neither being a NaN. -/
def above (x y : Val) : Bool := !x.isNan && !y.isNan && ltV y x

/-! Integration (R302, R303). -/

/-- The powers of a geometric leak (R302): p and b go on from their bits in FP64, for the exponent e, of at most `fuel` bits. -/
def leakPower : Nat → Nat → Nat → Nat → Nat × BitVec 5
  | 0, _, p, _ => (p, 0)
  | f + 1, e, p, b =>
    if e = 0 then (p, 0)
    else
      let mul : Nat → Nat → Nat × BitVec 5 := fun x y =>
        let v := mulV (fp64.val x) (fp64.val y)
        let r := fp64.round false 0 0 v.1
        (r.1, v.2 ||| r.2)
      let p1 := if e % 2 = 1 then mul p b else (p, 0)
      let b1 := if e / 2 > 0 then mul b b else (b, 0)
      let q := leakPower f (e / 2) p1.1 b1.1
      (q.1, p1.2 ||| b1.2 ||| q.2)

/-- leak(V, Δt) (R302). Where max meets a NaN its value is free. -/
def Bank.leakBy (b : Bank) (v : W64) (dt : Nat) : W64 × BitVec 5 :=
  match b.leak.toNat with
  | 0 => (v, 0)
  | 1 =>
    let rest := stateVal b.sfmt b.rest
    if above (stateVal b.sfmt v) rest then
      let d := mulV (stateVal b.sfmt b.leakp) (Val.ofInt dt)
      let s := addV 0 (stateVal b.sfmt v) d.1.negate
      let r := stateRound b.sfmt s.1
      let fl := d.2 ||| s.2 ||| r.2
      let x := stateVal b.sfmt r.1
      if x.isNan then ((if b.sfmt = 1 then (Config.leakMax b.rest v) &&& 0xFFFFFFFF else Config.leakMax b.rest v), fl)
      else if above rest x then (b.rest, fl)
      else (r.1, fl)
    else (v, 0)
  | _ =>
    let p := leakPower 32 dt 0x3FF0000000000000 b.leakp.toNat
    let m := mulV (stateVal b.sfmt v) (fp64.val p.1)
    let r := stateRound b.sfmt m.1
    (r.1, p.2 ||| m.2 ||| r.2)

/-- What an event does to a neuron: its entry after it, the flags, and Vf where it fires. -/
structure Struck where
  cell  : Neuron
  flags : BitVec 5
  fired : Option W64
deriving DecidableEq, Repr

/-- Integrate an event of payload `w` at tick t (R303), with NV for a signalling-NaN payload (R306). -/
def Bank.strike (b : Bank) (c : Neuron) (t : BitVec 32) (w : W64) : Struck :=
  let x := stateVal b.sfmt w
  let nv : BitVec 5 := if x.isSnan then fNV else 0
  if c.ft ∧ t = c.tlast then
    if b.refr ≠ 0 then ⟨c, nv, none⟩
    else
      let v := stateAdd b.sfmt (stateVal b.sfmt c.v) x
      ⟨{ c with v := v.1 }, nv ||| v.2, none⟩
  else if c.rc ≠ 0 ∧ t.toNat ≤ c.tlast.toNat + c.rc.toNat then ⟨c, nv, none⟩
  else
    let l := b.leakBy c.v (t.toNat - c.tlast.toNat)
    let v := stateAdd b.sfmt (stateVal b.sfmt l.1) x
    let fl := nv ||| l.2 ||| v.2
    let th := stateVal b.sfmt b.theta
    let now := stateVal b.sfmt v.1
    if b.act ≠ 0 ∧ now.isNan = false ∧ ltV now th = false then
      let r := if b.reset then stateAdd b.sfmt now th.negate else (b.rv, 0)
      ⟨⟨true, b.refr, t, r.1⟩, fl ||| r.2, some v.1⟩
    else ⟨⟨false, 0, t, v.1⟩, fl, none⟩

/-! Fan-out and drain (R304, R305). -/

/-- Records in the drain ring. -/
def Bank.held (b : Bank) : Nat := (b.tail - b.head).toNat
/-- The drain ring is full (R305). -/
def Bank.full (b : Bank) : Bool := decide (2 ^ b.drlog ≤ b.held)

/-- The entries of the list from an index on, each as 16 bytes (R304). -/
def State.fanFrom (s : State) (sl : SlotId) (b : Bank) : Nat → Nat → List Nat
  | 0, _ => []
  | f + 1, i =>
    if b.fonum ≤ i then []
    else
      let e := s.readNat (s.slotLoc sl (b.fobase.toNat + 512 + 16 * i)) 16
      if e % 2 = 1 then [e] else e :: State.fanFrom s sl b f (i + 1)

/-- The fan-out list of a neuron (R304). -/
def State.fanList (s : State) (sl : SlotId) (b : Bank) (n : Nat) : List Nat :=
  if b.fonum = 0 then []
  else
    let k := s.readNat (s.slotLoc sl (b.fobase.toNat + 2 * n)) 2
    if k = 0 then [] else s.fanFrom sl b b.fonum (k - 1)

/-- TARGET of an entry, as the low half of a header. -/
def fanTarget (e : Nat) : W64 := BitVec.ofNat 64 (e / 2 ^ 32 % 2 ^ 32)
/-- DELAY of an entry. -/
def fanDelay (e : Nat) : Nat := e / 2 ^ 16 % 2 ^ 16
/-- An entry that is skipped (R304). -/
def badEntry (e : Nat) : Bool := fanDelay e == 0 || e / 2 % 2 ^ 15 != 0 || badHeader (fanTarget e)
/-- The header that an entry gives at tick t, where its stamp is at most 0xFFFF_FFFE (R296). -/
def fanHeader (t e : Nat) : Option W64 :=
  if 0xFFFFFFFE < t + fanDelay e then none else some (BitVec.ofNat 64 ((t + fanDelay e) * 2 ^ 32) ||| fanTarget e)

/-- The integrator emits one entry of a fired neuron's list (R304, R437). -/
def State.emit (s : State) (o : OpHead) (t e : Nat) : State :=
  let sl := o.owner.sl
  let n := (s.slot sl).emitSeq
  let next : State → State := fun s => s.modSlot sl (fun q => { q with emitSeq := q.emitSeq + 1 })
  if badEntry e then next (s.loseEvent sl)
  else
    match fanHeader t e with
    | none => s.loseEvent sl
    | some h =>
      next (s.sendEvent o.owner ⟨h, BitVec.ofNat 64 (e / 2 ^ 64), sl.core, BitVec.ofNat 32 (15 * 2 ^ 28 + n.toNat)⟩ o.tag
        (some o.issued) false false)

/-- Write a drain record (R305). -/
def State.drain (s : State) (sl : SlotId) (n : Nat) (b : Bank) (t neuron : Nat) (vf : W64) : State :=
  let off := b.drbase.toNat + 16 * (b.tail.toNat % 2 ^ b.drlog)
  let rec_ := vf.toNat + (neuronId sl.core n neuron + t * 2 ^ 32) * 2 ^ 64
  (s.poke (s.slotLoc sl off) (bytesLE 16 rec_)).setBank sl.core n { b with tail := b.tail + 1 }

/-! Operations (R300, R314, R315). -/

/-- An event leaves the queue or the overflow area (R298). -/
def State.dropEvent (s : State) (sl : SlotId) (e : QEvent) : State :=
  if (s.core sl.core).events.contains e then s.modCore sl.core (fun k => { k with events := k.events.erase e })
  else s.modSlot sl (fun q => { q with evtOvf := q.evtOvf.erase e })

/-- The events of a slot's banks stamped t, in key order (R300). -/
def State.tickSet (s : State) (sl : SlotId) (t : BitVec 32) : List QEvent :=
  let banks := (s.slot sl).bind.banks
  sortEvents (((s.core sl.core).events.filter (fun e => banks.getLsbD e.bank) ++ (s.slot sl).evtOvf).filter (fun e => e.ts == t))

/-- Events that an operation has sent and whose fate its resolution waits for (R309). -/
def State.postsOut (s : State) (o : OpHead) : Bool := s.evmsgs.any (fun m => m.op == some o.issued && m.ctx == o.owner)

/-- The next event of a started tick (R303 to R305): where it fires into a full drain ring, the tick stands still before it. -/
def IntOp.event (o : IntOp) (s : State) (t : BitVec 32) (e : QEvent) (rest : List QEvent) : EngStep IntOp :=
  let sl := o.head.owner.sl
  let b := (s.core sl.core).bank e.bank
  let r := b.strike (b.cell e.neuron) t e.payload
  if r.fired.isSome && b.act.getLsbD 1 && b.full then .halt s { o with pause := some .drain }
  else
    let b := b.setCell e.neuron r.cell
    let s := (s.dropEvent sl e).setBank sl.core e.bank b
    let s := match r.fired with
      | none => s
      | some vf =>
        let s := if b.act.getLsbD 1 then s.drain sl e.bank b t.toNat e.neuron vf else s
        if b.act.getLsbD 0 then (s.fanList sl b e.neuron).foldl (fun u x => u.emit o.head t.toNat x) s else s
    .go s { o with events := rest, k := o.k + 1, head := o.head.raise r.flags, pause := none }

/-- One step of a tick (R315). -/
def IntOp.tickStep (o : IntOp) (s : State) (t : BitVec 32) : EngStep IntOp :=
  let sl := o.head.owner.sl
  match o.done with
  | some (st, k, r) =>
    if s.postsOut o.head then .halt s { o with pause := none } else .done s o (resultWord st.toNat k r) none
  | none =>
    if o.started = false then
      .go (s.modSlot sl (fun q => { q with time := t + 1 })) { o with started := true, events := s.tickSet sl t }
    else
      match o.events with
      | [] => .go s { o with done := some (0, o.k, 0) }
      | e :: rest =>
        if s.cancelAsked o.head then
          .go (s.modSlot sl (fun q => { q with time := t })) { o with done := some (BitVec.ofNat 16 cancelled, o.k, 0) }
        else o.event s t e rest

/-- The operation will resolve with a status at ordinal k, once its posts are acknowledged (R314). -/
def IntOp.stop (o : IntOp) (s : State) (status k reason : Nat) : EngStep IntOp :=
  .go s { o with done := some (BitVec.ofNat 16 status, k, reason), pause := none }

/-- The kick of an EPOSTV (R155, R314): its format must be EVT. -/
def IntOp.kick (o : IntOp) (s : State) (sh : Shape) : EngStep IntOp :=
  if o.n = 0 then .go s { o with started := true }
  else if sh.chan.isSome then o.stop s faultFormat 0 0
  else
    match s.kickFmt o.head false sh with
    | .ok f => if f.code = 28 ∧ f.blk = 0 then .go s { o with started := true, fmt := some f, pause := none } else o.stop s faultFormat 0 0
    | .fail st r _ => o.stop s st 0 r
    | .halt p => .halt (s.pauseFor o.head p).1 { o with head := (s.pauseFor o.head p).2, pause := some p }
    | _ => .halt s o

/-- The event of 16 bytes is posted as EPOST would post it (R104, R313, R314). -/
def IntOp.post (o : IntOp) (s : State) (bs : List Byte) : EngStep IntOp :=
  let c := o.head.owner
  let h := BitVec.ofNat 64 (numAt bs 8 8)
  let p := BitVec.ofNat 64 (numAt bs 0 8)
  if badHeader h then o.stop s faultShape o.k 0
  else if h.extractLsb' 32 32 ≠ BitVec.allOnes 32 ∧ s.postCounts c h p true = true ∧ Config.uscMax ≤ (s.ctx c).usc then
    .halt s { o with pause := some .usc }
  else .go (s.postEvent c h p o.head.tag (some o.head.issued)) { o with k := o.k + 1, pause := none }

/-- One step of an EPOSTV (R314). -/
def IntOp.postStep (o : IntOp) (s : State) (sh : Shape) : EngStep IntOp :=
  match o.done with
  | some (st, k, r) =>
    if s.postsOut o.head then .halt s { o with pause := none } else .done s o (resultWord st.toNat k r) none
  | none =>
    if s.cancelAsked o.head && decide (o.k < o.n) then o.stop s cancelled o.k 0
    else
      match o.pause with
      | some (.refused _ r) => o.stop s faultPage o.k r.code
      | pz =>
        if (match pz with | some q => q.stuck | none => false) then .halt s o
        else if o.started = false then o.kick s sh
        else if o.n ≤ o.k then o.stop s 0 o.n 0
        else
          match s.elem o.head false false (fun f => f.unit == 16) anywhere sh 16 o.k with
          | .ok ps => o.post (s.seePieces ps) (s.getPieces ps)
          | .zero => o.post s (List.replicate 16 0)
          | .drop => .go s { o with k := o.k + 1, pause := none }
          | .fail st r _ => o.stop s st o.k r
          | .halt p => .halt (s.pauseFor o.head p).1 { o with head := (s.pauseFor o.head p).2, pause := some p }
          | .stay => .halt s o

/-- One step of an integrator operation. -/
def intStep (s : State) (o : IntOp) : EngStep IntOp :=
  (match o.kind with
    | .tick t => o.tickStep s t
    | .postv sh => o.postStep s sh).past (fun o => { o with head := o.head.over })

/-- Put the head operation back, or take it out. -/
def State.setIntHead (s : State) (core : Fin 4608) (o : Option IntOp) : State :=
  s.modCore core (fun k => { k with intQ := match k.intQ, o with
    | _ :: r, some p => p :: r
    | _ :: r, none => r
    | [], _ => [] })

/-- Run the head operation of a core's integrator for a number of steps. -/
def State.runInt (s : State) (core : Fin 4608) (fuel : Nat) : State :=
  match (s.core core).intQ with
  | [] => s
  | o :: _ =>
    match runOp intStep fuel s o with
    | .go t p => t.setIntHead core (some p)
    | .halt t p => t.setIntHead core (some p)
    | .done t p w d => (t.setIntHead core none).resolveOp p.head true w d

/-- The operation is a tick. -/
def IntOp.isTick (o : IntOp) : Bool := match o.kind with | .tick _ => true | .postv _ => false

/-- ETICK_START (R300, R303, R315): the tick at the head of the queue fixes TIME and its event set and integrates its events,
as far as its drain rings take them. -/
def execEtickStart (core : Fin 4608) (s : State) : Host.Outcome State Fault Refusal :=
  match (s.core core).intQ with
  | [] => .next s
  | o :: _ => s.on (o.isTick && !o.started) (fun s =>
      s.runInt core ((s.core core).events.length + (s.slot o.head.owner.sl).evtOvf.length + 2))

/-- TICK_DRAIN_RESUME (R305): the tick goes on once EDRAIN has freed a place. -/
def execTickDrainResume (core : Fin 4608) (s : State) : Host.Outcome State Fault Refusal :=
  match (s.core core).intQ with
  | [] => .next s
  | o :: _ => s.on (o.isTick && o.started && o.pause == some .drain) (fun s => s.runInt core (o.events.length + 1))

/-- ETICK_RESOLVE (R309, R315): the tick is over, or cancelled; it resolves once its emissions are enqueued or discarded. -/
def execEtickResolve (core : Fin 4608) (s : State) : Host.Outcome State Fault Refusal :=
  match (s.core core).intQ with
  | [] => .next s
  | o :: _ => s.on (o.isTick && o.started) (fun s => s.runInt core (o.events.length + 3))

/-- EPOSTV_RESOLVE (R314): the operation posts its events and resolves once they are acknowledged, as far as it comes. -/
def execEpostvResolve (core : Fin 4608) (s : State) : Host.Outcome State Fault Refusal :=
  match (s.core core).intQ with
  | [] => .next s
  | o :: _ => s.on (!o.isTick) (fun s => s.runInt core (o.n - o.k + 4))

/-! The instructions (R311 to R318). -/

/-- A bank word: a bank that the slot holds, else the trap of R311. -/
def needBank (iw : W64) (v : W64) : M Nat := do
  let s ← get
  let c ← who
  if v >>> 3 ≠ 0 ∨ (s.slot c.sl).bind.banks.getLsbD (v.toNat % 8) = false then raise .illegalOperand iw
  else pure (v.toNat % 8)

/-- Wait until no ETICK of the slot is unresolved (R311). -/
def noTick : M Unit := do
  let s ← get
  let c ← who
  if s.noTickOf c.sl then pure () else pause .noTick

/-- The configuration that 64 bytes hold (R293), every entry at T_LAST = `time` (R312). -/
def bankOf64 (bs : List Byte) (time : BitVec 32) : Bank :=
  let w : Nat → W64 := fun i => BitVec.ofNat 64 (numAt bs i 8)
  let ctrl := w 0
  { refr := ctrl.extractLsb' 48 16, drlog := (ctrl.extractLsb' 8 4).toNat, act := ctrl.extractLsb' 6 2
    reset := ctrl.getLsbD 5, leak := ctrl.extractLsb' 2 2, sfmt := ctrl.extractLsb' 0 2
    theta := w 8, rest := w 16, rv := w 24, leakp := w 32
    fobase := BitVec.ofNat 18 (numAt bs 40 4), fonum := numAt bs 44 4, drbase := BitVec.ofNat 18 (numAt bs 48 4)
    cells := (List.range 256).map (fun i => (i, ⟨false, 0, time, 0⟩)), head := 0, tail := 0 }

/-- An area of a slot of a size is misaligned or does not lie below the size (R294). -/
def areaBad (base len size : Nat) : Bool := base % 16 != 0 || decide (size < base + len)

/-- A record that R294 refuses, for a slot of `size` bytes. -/
def bankBad (bs : List Byte) (b : Bank) (size : Nat) : Bool :=
  let ctrl := numAt bs 0 8
  let vals := [b.theta, b.rest, b.rv] ++ (if b.leak = 1 then [b.leakp] else [])
  let lam := fp64.val b.leakp.toNat
  ctrl / 2 ^ 12 % 2 ^ 36 != 0 || ctrl / 16 % 2 != 0 || numAt bs 52 12 != 0
    || numAt bs 40 4 / 2 ^ 18 != 0 || numAt bs 48 4 / 2 ^ 18 != 0
    || (b.sfmt != 0 && vals.any (fun v => v >>> 32 != 0))
    || (b.leak == 0 && b.leakp != 0)
    || b.sfmt == 3 || b.leak == 3 || b.drlog == 1 || b.drlog == 2 || decide (13 ≤ b.drlog)
    || (b.act.getLsbD 1 && b.drlog == 0)
    || decide (4096 < b.fonum)
    || (b.fonum != 0 && areaBad b.fobase.toNat (512 + 16 * b.fonum) size)
    || (b.drlog != 0 && areaBad b.drbase.toNat (16 * 2 ^ b.drlog) size)
    || (b.sfmt != 2 && vals.any (fun v => (stateVal b.sfmt v).isNan))
    || (b.leak == 1 && ltV (stateVal b.sfmt b.leakp) (Val.zero false))
    || (b.leak == 2 && (lam.isNan || ltV lam (Val.zero false) || ltV (Val.ofInt 1) lam))

/-- ECFG (R293, R294, R312). -/
def execEcfg (a : GReg) (b : RegCode) (s : State) : Host.Outcome State Fault Refusal :=
  let i : Instr := .ecfg a b
  run i [b] [b] (do
    let c ← who
    let cap ← greg a
    let p ← record cap ⟨[permL], .read, false, 64, 64, false⟩ cap.lo
    let v ← readData b
    let n ← needBank (Instr.word i) v
    noTick
    let t ← get
    let bs := t.readBytes p.loc 64
    let k := bankOf64 bs (t.slot c.sl).time
    if bankBad bs k (t.slot c.sl).bind.size then raise .shapeInvalid cap.lo
    else do
      set (t.setBank c.core n k)
      pure .next) s

/-- EPOST (R313): a post that its own core refuses is enqueued before the next instruction issues (R309): the context waits for
that. -/
def execEpost (a b : RegCode) (s : State) : Host.Outcome State Fault Refusal :=
  let i : Instr := .epost a b
  run i [a, b] [a, b] (do
    let h ← readData a
    let p ← readData b
    if badHeader h then raise .illegalOperand (Instr.word i)
    else do
      let t ← get
      let c ← who
      if h.extractLsb' 32 32 ≠ BitVec.allOnes 32 ∧ t.postCounts c h p false = true then countRoom else pure ()
      set (t.postEvent c h p (t.ctx c).phaseTag none)
      if t.postRefused c h p then edit (fun x => { x with status := .waiting .enqueued }) else pure ()
      pure .next) s

/-- Issue an integrator operation (R157, R160, R164, R309, R310). -/
def issueInt (d : GReg) (kind : IntKind) (n : Nat) : M Flow := do
  queueRoom .integrator
  countRoom
  kickRelease
  let head ← issueHead true true
  let c ← who
  let s ← get
  let o : IntOp :=
    { head := head, kind := kind, started := false, events := [], k := 0, n := n, fmt := none, done := none, pause := none }
  set (s.modCore c.core (fun k => { k with intQ := k.intQ ++ [o] }))
  setG d head.reg
  pure .next

/-- EPOSTV (R314). -/
def execEpostv (d a : GReg) (s : State) : Host.Outcome State Fault Refusal :=
  run (.epostv d a) [] [] (do
    let sh ← readShape a
    issueInt d (.postv sh) sh.count) s

/-- ETICK (R315). -/
def execEtick (d : GReg) (a : RegCode) (s : State) : Host.Outcome State Fault Refusal :=
  let i : Instr := .etick d a
  run i [a] [a] (do
    let v ← readData a
    let t ← get
    let c ← who
    let time := (t.slot c.sl).time
    if v >>> 32 ≠ 0 then raise .illegalOperand (Instr.word i)
    else if t.noTickOf c.sl = false ∨ v.setWidth 32 ≠ time ∨ v.setWidth 32 = BitVec.allOnes 32 then
      raise .illegalOperand (time.setWidth 64)
    else issueInt d (.tick (v.setWidth 32)) 0) s

/-- HEAD and TAIL of a bank, as EDRAIN and ERD give them (R316, R317). -/
def Bank.ends (b : Bank) : W64 := b.head.setWidth 64 <<< 32 ||| b.tail.setWidth 64

/-- EDRAIN (R316). -/
def execEdrain (d a b : RegCode) (s : State) : Host.Outcome State Fault Refusal :=
  let i : Instr := .edrain d a b
  run i [a, b] [d, a, b] (do
    let v ← readData a
    let n ← readData b
    let k ← needBank (Instr.word i) v
    if n >>> 32 ≠ 0 then raise .illegalOperand (Instr.word i)
    else do
      let t ← get
      let c ← who
      let q := (t.core c.core).bank k
      let q := if n.toNat ≤ q.held then { q with head := q.head + n.setWidth 32 } else q
      set (t.setBank c.core k q)
      writeData (Instr.word i) d q.ends
      pure .next) s

/-- A neuron address: SEL, bank, neuron (R311). -/
structure NeuronAddr where
  sel    : Nat
  bank   : Nat
  neuron : Nat
deriving DecidableEq, Repr

/-- A neuron address, with its must-be-zero parts (R311, R317). SEL 2 addresses the slot and no bank. -/
def needNeuron (iw : W64) (v : W64) : M NeuronAddr := do
  let s ← get
  let c ← who
  let a : NeuronAddr := ⟨v.toNat / 2 ^ 12 % 4, v.toNat / 2 ^ 8 % 8, v.toNat % 2 ^ 8⟩
  if v >>> 14 ≠ 0 ∨ v.getLsbD 11 = true then raise .illegalOperand iw
  else if a.sel = 2 then if a.bank ≠ 0 ∨ a.neuron ≠ 0 then raise .illegalOperand iw else pure a
  else if a.sel = 3 ∧ a.neuron ≠ 0 then raise .illegalOperand iw
  else if (s.slot c.sl).bind.banks.getLsbD a.bank = false then raise .illegalOperand iw
  else pure a

/-- ESTAT of a slot (R317). -/
def Slot.estat (q : Slot) : W64 :=
  q.late.setWidth 64 <<< 48 ||| q.lost.setWidth 64 <<< 32 ||| BitVec.ofNat 64 (min q.evtOvf.length 65535 * 2 ^ 16)
    ||| q.bind.banks.setWidth 64

/-- V in register form (R317). -/
def Bank.shown (b : Bank) (n : Nat) : W64 :=
  let v := (b.cell n).v
  match b.sfmt.toNat with
  | 0 => v
  | 1 => box32 (v.toNat % 2 ^ 32)
  | _ => sx32 v

/-- The word of SEL 1 (R317). -/
def Neuron.word (c : Neuron) : W64 :=
  (if c.ft then 0x8000000000000000 else 0) ||| c.rc.setWidth 64 <<< 32 ||| c.tlast.setWidth 64

/-- ERD (R317): SEL 0 and 1 wait for the slot's tick. -/
def execErd (d a : RegCode) (s : State) : Host.Outcome State Fault Refusal :=
  let i : Instr := .erd d a
  run i [a] [d, a] (do
    let v ← readData a
    let n ← needNeuron (Instr.word i) v
    if n.sel ≤ 1 then noTick else pure ()
    let t ← get
    let c ← who
    let b := (t.core c.core).bank n.bank
    writeData (Instr.word i) d (match n.sel with
      | 0 => b.shown n.neuron
      | 1 => (b.cell n.neuron).word
      | 2 => (t.slot c.sl).estat
      | _ => b.ends)
    pure .next) s

/-- EWR (R317). -/
def execEwr (d a b : RegCode) (s : State) : Host.Outcome State Fault Refusal :=
  let i : Instr := .ewr d a b
  run i [a, b] [d, a, b] (do
    let v ← readData a
    let x ← readData b
    let n ← needNeuron (Instr.word i) v
    if 2 ≤ n.sel then raise .illegalOperand (Instr.word i)
    else do
      noTick
      let t ← get
      let c ← who
      let k := (t.core c.core).bank n.bank
      let cell := k.cell n.neuron
      if n.sel = 0 then do
        set (t.setBank c.core n.bank (k.setCell n.neuron { cell with v := if k.sfmt = 0 then x else x &&& 0xFFFFFFFF }))
        writeData (Instr.word i) d (k.shown n.neuron)
        pure .next
      else if x.extractLsb' 48 15 ≠ 0 ∨ (t.slot c.sl).time.toNat < (x.extractLsb' 0 32).toNat then
        raise .illegalOperand (Instr.word i)
      else do
        set (t.setBank c.core n.bank (k.setCell n.neuron
          { cell with ft := x.getLsbD 63, rc := x.extractLsb' 32 16, tlast := x.extractLsb' 0 32 }))
        writeData (Instr.word i) d cell.word
        pure .next) s

/-- Post the entries of a list from the j-th on, `sent` events having gone (R104, R318): waiting for the count to fall, or for a
post that the own core refuses (R309), keeps the posts made. -/
def fanOut (iw : W64) (d : RegCode) (c : CtxId) (t : Nat) : List Nat → Nat → Nat → State → Except Stop (Flow × State)
  | [], j, sent, s =>
    let s := s.modCtx c (fun x => { x with fan := some (j, sent) })
    match writeData iw d (BitVec.ofNat 64 sent) s with
    | .ok (_, u) => .ok (.next, u)
    | .error (.wait w) => .ok (.hold w, s)
    | .error e => .error e
  | e :: r, j, sent, s =>
    if badEntry e then fanOut iw d c t r (j + 1) sent (s.loseEvent c.sl)
    else
      match fanHeader t e with
      | none => fanOut iw d c t r (j + 1) sent (s.loseEvent c.sl)
      | some h =>
        let p := BitVec.ofNat 64 (e / 2 ^ 64)
        if s.postCounts c h p false = true ∧ Config.uscMax ≤ (s.ctx c).usc then
          .ok (.hold .uscRoom, s.modCtx c (fun x => { x with fan := some (j, sent) }))
        else if s.postRefused c h p then
          .ok (.hold (.ownPosts c.core.val),
            (s.postEvent c h p (s.ctx c).phaseTag none).modCtx c (fun x => { x with fan := some (j + 1, sent + 1) }))
        else fanOut iw d c t r (j + 1) (sent + 1) (s.postEvent c h p (s.ctx c).phaseTag none)

/-- EFAN (R318). A destination that cannot take the result traps before the first post (R46). -/
def execEfan (d a b : RegCode) (s : State) : Host.Outcome State Fault Refusal :=
  let i : Instr := .efan d a b
  run i [a, b] [d, a, b] (do
    let v ← readData a
    let t ← readData b
    let n ← needNeuron (Instr.word i) v
    if n.sel ≠ 0 ∨ t >>> 32 ≠ 0 then raise .illegalOperand (Instr.word i)
    else do
      let x ← me
      if x.fan.isNone then do
        mayWrite (Instr.word i) d
        keepPlace (Instr.word i) d
      else pure ()
      let c ← who
      let u ← get
      let done := x.fan.getD (0, 0)
      let list := u.fanList c.sl ((u.core c.core).bank n.bank) n.neuron
      fanOut (Instr.word i) d c t.toNat (list.drop done.1) done.1 done.2) s

end Sys2Proof.Machine
end

