-- ==== Sys2Proof/Machine/Matrix.lean ====
section
/-! DEFINITION. Machine/Matrix.lean: the matrix array of a cluster (R261 to R290, R433 to R435): formats and panels, the tile
step, the commands and their queue, TILE_STEP, MATRIX_RESOLVE, and the instructions MMA, MMAS and MCTL. -/
namespace Sys2Proof.Machine
open Sys2Proof

/-! Classes (R261, R262). -/

/-- The classes of operand formats. -/
inductive MatClass where
  | f64 | f32 | f16 | f8 | f4 | spl | i8 | i4
deriving DecidableEq, Repr

/-- The class of a format (R261): the list is whole, and RAW8 is not in it. -/
def Fmt.matClass (f : Fmt) : Option MatClass :=
  match f.n with
  | 9 => some .f64
  | 10 => some .f32
  | 11 | 12 => some .f16
  | 13 | 14 | 15 | 16 | 21 | 22 | 23 | 24 | 26 => some .f8
  | 17 | 25 => some .f4
  | 19 | 20 => some .spl
  | 1 | 2 => some .i8
  | 18 => some .i4
  | _ => none

/-- How a tile step adds (R269): the F64 and F32 cases, the block sum, integers. -/
inductive TileOp where
  | f64 | f32 | block | int
deriving DecidableEq, Repr

/-- The pairing of the classes of A and B (R262). -/
def pairing (a b : MatClass) : Option TileOp :=
  match a, b with
  | .f64, .f64 => some .f64
  | .f32, .f32 => some .f32
  | .f16, .f16 | .f16, .f8 | .f16, .f4 | .f16, .spl => some .block
  | .f8, .f16 | .f8, .f8 | .f8, .f4 | .f8, .spl => some .block
  | .f4, .f16 | .f4, .f8 | .f4, .f4 | .f4, .spl => some .block
  | .i8, .i8 | .i8, .i4 | .i4, .i8 | .i4, .i4 => some .int
  | _, _ => none

/-- TILE and SAT fit the case (R262). -/
def TileOp.fits (k : TileOp) (tile : Nat) (sat : Bool) : Bool :=
  (tile == 3) == (k == .f64) && (!sat || k == .int)

/-- How formats A and B pair. -/
def pairOf (a b : Fmt) : Option TileOp :=
  match a.matClass, b.matClass with
  | some x, some y => pairing x y
  | _, _ => none

/-! Elements held between steps: the bits of an element and the scale byte of its block, as one number. -/

/-- An element with its scale byte. -/
def withByte (bits scale : Nat) : Nat := bits + scale * 2 ^ 64
/-- Its value in a format. -/
def heldNum (code e : Nat) : Num := fmtNum code (e % 2 ^ 64) (e / 2 ^ 64)
/-- Its bits are not all zeros (R265). -/
def heldLive (e : Nat) : Bool := e % 2 ^ 64 != 0
/-- Element j of a unit, held. -/
def Fmt.held (f : Fmt) (u j : Nat) : Nat := withByte (f.element u j) (if f.blocked then f.scaleByte u else 0)

/-! The tile step (R269). -/

/-- The exact sum of the products of a K-block, and NV for a signalling NaN operand, for ∞·0 and for +∞ with −∞. −0 only if
every product is −0. -/
def blockSum (as bs : List Val) : Val × BitVec 5 :=
  let ps : List (Val × BitVec 5) := as.zipWith mulV bs
  let clash := ps.any (fun p => p.1 == .inf false) && ps.any (fun p => p.1 == .inf true)
  let fl : BitVec 5 := ps.foldl (fun f p => f ||| p.2) (if clash then fNV else 0)
  if clash || ps.any (fun p => p.1.isNan) then (.nan false, fl)
  else
    match ps with
    | [] => (Val.zero false, fl)
    | p :: r => (r.foldl (fun s q => (addV 0 s q.1).1) p.1, fl)

/-- An accumulator after a K-block's fused multiply-adds in ascending k (R269). -/
def fusedSum (f : FFmt) : Nat → List (Val × Val) → Nat × BitVec 5
  | c, [] => (c, 0)
  | c, (a, b) :: r =>
    let v := fmaV 0 false a b (f.val c)
    let p := f.round false 0 0 v.1
    let q := fusedSum f p.1 r
    (q.1, v.2 ||| p.2 ||| q.2)

/-- The exact integer sum of the products of a K-block. -/
def intSum : List Num → List Num → Int
  | .int a :: as, .int b :: bs => a * b + intSum as bs
  | _ :: as, _ :: bs => intSum as bs
  | _, _ => 0

/-- One accumulator after a tile step (R269). -/
def stepElem (k : TileOp) (sat : Bool) (as bs : List Num) (c : Nat) : Nat × BitVec 5 :=
  match k with
  | .f64 => fusedSum fp64 c ((as.map Num.val).zip (bs.map Num.val))
  | .f32 => fusedSum fp32 c ((as.map Num.val).zip (bs.map Num.val))
  | .block =>
    let s := blockSum (as.map Num.val) (bs.map Num.val)
    if s.1.isNan then (fp32.cnan, s.2)
    else
      let v := addV 0 (fp32.val c) s.1
      let p := fp32.round false 0 0 v.1
      (p.1, s.2 ||| v.2 ||| p.2)
  | .int => (intToInt 32 true sat (intOf 32 true c + intSum as bs), 0)

/-- A row of accumulators after a tile step: one column of B for each. -/
def stepRow (k : TileOp) (sat : Bool) (as : List Num) : List (List Num) → List Nat → List Nat × BitVec 5
  | bs :: cols, c :: cs =>
    let p := stepElem k sat as bs c
    let q := stepRow k sat as cols cs
    (p.1 :: q.1, p.2 ||| q.2)
  | _, _ => ([], 0)

/-- A tile after a tile step: one row of A for each 32 accumulators. -/
def stepRows (k : TileOp) (sat : Bool) (cols : List (List Num)) : List (List Num) → List Nat → List Nat × BitVec 5
  | as :: rows, cs =>
    let p := stepRow k sat as cols (cs.take 32)
    let q := stepRows k sat cols rows (cs.drop 32)
    (p.1 ++ q.1, p.2 ||| q.2)
  | [], _ => ([], 0)

/-! Tiles (R267, R268). TILE: 0, 1, 2 for both, 3 for the FP64 tile. -/

/-- The bytes of an element of a tile. -/
def tileWidth (tile : Nat) : Nat := if tile = 3 then 8 else 4
/-- Where a tile begins in the set. -/
def tileOff (tile : Nat) : Nat := if tile = 1 then 4096 else 0

/-- The elements of a tile: 32 rows of 32. -/
def State.tile (s : State) (core : Fin 4608) (tile : Nat) : List Nat :=
  (List.range 1024).map (fun i => ofBytesLE (s.accRead core (tileOff tile + tileWidth tile * i) (tileWidth tile)))
/-- Write the elements of a tile. -/
def State.setTile (s : State) (core : Fin 4608) (tile : Nat) (vs : List Nat) : State :=
  s.accWrite core (tileOff tile) (vs.flatMap (bytesLE (tileWidth tile)))

/-- The tiles that a TILE field names. -/
def tilesOf (tile : Nat) : List Nat := if tile = 2 then [0, 1] else [tile]

/-- Dirty bits of a tile that is written (R268). -/
def AccOwn.dirty (a : AccOwn) (tile : Nat) : AccOwn :=
  { a with d0 := a.d0 || tile != 1, d1 := a.d1 || tile == 1 || tile == 3 }
/-- KIND of a tile that is written (R267). -/
def AccOwn.kinded (a : AccOwn) (tile : Nat) (int : Bool) : AccOwn :=
  match tile with
  | 3 => { a with f64 := true }
  | 1 => { a with f64 := false, k1 := int }
  | _ => { a with f64 := false, k0 := int }
/-- A tile holds I32. -/
def AccOwn.isInt (a : AccOwn) (tile : Nat) : Bool := if tile = 1 then a.k1 else a.k0 && tile == 0

/-! The weight buffer (R264 to R266). -/

/-- A region is granted to a partition (R264). -/
def Cluster.granted (u : Cluster) (part : Fin 64) (r : Nat) : Bool :=
  let b := ((if r < 8 then u.wbgrant0 else u.wbgrant1).extractLsb' (r % 8 * 8) 8).toNat
  decide (b / 128 = 1) && b % 64 == part.val
/-- Every region of a run is granted. -/
def Cluster.grantedAll (u : Cluster) (part : Fin 64) (first count : Nat) : Bool :=
  (List.range count).all (fun i => u.granted part (first + i))
/-- The valid panel that starts at a region. -/
def Cluster.panelAt (u : Cluster) (r : Nat) : Option Panel := u.panels.find? (fun p => p.region == r)
/-- Two runs of regions share one. -/
def overlaps (a n b m : Nat) : Bool := decide (a < b + m) && decide (b < a + n)
/-- The panels that occupy a run of regions become invalid (R266). -/
def Cluster.dropPanels (u : Cluster) (first count : Nat) : Cluster :=
  { u with panels := u.panels.filter (fun p => !overlaps p.region p.count first count) }

/-- The matrix commands of a cluster. -/
def State.matOps (s : State) (n : Fin 576) : List MatOp := (coresOf n).flatMap (fun c => (s.core c).matQ)
/-- The command loads a panel. -/
def MatOp.loads (o : MatOp) : Bool := match o.kind with | .mldb _ => true | _ => false
/-- The command is an MMA or MMAS. -/
def MatOp.multiplies (o : MatOp) : Bool := match o.kind with | .mma _ _ _ => true | _ => false
/-- An image command (R287). -/
def MatOp.isImage (o : MatOp) : Bool := match o.kind with | .imgStore _ => true | .imgLoad _ _ => true | _ => false
/-- A started MLDB of the cluster writes a region (R266). -/
def State.regionWritten (s : State) (n : Fin 576) (r : Nat) : Bool :=
  (s.matOps n).any (fun o => o.loads && o.started && overlaps o.first o.count r 1)
/-- A started command of the cluster reads a region of a run (R266). -/
def State.regionRead (s : State) (n : Fin 576) (first count : Nat) : Bool :=
  (s.matOps n).any (fun o => o.multiplies && o.started && overlaps o.first o.count first count)

/-- Bytes of scale with 32 elements of a column (R265). -/
def scaleBytes (f : Fmt) : Nat := if f.blocked then (if f.block = 16 then 2 else 1) else 0
/-- Bytes of a dense block image (R265). -/
def denseImage (f : Fmt) : Nat := (32 * (4 * fmtWidth f.n + scaleBytes f) + 63) / 64 * 64
/-- Bytes of a sparse block image with a number of live vectors (R265). -/
def sparseImage (f : Fmt) (live : Nat) : Nat := (4 + live * (2 * fmtWidth f.n + 4 + scaleBytes f) + 63) / 64 * 64

/-! The words of a command (R282, R284 to R286). -/

/-- TILE. -/
def wordTile (w : W64) : Nat := w.toNat % 4
/-- STREAM of MMA, MZERO, MSTA and MLDA. -/
def wordStream (w : W64) : Fin 4 := ⟨w.toNat / 4 % 4, by omega⟩
/-- NT0, or NT − 1. -/
def wordNt (w : W64) : Nat := w.toNat / 16 % 4
/-- KB0, or KB − 1. -/
def wordKb (w : W64) : Nat := w.toNat / 256 % 256
/-- Rows of a record, or columns of a panel's: e1, or 1 (R282, R285). -/
def Shape.rows (sh : Shape) : Nat := if sh.ndim = 1 then 1 else (sh.ext[1]?).getD 0
/-- e0. -/
def Shape.e0 (sh : Shape) : Nat := (sh.ext[0]?).getD 0

/-- The group of a format that may be absent. -/
def groupOf (f : Option Fmt) : Nat := match f with
  | some f => f.group
  | none => 1

/-- K-blocks of a command (R283). -/
def MatOp.kblocks (o : MatOp) : Nat :=
  match o.shape with
  | some sh => if sh.count = 0 then 0 else (sh.e0 * groupOf o.fmt + 31) / 32
  | none => 0
/-- Tiles that a command's options name. -/
def tileCount (c : W64) : Nat := if wordTile c = 2 then 2 else 1

/-! The state of a command. -/

/-- The commands of a core are frozen (R272, R433): the issuer is in a trap handler that it entered since, or a slice has
switched its slot out; those of a slot that is being evicted run to resolution. -/
def State.matFrozen (s : State) (o : MatOp) : Bool :=
  let x := s.ctx o.head.owner
  let q := s.slot o.head.owner.sl
  q.phase == .bound && ((x.live && x.tstat.inh && o.before) || q.sliced)

/-- A command may not start yet (R270, R287): an earlier one of its stream is not resolved, an earlier image command is not,
or, for an image command, any earlier one is not. -/
def State.matBlocked (s : State) (o : MatOp) : Bool :=
  ((s.core o.head.owner.core).matQ.takeWhile (fun p => p.head.issued != o.head.issued)).any
    (fun p => p.isImage || o.isImage || p.stream == o.stream)

/-- Where EDGE takes a unit out, none. -/
def Elem.orZero {α : Type} : Elem α → Elem (Option α)
  | .ok a => .ok (some a)
  | .zero => .ok none
  | .drop => .ok none
  | .fail a b d => .fail a b d
  | .halt p => .halt p
  | .stay => .stay

/-- The checks go on with what they gave; a unit that EDGE takes out stops them. -/
def Elem.use {α β : Type} (e : Elem α) (f : α → Elem β) : Elem β :=
  match e with
  | .ok a => f a
  | .zero => .zero
  | .drop => .drop
  | .fail a b d => .fail a b d
  | .halt p => .halt p
  | .stay => .stay

/-- A command stands still, or resolves with PROGRESS, where its checks say so; `k` goes on. -/
def MatOp.after {α : Type} (o : MatOp) (s : State) (e : Elem α) (progress : Nat) (k : α → EngStep MatOp) : EngStep MatOp :=
  match e with
  | .ok a => k a
  | .fail st r d => .done s o (resultWord st progress r) d
  | .halt p => .halt (s.pauseFor o.head p).1 { o with head := (s.pauseFor o.head p).2, pause := some p }
  | _ => .halt s { o with pause := none }

/-- The command resolves. -/
def MatOp.ends (o : MatOp) (s : State) (status progress : Nat) : EngStep MatOp :=
  .done s o (resultWord status progress 0) none

/-! MMA and MMAS (R282, R283). -/

/-- A lies in this core's local store or in translated memory (R282); `u` is its unit. -/
def State.placeA (s : State) (c : CtxId) (u : Nat) (d : W64) : Bool :=
  match s.named c.sl d u with
  | .global t _ => t.core == c.core
  | _ => true

/-- The units of some ordinals of a source, as numbers: a unit that EDGE takes out reads as zero bytes, +0 (R154, R269). -/
def State.units (s : State) (h : OpHead) (f : Fmt) (place : W64 → Bool) (sh : Shape) : List Nat → Elem (State × List Nat)
  | [] => .ok (s, [])
  | k :: r =>
    (s.elem h false false (fun x => x.unit == f.unit) place sh f.unit k).orZero.use (fun p =>
      match p with
      | some ps => (State.units (s.seePieces ps) h f place sh r).use (fun q => .ok (q.1, ofBytesLE (s.getPieces ps) :: q.2))
      | none => (State.units s h f place sh r).use (fun q => .ok (q.1, 0 :: q.2)))

/-- 32 elements of a row from K-block b on, out of the row's units from unit `u0` on; +0 beyond the extent (R269). -/
def rowOf32 (f : Fmt) (kmax b u0 : Nat) (us : List Nat) : List Nat :=
  (List.range 32).map (fun i =>
    let k := 32 * b + i
    if k < kmax then f.held ((us[k / f.group - u0]?).getD 0) (k % f.group) else 0)

/-- The rows of a slice of A (R263): row after row from `m` on. -/
def State.sliceRows (s : State) (h : OpHead) (f : Fmt) (sh : Shape) (b : Nat) : Nat → Nat → Elem (State × List (List Nat))
  | 0, _ => .ok (s, [])
  | n + 1, m =>
    let u0 := 32 * b / f.group
    let u1 := min sh.e0 ((32 * b + 31) / f.group + 1)
    let ks := (List.range (u1 - u0)).map (fun i => u0 + i + sh.e0 * m)
    (s.units h f (s.placeA h.owner f.unit) sh ks).use (fun p =>
      (State.sliceRows p.1 h f sh b n (m + 1)).use (fun q =>
        .ok (q.1, rowOf32 f (sh.e0 * f.group) b u0 p.2 :: q.2)))

/-- The slice for the next tile step (R263, R279): staged already by the step before of the same K-block, or read now;
liveness is checked at each step. -/
def MatOp.stage (o : MatOp) (s : State) (f : Fmt) (sh : Shape) (b : Nat) : Elem (State × List (List Nat)) :=
  if o.vals = [] then s.sliceRows o.head f sh b sh.rows 0
  else if s.live (dieOf o.head.owner.core) sh.data.owner then .ok (s, o.vals)
  else .fail faultCap 0 none

/-- The panel of a started MMA, while it stands and its regions are granted (R264). -/
def State.panelOf (s : State) (o : MatOp) (b : W64) : Option Panel :=
  let u := s.cluster (clusterOf o.head.owner.core)
  match u.panelAt (wordRegion b) with
  | some p => if u.grantedAll (s.partOf o.head.owner.sl) p.region p.count then some p else none
  | none => none

/-- The start of an MMA or MMAS: the checks of R283. Where its panel lost a region while it waited, and none stands there
again, it resolves 0x8103 (R264). The A record that MRESUME takes from an image may have lost its tag (R179; assumption log
18): it gives no permission. -/
def MatOp.startMma (o : MatOp) (s : State) (sparse : Bool) (b c : W64) (sh : Shape) : EngStep MatOp :=
  let cl := clusterOf o.head.owner.core
  let u := s.cluster cl
  let part := s.partOf o.head.owner.sl
  let r := wordRegion b
  let fmt : Elem (Option Fmt) :=
    if sh.count = 0 then .ok none else (s.kickFmt o.head false sh).use (fun f => .ok (some f))
  o.after s fmt o.steps (fun f =>
    let o := { o with fmt := f, pause := none }
    if s.regionWritten cl r then .halt s o
    else if sh.data.tag ≠ 1 then o.ends s faultCap o.steps
    else
      let p := u.panelAt r
      let n := match p with
        | some q => q.count
        | none => 1
      if u.grantedAll part r n = false then o.ends s faultCap o.steps
      else
        match p with
        | none => o.ends s (if o.lost then faultCap else faultShape) o.steps
        | some q =>
          if q.nt < wordNt b + tileCount c ∨ q.kb < wordKb b + o.kblocks ∨ (sparse ∧ q.sparse = false) then
            o.ends s faultShape o.steps
          else
            let fits : Bool := match f with
              | none => true
              | some g => match pairOf g q.fmt with
                | some k => k.fits (wordTile c) (c.getLsbD 5)
                | none => false
            if fits then .go s { o with started := true, first := r, count := n, lost := false } else o.ends s faultFormat o.steps)

/-- One tile step (R269, R283), where the command has one that is ready (R271). -/
def MatOp.tileStep (o : MatOp) (s : State) : Option (State × MatOp) :=
  match o.kind, o.shape, o.fmt with
  | .mma _ b c, some sh, some f =>
    let t := tileCount c
    let kb := o.steps / t
    let j := o.steps % t
    let stuck : Bool := match o.pause with
      | some (.refused _ _) => true
      | some p => p.stuck
      | none => false
    if o.started = false ∨ o.lost = true ∨ s.matFrozen o = true ∨ s.cancelAsked o.head = true ∨ stuck = true ∨ t * o.kblocks ≤ o.steps then
      none
    else
      match s.panelOf o b, o.stage s f sh kb with
      | some p, .ok (s, rows) =>
        match pairOf f p.fmt with
        | none => none
        | some k =>
          let core := o.head.owner.core
          let tile := if wordTile c = 2 then j else wordTile c
          let zero : List Num := (List.replicate 32 0).map (heldNum f.n)
          let as := rows.map (fun r => r.map (heldNum f.n)) ++ List.replicate (32 - rows.length) zero
          let cols := ((p.vals.drop (32 * (wordNt b + j))).take 32).map
            (fun v => ((v.drop (32 * (wordKb b + kb))).take 32).map (heldNum p.fmt.n))
          let old := if c.getLsbD 4 = false ∧ kb = 0 then List.replicate 1024 0 else s.tile core tile
          let new := stepRows k (c.getLsbD 5) cols as old
          let s := s.setTile core tile new.1
          let s := s.modCore core (fun q => { q with accown := (q.accown.kinded tile (k == .int)).dirty tile })
          some (s.bump, { o with
            steps := o.steps + 1, vals := if j + 1 < t then rows else [], head := (o.head.raise new.2).over, last := s.nextSeq
            pause := none })
      | _, _ => none
  | _, _, _ => none

/-- A started MMA between its tile steps: its end, a cancel, the loss of its panel, or what its next slice meets. -/
def MatOp.betweenSteps (o : MatOp) (s : State) (b c : W64) (sh : Shape) : EngStep MatOp :=
  let t := tileCount c
  if t * o.kblocks ≤ o.steps then o.ends s 0 o.steps
  else if (s.panelOf o b).isNone then o.ends s faultCap o.steps
  else if s.matFrozen o then .halt s o
  else
    match o.fmt with
    | none => .halt s o
    | some f => o.after s (o.stage s f sh (o.steps / t)) o.steps (fun _ => .halt s { o with pause := none })

/-! MLDB (R265, R266, R285). -/

/-- The MLDB takes more regions of the weight buffer: they must be granted, and no started command may read them; panels
there become invalid (R264, R266). While one of them is read the load stands as it was, in `stay`. -/
def MatOp.claim (o : MatOp) (s : State) (upto : Nat) (stay : MatOp) (k : State → MatOp → EngStep MatOp) : EngStep MatOp :=
  let cl := clusterOf o.head.owner.core
  let more := upto - o.count
  let from_ := o.first + o.count
  if more = 0 then k s o
  else if (s.cluster cl).grantedAll (s.partOf o.head.owner.sl) from_ more = false then o.ends s faultCap 0
  else if s.regionRead cl from_ more then .halt s stay
  else k (s.modCluster cl (fun u => u.dropPanels from_ more)) { o with count := upto }

/-- The columns of the panel, of 32 · KB elements each: `vals` holds the columns read, the last first, each with its last
element first. -/
def panelCols (kb nt : Nat) (vals : List (List Nat)) : List (List Nat) :=
  let cols := vals.reverse.map (fun v => v.reverse ++ List.replicate (32 * kb - v.length) 0)
  cols ++ List.replicate (32 * nt - cols.length) (List.replicate (32 * kb) 0)

/-- The live vectors of the block image of K-block b and N-tile j. -/
def liveIn (cols : List (List Nat)) (b j : Nat) : Nat :=
  ((cols.drop (32 * j)).take 32).countP (fun v => ((v.drop (32 * b)).take 32).any heldLive)

/-- How many units have been read when the block image of K-block b and N-tile j is complete, in the order of the source. -/
def imageDone (sh : Shape) (g b j : Nat) : Nat :=
  if sh.rows ≤ 32 * j ∨ sh.e0 = 0 then sh.count
  else min (32 * j + 31) (sh.rows - 1) * sh.e0 + min sh.e0 ((32 * b + 31) / g + 1)
/-- The first unit of a block image, in the order of the source. -/
def imageFirst (sh : Shape) (g b j : Nat) : Nat := min sh.count (32 * j * sh.e0 + min sh.e0 (32 * b / g))

/-- Write the block images that are complete once `done` units are read, and were not before: their bytes, or PROGRESS where
one would cross the end of region 15 (R285), with the bytes of those before it. -/
def writeImages (f : Fmt) (sh : Shape) (first : Nat) (cols : List (List Nat)) (done : Nat) :
    List (Nat × Nat) → Nat → Except (Nat × Nat) Nat
  | [], bytes => .ok bytes
  | (b, j) :: r, bytes =>
    if imageDone sh f.group b j = done then
      let n := bytes + sparseImage f (liveIn cols b j)
      if 16 * 16384 < first * 16384 + n then .error (bytes, imageFirst sh f.group b j) else writeImages f sh first cols done r n
    else writeImages f sh first cols done r bytes

/-- The block images of a panel, N-tile by N-tile. -/
def imagesOf (kb nt : Nat) : List (Nat × Nat) :=
  (List.range nt).flatMap (fun j => (List.range kb).map (fun b => (b, j)))

/-- Some group of 4 elements holds more than 2 non-zero ones (R265). -/
def crowded : List Nat → Bool
  | a :: b :: c :: d :: r => decide (2 < [a, b, c, d].countP heldLive) || crowded r
  | l => decide (2 < l.countP heldLive)

/-- A group that the newest `g` elements of a column stand in is crowded; the column's last element stands first. -/
def crowdedIn (col : List Nat) (g : Nat) : Bool := crowded (col.take (col.length - (col.length - g) / 4 * 4)).reverse

/-- The units read, with the unit just read: a new column, or more of the last one. -/
def addUnit (f : Fmt) (e0 q u : Nat) (vals : List (List Nat)) : List (List Nat) :=
  let es := ((List.range f.group).map (f.held u)).reverse
  match vals with
  | col :: r => if q % e0 = 0 then es :: col :: r else (es ++ col) :: r
  | [] => [es]

/-- The regions that some bytes of a panel take, one at least. -/
def panelRegions (bytes : Nat) : Nat := max 1 ((bytes + 16383) / 16384)

/-- A unit of the source as it stands, whatever a read of it would wait for; none where it cannot be read (R266). -/
def State.unitNow (s : State) (h : OpHead) (sh : Shape) (f : Fmt) (q : Nat) : Option Nat :=
  let now : Option Nat := (s.piecesNow h sh f.unit q 3).map (fun ps => ofBytesLE (s.getPieces ps))
  match s.elem h false false (fun x => x.unit == f.unit) anywhere sh f.unit q with
  | .fail _ _ _ => none
  | .stay => none
  | .zero => some 0
  | .drop => some 0
  | _ => now

/-- The bytes of block images that a sparse MLDB writes from unit q on, as its source stands: until a unit cannot be read or
ends the load. -/
def State.foreseenFrom (s : State) (h : OpHead) (w : W64) (sh : Shape) (f : Fmt) (first : Nat) :
    Nat → Nat → List (List Nat) → Nat → Nat
  | 0, _, _, bytes => bytes
  | n + 1, q, vals, bytes =>
    match s.unitNow h sh f q with
    | some u =>
      let vals := addUnit f sh.e0 q u vals
      if crowdedIn (vals.headD []) f.group then bytes
      else
        match writeImages f sh first (panelCols (wordKb w + 1) (wordNt w + 1) vals) (q + 1)
            (imagesOf (wordKb w + 1) (wordNt w + 1)) bytes with
        | .error (m, _) => m
        | .ok m => State.foreseenFrom s h w sh f first n (q + 1) vals m
    | none => bytes

/-- The bytes of block images that a sparse MLDB will write, as its source stands. -/
def State.foreseen (s : State) (h : OpHead) (w : W64) (sh : Shape) (f : Fmt) (first : Nat) : Nat :=
  if sh.count = 0 then
    match writeImages f sh first (panelCols (wordKb w + 1) (wordNt w + 1) []) 0 (imagesOf (wordKb w + 1) (wordNt w + 1)) 0 with
    | .error (m, _) => m
    | .ok m => m
  else s.foreseenFrom h w sh f first sh.count 0 [] 0

/-- The start of an MLDB: it takes the regions that it will write (R264, R266): those of a dense panel, or those that a
sparse one fills as its source stands now. -/
def MatOp.startMldb (o : MatOp) (s : State) (w : W64) (sh : Shape) : EngStep MatOp :=
  let u := s.cluster (clusterOf o.head.owner.core)
  let part := s.partOf o.head.owner.sl
  let r := wordRegion w
  let fmt : Elem Fmt := match o.fmt with
    | some f => .ok f
    | none => s.kickFmt o.head false sh
  o.after s fmt 0 (fun f =>
    let o := { o with fmt := some f, pause := none, first := r }
    if u.granted part r = false then o.ends s faultCap 0
    else if f.matClass.isNone then o.ends s faultFormat 0
    else if 32 * (wordKb w + 1) < sh.e0 * f.group then o.ends s faultShape 0
    else
      let n := if w.getLsbD 16 then panelRegions (s.foreseen o.head w sh f r)
        else ((wordKb w + 1) * (wordNt w + 1) * denseImage f + 16383) / 16384
      if 16 < r + n then o.ends s faultShape 0
      else o.claim s n o (fun s o => .go s { o with started := true, vals := [] }))

/-- The descriptor that becomes valid (R265). -/
def MatOp.panel (o : MatOp) (s : State) (w : W64) (f : Fmt) : Panel :=
  { region := o.first, count := o.count, fmt := f, kb := wordKb w + 1, nt := wordNt w + 1, sparse := w.getLsbD 16
    part := s.partOf o.head.owner.sl, vals := panelCols (wordKb w + 1) (wordNt w + 1) o.vals }

/-- A started MLDB: one unit more, or its end (R285). -/
def MatOp.loadUnit (o : MatOp) (s : State) (w : W64) (sh : Shape) : EngStep MatOp :=
  let cl := clusterOf o.head.owner.core
  let q := o.steps
  match o.fmt with
  | none => .halt s o
  | some f =>
    if (s.cluster cl).grantedAll (s.partOf o.head.owner.sl) o.first o.count = false then o.ends s faultCap q
    else if s.matFrozen o then .halt s o
    else
      let sp := w.getLsbD 16
      let write : Nat → MatOp → State → (State → MatOp → EngStep MatOp) → EngStep MatOp := fun done p s k =>
        if sp = false then k s p
        else
          match writeImages f sh p.first (panelCols (wordKb w + 1) (wordNt w + 1) p.vals) done
              (imagesOf (wordKb w + 1) (wordNt w + 1)) p.bytes with
          | .error (n, q) => p.claim s (panelRegions n) { o with pause := none } (fun s p => p.ends s faultShape q)
          | .ok n => p.claim s (panelRegions n) { o with pause := none } (fun s p => k s { p with bytes := n })
      let finish : State → MatOp → EngStep MatOp := fun s o =>
        .done (s.modCluster cl (fun u =>
          let u := u.dropPanels o.first o.count
          { u with panels := u.panels ++ [o.panel s w f] })) o (resultWord 0 sh.count 0) none
      if sh.count ≤ q then (if q = 0 then write 0 o s finish else finish s o)
      else
        o.after s (s.units o.head f anywhere sh [q]) q (fun p =>
          let vals := addUnit f sh.e0 q (p.2.headD 0) o.vals
          let bad := sp && crowdedIn (vals.headD []) f.group
          if bad then o.ends s faultShape q
          else write (q + 1) { o with vals := vals, pause := none } p.1 (fun s o => .go s { o with steps := q + 1 }))

/-! The bytes of a block image (R265). The spec does not say where the elements of a vector stand within its bytes, nor in what
order the indices and the elements of a completed group stand: ascending, least significant first, as units are packed (R155;
DEDUCED, assumption log 33). -/

/-- Elements packed in a width. -/
def packBits (w : Nat) (es : List Nat) : List Byte := bytesLE (es.length * w / 8) (es.reverse.foldl (fun n e => n * 2 ^ w + e % 2 ^ w) 0)
/-- The scale bytes of 32 elements. -/
def scalesOf (f : Fmt) (v : List Nat) : List Byte := (List.range (scaleBytes f)).map (fun i => BitVec.ofNat 8 (v.getD (16 * i) 0 / 2 ^ 64))
/-- The elements of a group of 4 that a sparse image keeps. -/
def keptOf (g : List Nat) : List Nat :=
  let live := (List.range 4).filter (fun i => heldLive (g.getD i 0))
  let more := ((List.range 4).filter (fun i => !live.contains i)).take (2 - live.length)
  (List.range 4).filter (fun i => live.contains i || more.contains i)
/-- A vector of 32 elements in a dense image, and in a sparse one. -/
def denseVector (f : Fmt) (v : List Nat) : List Byte := packBits (fmtWidth f.n) v ++ scalesOf f v
/-- A live vector in a sparse image: its kept elements, their indices, its scale bytes. -/
def sparseVector (f : Fmt) (v : List Nat) : List Byte :=
  let groups := (List.range 8).map (fun j => (v.drop (4 * j)).take 4)
  packBits (fmtWidth f.n) (groups.flatMap (fun g => (keptOf g).map (fun i => g.getD i 0)))
    ++ packBits 2 (groups.flatMap keptOf) ++ scalesOf f v

/-- The bytes of a panel of one block image, but for its padding, whose bytes the spec does not give; how the images of a larger
panel follow one another it does not say. -/
def Panel.image (p : Panel) : List Byte :=
  let live := p.vals.filter (fun v => v.any heldLive)
  if p.kb ≠ 1 ∨ p.nt ≠ 1 then []
  else if p.sparse then packBits 1 (p.vals.map (fun v => if v.any heldLive then 1 else 0)) ++ live.flatMap (sparseVector p.fmt)
  else p.vals.flatMap (denseVector p.fmt)

/-- A byte of the weight buffer of a cluster, where the spec gives it. -/
def Cluster.bufferByte (u : Cluster) (o : Nat) : Option Byte :=
  (u.panels.find? (fun p => decide (16384 * p.region ≤ o ∧ o < 16384 * (p.region + p.count)))).bind (fun p =>
    p.image[o - 16384 * p.region]?)

/-! MSTA and MLDA in tile mode (R286). -/

/-- KIND of the store word. -/
def wordKind (w : W64) : Nat := w.toNat / 512 % 4
/-- The rounding mode of a store word (R208): DYN is that of FRM at issue. -/
def storeMode (w : W64) (h : OpHead) : Nat := if w.toNat / 16 % 8 = 6 then h.mode else w.toNat / 16 % 8

/-- Where element k of a transfer stands among the elements held: row, column, tile. -/
def tileIndex (tile cols k : Nat) : Nat :=
  let m := k / cols
  let n := k % cols
  1024 * (n / 32) + 32 * m + (if tile = 2 then n % 32 else n)

/-- The elements that a TILE field names, with the mark of I32 (R286). -/
def State.heldTiles (s : State) (core : Fin 4608) (tile : Nat) : List Nat :=
  (tilesOf tile).flatMap (fun t => (s.tile core t).map (fun v =>
    withByte v (if (s.core core).accown.isInt t then 1 else 0)))

/-- The value of an element held from a tile. -/
def tileNum (tile e : Nat) : Num :=
  if tile = 3 then .flt (fp64.val (e % 2 ^ 64))
  else if e / 2 ^ 64 = 1 then .int (intOf 32 true (e % 2 ^ 64))
  else .flt (fp32.val (e % 2 ^ 64))

/-- Most columns of a row (R286). -/
def maxCols (tile : Nat) : Nat := if tile = 2 then 64 else 32

/-- The start of MSTA or MLDA in tile mode: the kick format; a store reads its tile now, between two tile steps (R281). -/
def MatOp.startTile (o : MatOp) (s : State) (load : Bool) (w : W64) (sh : Shape) : EngStep MatOp :=
  let fmt : Elem (Option Fmt) :=
    if sh.count = 0 then .ok none else (s.kickFmt o.head (!load) sh).use (fun f => .ok (some f))
  o.after s fmt 0 (fun f =>
    let bad : Bool := match f with
      | none => false
      | some g => fmtKind g.n == .none || (!load && fmtKind g.n == .splice)
    if bad then o.ends s faultFormat 0
    else if maxCols (wordTile w) < sh.e0 * groupOf f then o.ends s faultShape 0
    else .go s { o with
      started := true, fmt := f, pause := none
      vals := if load then [] else [s.heldTiles o.head.owner.core (wordTile w)] })

/-- The bits of the elements of a unit that MSTA writes, with its flags (R211, R286). -/
def storeElems (code : Nat) (sat : Bool) (mode : Nat) (draw : Nat → Nat) : Nat → List Num → List Nat × BitVec 5
  | _, [] => ([], 0)
  | k, v :: r =>
    let p := fmtPut code sat mode (draw (8 * k)) v
    let q := storeElems code sat mode draw (k + 1) r
    (p.1 :: q.1, p.2 ||| q.2)

/-- The elements of a block that MSTA writes (R205). -/
def storeBlock (code scale mode : Nat) (draw : Nat → Nat) : Nat → List Num → List Nat × BitVec 5
  | _, [] => ([], 0)
  | k, v :: r =>
    let p := blockElement code scale mode (draw (8 * k)) v.val
    let q := storeBlock code scale mode draw (k + 1) r
    (p.1 :: q.1, p.2 ||| q.2)

/-- Elements packed into a unit's number, `w` bits each. -/
def packElems (w : Nat) : List Nat → Nat
  | [] => 0
  | v :: r => v % 2 ^ w + 2 ^ w * packElems w r

/-- A unit of a destination of MSTA, as a number, with its flags. -/
def storeUnit (f : Fmt) (sat : Bool) (mode : Nat) (draw : Nat → Nat) (k : Nat) (vs : List Num) : Nat × BitVec 5 :=
  if f.blocked then
    let sc := blockScale f.n (vs.map Num.val)
    let p := storeBlock f.n sc mode draw k vs
    (packElems (fmtWidth f.n) p.1 + sc * 2 ^ (f.block * fmtWidth f.n), p.2)
  else
    let p := storeElems f.n sat mode draw k vs
    (packElems (fmtWidth f.n) p.1, p.2)

/-- One unit of MSTA. -/
def MatOp.storeStep (o : MatOp) (s : State) (w : W64) (sh : Shape) : EngStep MatOp :=
  let q := o.steps
  match o.fmt with
  | none => o.ends s 0 sh.count
  | some f =>
    if sh.count ≤ q then o.ends s 0 sh.count
    else if s.matFrozen o then .halt s o
    else
      let vs := o.vals.headD []
      let es := (List.range f.group).map (fun j =>
        tileNum (wordTile w) ((vs[tileIndex (wordTile w) (sh.e0 * f.group) (q * f.group + j)]?).getD 0))
      let next : MatOp := { o with steps := q + 1, pause := none }
      match s.elem o.head false true (fun x => x.unit == f.unit) anywhere sh f.unit q with
      | .zero => .go s next
      | .drop => .go s next
      | e => o.after s e q (fun ps =>
          let p := storeUnit f (w.getLsbD 8) (storeMode w o.head) o.head.draw (q * f.group) es
          .go (s.putPieces ps (bytesLE f.unit p.1)) { next with head := o.head.raise p.2 })

/-- The format code of KIND (R286). -/
def kindCode (w : W64) : Nat := if wordKind w = 2 then 9 else if wordKind w = 1 then 5 else 10

/-- The tiles after an MLDA (R286): what was loaded, the last element first in `vals`, at its place; where all of it was, 0
outside the extents; an element that EDGE dropped, or that was not reached, as it was. -/
def State.putLoaded (s : State) (o : MatOp) (w : W64) (cols : Nat) (whole : Bool) : State :=
  let core := o.head.owner.core
  let tile := wordTile w
  let got := (o.vals.headD []).reverse
  let at_ : Nat → Option Nat := fun i =>
    let m := i % 1024 / 32
    let n := i % 32 + 32 * (i / 1024)
    if n < cols then got[cols * m + n]? else none
  let new : Nat → List Nat → List Nat := fun base old => (List.range 1024).map (fun i =>
    let was := (old[i]?).getD 0
    match at_ (base + i) with
    | some e => if e / 2 ^ 64 = 0 then e else was
    | none => if whole then 0 else was)
  let s := match tile with
    | 2 => (s.setTile core 0 (new 0 (s.tile core 0))).setTile core 1 (new 1024 (s.tile core 1))
    | t => s.setTile core t (new 0 (s.tile core t))
  s.modCore core (fun k => { k with accown := (tilesOf tile).foldl (fun a t =>
    let a := a.kinded t (wordKind w == 1)
    if w.getLsbD 12 then a else a.dirty t) k.accown })

/-- What MLDA leaves when it stops at an element: the elements before it stand in the tile (R158). -/
def MatOp.stopLoad (o : MatOp) (s : State) (w : W64) (cols : Nat) (e : EngStep MatOp) : EngStep MatOp :=
  match e with
  | .done t p r d => .done (if o.steps = 0 then t else s.putLoaded o w cols false) p r d
  | e => e

/-- One unit of MLDA, or its end: the tile is written between two tile steps (R281). -/
def MatOp.loadStep (o : MatOp) (s : State) (w : W64) (sh : Shape) : EngStep MatOp :=
  let q := o.steps
  let cols := sh.e0 * groupOf o.fmt
  if s.matFrozen o then .halt s o
  else if sh.count ≤ q then .done (s.putLoaded o w cols true) o (resultWord 0 sh.count 0) none
  else
    match o.fmt with
    | none => .halt s o
    | some f =>
      let add : State → MatOp → List Nat → EngStep MatOp := fun s o es =>
        .go s { o with steps := q + 1, pause := none, vals := [es.reverse ++ o.vals.headD []] }
      let unit : State → Nat → EngStep MatOp := fun t u =>
        let p := storeElems (kindCode w) (w.getLsbD 8) (storeMode w o.head) o.head.draw (q * f.group)
          ((List.range f.group).map (f.num u))
        add t { o with head := o.head.raise p.2 } p.1
      match s.elem o.head false false (fun x => x.unit == f.unit) anywhere sh f.unit q with
      | .zero => unit s 0
      | .drop => add s o (List.replicate f.group (withByte 0 1))
      | e => o.stopLoad s w cols (o.after s e q (fun ps => unit (s.seePieces ps) (ofBytesLE (s.getPieces ps))))

/-! Images (R276, R287). -/

/-- The 64-byte lines of an image, as a shape. -/
def imageShape (cap : Reg) : Shape := ⟨cap, [130, 0, 0, 0], [1, 0, 0, 0], 1, 0, none, cap.lo, 0⟩

/-- Some lines of an image, checked as R158 checks units: their runs of bytes. -/
def State.imageLines (s : State) (h : OpHead) (wr : Bool) (cap : Reg) : List Nat → Elem (List (List Piece))
  | [] => .ok []
  | k :: r =>
    (s.elem h false wr (fun _ => true) anywhere (imageShape cap) 64 k).use (fun ps =>
      (State.imageLines s h wr cap r).use (fun q => .ok (ps :: q)))

/-- Write lines. -/
def State.putLines (s : State) : List (List Piece) → List Byte → State
  | [], _ => s
  | ps :: r, bs => State.putLines (s.putPieces ps (bs.take 64)) r (bs.drop 64)

/-- The lines of the tiles that are given: T0 from line 2 on, T1 from line 66 on. -/
def tileLines (t0 t1 : Bool) : List Nat :=
  (if t0 then (List.range 64).map (fun i => i + 2) else []) ++ (if t1 then (List.range 64).map (fun i => i + 66) else [])

/-- Where FSHAPE's DATA lies, in the lines of an image. -/
def linePlace (ls : List (List Piece)) : Option Nat := ((ls[1]?).bind List.head?).map (fun p => p.loc.place 0)

/-- An image is stored (R276). -/
def MatOp.storeImage (o : MatOp) (s : State) (cap : Reg) : EngStep MatOp :=
  let core := o.head.owner.core
  let k := s.core core
  let lines := (s.imageLines o.head false cap [0]).use (fun old =>
    (s.imageLines o.head true cap ([0, 1] ++ tileLines k.accown.d0 k.accown.d1)).use (fun ls => .ok (old, ls)))
  o.after s lines 0 (fun p =>
    let flags := numAt (p.1.flatMap s.getPieces) 8 8
    let tiles := (if k.accown.d0 then s.accRead core 0 4096 else []) ++ (if k.accown.d1 then s.accRead core 4096 4096 else [])
    let s := (s.putLines p.2 (imageHeader k flags ++ tiles)).modCore core Core.cleanTiles
    .done (s.saveCap (s.partOf o.head.owner.sl) (linePlace p.2) k.accFault) o 0 none)

/-- An image is loaded (R276). -/
def MatOp.fetchImage (o : MatOp) (s : State) (cap : Reg) (clean : Bool) : EngStep MatOp :=
  let core := o.head.owner.core
  let lines := (s.imageLines o.head false cap [0, 1]).use (fun hd =>
    let fl := numAt (hd.flatMap s.getPieces) 8 8
    let p0 := decide (fl % 2 = 1 ∧ fl / 2 % 2 = 1)
    let p1 := decide (fl % 2 = 1 ∧ fl / 4 % 2 = 1)
    (s.imageLines o.head false cap (tileLines p0 p1)).use (fun ts => .ok (hd, ts, p0)))
  o.after s lines 0 (fun p =>
    let hd := p.1.flatMap s.getPieces
    let ts := p.2.1.flatMap s.getPieces
    let bs := hd ++ (if p.2.2 then ts else List.replicate 4096 0 ++ ts)
    .done (s.loadImage core bs clean (s.savedCap (s.partOf o.head.owner.sl) (linePlace p.1) (numAt bs 64 16))) o 0 none)

/-! Commands. -/

/-- One step of a command that is no tile step: its start, a unit, its end (R270, R279, R280). A cancel
comes first: what ends its context cancels commands that are frozen (R272, R401); then the loss of a region that a started
command uses (R264). -/
def matNext (s : State) (o : MatOp) : EngStep MatOp :=
  let sh := o.shape.getD (imageShape Reg.zero)
  let cut : EngStep MatOp → EngStep MatOp := fun e => match o.kind with
    | .mlda w => if o.started then o.stopLoad s w (sh.e0 * groupOf o.fmt) e else e
    | _ => e
  if s.cancelAsked o.head then cut (o.ends s cancelled o.steps)
  else if o.started && o.lost then o.ends s faultCap o.steps
  else if o.started = false && (s.matBlocked o || s.matFrozen o) then .halt s o
  else
    match o.pause with
    | some (.refused _ r) => cut (.done s o (resultWord faultPage o.steps r.code) none)
    | pz =>
      if (match pz with | some q => q.stuck | none => false) then .halt s o
      else
        match o.kind with
        | .mma sp b c => if o.started then o.betweenSteps s b c sh else o.startMma s sp b c sh
        | .mldb w => if o.started then o.loadUnit s w sh else o.startMldb s w sh
        | .mzero w =>
          let core := o.head.owner.core
          let t := (tilesOf (wordTile w)).foldl (fun t i => t.setTile core i (List.replicate 1024 0)) s
          o.ends (t.modCore core (fun k => { k with
            accown := (tilesOf (wordTile w)).foldl AccOwn.dirty k.accown })) 0 0
        | .msta w => if o.started then o.storeStep s w sh else o.startTile s false w sh
        | .mlda w => if o.started then o.loadStep s w sh else o.startTile s true w sh
        | .imgStore cap => o.storeImage s cap
        | .imgLoad cap clean => o.fetchImage s cap clean

/-- One step of a command that is no tile step. -/
def matStep (s : State) (o : MatOp) : EngStep MatOp := (matNext s o).past (fun o => { o with head := o.head.over })

/-! Resolution (R280, R288). -/

/-- A command counts in the unacknowledged count (R281). -/
def MatOp.counted (o : MatOp) : Bool := match o.kind with | .mzero _ => false | _ => true

/-- What the MSYNCs of a core learn of a resolved command (R288). -/
def MSync.learn (m : MSync) (issued : Nat) (status : BitVec 16) : MSync :=
  if m.waits.contains issued then
    { m with
      waits := m.waits.filter (fun i => i != issued)
      errors := if status.getLsbD 15 then m.errors ++ [(issued, status)] else m.errors }
  else m

/-- The first error status in queue order, or 0. -/
def MSync.status (m : MSync) : BitVec 16 :=
  match m.errors with
  | [] => 0
  | e :: r => (r.foldl (fun a b => if b.1 < a.1 then b else a) e).2

/-- The MSYNCs that wait for nothing any more resolve (R288). -/
def State.settleSyncs (s : State) (core : Fin 4608) : State :=
  let done := (s.core core).syncs.filter (fun m => m.waits.isEmpty)
  if done.isEmpty then s
  else
    done.foldl (fun t m => t.resolveOp m.head false (resultWord m.status.toNat 0 0) none)
      (s.modCore core (fun k => { k with syncs := k.syncs.filter (fun m => !m.waits.isEmpty) }))

/-- A command leaves its queue with a result word. -/
def State.dropMat (s : State) (core : Fin 4608) (o : MatOp) (w : W64) (denied : Option W64) : State :=
  let s := s.modCore core (fun k => { k with
    matQ := k.matQ.filter (fun p => p.head.issued != o.head.issued)
    syncs := k.syncs.map (fun m => m.learn o.head.issued (w.setWidth 16)) })
  s.resolveOp o.head o.counted w denied

/-- The bits of a command's handle in the fault record; a command without one has bits that name no core. -/
def OpHead.bits39 (o : OpHead) : BitVec 39 :=
  match o.handle with
  | some h => (handleReg o.owner h o.serial).bits.setWidth 39
  | none => BitVec.allOnes 39

/-- A command resolves (R280): on an error its followers in the stream resolve 0x8001, an MMA or MMAS becomes the fault
record of the set, and an MLDB leaves no valid panel in the regions that it started writing (R285). -/
def State.endMat (s : State) (core : Fin 4608) (o : MatOp) (w : W64) (denied : Option W64) : State :=
  let s := s.dropMat core o w denied
  let s :=
    if w.getLsbD 15 then
      let behind := (s.core core).matQ.filter (fun p =>
        p.stream == o.stream && decide (o.head.issued < p.head.issued) && !p.started)
      let s := behind.foldl (fun t p => t.dropMat core p (resultWord cancelled 0 0) none) s
      match o.kind, o.shape with
      | .mma sp b c, some sh => s.modCore core (fun k => { k with
          accFault := some ⟨o.head.bits39, (w.toNat / 2 ^ 16) % 2 ^ 32, sp, b, c, sh⟩ })
      | .mldb _, _ =>
        if o.started then s.modCluster (clusterOf core) (fun u => u.dropPanels o.first o.count) else s
      | _, _ => s
    else s
  s.settleSyncs core

/-- A command of a core put back into its queue. -/
def State.setMat (s : State) (core : Fin 4608) (o : MatOp) : State :=
  s.modCore core (fun k => { k with matQ := k.matQ.map (fun p => if p.head.issued = o.head.issued then o else p) })

/-- A command of a core runs, but for its tile steps, for a number of steps. -/
def State.runMat (s : State) (core : Fin 4608) (fuel issued : Nat) : State :=
  match (s.core core).matQ.find? (fun o => o.head.issued == issued) with
  | none => s
  | some o =>
    match runOp matStep fuel s o with
    | .go t p => t.setMat core p
    | .halt t p => t.setMat core p
    | .done t p w d => t.endMat core p w d

/-- MATRIX_RESOLVE (R270, R279, R280): the commands of a core start, move their units and resolve, as far as they come
without a tile step. -/
def execMatrixResolve (core : Fin 4608) (s : State) : Host.Outcome State Fault Refusal :=
  let q := (s.core core).matQ
  if q.isEmpty then .next s
  else
    s.on true (fun s => q.foldl (fun t o =>
      t.runMat core ((match o.shape with | some sh => sh.count | none => 0) + 4) o.head.issued) s)

/-! The arbiter (R271). -/

/-- The command of a core that takes the next tile step, with what it gives: of those that are ready, the one that took its
last step the longest ago, the oldest first. -/
def State.readyStep (s : State) (core : Fin 4608) : Option (State × MatOp) :=
  let q := (s.core core).matQ
  let q := match q with
    | [a, b] => if b.last < a.last then [b, a] else q
    | _ => q
  q.findSome? (fun o => o.tileStep s)

/-- The core the arbiter serves: the one it visits, while its visit lasts and it is ready; else the next in the ring that is
ready. -/
def State.arbitrate (s : State) (n : Fin 576) : Option (Nat × State × MatOp) :=
  let u := s.cluster n
  let cores := coresOf n
  let try_ : Nat → Option (Nat × State × MatOp) := fun i =>
    match cores[i]? with
    | some c => (s.readyStep c).map (fun r => (i, r.1, r.2))
    | none => none
  match (if u.credit = 0 then none else try_ u.arbiter.val) with
  | some r => some r
  | none => ((List.range 8).map (fun i => (u.arbiter.val + 1 + i) % 8)).findSome? try_

/-- TILE_STEP (R261, R269, R271): the array performs one tile step for the core that the arbiter selects. -/
def execTileStep (n : Fin 576) (s : State) : Host.Outcome State Fault Refusal :=
  match s.arbitrate n with
  | none => .next s
  | some (i, t, o) =>
    s.on true (fun s =>
      let u := s.cluster n
      let core := o.head.owner.core
      let stays := decide (i = u.arbiter.val ∧ u.credit ≠ 0)
      let left := (if stays then u.credit else (s.core core).mxw.toNat) - 1
      (t.setMat core o).modCluster n (fun u => { u with arbiter := ⟨i % 8, by omega⟩, credit := left }))

/-! Ownership (R273, R434). -/

/-- Whether a matrix instruction of a context must find the set its own: a context with sup rights is exempt where its
instruction allows it. While a handler of the context itself holds the set, no hardware take starts for it either (R434): what
becomes of an instruction that needs one is not stated, and it waits here until the hold ends (DESIGN CHOICE, assumption log
18). -/
def ownSet (exempt : State → CtxId → Bool) : M Unit := fun s =>
  let c := s.cur
  let k := s.core c.core
  let a := k.accown
  if s.accHeld c then .error (.wait .matrixEmpty)
  else if a.names c || (exempt s c && s.isSup c) then .ok ((), s)
  else if !k.matQ.isEmpty then .error (.wait .matrixEmpty)
  else if s.accOwned c.core && s.partOf (a.owner c.core).sl == s.partOf c.sl then
    .error (.trap ⟨.accNotOwned, a.word, 0, false⟩)
  else if (s.ctx c).holdsAcc then .error (.wait .matrixEmpty)
  else
    match s.imageHeld c with
    | some n => .error (.wait (.snoop n false))
    | none => .ok ((), s.takeAcc c)

/-- No context is exempt. -/
def noneExempt (_ : State) (_ : CtxId) : Bool := false

/-- The word an operand will read, where it can be seen. -/
def State.peek (s : State) (c : CtxId) (r : RegCode) : W64 :=
  let x := s.ctx c
  match r with
  | .g n => (x.reg n).lo
  | .q n => (x.queue n).items.headD 0
  | .p m =>
    match (x.port m).latch with
    | v :: _ => v
    | [] =>
      let g := x.ring (x.port m).ring
      if (x.port m).bound && g.here s.cycle != 0 then
        BitVec.ofNat 64 (s.readNat (s.slotLoc c.sl (g.base.toNat + 8 * (g.head.toNat % g.size))) 8)
      else 0

/-- Image mode is asked for. -/
def asksImage (b : RegCode) (s : State) (c : CtxId) : Bool := (s.peek c b).getLsbD 11

/-- Run a matrix instruction: ownership first (R273). -/
def matrix (i : Instr) (reads names : List RegCode) (exempt : State → CtxId → Bool) (body : M Flow) (s : State) :
    Host.Outcome State Fault Refusal :=
  operate i .closes reads names (ownSet exempt) body s

/-! Issue (R270, R281, R282). -/

/-- A command enters the queue; g0 takes no handle. -/
def issueMat (h : GReg) (kind : MatKind) (sh : Option Shape) (stream : Fin 4) (steps : Nat) (fmt : Option Fmt)
    (mode : Nat) : M Flow := do
  let counted : Bool := match kind with
    | .mzero _ => false
    | _ => true
  queueRoom .matrix
  if counted then countRoom else pure ()
  kickRelease
  let head ← issueHead (h != 0) counted
  let o : MatOp :=
    { head := head, kind := kind, shape := sh, stream := stream, started := false, steps := steps, first := 0, count := 0
      bytes := 0, fmt := fmt, vals := [], before := false, lost := false, last := 0, pause := none }
  if mode = 5 then edit (fun x => { x with srseq := x.srseq + 1 }) else pure ()
  let c ← who
  let s ← get
  set (s.modCore c.core (fun k => { k with matQ := k.matQ ++ [o] }))
  setG h head.reg
  pure .next

/-- A shape record of a matrix instruction: no channel, one or two dimensions (R282, R285, R286). -/
def matShape (r : GReg) : M Shape := do
  let sh ← readShape r
  if sh.chan.isSome || decide (2 < sh.ndim) then raise .shapeInvalid sh.addr else pure sh

/-- The elements of a row of a record, by the format as far as it can be read at issue. -/
def rowElems (wr : Bool) (sh : Shape) : M Nat := do
  let s ← get
  let c ← who
  pure (sh.e0 * groupOf (if sh.count = 0 then none else s.issueFmt c wr sh))

/-- The body of MMA and MMAS (R282). -/
def mmaBody (w : W64) (sparse : Bool) (h a : GReg) (b c : RegCode) : M Flow := do
  let bw ← readData b
  let cw ← readData c
  if bw >>> 16 ≠ 0 ∨ bw &&& 0xC0 ≠ 0 ∨ cw >>> 6 ≠ 0 then raise .illegalOperand w
  else
    let sh ← matShape a
    let k ← rowElems false sh
    if sh.rows = 0 ∨ 32 < sh.rows ∨ 8192 < k then raise .shapeInvalid sh.addr
    else issueMat h (.mma sparse bw cw) (some sh) (wordStream cw) 0 none 0

/-- MMA (R282, R283). -/
def execMma (h a : GReg) (b c : RegCode) (s : State) : Host.Outcome State Fault Refusal :=
  let i : Instr := .mma h a b c
  matrix i [b, c] [b, c] noneExempt (mmaBody (Instr.word i) false h a b c) s

/-- MMAS (R282, R283). -/
def execMmas (h a : GReg) (b c : RegCode) (s : State) : Host.Outcome State Fault Refusal :=
  let i : Instr := .mmas h a b c
  matrix i [b, c] [b, c] noneExempt (mmaBody (Instr.word i) true h a b c) s

/-- MLDB (R284, R285): the format is read at issue. -/
def execMldb (d a : GReg) (b : RegCode) (s : State) : Host.Outcome State Fault Refusal :=
  let i : Instr := .mldb d a b
  matrix i [b] [b] noneExempt (do
    let bw ← readData b
    if bw >>> 22 ≠ 0 ∨ bw &&& 0xE00C0 ≠ 0 then raise .illegalOperand (Instr.word i)
    else
      let sh ← matShape a
      let t ← get
      let c ← who
      let f := t.issueFmt c false sh
      if 32 * (wordKb bw + 1) < sh.e0 * groupOf f ∨ 32 * (wordNt bw + 1) < sh.rows then raise .shapeInvalid sh.addr
      else issueMat d (.mldb bw) (some sh) ⟨bw.toNat / 2 ^ 20 % 4, by omega⟩ 0 f 0) s

/-- MZERO (R284). -/
def execMzero (d : GReg) (a : RegCode) (s : State) : Host.Outcome State Fault Refusal :=
  let i : Instr := .mzero d a
  matrix i [a] [a] noneExempt (do
    let w ← readData a
    if w >>> 4 ≠ 0 then raise .illegalOperand (Instr.word i)
    else issueMat d (.mzero w) none (wordStream w) 0 none 0) s

/-- A store word is refused (R286, R287). -/
def storeWordBad (load : Bool) (w : W64) : Bool :=
  let kind := wordKind w
  let img := w.getLsbD 11
  w >>> 13 != 0 || w.getLsbD 7 || (!load && w.getLsbD 12) || decide (w.toNat / 16 % 8 = 7) || decide (kind = 3)
    || (if img then w &&& 0x7FF != 0
        else if load then (kind == 2) != (wordTile w == 3) else kind != 0)

/-- The body of MSTA and MLDA (R286, R287). -/
def storeBody (iw : W64) (load : Bool) (d a : GReg) (b : RegCode) : M Flow := do
  let w ← readData b
  if storeWordBad load w then raise .illegalOperand iw
  else if w.getLsbD 11 then do
    let cap ← greg a
    let s ← get
    let c ← who
    let m : BitVec 12 := if cap.lo.toNat / 2 ^ 56 = 1 then permM else 0
    match checkCap (s.live (dieOf c.core)) cap (permL ||| permS ||| permE ||| m) cap.lo imageBytes with
    | some e => raise e cap.lo
    | none =>
      if cap.lo.toNat % 64 ≠ 0 then raise .align cap.lo
      else issueMat d (if load then .imgLoad cap (w.getLsbD 12) else .imgStore cap) none 0 0 none 0
  else do
    let sh ← matShape a
    let n ← rowElems (!load) sh
    let x ← me
    let rm := w.toNat / 16 % 8
    let mode := if rm = 6 then x.mode else rm
    if 32 < sh.rows ∨ maxCols (wordTile w) < n then raise .shapeInvalid sh.addr
    else issueMat d (if load then .mlda w else .msta w) (some sh) (wordStream w) 0 none mode

/-- MSTA (R286, R287). -/
def execMsta (d a : GReg) (b : RegCode) (s : State) : Host.Outcome State Fault Refusal :=
  let i : Instr := .msta d a b
  matrix i [b] [b] (asksImage b) (storeBody (Instr.word i) false d a b) s

/-- MLDA (R286, R287). -/
def execMlda (d a : GReg) (b : RegCode) (s : State) : Host.Outcome State Fault Refusal :=
  let i : Instr := .mlda d a b
  matrix i [b] [b] (asksImage b) (storeBody (Instr.word i) true d a b) s

/-- MSYNC (R288): g0 takes no handle, and nothing then waits. -/
def execMsync (d : GReg) (a : RegCode) (s : State) : Host.Outcome State Fault Refusal :=
  let i : Instr := .msync d a
  matrix i [a] [a] (fun _ _ => true) (do
    let w ← readData a
    if w >>> 4 ≠ 0 then raise .illegalOperand (Instr.word i)
    else if d = 0 then pure .next
    else do
      let head ← issueHead true false
      let c ← who
      let t ← get
      let waits := ((t.core c.core).matQ.filter (fun o => w.getLsbD o.stream.val)).map (fun o => o.head.issued)
      set ((t.modCore c.core (fun k => { k with syncs := k.syncs ++ [⟨head, waits, []⟩] })).settleSyncs c.core)
      setG d head.reg
      pure .next) s

/-- MOWN (R289). -/
def execMown (d : RegCode) (s : State) : Host.Outcome State Fault Refusal :=
  let i : Instr := .mown d
  matrix i [] [d] noneExempt (do
    let t ← get
    let c ← who
    writeData (Instr.word i) d (t.core c.core).accown.word
    pure .next) s

/-- MFREE (R289): no ownership check; a hold by another context's handler is waited out (R434). -/
def execMfree (d : RegCode) (s : State) : Host.Outcome State Fault Refusal :=
  let i : Instr := .mfree d
  run i [] [d] (do
    let t ← get
    let c ← who
    if t.accHeld c then pause .matrixEmpty
    else if (t.core c.core).accown.names c then
      if (t.core c.core).matQ.isEmpty then do
        set ((t.clearAcc c.core).dropImage c)
        writeData (Instr.word i) d 0
        pure .next
      else pause .matrixEmpty
    else do
      writeData (Instr.word i) d 1
      pure .next) s

/-- MRESUME (R290). -/
def execMresume (d a : GReg) (s : State) : Host.Outcome State Fault Refusal :=
  let i : Instr := .mresume d a
  matrix i [] [] noneExempt (do
    let r ← greg a
    if r.tag ≠ 2 then raise .capTag r.lo
    else do
      let _ ← lookHandle r
      let t ← get
      let c ← who
      match (t.core c.core).accFault with
      | some f =>
        if f.handle = r.bits.setWidth 39 then do
          let flow ← issueMat d (.mma f.sparse f.b f.c) (some f.shape) (wordStream f.c) f.steps none 0
          let t ← get
          set (t.modCore c.core (fun k => { k with accFault := none }))
          pure flow
        else do
          setG d (Reg.data staleResult)
          pure .next
      | none => do
        setG d (Reg.data staleResult)
        pure .next) s

end Sys2Proof.Machine
end

