-- ==== Sys2Proof/Machine/Trans.lean ====
section
/-! DEFINITION. Machine/Trans.lean: the functions 2^x, log2, tanh, the sigmoid, x times it, and erf (R247, R248), correctly
rounded: each is enclosed in an interval of fixed-point numbers, at growing precision until 128 bits of the result are
certain. Outside their exact cases the results are irrational, so a certain lower part stands for the value as a sticky one. -/
namespace Sys2Proof.Machine

/-- An interval of non-negative fixed-point numbers, in units of 2^−p. -/
structure Iv where
  lo : Nat
  hi : Nat
deriving DecidableEq, Repr

/-- The quotient, rounded up. -/
def divUp (a b : Nat) : Nat := (a + b - 1) / b

/-- Product. -/
def Iv.mul (p : Nat) (a b : Iv) : Iv := ⟨a.lo * b.lo / 2 ^ p, divUp (a.hi * b.hi) (2 ^ p)⟩
/-- Quotient by an interval above 0. -/
def Iv.div (p : Nat) (a b : Iv) : Iv := ⟨a.lo * 2 ^ p / b.hi, divUp (a.hi * 2 ^ p) b.lo⟩
/-- Quotient by a number. -/
def Iv.divNat (a : Iv) (n : Nat) : Iv := ⟨a.lo / n, divUp a.hi n⟩
/-- Sum. -/
def Iv.add (a b : Iv) : Iv := ⟨a.lo + b.lo, a.hi + b.hi⟩
/-- Difference, of a greater and a smaller number. -/
def Iv.sub (a b : Iv) : Iv := ⟨a.lo - b.hi, a.hi - b.lo⟩
/-- One. -/
def Iv.one (p : Nat) : Iv := ⟨2 ^ p, 2 ^ p⟩
/-- m·2^e, enclosed. -/
def Iv.ofDyadic (p m : Nat) (e : Int) : Iv :=
  let k := (p : Int) + e
  if 0 ≤ k then ⟨m * 2 ^ k.toNat, m * 2 ^ k.toNat⟩
  else ⟨m / 2 ^ (-k).toNat, divUp m (2 ^ (-k).toNat)⟩

/-- Σ t·z^i for i from k on, each term divided by `d i`, the powers built up from `t`. -/
def series (p : Nat) (z : Iv) (d : Nat → Nat) : Nat → Nat → Iv → Iv
  | 0, _, _ => ⟨0, 1⟩
  | n + 1, k, t => (t.divNat (d k)).add (series p z d n (k + 1) (t.mul p z))

/-- Σ x^i / i!, the terms built up. -/
def expSeries (p : Nat) (x : Iv) : Nat → Nat → Iv → Iv
  | 0, _, _ => ⟨0, 2⟩
  | n + 1, k, t => t.add (expSeries p x n (k + 1) ((t.mul p x).divNat (k + 1)))

/-- atanh z for z at most 1/3, as Σ z^(2i+1)/(2i+1). -/
def atanhIv (p : Nat) (z : Iv) : Iv := series p (z.mul p z) (fun i => 2 * i + 1) (p / 3 + 4) 0 z
/-- ln 2 = 2·atanh(1/3). -/
def ln2 (p : Nat) : Iv :=
  let a := atanhIv p ((Iv.one p).divNat 3)
  a.add a

/-- Σ (−1)^i t/(2i+1) of powers of 1/n², for the arctangent of 1/n. -/
def atanSeries (p n2 : Nat) : Nat → Nat → Iv → Iv
  | 0, _, t => ⟨0, t.hi + 1⟩
  | k + 1, i, t => (t.divNat (2 * i + 1)).sub (atanSeries p n2 k (i + 1) (t.divNat n2))
/-- π by Machin's formula. -/
def piIv (p : Nat) : Iv :=
  let a := atanSeries p 25 (p / 4 + 4) 0 ((Iv.one p).divNat 5)
  let b := atanSeries p 57121 (p / 15 + 4) 0 ((Iv.one p).divNat 239)
  (⟨16 * a.lo, 16 * a.hi⟩ : Iv).sub ⟨4 * b.lo, 4 * b.hi⟩

/-- e^x for x below 1. -/
def expSmall (p : Nat) (x : Iv) : Iv := expSeries p x (p / 3 + 8) 0 (Iv.one p)

/-- A value in an interval times a power of two, certain to 128 bits: the value, where it is. -/
def certain (neg : Bool) (p : Nat) (x : Iv) (e : Int) : Option Val :=
  let k := Nat.log2 x.hi
  if k < 128 then none
  else
    let sh := k - 127
    let m := x.lo / 2 ^ sh
    if m = x.hi / 2 ^ sh then some (.fin neg m (e + sh - p) true) else none

/-- Try a computation at growing precision. The last resort is the lower end, which no operand of a format reaches. -/
def refine (f : Nat → Option Val) (last : Val) : List Nat → Val
  | [] => last
  | p :: r => match f p with
    | some v => v
    | none => refine f last r

/-- The precisions tried for an operand whose lowest bit has the weight 2^e. -/
def precisions (e : Int) : List Nat :=
  let b := 400 + 3 * (-e).toNat
  [b, 2 * b, 4 * b]

/-- A value just below or above m·2^e. -/
def near (neg : Bool) (m : Nat) (e : Int) (above : Bool) : Val :=
  .fin neg (if above then m * 2 ^ 160 else m * 2 ^ 160 - 1) (e - 160) true

/-- The exponent of the leading bit. -/
def leadExp (m : Nat) (e : Int) : Int := e + Nat.log2 m

/-- 2^x for x = ±m·2^e, not an integer: 2^n · e^(f ln 2). -/
def exp2V (neg : Bool) (m : Nat) (e : Int) : Val :=
  let ex := leadExp m e
  if 15 ≤ ex then .fin false 1 (if neg then -40000 else 40000) true
  else if ex < -150 then near false 1 0 (!neg)
  else if 0 ≤ e ∨ m % 2 ^ (-e).toNat = 0 then
    let n : Int := if 0 ≤ e then m * 2 ^ e.toNat else m / 2 ^ (-e).toNat
    .fin false 1 (if neg then -n else n) false
  else
    let b := (-e).toNat
    let whole : Int := m / 2 ^ b
    let frac := m % 2 ^ b
    let (n, f) : Int × Nat := if neg then (-whole - 1, 2 ^ b - frac) else (whole, frac)
    refine (fun p => certain false p (expSmall p ((Iv.ofDyadic p f e).mul p (ln2 p))) n) (.fin false 1 n true) (precisions 0)

/-- e^y for y in an interval at precision p, y at most 2^16, where `neg` gives e^−y: an interval and a power of two. -/
def expIv (p : Nat) (neg : Bool) (y : Iv) : Iv × Int :=
  let l := ln2 p
  let n := y.lo / l.hi
  let r := y.sub ⟨n * l.lo, n * l.hi⟩
  let x := expSmall p ⟨r.lo / 2, divUp r.hi 2⟩
  let x := x.mul p x
  if neg then ((Iv.one p).div p x, -(n : Int)) else (x, n)

/-- log2 of m·2^e above 0, not a power of two. -/
def log2V (m : Nat) (e : Int) : Val :=
  let t := Nat.log2 m
  if m = 2 ^ t then (let n := e + t; .fin (decide (n < 0)) n.natAbs 0 false)
  else
    -- m·2^e = g·2^n with g between 2/3 and 4/3
    let up := decide (4 * 2 ^ t < 3 * m)
    let n : Int := e + t + (if up then 1 else 0)
    let one := if up then 2 ^ (t + 1) else 2 ^ t
    let f : Nat → Option Val := fun p =>
      let d := if up then one - m else m - one
      let z : Iv := ⟨d * 2 ^ p / (m + one), divUp (d * 2 ^ p) (m + one)⟩
      let a := atanhIv p z
      let l := (a.add a).div p (ln2 p)
      let k : Iv := ⟨n.natAbs * 2 ^ p, n.natAbs * 2 ^ p⟩
      -- the sum of n and ±l
      if n = 0 then certain up p l 0
      else if decide (n < 0) = up then certain up p (k.add l) 0
      else certain (decide (n < 0)) p (k.sub l) 0
    refine f (.fin (decide (n < 0)) n.natAbs 0 true) (precisions (-200))

/-- tanh of a magnitude: (1 − e^−2x)/(1 + e^−2x), by the sign of x. -/
def tanhV (neg : Bool) (m : Nat) (e : Int) : Val :=
  let ex := leadExp m e
  if 7 ≤ ex then near neg 1 0 false
  else if ex < -100 then near neg m e false
  else
    refine (fun p =>
      let q := expIv p true (Iv.ofDyadic p m (e + 1))
      let t := Iv.ofDyadic p q.1.lo (q.2 - p)
      let u := Iv.ofDyadic p q.1.hi (q.2 - p)
      let y : Iv := ⟨t.lo, u.hi⟩
      certain neg p (((Iv.one p).sub y).div p ((Iv.one p).add y)) 0) (near neg m e false) (precisions (min ex 0))

/-- 1/(1 + e^−x). -/
def sigmV (neg : Bool) (m : Nat) (e : Int) : Val :=
  let ex := leadExp m e
  if ex < -150 then near false 1 (-1) (!neg)
  else if neg then
    if 15 ≤ ex then .fin false 1 (-40000) true
    else
      refine (fun p =>
        let q := expIv p true (Iv.ofDyadic p m e)
        let t := Iv.ofDyadic p q.1.lo (q.2 - p)
        let u := Iv.ofDyadic p q.1.hi (q.2 - p)
        certain false p (q.1.div p ((Iv.one p).add ⟨t.lo, u.hi⟩)) q.2) (.fin false 1 (-40000) true) (precisions 0)
  else if 8 ≤ ex then near false 1 0 false
  else
    refine (fun p =>
      let q := expIv p true (Iv.ofDyadic p m e)
      let t := Iv.ofDyadic p q.1.lo (q.2 - p)
      let u := Iv.ofDyadic p q.1.hi (q.2 - p)
      certain false p ((Iv.one p).div p ((Iv.one p).add ⟨t.lo, u.hi⟩)) 0) (near false 1 0 false) (precisions 0)

/-- x/(1 + e^−x). -/
def siluV (neg : Bool) (m : Nat) (e : Int) : Val :=
  let ex := leadExp m e
  if ex < -150 then near neg m (e - 1) (!neg)
  else if !neg && decide (8 ≤ ex) then near false m e false
  else if neg && decide (15 ≤ ex) then .fin true 1 (-40000) true
  else
    refine (fun p =>
      let q := expIv p true (Iv.ofDyadic p m e)
      let t := Iv.ofDyadic p q.1.lo (q.2 - p)
      let u := Iv.ofDyadic p q.1.hi (q.2 - p)
      let d := (Iv.one p).add ⟨t.lo, u.hi⟩
      let x : Iv := ⟨m * 2 ^ p, m * 2 ^ p⟩
      if neg then certain true p ((x.mul p q.1).div p d) (q.2 + e) else certain false p (x.div p d) e)
      (near neg m e false) (precisions 0)

/-- Σ (−1)^i z^i/(i!(2i+1)), the positive and the negative terms apart. -/
def erfSeries (p : Nat) (z : Iv) : Nat → Nat → Iv → Iv × Iv
  | 0, _, _ => (⟨0, 1⟩, ⟨0, 1⟩)
  | n + 1, k, t =>
    let r := erfSeries p z n (k + 1) ((t.mul p z).divNat (k + 1))
    let u := t.divNat (2 * k + 1)
    if k % 2 = 0 then (u.add r.1, r.2) else (r.1, u.add r.2)

/-- The square root of an interval. -/
def Iv.sqrt (p : Nat) (a : Iv) : Iv :=
  let r : Nat → Nat := fun n => isqrtFrom n (Nat.log2 n / 2 + 1) 0
  ⟨r (a.lo * 2 ^ p), r (a.hi * 2 ^ p) + 1⟩

/-- erf of a magnitude: (2/√π)·x·Σ (−1)^i x^(2i)/(i!(2i+1)). -/
def erfV (neg : Bool) (m : Nat) (e : Int) : Val :=
  let ex := leadExp m e
  if 4 ≤ ex then near neg 1 0 false
  else
    refine (fun p =>
      let x := Iv.ofDyadic p m e
      let s := erfSeries p (x.mul p x) (p + 1500) 0 (Iv.one p)
      let v := ((Iv.one p).add (Iv.one p)).div p ((piIv p).sqrt p)
      let w := v.mul p (s.1.sub s.2)
      certain neg p ⟨w.lo * m, w.hi * m⟩ e) (near neg m e false) (precisions (-400))

/-! Special values (R248). -/

/-- Which function. -/
inductive Fun1 where
  | exp2 | log2 | tanh | sigm | silu | erf
deriving DecidableEq, Repr

/-- One. -/
def Val.one (neg : Bool) : Val := .fin neg 1 0 false

/-- The function's value and flags (R248). -/
def fun1 (f : Fun1) (x : Val) : Val × BitVec 5 :=
  match x with
  | .nan s => (.nan false, if s then fNV else 0)
  | .inf n =>
    match f with
    | .exp2 => (if n then Val.zero false else .inf false, 0)
    | .log2 => if n then (.nan false, fNV) else (.inf false, 0)
    | .tanh => (Val.one n, 0)
    | .sigm => (if n then Val.zero false else Val.one false, 0)
    | .silu => (if n then Val.zero true else .inf false, 0)
    | .erf => (Val.one n, 0)
  | .fin n m e _ =>
    if m = 0 then
      match f with
      | .exp2 => (Val.one false, 0)
      | .log2 => (.inf true, fDZ)
      | .sigm => (.fin false 1 (-1) false, 0)
      | _ => (Val.zero n, 0)
    else
      match f with
      | .exp2 => (exp2V n m e, 0)
      | .log2 => if n then (.nan false, fNV) else (log2V m e, 0)
      | .tanh => (tanhV n m e, 0)
      | .sigm => (sigmV n m e, 0)
      | .silu => (siluV n m e, 0)
      | .erf => (erfV n m e, 0)

/-- 1/√x (R248). -/
def rsqV (x : Val) : Val × BitVec 5 :=
  match x with
  | .nan s => (.nan false, if s then fNV else 0)
  | .inf n => if n then (.nan false, fNV) else (Val.zero false, 0)
  | .fin n m e _ =>
    if m = 0 then (.inf n, fDZ)
    else if n then (.nan false, fNV)
    else
      -- 1/√(m·2^e) with e made even: floor(√(2^k/m))·2^−(k+e)/2
      let k : Nat := 2 * (Nat.log2 m + 140) + (if e % 2 = 0 then 0 else 1)
      let r := isqrtFrom (2 ^ k / m) (Nat.log2 (2 ^ k / m) / 2 + 1) 0
      (.fin false r (-((k + e) / 2)) (r * r * m != 2 ^ k), 0)

/-- a·2^t with t = b truncated towards zero (R247, R248). -/
def scaleV (a b : Val) : Val × BitVec 5 :=
  match b with
  | .nan _ => (.nan false, fNV)
  | .inf _ => (.nan false, fNV)
  | b =>
    let t := (b.roundInt 1 0).1
    let t := if t < -100000 then -100000 else if 100000 < t then 100000 else t
    match a with
    | .nan s => (.nan false, if s then fNV else 0)
    | a => (a.scale t, 0)

end Sys2Proof.Machine
end

