-- ==== Sys2Proof/Machine/Eop.lean ====
section
/-! DEFINITION. Machine/Eop.lean: the element operations (R246 to R248): which kinds of operands each takes, its exact result,
and the result in the format that receives it. -/
namespace Sys2Proof.Machine
open Sys2Proof

/-- An operand of an element operation: its value, its bits, its format code and its width; an immediate of a chain step has
neither format nor width (R249). -/
structure Opd where
  num  : Num
  bits : Nat
  code : Option Nat
  w    : Nat

/-- An element of a memory operand or a temporary, with the scale of its block. -/
def Opd.ofBits (code bits scale : Nat) : Opd := ⟨fmtNum code bits scale, bits, some code, fmtWidth code⟩
/-- The immediate of a chain step: an exact integer (R249). -/
def Opd.ofImm (z : Int) : Opd := ⟨.int z, 0, none, 0⟩

/-- The exact integer of an operand of integer kind. -/
def Opd.int (o : Opd) : Int :=
  match o.num with
  | .int z => z
  | .flt _ => 0
/-- The operand is of float or splice kind. -/
def Opd.isFlt (o : Opd) : Bool :=
  match o.num with
  | .int _ => false
  | .flt _ => true

/-! Kinds (R239, R247). -/

/-- Every kind given is int. -/
def allInt (ks : List (Option FKind)) : Bool := ks.all (fun k => k == none || k == some .int)
/-- Every kind given is float or splice. -/
def allFlt (ks : List (Option FKind)) : Bool := ks.all (fun k => k == none || k == some .float || k == some .splice)

/-- The kinds of an operation's sources (none for an immediate) and of what receives it keep the rule of its row (R239, R247).
`aw` is the width of A. -/
def eopKindOk (e : Nat) (sk : List (Option FKind)) (dk : FKind) (aw : Nat) : Bool :=
  if dk == .splice || dk == .none || sk.contains (some .none) then false
  else
    let int1 := allInt sk && dk == .int
    let flt1 := allFlt sk && dk == .float
    if e ≤ 0x00 ∨ e = 0x1C ∨ e = 0x1D ∨ (0x29 ≤ e ∧ e ≤ 0x2B) ∨ e = 0x2E then true
    else if (0x01 ≤ e ∧ e ≤ 0x09) ∨ e = 0x21 then int1 || flt1
    else if 0x0A ≤ e ∧ e ≤ 0x16 then int1
    else if 0x17 ≤ e ∧ e ≤ 0x1A then allInt sk || allFlt sk
    else if e = 0x1B then (allInt (sk.take 2) && dk == .int) || (allFlt (sk.take 2) && dk == .float)
    else if (0x1E ≤ e ∧ e ≤ 0x20) ∨ (0x22 ≤ e ∧ e ≤ 0x27) then flt1
    else if e = 0x28 then allFlt (sk.take 1) && dk == .float
    else if e = 0x2C then int1 && aw == 64
    else if e = 0x2F then int1 && decide (16 ≤ aw)
    else false

/-! Results. -/

/-- The w-bit pattern of an integer. -/
def pattern (w : Nat) (z : Int) : Nat := (z % (2 ^ w : Nat)).toNat
/-- The carry-less product of two patterns. -/
def clmulOf (w x y : Nat) : Nat :=
  (List.range w).foldl (fun r i => if y.testBit i then r ^^^ (x * 2 ^ i) else r) 0
/-- The number of one bits of a pattern of w bits. -/
def onesOf (w x : Nat) : Nat := (List.range w).countP (fun i => x.testBit i)
/-- The leading zeros of a pattern of w bits. -/
def leadingOf (w x : Nat) : Nat := if x = 0 then w else w - 1 - Nat.log2 x
/-- The trailing zeros of a pattern of w bits. -/
def trailingOf (w x : Nat) : Nat := ((List.range w).find? (fun i => x.testBit i)).getD w
/-- The bytes of a pattern of w bits in reverse. -/
def swapBytes (w x : Nat) : Nat := ofBytesLE (bytesLE (w / 8) x).reverse

/-- The result of an integer operation (R247): exact, or the bits it names as a number. `w` is the receiving width. -/
def intResult (e w : Nat) (x y z : Opd) : Int :=
  let a := x.int
  let b := y.int
  let pa := pattern w a
  let pb := pattern w b
  let sh := (b % (w : Int)).toNat
  match e with
  | 0x01 => a + b
  | 0x02 => a - b
  | 0x03 => a * b
  | 0x04 => a * b + z.int
  | 0x05 => a * b - z.int
  | 0x06 => min a b
  | 0x07 => max a b
  | 0x08 => a.natAbs
  | 0x09 => -a
  | 0x0A => ((pa &&& pb : Nat) : Int)
  | 0x0B => ((pa ||| pb : Nat) : Int)
  | 0x0C => ((pa ^^^ pb : Nat) : Int)
  | 0x0D => ((pa &&& (pb ^^^ (2 ^ w - 1)) : Nat) : Int)
  | 0x0E => ((pa ^^^ (2 ^ w - 1) : Nat) : Int)
  | 0x0F => ((pa * 2 ^ sh : Nat) : Int)
  | 0x10 => ((pa / 2 ^ sh : Nat) : Int)
  | 0x11 => intOf w true pa / (2 ^ sh : Nat)
  | 0x12 => ((clmulOf w pa pb % 2 ^ w : Nat) : Int)
  | 0x13 => ((clmulOf w pa pb / 2 ^ w : Nat) : Int)
  | 0x14 => ((if x.code.isNone then Config.immBits e a else onesOf x.w x.bits : Nat) : Int)
  | 0x15 => ((if x.code.isNone then Config.immBits e a else leadingOf x.w x.bits : Nat) : Int)
  | 0x16 => ((if x.code.isNone then Config.immBits e a else trailingOf x.w x.bits : Nat) : Int)
  | 0x21 => if b = 0 then -1 else a.tdiv b
  | 0x2C => ((ofBits (fun j => x.bits / 2 ^ (8 * j) % 256 == pattern 8 b) 8 : Nat) : Int)
  | 0x2F => ((swapBytes x.w x.bits : Nat) : Int)
  | _ => a

/-- The result of a float operation (R247, R248), with the flags it raises before rounding. -/
def fltResult (e mode : Nat) (x y z : Val) : Val × BitVec 5 :=
  match e with
  | 0x01 => addV mode x y
  | 0x02 => addV mode x y.negate
  | 0x03 => mulV x y
  | 0x04 => fmaV mode false x y z
  | 0x05 => fmaV mode false x y z.negate
  | 0x06 =>
    let p := pickV false false x y
    ((match p.1 with | some true => x | some false => y | none => .nan false), p.2)
  | 0x07 =>
    let p := pickV true false x y
    ((match p.1 with | some true => x | some false => y | none => .nan false), p.2)
  | 0x08 => (x.abs, 0)
  | 0x09 => (x.negate, 0)
  | 0x1E => divV (Val.one false) x
  | 0x1F => rsqV x
  | 0x20 => sqrtV x
  | 0x21 => divV x y
  | 0x22 => fun1 .exp2 x
  | 0x23 => fun1 .log2 x
  | 0x24 => fun1 .tanh x
  | 0x25 => fun1 .sigm x
  | 0x26 => fun1 .silu x
  | 0x27 => fun1 .erf x
  | 0x28 => scaleV x y
  | _ => (x, 0)

/-- A comparison (R247): its truth and its flags, those of FEQ, FLT and FLE. -/
def cmpResult (e : Nat) (x y : Opd) : Bool × BitVec 5 :=
  if x.isFlt || y.isFlt then
    let a := x.num.val
    let b := y.num.val
    let nan := a.isNan || b.isNan
    let quiet : BitVec 5 := if a.isSnan || b.isSnan then fNV else 0
    match e with
    | 0x17 => (!nan && eqV a b, quiet)
    | 0x1A => (!(!nan && eqV a b), quiet)
    | 0x18 => (!nan && ltV a b, if nan then fNV else 0)
    | _ => (!nan && !ltV b a, if nan then fNV else 0)
  else
    match e with
    | 0x17 => (x.int == y.int, 0)
    | 0x1A => (x.int != y.int, 0)
    | 0x18 => (decide (x.int < y.int), 0)
    | _ => (decide (x.int ≤ y.int), 0)

/-- The rounding mode of FLOOR, CEIL and ROUND. -/
def integralMode (e : Nat) : Nat := if e = 0x29 then 2 else if e = 0x2A then 3 else 0

/-- FLOOR, CEIL and ROUND of a value: the integral value with its sign, and NX where it differs (R247). -/
def integral (e : Nat) (v : Val) : Val × BitVec 5 :=
  match v with
  | .fin n _ _ _ =>
    let (t, x) := v.roundInt (integralMode e) 0
    (.fin n t.natAbs 0 false, if x then fNX else 0)
  | v => (v, 0)

/-- An operation's result before it is rounded, with the flags it raises by then (R246, R247). -/
def eopExact (e mode w : Nat) (toInt : Bool) (k : Nat) (imm : Int) (xs : List Opd) : Num × BitVec 5 :=
  let x := xs.getD 0 (Opd.ofImm 0)
  let y := xs.getD 1 (Opd.ofImm 0)
  let z := xs.getD 2 (Opd.ofImm 0)
  if e = 0x00 ∨ e = 0x1C ∨ e = 0x1D then (x.num, 0)
  else if e = 0x2E then (.int (k + imm), 0)
  else if 0x17 ≤ e ∧ e ≤ 0x1A then
    let r := cmpResult e x y
    (.int (if r.1 then 1 else 0), r.2)
  else if e = 0x1B then
    (if z.num.nonzero then x.num else y.num, if [x, y, z].any (fun v => v.num.val.isSnan) then fNV else 0)
  else if 0x29 ≤ e ∧ e ≤ 0x2B then
    match x.num with
    | .int a => (.int a, 0)
    | .flt v =>
      if toInt then (.flt v, 0)
      else
        let r := integral e v
        (.flt r.1, r.2)
  else if toInt then (.int (intResult e w x y z), 0)
  else
    let r := fltResult e mode x.num.val y.num.val z.num.val
    (.flt r.1, r.2)

/-- An element operation into a format (R246, R247): the bits and all the flags. COPY of equal formats keeps the bits. -/
def eopPut (e dcode mode r k : Nat) (imm : Int) (xs : List Opd) : Nat × BitVec 5 :=
  let x := xs.getD 0 (Opd.ofImm 0)
  if e = 0x00 ∧ x.code = some dcode then (x.bits, 0)
  else
    let toInt := fmtKind dcode == .int
    let v := eopExact e mode (fmtWidth dcode) toInt k imm xs
    let m := if 0x29 ≤ e ∧ e ≤ 0x2B ∧ toInt then integralMode e else mode
    let p := fmtPut dcode (e == 0x1D) m r v.1
    (p.1, v.2 ||| p.2)

/-- The identity of a reduction in a format (R252). -/
def identity (e dcode : Nat) : Nat :=
  if fmtKind dcode = .int then
    let w := fmtWidth dcode
    let sg := fmtSigned dcode
    match e with
    | 0x03 => 1
    | 0x06 => if sg then 2 ^ (w - 1) - 1 else 2 ^ w - 1
    | 0x07 => if sg then 2 ^ (w - 1) else 0
    | 0x0A => 2 ^ w - 1
    | _ => 0
  else
    let v : Val := match e with
      | 0x03 => Val.one false
      | 0x06 => .inf false
      | 0x07 => .inf true
      | _ => Val.zero false
    (fmtRound dcode false 0 0 v).1

end Sys2Proof.Machine
end

