-- ==== Sys2Proof/Machine/Vector.lean ====
section
/-! DEFINITION. Machine/Vector.lean: the vector engine: its operands (R238, R239), chains (R249 to R251), the programs of
R243, R252, R253, R257, R259 and R260, VECTOR_RESOLVE, and the instructions (R254 to R260). -/
namespace Sys2Proof.Machine
open Sys2Proof

/-! Steps of a chain (R249). -/

/-- A decoded step: operation, destination, the sources it reads, immediate. -/
structure EStep where
  eop  : Nat
  dst  : Nat
  srcs : List Nat
  imm  : Int
deriving DecidableEq, Repr

/-- Decode a step word (R249). -/
def stepOf (w : BitVec 32) : EStep :=
  let e := w.toNat % 64
  let n := (eopArity e).getD 0
  ⟨e, w.toNat / 2 ^ 15 % 8, [w.toNat / 2 ^ 6 % 8, w.toNat / 2 ^ 9 % 8, w.toNat / 2 ^ 12 % 8].take n,
    intOf 14 true (w.toNat / 2 ^ 18)⟩

/-- The format of the temporaries (R249): TFMT, or the destination's. -/
def Chain.tfmt (c : Chain) : Nat := c.header.toNat / 2 ^ 8 % 32
/-- The mode of a chain (R249). -/
def Chain.mode (c : Chain) (frm : Nat) : Nat :=
  if c.header.getLsbD 4 then c.header.toNat / 2 ^ 5 % 8 else frm

/-- The steps of an operation by elements: VMAP is one step (R251). -/
def VecKind.steps (k : VecKind) : List EStep :=
  match k with
  | .map e _ => [⟨e.toNat, 7, [0, 1, 2].take ((eopArity e.toNat).getD 0), 0⟩]
  | .chain c => c.steps.map stepOf
  | _ => []

/-- The sources among A, B, C that the steps read (R256). -/
def usedOps (steps : List EStep) : List Nat := [0, 1, 2].filter (fun j => steps.any (fun t => t.srcs.contains j))

/-- The mode an operation rounds in (R246). -/
def VecOp.mode (o : VecOp) : Nat :=
  match o.kind with
  | .chain c => c.mode o.head.mode
  | _ => o.head.mode

/-! Operands. -/

/-- An operand by number: 0 A, 1 B, 2 C, 3 out. -/
def VecOp.shape (o : VecOp) (j : Nat) : Option Shape :=
  match j with
  | 0 => some o.a
  | 1 => o.b
  | 2 => o.c
  | _ => some o.out
/-- The kick format of an operand. -/
def VecOp.fmt (o : VecOp) (j : Nat) : Option Fmt := (o.fmts[j]?).getD none
/-- The elements of a unit of an operand. -/
def VecOp.g (o : VecOp) (j : Nat) : Nat := match o.fmt j with
  | some f => f.group
  | none => 1
/-- The count of an operand in elements (R238). -/
def VecOp.count (o : VecOp) (j : Nat) : Nat := match o.shape j with
  | some sh => sh.count * o.g j
  | none => 0

/-- How a step of a vector operation stops short. -/
inductive VStop where
  | fail (status reason : Nat) (denied : Option W64)
  | halt (p : Pause)
  | stay
  /-- A unit has been read for a merge: its write is another step (R243). -/
  | again

/-- A piece of a step: units that it has read stay read when it stops short. -/
abbrev V (α : Type) := ExceptT VStop (StateM (State × VecOp)) α

/-- What the checks of an element of operand j give, as a piece of a step: none where EDGE takes it out, with whether it reads as
zero. -/
def vElem {α : Type} (j : Nat) (e : Elem α) : V (Option α × Bool) := do
  let (s, o) ← get
  match e with
  | .ok a => pure (some a, false)
  | .zero => pure (none, true)
  | .drop => pure (none, false)
  | .fail a b d =>
    set (s, { o with stood := some j })
    throw (.fail a b d)
  | .halt p =>
    set (s, { o with stood := some j })
    throw (.halt p)
  | .stay => throw .stay

/-- The unit of a source that holds an ordinal, read once (R243): none where EDGE drops it. -/
def srcUnit (j k : Nat) : V (Option (Fmt × Nat)) := do
  let (s, o) ← get
  match o.shape j, o.fmt j with
  | some sh, some f =>
    let q := k / f.group
    match o.units.find? (fun u => u.1 == j && u.2.1 == q) with
    | some u => pure (some (f, u.2.2))
    | none =>
      match ← vElem j (s.elem o.head false false (fun x => x == f) anywhere sh f.unit q) with
      | (some ps, _) =>
        let v := ofBytesLE (s.getPieces ps)
        set (s.seePieces ps, { o with units := (j, q, v) :: o.units })
        pure (some (f, v))
      | (none, zero) => pure (if zero then some (f, 0) else none)
  | _, _ => pure none

/-- The element of a source at an ordinal: none where EDGE drops it. -/
def srcElem (j k : Nat) : V (Option Opd) := do
  match ← srcUnit j k with
  | some (f, u) =>
    let i := k % f.group
    pure (some (Opd.ofBits f.n (f.element u i) (if f.blocked then f.scaleByte u else 0)))
  | none => pure none

/-- Two runs of bytes share a byte. -/
def Piece.meets (p q : Piece) : Bool :=
  (List.range p.n).any (fun i => (List.range q.n).any (fun j => p.loc.place i == q.loc.place j))

/-- After a write: the units read that it touched are read again (R243). -/
def VecOp.keep (s : State) (o : VecOp) (ps : List Piece) : VecOp :=
  { o with units := o.units.filter (fun u =>
      match o.shape u.1, o.fmt u.1 with
      | some sh, some f =>
        (match s.piecesNow o.head sh f.unit u.2.1 3 with
          | some qs => !(ps.any (fun p => qs.any p.meets))
          | none => true)
      | _, _ => false) }

/-- Of the units read, those stay that hold a later ordinal; the packed source of VEXPD goes by its own count. -/
def VecOp.prune (o : VecOp) : VecOp :=
  { o with units := o.units.filter (fun u =>
      let next := if o.kind == .expd && u.1 == 0 then o.p else o.k
      decide (next < (u.2.1 + 1) * o.g u.1)) }

/-- Put elements into a unit: the positions that are given. -/
def mergeUnit (f : Fmt) : Nat → Nat → List (Option Nat) → Nat
  | u, _, [] => u
  | u, j, none :: r => mergeUnit f u (j + 1) r
  | u, j, some v :: r => mergeUnit f (f.setElement u j v) (j + 1) r

/-- A unit with its scale byte replaced (R203). -/
def withScale (f : Fmt) (u : Nat) (scale : Option Nat) : Nat :=
  match scale with
  | some x => u % 2 ^ (f.block * fmtWidth f.n) + x % 256 * 2 ^ (f.block * fmtWidth f.n)
  | none => u

/-- Write positions of a unit of an operand (R243): where all are written, and where none is missing, nothing is read.
Otherwise the unit is read in one step and written in the next, which computes the same elements again from the units that
stay read: the two are not atomic. -/
def putUnit (j q : Nat) (vals : List (Option Nat)) (scale : Option Nat) : V Unit := do
  let (s, o) ← get
  if vals.all (fun v => v.isNone) then pure ()
  else
    match o.shape j, o.fmt j with
    | some sh, some f =>
      match ← vElem j (s.elem o.head false true (fun x => x == f) anywhere sh f.unit q) with
      | (some ps, _) =>
        let whole := vals.all (fun v => v.isSome) && vals.length == f.group
        match (if whole then some 0 else (o.old.filter (fun u => u.1 == q)).map (fun u => u.2)) with
        | some old =>
          let t := s.putPieces ps (bytesLE f.unit (withScale f (mergeUnit f old 0 vals) scale))
          set (t, { o.keep t ps with old := none })
        | none =>
          set (s, { o with old := some (q, ofBytesLE (s.getPieces ps)) })
          throw .again
      | (none, _) => pure ()
    | _, _ => pure ()

/-! Elements (R246, R251). -/

/-- A broadcast scalar (R246). -/
def Opd.broadcast (flt : Bool) (w : W64) : Opd := Opd.ofBits (if flt then 9 else 7) w.toNat 0

/-- The value of B that a broadcast stands for. -/
def VecOp.scalar (o : VecOp) : Option Opd :=
  match o.kind with
  | .map _ (some w) => some (Opd.broadcast (match o.fmt 0 with
    | some f => fmtKind f.n == .float || fmtKind f.n == .splice
    | none => false) w)
  | _ => none

/-- What the last step of an ordinal gives: bits of the destination's format, or an exact value for a block (R205). -/
inductive Out where
  | bits (b : Nat)
  | exact (v : Num)

/-- The value of a source code in a chain: A, B, C, a temporary, or the immediate. -/
def sourceOf (vals temps : List (Nat × Opd)) (imm : Int) (c : Nat) : Opd :=
  if c = 7 then Opd.ofImm imm
  else (((vals ++ temps).find? (fun p => p.1 == c)).map (fun p => p.2)).getD (Opd.ofImm 0)

/-- Run the steps for one ordinal (R251): the result and the flags. `seed` gives the random bits of an index. -/
def runSteps (draw : Nat → Nat) (mode k ocode tcode : Nat) (blocked : Bool) (vals : List (Nat × Opd)) :
    Nat → List (Nat × Opd) → BitVec 5 → List EStep → Out × BitVec 5
  | _, _, fl, [] => (.bits 0, fl)
  | j, temps, fl, t :: r =>
    let xs := t.srcs.map (sourceOf vals temps t.imm)
    if t.dst = 7 then
      if blocked then (.exact (xs.getD 0 (Opd.ofImm 0)).num, fl)
      else
        let p := eopPut t.eop ocode mode (draw (8 * k + j)) k t.imm xs
        (.bits p.1, fl ||| p.2)
    else
      let p := eopPut t.eop tcode mode (draw (8 * k + j)) k t.imm xs
      runSteps draw mode k ocode tcode blocked vals (j + 1)
        ((t.dst, Opd.ofBits tcode p.1 0) :: temps.filter (fun q => q.1 != t.dst)) (fl ||| p.2) r

/-- The sources of an ordinal, in the order A, B, C: none where EDGE drops it from one of them (R154). -/
def readAll (k : Nat) : List Nat → List (Nat × Opd) → V (Option (List (Nat × Opd)))
  | [], vals => pure (some vals)
  | j :: r, vals => do
    let (_, o) ← get
    match (if j = 1 then o.scalar else none) with
    | some x => readAll k r ((j, x) :: vals)
    | none =>
      match ← srcElem j k with
      | some x => readAll k r ((j, x) :: vals)
      | none => pure none

/-- The code of a format that may be absent. -/
def codeOf (f : Option Fmt) : Nat := match f with
  | some f => f.n
  | none => 0

/-- The format code of the temporaries. -/
def VecOp.tcode (o : VecOp) : Nat :=
  match o.kind with
  | .chain c => if c.tfmt = 0 then codeOf (o.fmt 3) else c.tfmt
  | _ => codeOf (o.fmt 3)

/-- One ordinal of VMAP or VCHAIN: none where it is neither read nor written. -/
def mapElem (k : Nat) : V (Option (Out × BitVec 5)) := do
  let (_, o) ← get
  let steps := o.kind.steps
  match ← readAll k (usedOps steps) [] with
  | none => pure none
  | some vals =>
    let blocked := match o.fmt 3 with
      | some f => f.blocked
      | none => false
    pure (some (runSteps o.head.draw o.mode k (codeOf (o.fmt 3)) o.tcode blocked vals 0 [] 0 steps))

/-- The ordinals from k on, n of them, one after another. -/
def eachElem {α : Type} (f : Nat → V α) : Nat → Nat → V (List α)
  | 0, _ => pure []
  | n + 1, k => do
    let x ← f k
    let r ← eachElem f n (k + 1)
    pure (x :: r)

/-- Flags of a unit's elements. -/
def allFlags (xs : List (Option (Out × BitVec 5))) : BitVec 5 :=
  xs.foldl (fun fl x => match x with
    | some p => fl ||| p.2
    | none => fl) 0

/-- The exact values of a block's present elements. -/
def exactVals (xs : List (Option (Out × BitVec 5))) : List Val :=
  xs.filterMap (fun x => match x with
    | some (.exact v, _) => some v.val
    | _ => none)

/-- Quantise the elements of a block with its scale (R205). -/
def quantise (draw : Nat → Nat) (code scale mode last : Nat) : Nat → List (Option (Out × BitVec 5)) →
    List (Option Nat) × BitVec 5
  | _, [] => ([], 0)
  | k, x :: r =>
    let q := quantise draw code scale mode last (k + 1) r
    match x with
    | some (.exact v, _) =>
      let p := blockElement code scale mode (draw (8 * k + last)) v.val
      (some p.1 :: q.1, p.2 ||| q.2)
    | _ => (none :: q.1, q.2)

/-- One destination unit of VMAP or VCHAIN (R243, R251, R255). -/
def mapUnit : V Unit := do
  let (_, o) ← get
  let k := o.k
  let g := o.g 3
  let xs ← eachElem mapElem g k
  match o.fmt 3 with
  | none => pure ()
  | some f =>
    if f.blocked then
      let sc := blockScale f.n (exactVals xs)
      let p := quantise o.head.draw f.n sc o.mode (o.kind.steps.length - 1) k xs
      putUnit 3 (k / g) p.1 (some sc)
      let (s, o) ← get
      set (s, { o with k := k + g, head := o.head.raise (allFlags xs ||| p.2) })
    else
      putUnit 3 (k / g) (xs.map (fun x => match x with
        | some (.bits b, _) => some b
        | _ => none)) none
      let (s, o) ← get
      set (s, { o with k := k + g, head := o.head.raise (allFlags xs) })

/-! Reductions and scans (R252, R253, R257). -/

/-- round(x, D) or round(acc op x, D) (R252). -/
def foldIn (e dcode mode r : Nat) (acc : Option Nat) (x : Opd) : Nat × BitVec 5 :=
  match acc with
  | none => fmtPut dcode false mode r x.num
  | some a => eopPut e dcode mode r 0 0 [Opd.ofBits dcode a 0, x]

/-- A level of the tree (R252): neighbours are combined; m numbers the combinations. -/
def combine (draw : Nat → Nat) (e dcode mode n : Nat) : Nat → List (Option Nat) → List (Option Nat) × BitVec 5
  | m, x :: y :: r =>
    let q := combine draw e dcode mode n (m + 1) r
    match x, y with
    | some a, some b =>
      let p := foldIn e dcode mode (draw (8 * (n + m))) (some a) (Opd.ofBits dcode b 0)
      (some p.1 :: q.1, p.2 ||| q.2)
    | some a, none => (some a :: q.1, q.2)
    | none, some b => (some b :: q.1, q.2)
    | none, none => (none :: q.1, q.2)
  | _, l => (l, 0)

/-- The tree over the 16 accumulators (R252): four levels. -/
def tree (draw : Nat → Nat) (e dcode mode n : Nat) : Nat → Nat → List (Option Nat) → Option Nat × BitVec 5
  | 0, _, l => (l.headD none, 0)
  | f + 1, m, l =>
    let p := combine draw e dcode mode n m l
    let q := tree draw e dcode mode n f (m + l.length / 2) p.1
    (q.1, p.2 ||| q.2)

/-- One ordinal of VRED's fold (R252). -/
def redElem (e : Nat) : V Unit := do
  let (_, o) ← get
  let k := o.k
  match ← srcElem 0 k with
  | none =>
    let (s, o) ← get
    set (s, { o with k := k + 1 })
  | some x =>
    let (s, o) ← get
    let i := k % 16
    let p := foldIn e (codeOf (o.fmt 3)) o.head.mode (o.head.draw (8 * k)) ((o.acc[i]?).getD none) x
    set (s, { o with k := k + 1, acc := o.acc.set i (some p.1), head := o.head.raise p.2 })

/-- VRED's end: the tree, and the one element of out (R252). -/
def redEnd (e n : Nat) : V Unit := do
  let (_, o) ← get
  let d := codeOf (o.fmt 3)
  let p := tree o.head.draw e d o.head.mode n 4 0 o.acc
  putUnit 3 0 [some (p.1.getD (identity e d))] none
  let (s, o) ← get
  set (s, { o with head := o.head.raise p.2 })

/-- One ordinal of PACKB (R257). -/
def packElem : V Unit := do
  let (_, o) ← get
  let k := o.k
  let x ← srcElem 0 k
  let (s, o) ← get
  let b := match x with
    | some v => pattern 8 v.int
    | none => 0
  set (s, { o with k := k + 1, str := o.str + b * 2 ^ (8 * k) })

/-- PACKB's end: the string goes to out, element after element from the place in `p` on (R257). -/
def packEnd (w : Nat) : Nat → V Unit
  | 0 => pure ()
  | n + 1 => do
    let (_, o) ← get
    putUnit 3 o.p [some (o.str / 2 ^ (w * o.p) % 2 ^ w)] none
    modify (fun r => (r.1, { r.2 with p := o.p + 1 }))
    packEnd w n

/-- The ordinals of one destination unit of VSCAN (R253): the elements, the running value and the flags. -/
def scanElems (e : Nat) (excl : Bool) : Nat → Nat → Option Nat → BitVec 5 → V (List Nat × Option Nat × BitVec 5)
  | 0, _, s, fl => pure ([], s, fl)
  | n + 1, k, s, fl => do
    let x ← srcElem 0 k
    let (_, o) ← get
    let d := codeOf (o.fmt 3)
    let before := s.getD (identity e d)
    let p : Option Nat × BitVec 5 := match x with
      | some v =>
        let r := foldIn e d o.head.mode (o.head.draw (8 * (if excl then k + 1 else k))) s v
        (some r.1, r.2)
      | none => (s, 0)
    let y := if excl then before else p.1.getD (identity e d)
    let r ← scanElems e excl n (k + 1) p.1 (fl ||| p.2)
    pure (y :: r.1, r.2)

/-- One destination unit of VSCAN. -/
def scanUnit (e : Nat) (excl : Bool) : V Unit := do
  let (_, o) ← get
  let k := o.k
  let g := o.g 3
  let r ← scanElems e excl g k (o.acc.headD none) 0
  putUnit 3 (k / g) (r.1.map some) none
  let (s, o) ← get
  set (s, { o with k := k + g, acc := [r.2.1], head := o.head.raise r.2.2 })

/-! Gather, scatter, compress, expand (R259, R260). -/

/-- An element moved as bits (R259, R260): where the two widths differ, the spec states no result, a free value (assumption
log 1). -/
def moveBits (to_ : Nat) (x : Opd) : V Nat := do
  let (s, o) ← get
  if x.w = fmtWidth to_ then pure x.bits
  else
    set ({ s with fresh := s.fresh + 1 }, o)
    pure (Config.freeNat s.fresh % 2 ^ fmtWidth to_)

/-- What an index selects (R259). -/
inductive Pick where
  | at_ (x : Nat)
  | zero
  | none_
  | fault

/-- The table ordinal of an index value, by the table record's EDGE (R259). -/
def pickIndex (edge n : Nat) (x : Int) : Pick :=
  if 0 ≤ x ∧ x < n then .at_ x.toNat
  else
    match edge with
    | 1 => .zero
    | 2 => .none_
    | 3 => if n = 0 then .fault else .at_ (x % (n : Int)).toNat
    | _ => .fault

/-- One element of VGATH: none where it is not written. -/
def gatherElem (k : Nat) : V (Option Nat) := do
  match ← srcElem 1 k with
  | none => pure none
  | some x =>
    let (_, o) ← get
    match pickIndex o.a.edge (o.count 0) x.int with
    | .fault => throw (.fail faultCap 0 none)
    | .none_ => pure none
    | .zero => pure (some 0)
    | .at_ i =>
      match ← srcElem 0 i with
      | some v =>
        let b ← moveBits (codeOf (o.fmt 3)) v
        pure (some b)
      | none => pure none

/-- One destination unit of VGATH. Table units are not kept from one ordinal to the next unit. -/
def gatherUnit : V Unit := do
  let (_, o) ← get
  let k := o.k
  let g := o.g 3
  let xs ← eachElem gatherElem g k
  putUnit 3 (k / g) xs none
  let (s, o) ← get
  set (s, { o with k := k + g, units := o.units.filter (fun u => u.1 != 0) })

/-- One ordinal of VSCAT: merged into its table unit at once. -/
def scatterElem : V Unit := do
  let (_, o) ← get
  let k := o.k
  let x ← srcElem 1 k
  let (_, o) ← get
  let next : V Unit := do
    let (s, o) ← get
    set (s, { o with k := k + 1 })
  match x with
  | none => next
  | some x =>
    match pickIndex o.out.edge (o.count 3) x.int with
    | .fault => throw (.fail faultCap 0 none)
    | .none_ => next
    | .zero => next
    | .at_ i =>
      match ← srcElem 0 k with
      | none => next
      | some v =>
        let b ← moveBits (codeOf (o.fmt 3)) v
        let g := o.g 3
        putUnit 3 (i / g) (List.replicate (i % g) none ++ [some b]) none
        next

/-- One ordinal of VCOMP: the elements of a packed unit wait in `acc` until it is full. -/
def compElem : V Unit := do
  let (_, o) ← get
  let k := o.k
  let m ← srcElem 1 k
  let (_, o) ← get
  let next : V Unit := do
    let (s, o) ← get
    set (s, { o with k := k + 1 })
  match m with
  | none => next
  | some m =>
    if m.num.nonzero = false then next
    else if o.p = o.count 3 then throw (.fail faultShape 0 none)
    else
      let v ← srcElem 0 k
      let b ← match v with
        | some x => (do
          let b ← moveBits (codeOf (o.fmt 3)) x
          pure (some b))
        | none => pure none
      let (s, o) ← get
      let acc := o.acc ++ [b]
      let g := o.g 3
      let first := if o.acc.isEmpty then k else o.first
      if acc.length < g then set (s, { o with k := k + 1, p := o.p + 1, acc := acc, first := first })
      else
        putUnit 3 (o.p / g) acc none
        let (s, o) ← get
        set (s, { o with k := k + 1, p := o.p + 1, acc := [] })

/-- The elements of one destination unit of VEXPD, with the packed count after them. -/
def expandElems : Nat → Nat → Nat → V (List (Option Nat) × Nat)
  | 0, _, p => pure ([], p)
  | n + 1, k, p => do
    let m ← srcElem 1 k
    let (s, o) ← get
    if (match m with | some x => x.num.nonzero | none => false) then
      if p = o.count 0 then
        set (s, { o with p := p })
        throw (.fail faultShape 0 none)
      else
        let v ← srcElem 0 p
        let b ← match v with
          | some x => (do
            let b ← moveBits (codeOf (o.fmt 3)) x
            pure (some b))
          | none => pure none
        let r ← expandElems n (k + 1) (p + 1)
        pure (b :: r.1, r.2)
    else
      let r ← expandElems n (k + 1) p
      pure (none :: r.1, r.2)

/-- One destination unit of VEXPD. -/
def expandUnit : V Unit := do
  let (_, o) ← get
  let k := o.k
  let g := o.g 3
  let r ← expandElems g k o.p
  putUnit 3 (k / g) r.1 none
  let (s, o) ← get
  set (s, { o with k := k + g, p := r.2 })

/-! The kick (R239, R244). -/

/-- The kick formats of out, A, B and C (R155, R239): none for an empty shape. -/
def VecOp.kickFmts (s : State) (o : VecOp) : List (Bool × Option Shape) → Elem (List (Option Fmt))
  | [] => .ok []
  | (wr, sh) :: r =>
    let one : Elem (Option Fmt) := match sh with
      | some sh =>
        if sh.count = 0 then .ok none
        else
          match s.kickFmt o.head wr sh with
          | .ok f => .ok (some f)
          | .fail a b d => .fail a b d
          | .halt p => .halt p
          | .zero => .zero
          | .drop => .drop
          | .stay => .stay
      | none => .ok none
    match one with
    | .ok f =>
      match VecOp.kickFmts s o r with
      | .ok fs => .ok (f :: fs)
      | e => e
    | .fail a b d => .fail a b d
    | .halt p => .halt p
    | .zero => .zero
    | .drop => .drop
    | .stay => .stay

/-- A format is one of numbers, with a geometry that agrees (R197, R198, R239). -/
def numeric (f : Option Fmt) : Bool := match f with
  | some f => !f.bad && fmtKind f.n != .none
  | none => true

/-- The kind of an operand, where it has a format. -/
def kindOf (f : Option Fmt) : Option FKind := f.map (fun f => fmtKind f.n)

/-- The kinds of the steps keep R247, with the limits on E8M0 and blocked destinations of R239. -/
def stepsOk (kinds : Nat → Option FKind) (widths : Nat → Nat) (out : Fmt) (tcode : Nat) (steps : List EStep) : Bool :=
  steps.all (fun t =>
    let code := if t.dst = 7 then out.n else tcode
    let moves := t.eop == 0x1C || t.eop == 0x1D
    let kindFor : Nat → Option FKind := fun c => if c = 7 then none else if 3 ≤ c then some (fmtKind tcode) else kinds c
    let aw := match t.srcs.head? with
      | some c => if c = 7 then 0 else if 3 ≤ c then fmtWidth tcode else widths c
      | none => 0
    eopKindOk t.eop (t.srcs.map kindFor) (fmtKind code) aw
      && (code != 27 || t.eop == 0 || moves) && (t.dst != 7 || !out.blocked || moves))

/-- The rule of a step's operands, for VMAP and VCHAIN (R239, R247, R250). -/
def VecOp.mapOk (o : VecOp) (kinds : Nat → Option FKind) : Bool :=
  let widths : Nat → Nat := fun j => match o.fmt j with
    | some a => fmtWidth a.n
    | none => 0
  match o.fmt 3 with
  | some f => stepsOk kinds widths f o.tcode o.kind.steps
  | none => true

/-- A destination that takes neither splice, E8M0 nor blocks (R239). -/
def plainOut (f : Option Fmt) : Bool :=
  match f with
  | some f => fmtKind f.n != .splice && f.n != 27 && !f.blocked
  | none => true

/-- A and B, where they have formats, have one unit size (R259, R260). -/
def unitsEq (f g : Option Fmt) : Bool :=
  match f, g with
  | some f, some g => f.unit == g.unit
  | _, _ => true

/-- An operand, where it has a format, is of integer kind. -/
def intOnly (f : Option Fmt) : Bool := kindOf f == none || kindOf f == some .int

/-- The format rules at the kick (R239, R247, R250, R257, R259, R260): each holds of the operands that have a format. -/
def VecOp.formatsOk (o : VecOp) : Bool :=
  let moves := plainOut (o.fmt 3) && unitsEq (o.fmt 0) (o.fmt 3) && o.fmts.all (fun f => match f with
    | some f => !f.blocked
    | none => true)
  let folds : Nat → Bool := fun e => plainOut (o.fmt 3) && (match o.fmt 3 with
    | some f => eopKindOk e [kindOf (o.fmt 0), kindOf (o.fmt 0)] (fmtKind f.n) 64
    | none => true)
  o.fmts.all numeric && (match o.kind with
    | .map _ none => o.mapOk (fun j => kindOf (o.fmt j))
    | .map _ (some _) => o.mapOk (fun j =>
        if j = 1 then some (match kindOf (o.fmt 0) with
          | some .float => .float
          | some .splice => .float
          | _ => .int)
        else kindOf (o.fmt j))
    | .chain c => !(c.tfmt == 0 && (match o.fmt 3 with | some f => f.blocked | none => false)) && o.mapOk (fun j => kindOf (o.fmt j))
    | .red e =>
      if e = 0x2D then
        intOnly (o.fmt 0) && intOnly (o.fmt 3) && (match o.fmt 3 with
          | some f => decide (8 ≤ fmtWidth f.n)
          | none => true)
      else folds e.toNat
    | .scan e _ => folds e.toNat
    | .gather => moves && intOnly (o.fmt 1)
    | .scatter => moves && intOnly (o.fmt 1)
    | .comp => moves
    | .expd => moves)

/-- The counts agree by the formats of the kick (R238, R255 to R260): where the issue could not read a format, only here is it
known (assumption log 15). -/
def VecOp.countsOk (o : VecOp) : Bool :=
  let n := o.count 3
  let same : Nat → Bool := fun j => (o.shape j).isNone || o.count j == n
  match o.kind with
  | .map _ _ => same 0 && same 1 && same 2
  | .chain _ => same 0 && same 1 && same 2
  | .scan _ _ => same 0
  | .red e =>
    if e = 0x2D then
      let w := fmtWidth (codeOf (o.fmt 3))
      n == (if w = 0 then o.count 0 else (8 * o.count 0 + w - 1) / w)
    else n == 1
  | .gather => same 1
  | .expd => same 1
  | .scatter => o.count 1 == o.count 0
  | .comp => o.count 1 == o.count 0

/-- The ordinals of an operation (R244). -/
def VecOp.total (o : VecOp) : Nat :=
  match o.kind with
  | .red _ => o.count 0
  | .scatter => o.count 0
  | .comp => o.count 0
  | _ => o.count 3

/-- One step of the program: a destination unit, or an ordinal of a program that goes by its sources. -/
def VecOp.unit (o : VecOp) : V Unit :=
  match o.kind with
  | .map _ _ => mapUnit
  | .chain _ => mapUnit
  | .red e => if e = 0x2D then packElem else redElem e.toNat
  | .scan e x => scanUnit e.toNat x
  | .gather => gatherUnit
  | .scatter => scatterElem
  | .comp => compElem
  | .expd => expandUnit

/-- The last step of the program: what it writes at its end. -/
def VecOp.last (o : VecOp) : V Unit :=
  match o.kind with
  | .red e => if e = 0x2D then packEnd (fmtWidth (codeOf (o.fmt 3))) (o.count 3 - o.p) else redEnd e.toNat (o.count 0)
  | .comp => if o.acc.isEmpty then pure () else putUnit 3 (o.p / o.g 3) o.acc none
  | _ => pure ()

/-- PROGRESS at the end (R244, R260). -/
def VecOp.progress (o : VecOp) : Nat :=
  match o.kind with
  | .comp => o.p
  | .expd => o.p
  | _ => o.total

/-- The first ordinal that is not done (R243, R244): that of the destination unit at hand; of VCOMP's packed unit that waits. -/
def VecOp.undone (o : VecOp) : Nat :=
  match o.kind with
  | .comp => if o.acc.isEmpty then o.k else o.first
  | _ => o.k

/-- The first ordinal of the source unit that failed, where it was one that goes by ordinals (R244). -/
def VecOp.lowered (o p : VecOp) : Nat :=
  match p.stood with
  | some 0 => o.k / o.g 0 * o.g 0
  | some 1 => o.k / o.g 1 * o.g 1
  | _ => o.k

/-- PROGRESS where an element fails: the failing ordinal, lowered to its unit's first one (R244); VSCAT has merged every ordinal
below the one whose index or table unit fails (R243, R259); the packed count where the packed side runs out (R260). -/
def VecOp.failedAt (o p : VecOp) (status : Nat) : Nat :=
  match o.kind with
  | .comp => if status = faultShape then p.p else if o.acc.isEmpty then o.lowered p else o.first
  | .expd => if status = faultShape then p.p else o.k
  | .scatter => o.lowered p
  | _ => o.k

/-- A step of the program that stops short. -/
def VecOp.stopped (o : VecOp) (s : State) (p : VecOp) (e : VStop) : EngStep VecOp :=
  let packs := match o.kind with
    | .red _ => true
    | _ => false
  let o := { o with units := p.units, old := p.old, stood := p.stood, p := if packs then p.p else o.p }
  match e with
  | .fail st r d => .done s o (resultWord st (o.failedAt p st) r) d
  | .halt w => .halt (s.pauseFor o.head w).1 { o with head := (s.pauseFor o.head w).2, pause := some w }
  | .stay => .halt s { o with pause := none }
  | .again => .go s { o with pause := none }

/-- One step of a vector operation as its program goes (R243, R244, R169). -/
def vecNext (s : State) (o : VecOp) : EngStep VecOp :=
  if s.cancelAsked o.head && (!o.kicked || decide (o.k < o.total)) then .done s o (resultWord cancelled o.undone 0) none
  else
    match o.pause with
    | some (.refused _ r) => .done s o (resultWord faultPage (if o.kicked then o.failedAt o faultPage else 0) r.code) none
    | pz =>
      if (match pz with | some q => q.stuck | none => false) then .halt s o
      else if o.kicked = false then
        match o.kickFmts s [(true, some o.out), (false, some o.a), (false, o.b), (false, o.c)] with
        | .fail st r d => .done s o (resultWord st 0 r) d
        | .halt p => .halt (s.pauseFor o.head p).1 { o with head := (s.pauseFor o.head p).2, pause := some p }
        | .ok [f3, f0, f1, f2] =>
          let o := { o with fmts := [f0, f1, f2, f3], kicked := true, pause := none }
          if o.formatsOk = false then .done s o (resultWord faultFormat 0 0) none
          else if o.countsOk = false then .done s o (resultWord faultShape 0 0) none
          else .go s o
        | _ => .halt s o
      else if o.k < o.total then
        match (o.unit.run).run (s, { o with stood := none }) with
        | (.ok _, (t, p)) => .go t { p.prune with pause := none }
        | (.error e, (t, p)) => o.stopped t p e
      else
        match (o.last.run).run (s, { o with stood := none }) with
        | (.ok _, (t, p)) => .done t p (resultWord 0 p.progress 0) none
        | (.error e, (t, p)) => o.stopped t p e

/-- One step of a vector operation (R243, R244, R169). -/
def vecStep (s : State) (o : VecOp) : EngStep VecOp := (vecNext s o).past (fun o => { o with head := o.head.over })

/-- Put the head operation of a core's vector queue back, or take it out. -/
def State.setVecHead (s : State) (core : Fin 4608) (o : Option VecOp) : State :=
  s.modCore core (fun k => { k with vecQ := match k.vecQ, o with
    | _ :: r, some p => p :: r
    | _ :: r, none => r
    | [], _ => [] })

/-- Run the head vector operation of a core for a number of steps. -/
def State.runVec (s : State) (core : Fin 4608) (fuel : Nat) : State :=
  match (s.core core).vecQ with
  | [] => s
  | o :: _ =>
    match runOp vecStep fuel s o with
    | .go t p => t.setVecHead core (some p)
    | .halt t p => t.setVecHead core (some p)
    | .done t p w d => (t.setVecHead core none).resolveOp p.head true w d

/-- VECTOR_RESOLVE (R243, R245): the head vector operation of a core runs until it resolves or stands still. -/
def execVectorResolve (core : Fin 4608) (s : State) : Host.Outcome State Fault Refusal :=
  match (s.core core).vecQ with
  | [] => .next s
  | o :: _ => s.on true (fun s => s.runVec core (128 * (o.out.count + o.a.count) + 8))

/-! The instructions (R254). -/

/-- A shape of a vector instruction, from a register number (R238). -/
def vecShape (n : Nat) : M Shape := do
  let sh ← readShape ⟨n % 32, Nat.mod_lt n (by decide)⟩
  if sh.chan.isSome then raise .shapeInvalid sh.addr else pure sh

/-- One format of every unit and width that an operand may have (R155, R238). -/
def anyFormat : List Fmt :=
  [⟨2, 0⟩, ⟨4, 0⟩, ⟨6, 0⟩, ⟨8, 0⟩, ⟨18, 0⟩, ⟨15, 0⟩] ++ [1, 2, 3].flatMap (fun b => [⟨21, b⟩, ⟨23, b⟩, ⟨25, b⟩])

/-- The formats that an operand may have, as far as they can be read at issue (R238): one, or any where its page is not
present or may not be read, or its format is one that the first access refuses (R198; assumption log 15). An empty shape has
none. -/
def formatsNow (wr : Bool) (sh : Shape) : M (List Fmt) := do
  let s ← get
  let c ← who
  match s.issueFmt c wr sh with
  | some f => pure (if f.bad then anyFormat else [f])
  | none => pure anyFormat

/-- The counts of an operand in elements, as far as its format can be read at issue (R238). -/
def countNow (wr : Bool) (sh : Shape) : M (List Nat) := do
  if sh.count = 0 then pure [0]
  else do
    let fs ← formatsNow wr sh
    pure ((fs.map (fun f => sh.count * f.group)).dedup)

/-- A count that disagrees with that of the earlier records: TVAL names the record (R238, R397). The counts that remain. -/
def sameCount (ns : List Nat) (sh : Shape) : M (List Nat) := do
  let ms ← countNow false sh
  let both := ns.filter (fun n => ms.contains n)
  if both.isEmpty then raise .shapeInvalid sh.addr else pure both

/-- The counts of the records that are there agree. -/
def sameCounts (ns : List Nat) : List (Option Shape) → M Unit
  | [] => pure ()
  | none :: r => sameCounts ns r
  | some sh :: r => do
    let ms ← sameCount ns sh
    sameCounts ms r

/-- Issue a vector operation (R242, R245): SRSEQ advances where its mode is SR (R212). The spec names no mode for VRED #PACKB, and
does not say whether it advances SRSEQ under FRM = SR: here it does (DESIGN CHOICE, assumption log 16). -/
def issueVec (h : GReg) (kind : VecKind) (out a : Shape) (b c : Option Shape) : M Flow := do
  queueRoom .vector
  countRoom
  kickRelease
  let head ← issueHead true true
  let o : VecOp :=
    { head := head, kind := kind, out := out, a := a, b := b, c := c, k := 0, p := 0, kicked := false, fmts := []
      acc := (match kind with
        | .red _ => List.replicate 16 none
        | _ => [])
      str := 0, units := [], old := none, first := 0, stood := none, pause := none }
  let draws : Bool := match kind with
    | .map _ _ => true
    | .chain _ => true
    | .red _ => true
    | .scan _ _ => true
    | _ => false
  if draws && o.mode == 5 then edit (fun x => { x with srseq := x.srseq + 1 }) else pure ()
  let x ← who
  let s ← get
  set (s.modCore x.core (fun k => { k with vecQ := k.vecQ ++ [o] }))
  setG h head.reg
  pure .next

/-- VMAP (R247, R254, R255): codes that it does not accept do not decode. -/
def execVmap (h a b : GReg) (e : BitVec 6) (s : State) : Host.Outcome State Fault Refusal :=
  run (.vmap h a b e) [] [] (do
    let out ← vecShape a.val
    let sa ← vecShape (a.val + 1)
    let n := (eopArity e.toNat).getD 0
    let sb ← if 2 ≤ n then (do
      let sh ← vecShape b.val
      pure (some sh)) else pure none
    let sc ← if 3 ≤ n then (do
      let sh ← vecShape (b.val + 1)
      pure (some sh)) else pure none
    let m ← countNow true out
    sameCounts m [some sa, sb, sc]
    issueVec h (.map e none) out sa sb sc) s

/-- VMAP.BS (R246, R254, R255). -/
def execVmapBs (h a : GReg) (b : RegCode) (e : BitVec 6) (s : State) : Host.Outcome State Fault Refusal :=
  run (.vmapBs h a b e) [b] [b] (do
    let out ← vecShape a.val
    let sa ← vecShape (a.val + 1)
    let v ← readData b
    let m ← countNow true out
    sameCounts m [some sa]
    issueVec h (.map e (some v)) out sa none none) s

/-- A source code names a temporary that no earlier step has written (R250). -/
def unwritten (seen srcs : List Nat) : Bool := srcs.any (fun c => decide (3 ≤ c ∧ c ≤ 6) && !seen.contains c)

/-- The steps of a chain record pass R250; `seen` lists the temporaries written so far. -/
def chainOk : List Nat → List (BitVec 32) → Bool
  | _, [] => true
  | seen, w :: r =>
    let t := stepOf w
    let all := [w.toNat / 2 ^ 6 % 8, w.toNat / 2 ^ 9 % 8, w.toNat / 2 ^ 12 % 8]
    (eopArity t.eop).isSome && decide (3 ≤ t.dst) && (t.dst == 7) == r.isEmpty
      && (all.drop t.srcs.length).all (fun c => c == 0) && !unwritten seen t.srcs && chainOk (t.dst :: seen) r

/-- The words of a chain record (R249). -/
def readWords (cap : Reg) : Nat → W64 → M (List (BitVec 32))
  | 0, _ => pure []
  | n + 1, addr => do
    let s ← get
    let p ← record cap ⟨[permL], .read, false, 4, 4, false⟩ addr
    let r ← readWords cap n (addr + 4)
    pure (BitVec.ofNat 32 (s.readNat p.loc 4) :: r)

/-- check_cap of a chain record of n steps at its cursor, after that of its header (R178, R250). -/
def checkChain (cap : Reg) (n : Nat) : M Unit := do
  let s ← get
  match checkCap (s.live (dieOf s.cur.core)) cap permL cap.lo (4 + 4 * n) with
  | some e => raise e cap.lo
  | none => pure ()

/-- Read and check a chain record (R250). COUNT gives its size, so its header is checked and read before the check_cap of the
record; a COUNT outside 1 to 8 gives none (DEDUCED, assumption log 16). -/
def readChain (r : GReg) (blocked : Bool) : M Chain := do
  let cap ← greg r
  let hd ← readWords cap 1 cap.lo
  let h := hd.headD 0
  let n := h.toNat % 16
  if 1 ≤ n ∧ n ≤ 8 then checkChain cap n else pure ()
  let tf := h.toNat / 2 ^ 8 % 32
  if h.toNat / 2 ^ 13 ≠ 0 ∨ n = 0 ∨ 8 < n ∨ (h.getLsbD 4 = true ∧ 6 ≤ h.toNat / 2 ^ 5 % 8) ∨ 15 ≤ tf ∨ (tf = 0 ∧ blocked) then
    raise .shapeInvalid cap.lo
  else
    let ws ← readWords cap n (cap.lo + 4)
    if chainOk [] ws then pure ⟨h, ws⟩ else raise .shapeInvalid cap.lo

/-- VCHAIN (R254, R256). -/
def execVchain (h a b c : GReg) (s : State) : Host.Outcome State Fault Refusal :=
  run (.vchain h a b c) [] [] (do
    let out ← vecShape a.val
    let sa ← vecShape (a.val + 1)
    let x ← who
    let t ← get
    let blocked := match (if out.count = 0 then none else t.issueFmt x true out) with
      | some f => f.blocked
      | none => false
    let ch ← readChain c blocked
    let rec_ ← greg c
    let used := usedOps (ch.steps.map stepOf)
    let names := used.contains 1 || used.contains 2
    if names == (b == 0) then raise .shapeInvalid rec_.lo
    else
      let sb ← if used.contains 1 then (do
        let sh ← vecShape b.val
        pure (some sh)) else pure none
      let sc ← if used.contains 2 then (do
        let sh ← vecShape (b.val + 1)
        pure (some sh)) else pure none
      let m ← countNow true out
      sameCounts m [some sa, sb, sc]
      issueVec h (.chain ch) out sa sb sc) s

/-- VRED (R254, R257). -/
def execVred (h a : GReg) (e : BitVec 6) (s : State) : Host.Outcome State Fault Refusal :=
  run (.vred h a e) [] [] (do
    let out ← vecShape a.val
    let m ← countNow true out
    if e ≠ 0x2D ∧ !m.contains 1 then raise .shapeInvalid out.addr
    let sa ← vecShape (a.val + 1)
    let n ← countNow false sa
    let fs ← if out.count = 0 then pure [⟨2, 0⟩] else formatsNow true out
    let fits := fs.any (fun f => n.any (fun n => out.count * f.group == (8 * n + fmtWidth f.n - 1) / fmtWidth f.n))
    if e = 0x2D ∧ !fits then raise .shapeInvalid sa.addr
    issueVec h (.red e) out sa none none) s

/-- VSCAN (R254, R258). -/
def execVscan (h a : GReg) (b : RegCode) (e : BitVec 6) (s : State) : Host.Outcome State Fault Refusal :=
  let i : Instr := .vscan h a b e
  run i [b] [b] (do
    let out ← vecShape a.val
    let sa ← vecShape (a.val + 1)
    let v ← readData b
    if v >>> 1 ≠ 0 then raise .illegalOperand (Instr.word i)
    else
      let m ← countNow true out
      sameCounts m [some sa]
      issueVec h (.scan e (v.getLsbD 0)) out sa none none) s

/-- An instruction of three shapes (R254): out, A, B, with the count of B that of one of the others. -/
def threeShapes (h a b : GReg) (kind : VecKind) (byOut : Bool) : M Flow := do
  let out ← vecShape a.val
  let sa ← vecShape (a.val + 1)
  let sb ← vecShape b.val
  let m ← if byOut then countNow true out else countNow false sa
  sameCounts m [some sb]
  issueVec h kind out sa (some sb) none

/-- VGATH (R254, R259). -/
def execVgath (h a b : GReg) (s : State) : Host.Outcome State Fault Refusal :=
  run (.vgath h a b) [] [] (threeShapes h a b .gather true) s

/-- VSCAT (R254, R259). -/
def execVscat (h a b : GReg) (s : State) : Host.Outcome State Fault Refusal :=
  run (.vscat h a b) [] [] (threeShapes h a b .scatter false) s

/-- VCOMP (R254, R260). -/
def execVcomp (h a b : GReg) (s : State) : Host.Outcome State Fault Refusal :=
  run (.vcomp h a b) [] [] (threeShapes h a b .comp false) s

/-- VEXPD (R254, R260). -/
def execVexpd (h a b : GReg) (s : State) : Host.Outcome State Fault Refusal :=
  run (.vexpd h a b) [] [] (threeShapes h a b .expd true) s

end Sys2Proof.Machine
end

