-- ==== Sys2Proof/Machine/Engines.lean ====
section
/-! DEFINITION. Machine/Engines.lean: the start of a queued operation (R157, R164, R242, R270, R310), and how far it comes
before anything else happens. -/
namespace Sys2Proof.Machine
open Sys2Proof

/-- The matrix commands of a core go on, each for a number of steps that are no tile steps (R270). -/
def State.runMats (s : State) (core : Fin 4608) (fuel : Nat) : State :=
  (s.core core).matQ.foldl (fun t o => t.runMat core fuel o.head.issued) s

/-- ENGINE_QUEUE_START (R155, R157, R164, R242, R270, R310): the operation at the head of an engine's queue starts, or goes on,
for `units` steps of its program, so that every place at which another agent sees it midway can be reached. -/
def execEngineQueueStart (core : Fin 4608) (e : EngineKind) (units : Nat) (s : State) : Host.Outcome State Fault Refusal :=
  s.on true (fun s => match e with
    | .copy => s.runCopy core units
    | .vector => s.runVec core units
    | .matrix => s.runMats core units
    | .integrator => s.runInt core units)

end Sys2Proof.Machine
end

