-- ==== Sys2Proof/Machine/Errors.lean ====
section
/-! DEFINITION. Machine/Errors.lean: errors of storage (R129 to R134, R412, R413), machine checks (R102, R414), and the
temperature (R432). What goes wrong, and where, comes from the outside, on the agenda. -/
namespace Sys2Proof.Machine
open Sys2Proof

/-! Fields of event records that the spec does not state are free values (assumption log 1). -/

/-- An event record whose severity, unit and link the spec does not state. -/
def State.openRec (s : State) (code : Nat) (link : Option Nat) (detail : Nat) : EvRec :=
  s.evRec code (Config.freeNat s.fresh % 2 ^ 8) (Config.freeNat (s.fresh + 1) % 2 ^ 8)
    (link.getD (Config.freeNat (s.fresh + 2))) detail
/-- Three free values have been used. -/
def State.takeThree (s : State) : State := { s with fresh := s.fresh + 3 }

/-! Machine check (R414). -/

/-- The completion words of the RUNNING and QUEUED tasks of a partition (R414 step 4); the RESULT of a running one is free. -/
def State.failTasks (s : State) (p : Fin 64) : State :=
  (s.part p).tasks.foldl (fun t k =>
    match k.state with
    | .queued => t.complete p k.recd.cdva (completionWord 0 0 0x8301)
    | .running => t.takeFresh.complete p k.recd.cdva (completionWord (BitVec.ofNat 32 (Config.freeNat t.fresh)) 0 0x8301)
    | _ => t) s

/-- A machine check with a source unit and DETAIL (R414, R430): everything stops; the dump is written; 0x0405 goes out; the
completion words are written. The LINK word of the record is not stated: a free value. -/
def State.machineCheck (s : State) (unit detail : Nat) : State :=
  let e := s.evRec 0x0405 3 unit (Config.freeNat s.fresh) detail
  let s := { s.takeFresh with mcheck := true, dump := some (BitVec.ofNat 64 s.timeNs, e) }
  let s := match s.fw.update with
    | .idle => s
    | _ => { s with fw := { s.fw with update := .idle, result := 4 } }
  let s := (s.toPfs e).toVfs e
  (s.parts.map (fun p => Fin.ofNat 64 p.1)).foldl State.failTasks s

/-- A machine check whose DETAIL the spec does not state. -/
def State.checkUnit (s : State) (unit : Nat) : State := s.takeFresh.machineCheck unit (Config.freeNat s.fresh)

/-- The source units that the spec names: dies, links, base dies, the I/O die (R117, R413, R432). -/
def knownUnit (u : Nat) : Bool := (0x10 ≤ u && u < 0x14) || (0x20 ≤ u && u < 0x24) || (0x30 ≤ u && u < 0x38) || u == 0x60

/-- A CXL port stops its IDE streams (R428). -/
def State.stopIde (s : State) (port : Nat) : State :=
  { s with ide := Sparse.put s.ide port { Sparse.get ⟨[], false⟩ s.ide port with stopped := true } }

/-- MACHINE_CHECK (R414, R428, R432): a cause that comes from the outside: a junction at 115 °C, an IDE integrity failure. R428 does
not give the unit and DETAIL of the latter's record: a unit that no rule names stands for it, with the port in DETAIL, and the port
stops its streams (DESIGN CHOICE, assumption log 32). -/
def execMachineCheck (unit : BitVec 8) (detail : BitVec 32) (s : State) : Host.Outcome State Fault Refusal :=
  s.on true (fun s => (if knownUnit unit.toNat then s else s.stopIde (detail.toNat % 4)).machineCheck unit.toNat detail.toNat)

/-- LAY_CHANNEL_FAIL (R102, R414): a failed channel is a machine check, whose unit and DETAIL are not stated. -/
def execLayChannelFail (_ch : Fin 208) (s : State) : Host.Outcome State Fault Refusal :=
  s.on true (fun s => s.takeFresh.checkUnit (Config.freeNat s.fresh % 2 ^ 8))

/-! Storage (R412, R413). -/

/-- The units of event records: 0x10 and the die of a core, 0x30 and a base die. -/
def dieUnit (d : Fin 4) : Nat := 0x10 + d.val

/-- A lasting error is counted in a die's error record (R419). -/
def State.countLasting (s : State) (d : Fin 4) : State := s.modDie d (fun x => { x with lastErr := x.lastErr + 1 })
/-- A corrected SECDED error is counted (R412, R419). -/
def State.countSecded (s : State) (d : Fin 4) : State := s.modDie d (fun x => { x with secErr := x.secErr + 1 })

/-- A register bank goes out of service (R413): its contexts end, and the task is aborted or the slot unbound, at once or when
firmware acts again (R430); 0x0402 goes to every PF and to the VF of the aborted task. -/
def State.retireSlot (s : State) (sl : SlotId) : State :=
  let die := dieOf sl.core
  let part := s.partOf sl
  let e := s.evRec 0x0402 2 (dieUnit die) (sl.core.val + sl.slot.val * 2 ^ 16) (s.die die).regErr.toNat
  let task := if s.slotHeld sl then s.taskOf sl else none
  let s := match task with
    | some t => (if s.firmwareActs then s else s.clearSlot sl).abortTask part t
    | none => if s.slotHeld sl then (if s.firmwareActs then s.unbindSlot sl else s.clearSlot sl) else s
  let s := (s.modSlot sl (fun q => { q with retired := true })).countLasting die
  let s := if task.isSome then s.toPart part e else s
  s.toPfs e

/-- An error of a local-store bank (R131 to R133): a lasting one marks the bank failed and raises 0x0401; any
further error, or a second failed bank, is then a machine check. -/
def State.bankError (s : State) (core : Fin 4608) (bank : Fin 39) (lasting : Bool) : State :=
  let die := dieOf core
  let k := s.core core
  if lasting then
    match k.failed with
    | none =>
      let e := s.evRec 0x0401 2 (dieUnit die) (core.val + bank.val * 2 ^ 16) k.transient.toNat
      ((s.modCore core (fun k => { k with failed := some bank })).countLasting die).toPfs e
    | some b => if b = bank then s else s.checkUnit (dieUnit die)
  else if k.failed = some bank then s
  else if k.failed.isSome then s.checkUnit (dieUnit die)
  else (s.modCore core (fun k => { k with transient := k.transient + 1 })).modDie die (fun x => { x with lsErr := x.lsErr + 1 })

/-- A lasting error of a weight-store row (R412): the row moves to a spare, of 64 for each bank group, and 0x0403 goes out;
with no spare left it is corrected on every read. -/
def State.rowError (s : State) (die : Fin 4) (g : Fin 8) : State :=
  let left := Sparse.get 64 (s.die die).spares g.val
  let s := s.countLasting die
  if left = 0 then s
  else
    let s := s.modDie die (fun x => { x with spares := Sparse.put x.spares g.val (left - 1) })
    s.toPfs (s.evRec 0x0403 2 (dieUnit die) g.val (left - 1))

/-- A lasting error of a way of a memory-side cache (R412): its lines are written back and leave it; which of the lines it holds
are that way's is open (R10). -/
def State.wayError (s : State) : State :=
  let keep := ((List.range s.sideCache.length).zip s.sideCache).filter (fun p => Config.freeBit (s.fresh + p.1))
  { s with sideCache := keep.map (fun p => p.2), fresh := s.fresh + s.sideCache.length }

/-- The leaf of a page whose frames hold an HBM frame (R412). -/
def State.leafOver (s : State) (part : Fin 64) (dva : W64) (frame : Nat) : Option Leaf :=
  match s.walk (s.part part).ptroot dva with
  | .ok l =>
    let f := pteFrame l.pte
    if (pteMT l.pte = 0 ∨ pteMT l.pte = 4) ∧ f ≤ frame * 4096 ∧ frame * 4096 < f + l.size then some l else none
  | .error _ => none

/-- The bytes and tags of a range of HBM move to another (R412). -/
def State.moveHbm (s : State) (from_ to_ n : Nat) : State :=
  let bs := s.readBytes (.hbm from_) n
  let ts := s.tags.filter (fun p => decide (from_ ≤ p.1) && decide (p.1 < from_ + n))
  let t : State := { s with mem := dropRange s.mem to_ (to_ + n), tags := dropRange s.tags to_ (to_ + n) }
  ts.foldl (fun u p => u.setTagAt (p.1 - from_ + to_) p.2) (t.writeBytes (.hbm to_) bs)

/-- Some leaf of a partition's tables maps an HBM frame (R73, R412). -/
def State.tableMaps (s : State) (frame : Nat) : Nat → Nat → Bool
  | 0, tbl => (List.range 512).any (fun i => let p := s.hbm64 (tbl + 8 * i)
      pteV p && pteL p && (pteMT p == 0 || pteMT p == 4) && pteFrame p == frame * 4096)
  | l + 1, tbl => (List.range (if l = 3 then 256 else 512)).any (fun i => let p := s.hbm64 (tbl + 8 * i)
      pteV p && (if pteL p then
          (pteMT p == 0 || pteMT p == 4) && decide (pteFrame p ≤ frame * 4096 ∧ frame * 4096 < pteFrame p + entryBytes (l + 1))
        else State.tableMaps s frame l (pteFrame p)))

/-- Some partition maps an HBM frame. -/
def State.frameMapped (s : State) (frame : Nat) : Bool := s.parts.any (fun p => s.tableMaps frame 4 p.2.ptroot.toNat)

/-- How many of `n` frames from frame `a` on lie on a base die. -/
def framesOn (base a n : Nat) : Nat := (a + n + 7 - base) / 8 - (a + 7 - base) / 8

/-- A lasting error of HBM (R412): the page that holds the frame moves to a fresh frame, named by the service, and is shot down;
0x0404 goes out. A page that no partition maps only goes out of service. -/
def State.frameError (s : State) (base : Fin 8) (frame : Nat) (part : Fin 64) (dva : W64) (fresh : Nat) : State :=
  let bad : State → Nat → Nat → State := fun s f n =>
    let s := { s with badFrames := (f, n) :: s.badFrames }
    let count := s.badFrames.foldl (fun k q => k + framesOn base.val (q.1 / 4096) (q.2 / 4096)) 0
    s.toPfs (s.evRec 0x0404 2 (0x30 + base.val) frame count)
  match s.leafOver part dva frame with
  | none => if s.frameMapped frame then s else bad s (frame * 4096) 4096
  | some l =>
    let f := pteFrame l.pte
    if s.frameFree part fresh l.size then
      let s := (s.moveHbm f fresh l.size).setHbm64 l.pteAt (withFrame l.pte fresh)
      let s := s.modPart part (fun p => { p with pool := p.pool.map (fun q => if q.1 = f then (fresh, q.2) else q) })
      let s := (s.part part).files.foldl (fun t i =>
        let e := t.pcEntry part i
        if t.pcFrame e = f then t.setHbm64 (e + 40) (BitVec.ofNat 64 fresh) else t) s
      bad (s.tlbDrop part (BitVec.ofNat 64 l.vbase) (BitVec.ofNat 64 l.size)) f l.size
    else s

/-- STORAGE_ERROR (R131, R132, R412, R413): an error is transient, lasting or beyond correction. -/
def execStorageError (w : StorageWhere) (lasting uncorr : Bool) (s : State) : Host.Outcome State Fault Refusal :=
  s.on true (fun s =>
    match w with
    | .registers sl =>
      if lasting || uncorr then (if (s.slot sl).retired then s else s.retireSlot sl)
      else s.modDie (dieOf sl.core) (fun x => { x with regErr := x.regErr + 1 })
    | .localBank core bank => if uncorr then s.checkUnit (dieUnit (dieOf core)) else s.bankError core bank lasting
    | .sideArray core =>
      if uncorr then s.checkUnit (dieUnit (dieOf core))
      else (s.modCore core (fun k => { k with transient := k.transient + 1 })).modDie (dieOf core) (fun x => { x with lsErr := x.lsErr + 1 })
    | .secded core =>
      if uncorr then s.checkUnit (dieUnit (dieOf core))
      else if lasting then s.countLasting (dieOf core)
      else s.countSecded (dieOf core)
    | .weightStore die g =>
      if uncorr then s.checkUnit (dieUnit die) else if lasting then s.rowError die g else s.countSecded die
    | .sideCache base => if uncorr then s.checkUnit (0x30 + base.val) else if lasting then s.wayError else s
    | .hbmFrame base frame part dva fresh =>
      if uncorr then s.checkUnit (0x30 + base.val)
      else if lasting ∧ frame.toNat % 8 = base.val then s.frameError base frame.toNat part dva fresh
      else s)

/-! Temperature (R432): in tenths of a degree. -/

/-- THERMAL_WARNING (R432): at 105 °C 0x0601 goes out and no new slot is bound; 115 °C stops the device. -/
def execThermalWarning (temp : BitVec 32) (s : State) : Host.Outcome State Fault Refusal :=
  s.on (decide (1050 ≤ temp.toNat)) (fun s =>
    if 1150 ≤ temp.toNat then s.checkUnit 0x60
    else if s.thermal then s
    else ({ s.takeThree with thermal := true } : State).toPfs (s.openRec 0x0601 none temp.toNat))

/-- THERMAL_CLEAR (R432): below 100 °C slots are bound again. -/
def execThermalClear (temp : BitVec 32) (s : State) : Host.Outcome State Fault Refusal :=
  s.on (decide (temp.toNat < 1000)) (fun s => { s with thermal := false })

end Sys2Proof.Machine
end

