-- ==== Sys2Proof/Machine/Tenants.lean ====
section
/-! DEFINITION. Machine/Tenants.lean: the slot table (R118, R120, R364, R410, R436), the placement of a task and the
eviction and restore of slots (R369, R370), and the clock (R371, R432). What firmware chooses comes with the step, on the
agenda. -/
namespace Sys2Proof.Machine
open Sys2Proof

/-! Binding (R364). -/

/-- The integrator banks of a slot (R436), as a mask. -/
def banksFor (mode lslot : Nat) (none_ : Bool) : BitVec 8 :=
  if none_ then 0
  else match mode with
    | 0 => 0xFF
    | 1 => BitVec.ofNat 8 (0xF * 2 ^ (4 * lslot))
    | _ => BitVec.ofNat 8 (0x3 * 2 ^ (2 * lslot))

/-- The bound slots of a core. -/
def State.boundOf (s : State) (core : Fin 4608) : List SlotId :=
  (allSlots.map (fun k => (⟨core, k⟩ : SlotId))).filter s.slotHeld

/-- A local-store slot of a core is free for a bind record, and the mode of the core is the record's (R118). -/
def State.roomFor (s : State) (core : Fin 4608) (rec : BindRec) : Bool :=
  decide (rec.mode.toNat ≤ 2) && (if rec.none_ then rec.lslot == 0 else decide (rec.lslot.toNat < 2 ^ rec.mode.toNat)) &&
    (s.boundOf core).all (fun sl =>
      let b := (s.slot sl).bind
      b.mode == rec.mode && (b.none_ || rec.none_ || b.lslot != rec.lslot))

/-- A slice length is one that R360 and R366 allow. -/
def sliceOk (n : Nat) : Bool := decide (1024 ≤ n) && decide (n ≤ 16777215)

/-- More than one tenant would hold slots only in SHARED mode (R371). -/
def State.clockAllows (s : State) (p : Fin 64) : Bool := !s.clock.solo || s.tenants.all (fun q => q == p)

/-- A save area lies in HBM that no pool, no dump or handover record and no other save area takes (R365, R415, R431): no capability of a tenant reaches
it. -/
def State.saveFree (s : State) (save : Nat) : Bool :=
  decide (save + saveSize ≤ Config.handoverBase)
    && s.parts.all (fun p => p.2.ranges.all (fun q => decide (save + saveSize ≤ q.1) || decide (q.1 + q.2 ≤ save)))
    && !s.saveAreas.contains save

/-- Firmware may bind a slot with a record (R118, R364, R371, R413, R430, R432, R436). -/
def State.mayBind (s : State) (sl : SlotId) (rec : BindRec) : Bool :=
  let p := s.part rec.part
  s.firmwareActs && !s.thermal && rec.valid && !s.slotHeld sl && !(s.slot sl).retired && p.assigned
    && !(s.vf p.vf).teardown && s.roomFor sl.core rec && s.clockAllows rec.part
    && rec.banks == banksFor rec.mode.toNat rec.lslot.toNat rec.none_ && sliceOk rec.slice.toNat
    && !(s.shoots.any (fun h => h.part == rec.part && pageIn h.base h.len (some (serviceArea sl, 0x16000))))
    && rec.ptroot == p.ptroot && rec.pctb == p.pctb && rec.save.toNat % 0x400000 == 0 && s.saveFree rec.save.toNat
    && (if rec.supv then rec.taskid == 0 && (s.slotsOfPart rec.part).all (fun t => !(s.slot t).bind.supv) else rec.taskid != 0)

/-- Zero a slot's local store and clear its tags (R120). -/
def State.scrub (s : State) (core : Fin 4608) (lslot mode : Nat) : State :=
  let base := lsBase + core.val * 0x40000 + lslot * slotRows mode * 37 * 8
  { s with mem := dropRange s.mem base (base + slotBytes mode), tags := dropRange s.tags base (base + slotBytes mode) }

/-- Bind a slot (R120, R160, R171, R291, R364, R410): its service area is mapped with the frames, of which the rest is left. -/
def State.bindSlot (s : State) (sl : SlotId) (rec : BindRec) (frames : List Nat) : Option State :=
  match s.mapPages rec.part 0x2F (servicePages sl) frames with
  | none => none
  | some (s, _) =>
    let s := if rec.none_ then s else s.scrub sl.core rec.lslot.toNat rec.mode.toNat
    let s := (ctxsOf sl).foldl (fun t c => t.setCtx c Ctx.reset) s
    let s := { s with doms := s.doms.map (fun (y : SyncDom) => { y with joined := y.joined.filter (fun c => c.sl != sl) }) }
    let s := s.modCore sl.core (fun k => { k with banks := k.banks.filter (fun b => !rec.banks.getLsbD b.1) })
    some (s.setSlot sl { Slot.reset with
      phase := .bound, bind := rec, sliceLen := rec.slice.toNat, retired := (s.slot sl).retired, heldAt := s.cycle })

/-- A step whose outcome exists only where firmware's choice fits. -/
def State.onSome (s : State) (due : Bool) (f : State → Option State) : Host.Outcome State Fault Refusal :=
  s.on due (fun s => (f s).getD s)

/-- SLOT_BIND (R364). -/
def execSlotBind (sl : SlotId) (rec : BindRec) (frames : List Nat) (s : State) : Host.Outcome State Fault Refusal :=
  s.onSome (s.mayBind sl rec) (fun s => s.bindSlot sl rec frames)

/-- SLOT_UNBIND (R364): a slot in which no context is nested in a domain of another tenant (R387). -/
def execSlotUnbind (sl : SlotId) (s : State) : Host.Outcome State Fault Refusal :=
  s.on (s.slotHeld sl && s.firmwareActs && !s.nestedSlot sl) (fun s => s.unbindSlot sl)

/-! Placement (R362, R369). -/

/-- A task of a partition by its TASKID. -/
def Partition.task (p : Partition) (id : W64) : Option Task := p.tasks.find? (fun t => t.recd.taskid == id)
/-- The priority of a task (R360). -/
def Task.prio (t : Task) : Nat := t.recd.mode.toNat / 4 % 4
/-- The slot mode that a task asks for (R360). -/
def Task.mode (t : Task) : Nat := t.recd.mode.toNat % 4

/-- The region of a core under PLACE (R360): the device, its die, its cluster. -/
def placeRegion (place : Nat) (core : Fin 4608) : Nat :=
  match place with
  | 0 => 0
  | 1 => (dieOf core).val
  | _ => (clusterOf core).val
/-- The cores of a region, and the regions. -/
def placeSize (place : Nat) : Nat × Nat :=
  match place with
  | 0 => (4608, 1)
  | 1 => (1152, 4)
  | _ => (8, 576)

/-- The cores that some test takes out of use. -/
def State.lostCores (s : State) (lost : Fin 4608 → Bool) : List (Fin 4608) :=
  ((s.slotIds.map (fun sl => sl.core)).dedup).filter lost

/-- No region of PLACE has as many cores left as a task needs. -/
def State.tooFew (s : State) (t : Task) (lost : Fin 4608 → Bool) : Bool :=
  let place := t.recd.place.toNat % 4
  let out := s.lostCores lost
  (List.range (placeSize place).2).all (fun r =>
    decide ((placeSize place).1 - out.countP (fun c => placeRegion place c == r) < t.recd.ncore))

/-- Every slot of a core is out of service (R413). -/
def State.coreGone (s : State) (core : Fin 4608) : Bool := allSlots.all (fun k => (s.slot ⟨core, k⟩).retired)

/-- A core has no slot for a task while the slots that satisfy a test stay (R118, R364). -/
def State.fullWith (s : State) (t : Task) (stays : SlotId → Bool) (core : Fin 4608) : Bool :=
  let bound := (s.boundOf core).filter stays
  let used := bound.filter (fun sl => !(s.slot sl).bind.none_)
  allSlots.all (fun k => bound.contains ⟨core, k⟩ || (s.slot ⟨core, k⟩).retired)
    || bound.any (fun sl => (s.slot sl).bind.mode.toNat != t.mode) || decide (2 ^ t.mode ≤ used.length)

/-- A core will have no slot for a task: a slot that firmware evicts already does not count (R369). -/
def State.coreFull (s : State) (t : Task) (core : Fin 4608) : Bool := s.fullWith t (fun sl => !(s.slot sl).going) core

/-- A core would have no slot for a task even without those that may be evicted for it (R369). -/
def State.coreShut (s : State) (t : Task) (core : Fin 4608) : Bool :=
  s.fullWith t (fun sl => (s.slot sl).bind.supv || decide (t.prio < (s.slot sl).bind.prio.toNat)) core

/-- The cores of a region of PLACE that stay when some test takes cores out. -/
def State.coresLeft (s : State) (t : Task) (lost : Fin 4608 → Bool) (region : Nat) : Nat :=
  let place := t.recd.place.toNat % 4
  (placeSize place).1 - (s.lostCores lost).countP (fun c => placeRegion place c == region)

/-- The core is one of those that a launch evicts slots of: its region can take the launch and needs the fewest cores, and a
core of it whose eviction is begun and does not suffice goes first (R369). -/
def State.victimCore (s : State) (t : Task) (core : Fin 4608) : Bool :=
  let place := t.recd.place.toNat % 4
  let r := placeRegion place core
  let can : Nat → Bool := fun q => decide (t.recd.ncore ≤ s.coresLeft t (s.coreShut t) q)
  s.coreFull t core && !s.coreShut t core && can r
    && (List.range (placeSize place).2).all (fun q => !can q || decide (s.coresLeft t (s.coreFull t) q ≤ s.coresLeft t (s.coreFull t) r))
    && (s.slotIds.filter (fun sl => (s.slot sl).going && placeRegion place sl.core == r)).all (fun sl =>
      sl.core == core || !s.coreFull t sl.core || s.coreShut t sl.core)

/-- The bind record of a task's slot, as firmware writes it (R364). -/
def State.taskBind (s : State) (p : Fin 64) (t : Task) (k : SlotPick) : BindRec :=
  let lslot := k.lslot.getD 0
  { valid := true
    mode := BitVec.ofNat 2 t.mode
    lslot := lslot
    none_ := k.lslot.isNone
    prio := BitVec.ofNat 2 t.prio
    part := p
    banks := banksFor t.mode lslot.toNat k.lslot.isNone
    supv := false
    slice := if t.recd.slice = 0 then 35000 else t.recd.slice
    ptroot := (s.part p).ptroot
    pctb := (s.part p).pctb
    save := k.save
    taskid := t.recd.taskid
    accdva := k.accdva }

/-- The slots that firmware picks are NCORE cores of one region (R360). -/
def picksOk (t : Task) (picks : List SlotPick) : Bool :=
  let cores := picks.map (fun k => k.sl.core)
  let place := t.recd.place.toNat % 4
  picks.length == t.recd.ncore && cores.dedup.length == cores.length
    && cores.all (fun c => some (placeRegion place c) == (cores.head?.map (placeRegion place)))

/-- Bind the picked slots one after another. -/
def State.bindPicks (p : Fin 64) (t : Task) : List SlotPick → State → Option State
  | [], s => some s
  | k :: r, s =>
    let br := s.taskBind p t k
    if s.mayBind k.sl br then
      match s.bindSlot k.sl br k.frames with
      | some u => State.bindPicks p t r u
      | none => none
    else none

/-- A task does not run (R361). -/
def State.notRun (s : State) (p : Fin 64) (t : Task) (lreason : BitVec 8) : State := s.finishTask p t 0x8001 lreason 0

/-- TASK_PLACE (R361, R362, R369): the slots of a PLACING task are bound; where PLACE cannot be met, the task does not run. -/
def execTaskPlace (part : Fin 64) (task : W64) (picks : List SlotPick) (s : State) : Host.Outcome State Fault Refusal :=
  match (s.part part).task task with
  | none => .next s
  | some t =>
    s.onSome (t.state == .placing && s.firmwareActs) (fun s =>
      if s.tooFew t s.coreGone then some (s.notRun part t 4)
      else if picksOk t picks then
        (State.bindPicks part t picks s).map (fun u => u.modPart part (fun q => q.modTask t.order (fun v =>
          { v with state := .loading, slots := picks.map (fun k => k.sl) })))
      else none)

/-! Eviction and restore (R369, R370). -/

/-- The rank of a slot among the victims of its core: priority, then the acceptance order of its task. -/
def State.victimRank (s : State) (sl : SlotId) : Nat × Nat :=
  ((s.slot sl).bind.prio.toNat, (s.taskOf sl).elim 0 (fun t => t.order))

/-- A slot goes before another as a victim. -/
def State.victimLe (s : State) (a b : SlotId) : Bool :=
  let x := s.victimRank a
  let y := s.victimRank b
  decide (x.1 < y.1) || (x.1 == y.1 && decide (x.2 ≤ y.2))

/-- Firmware may choose a slot as a victim: for a PLACING task that finds too few cores, of no lower priority; never a
supervisor slot (R369). -/
def State.isVictim (s : State) (sl : SlotId) : Bool :=
  let b := (s.slot sl).bind
  !b.supv && s.firmwareActs
    && ((s.boundOf sl.core).filter (fun t => !(s.slot t).bind.supv && (s.slot t).phase == .bound)).all (fun t => s.victimLe sl t)
    && s.parts.any (fun p => p.2.tasks.any (fun t =>
      t.state == .placing && decide (b.prio.toNat ≤ t.prio) && s.tooFew t (s.coreFull t) && s.victimCore t sl.core))

/-- The number of the outermost frame of a stack that lies in another tenant's domain. -/
def Ctx.outerForeign (x : Ctx) : Option Nat := leastDepth (fun j => (x.bight j).any (fun b => b.foreign)) 1 x.depth

/-- An eviction does not wait for a context: no frame of it lies in another tenant's domain, or the run limit of the outermost
such frame has been charged, which is what makes it expired (R383, R384). -/
def Ctx.mayLeave (x : Ctx) : Bool :=
  !x.live || (match x.outerForeign with
    | some j => x.expired j
    | none => true)

/-- What an eviction waits for (R369, R384): engine operations, the matrix queue, and frames in other tenants' domains. -/
def State.mayLeave (s : State) (sl : SlotId) : Bool :=
  let k := s.core sl.core
  let other : OpHead → Bool := fun h => h.owner.sl != sl
  k.copyQ.all (fun o => other o.head) && k.vecQ.all (fun o => other o.head) && k.matQ.all (fun o => other o.head)
    && k.intQ.all (fun o => other o.head) && k.syncs.all (fun o => other o.head)
    && (ctxsOf sl).all (fun c => (s.ctx c).mayLeave)

/-- The local store of a slot as an address range of its save area (R365). -/
def saveStore (b : BindRec) : Nat := b.save.toNat + 0x8000

/-- Copy the bytes and tags of `n` units of 16 bytes. -/
def State.copyUnits (s : State) (src dst : Loc) : Nat → State
  | 0 => s
  | n + 1 =>
    let bs := s.readBytes src 16
    let t := s.tagAt (src.tagKey 0)
    State.copyUnits ((s.writeBytes dst bs).setTagAt (dst.tagKey 0) t) (src.plus 16) (dst.plus 16) n

/-- The accumulator set of a core is stored for its owner where a slot owns it (R278). -/
def State.storeSet (s : State) (sl : SlotId) : State :=
  if s.accOwned sl.core && ((s.core sl.core).accown.owner sl.core).sl == sl then s.spillAcc sl.core else s

/-- The 16 bytes of a neuron entry (R292). -/
def Neuron.bytes (c : Neuron) : List Byte :=
  bytesLE 8 c.v.toNat ++ bytesLE 4 c.tlast.toNat ++ bytesLE 2 c.rc.toNat ++ bytesLE 2 (c.ft.toNat * 2 ^ 15)

/-- The resident bights of a context, in their places of its domain-stack area (R365, R380). -/
def State.saveBights (area : Nat) (s : State) (c : CtxId) : State :=
  let x := s.ctx c
  (List.range x.resident).foldl (fun t i =>
    let j := x.depth - i
    match x.bight j with
    | some b => t.writeBytes (.hbm (area + 4096 * c.ctx.val + 512 * ((j - 1) % 8))) b.bytes
    | none => t) s

/-- The images that an eviction writes to the save area (R365): the local store, the resident bights and the neuron entries
in the forms that the spec gives; context images and the slot state in forms that it does not give: free bytes (assumption
log 14). -/
def State.saveImages (s : State) (sl : SlotId) : State :=
  let b := (s.slot sl).bind
  let base := b.save.toNat
  let s := s.copyUnits (s.slotLoc sl 0) (.hbm (saveStore b)) (b.size / 16)
  let s := (s.scribble (.hbm base) (11 * 2048)).scribble (.hbm (base + 0x6000)) 0x2000
  let s := (ctxsOf sl).foldl (State.saveBights (base + 0x40000)) s
  ((List.range 8).filter (fun i => b.banks.getLsbD i)).foldl (fun t i =>
    let k := (t.core sl.core).bank i
    (List.range 256).foldl (fun u n => u.writeBytes (.hbm (base + 0x80000 + 4096 * i + 16 * n)) (k.cell n).bytes) t) s

/-- A slot goes to its save area and leaves its core (R365, R369). What is under way for its contexts, and what waits for
them at the hanks, stands until it is restored (R370). -/
def State.evict (s : State) (sl : SlotId) : State :=
  let b := (s.slot sl).bind
  let s := (s.storeSet sl).saveImages sl
  let k := s.core sl.core
  let mine : Nat → Bool := fun i => b.banks.getLsbD i
  let own : CtxId → Bool := fun c => c.sl == sl
  let v : Saved :=
    { sl := sl
      slot := { s.slot sl with phase := .bound, sliced := false, drowsy := false, waking := none }
      ctxs := (ctxsOf sl).map s.ctx
      banks := k.banks.filter (fun p => mine p.1)
      events := k.events.filter (fun e => mine e.bank)
      stores := s.stores.filter (fun r => own r.ctx)
      acks := s.acks.filter (fun r => own r.ctx)
      evmsgs := s.evmsgs.filter (fun r => own r.ctx)
      arrivals := s.arrivals.filter (fun p => own (arrivalCtx p.1))
      seen := s.seen.filter (fun p => own (arrivalCtx p.1)) }
  let out := (s.slot sl).retired
  let s := s.modCore sl.core (fun k => { k with banks := k.banks.filter (fun p => !mine p.1) })
  let set_ := (s.core sl.core).accown
  let s := if set_.v && set_.slot.toNat == sl.slot.val then s.clearAcc sl.core else s
  let s := s.modCore sl.core (fun k => { k with
    events := k.events.filter (fun e => !mine e.bank) })
  let s := s.modWaiters (clusterOf sl.core) (fun l => l.map (fun w =>
    if w.ctx.sl == sl && w.away.isNone then { w with away := some (b.part, b.taskid) } else w))
  let s := (ctxsOf sl).foldl (fun t c => t.setCtx c Ctx.reset) (s.dropFlying own)
  { s.setSlot sl { Slot.reset with retired := out } with saved := s.saved ++ [v] }

/-- SLOT_EVICT (R369): firmware chooses the slot; when what the eviction waits for is done, the core stops issuing for it and
remote accesses to it are answered with retry replies; then the slot goes. -/
def execSlotEvict (sl : SlotId) (s : State) : Host.Outcome State Fault Refusal :=
  match (s.slot sl).phase with
  | .bound => s.on (s.isVictim sl) (fun s => s.modSlot sl (fun q => { q with phase := .leaving }))
  | .leaving => s.on (s.firmwareActs && s.mayLeave sl) (fun s =>
    (s.stepDown sl).modSlot sl (fun q => { q with phase := .evicting }))
  | .evicting => s.on s.firmwareActs (fun s => s.evict sl)
  | .unbound => .next s

/-- Load a watched word again (R342): a new value makes the context READY; the granule keeps a monitor entry where one is
free. -/
def State.recheck (s : State) (c : CtxId) (w : Watch) (k : Watch → CtxStatus) : State :=
  let free := decide (s.monitors c.core ≤ 8)
  if w.hit || BitVec.ofNat 128 (s.readNat w.loc w.size) != w.value then s.modCtx c (fun x => { x with status := x.awake })
  else s.modCtx c (fun x => { x with status := k { w with monitored := w.monitored && free, readAt := s.cycle } })

/-- What a restored context does at once (R335, R342): a watched word is loaded again, and a phase that has completed meanwhile
completes its PHASE. -/
def State.wakeRestored (s : State) (c : CtxId) : State :=
  let x := s.ctx c
  match x.status with
  | .belayed w => s.recheck c w (fun w => .belayed w)
  | .parked w => s.recheck c w (fun w => .parked w)
  | .waiting (.phase n p) =>
    if s.domNext (s.partOf c.sl) (x.domReg n.val) != p then s.passOn c 4 else s
  | _ => s

/-- The requests of a restored slot stand at their hanks again, in their places, and are served where a hank is not idle (R356,
R370). -/
def State.rejoin (s : State) (sl : SlotId) (b : BindRec) : State :=
  let n := clusterOf sl.core
  let mine : HankWait → Bool := fun w => w.ctx.sl == sl && w.away == some (b.part, b.taskid)
  ([0, 1, 2, 3] : List (Fin 4)).foldl (fun t h =>
    let k := (t.cluster n).hank h
    let back := (k.waiters.filter mine).map (fun w => { w with away := none })
    if back.isEmpty then t
    else if k.state = .idle then
      t.modCluster n (fun u => u.setHank h { k with waiters := k.waiters.map (fun w => if mine w then { w with away := none } else w) })
    else
      (t.modCluster n (fun u => u.setHank h { k with waiters := k.waiters.filter (fun w => !mine w) })).serveHank n h back) s

/-- What is under way for the contexts of a restored slot goes on (R370). -/
def State.refly (s : State) (v : Saved) : State :=
  { s with
    stores := s.stores ++ v.stores, acks := s.acks ++ v.acks, evmsgs := s.evmsgs ++ v.evmsgs
    arrivals := v.arrivals.foldl (fun l p => Sparse.put l p.1 p.2) s.arrivals
    seen := v.seen.foldl (fun l p => Sparse.put l p.1 p.2) s.seen }

/-- Room in the queue of a core for the events of a restored slot (R298). -/
def State.eventRoom (s : State) (core : Fin 4608) : Nat := 1024 - (s.core core).events.length

/-- A slot comes back from its save area (R370): queued events for which the core's queue has no room stand in its overflow area
(R298). -/
def State.restore (s : State) (v : Saved) : State :=
  let room := s.eventRoom v.sl.core
  let mine : Nat → Bool := fun i => v.slot.bind.banks.getLsbD i
  let s := s.setSlot v.sl { v.slot with
    retired := (s.slot v.sl).retired, heldAt := s.cycle, used := 0, evtOvf := v.slot.evtOvf ++ v.events.drop room }
  let s := (allCtx.zip v.ctxs).foldl (fun t p => t.setCtx ⟨v.sl.core, v.sl.slot, p.1⟩ p.2) s
  let s := s.modCore v.sl.core (fun k => { k with
    banks := v.banks.foldl (fun l p => Sparse.put l p.1 p.2) (k.banks.filter (fun p => !mine p.1))
    events := k.events ++ v.events.take room })
  let s := s.copyUnits (.hbm (saveStore v.slot.bind)) (s.slotLoc v.sl 0) (v.slot.bind.size / 16)
  ((ctxsOf v.sl).foldl State.wakeRestored (s.refly v)).rejoin v.sl v.slot.bind

/-- Firmware may restore a slot (R118, R298, R370, R371, R413). -/
def State.mayRestore (s : State) (v : Saved) : Bool :=
  s.firmwareActs && !s.slotHeld v.sl && !(s.slot v.sl).retired && s.roomFor v.sl.core v.slot.bind
    && s.clockAllows v.slot.bind.part && decide (v.slot.evtOvf.length + (v.events.length - s.eventRoom v.sl.core) ≤ 65536)

/-- SLOT_RESTORE (R370): the n-th of the evicted slots, to the same core, slot, local-store slot and mode. -/
def execSlotRestore (sl : SlotId) (n : Nat) (s : State) : Host.Outcome State Fault Refusal :=
  match s.saved[n]? with
  | none => .next s
  | some v => s.on (v.sl == sl && s.mayRestore v) (fun s => { s with saved := s.saved.eraseIdx n }.restore v)

/-! The clock (R371, R432). -/

/-- CLOCK_MODE_CHANGE (R371): SHARED at any time; SOLO where one tenant alone holds slots, 1 ms after the last other
tenant's slot was unbound. -/
def execClockModeChange (solo : Bool) (s : State) : Host.Outcome State Fault Refusal :=
  s.on (s.firmwareActs && (!solo || (s.tenants.length == 1 && decide (s.clock.shared + 1000000 ≤ s.timeNs))))
    (fun s => if solo = s.clock.solo then s else { s with clock := { s.clock with solo := solo, mhz := 700 } })

/-- POWER_CAP_CLOCK_STEP (R371, R432): in SOLO mode the clock steps between 700 and 820 MHz. -/
def execPowerCapClockStep (mhz : Fin 1024) (s : State) : Host.Outcome State Fault Refusal :=
  s.on (s.clock.solo && decide (700 ≤ mhz.val) && decide (mhz.val ≤ 820))
    (fun s => { s with clock := { s.clock with mhz := mhz.val } })

end Sys2Proof.Machine
end

