-- ==== Sys2Proof/Machine/Launch.lean ====
section
/-! DEFINITION. Machine/Launch.lean: launch records (R360 to R363), the states of a task (R362), the loading of an image (R29 to
R32, R439) and the end of a task (R361, R372). -/
namespace Sys2Proof.Machine
open Sys2Proof

/-! Launch records (R360). -/

/-- A little-endian number of `n` bytes at an offset of a record. -/
def fieldAt (bs : List Byte) (o n : Nat) : Nat := ofBytesLE ((bs.drop o).take n)
/-- Bytes of a record are zero. -/
def zeroAt (bs : List Byte) (o n : Nat) : Bool := ((bs.drop o).take n).all (fun b => b == 0)

/-- A launch record from its 128 bytes. -/
def LaunchRec.ofBytes (bs : List Byte) : LaunchRec :=
  let w : Nat → W64 := fun o => BitVec.ofNat 64 (fieldAt bs o 8)
  let ndep := fieldAt bs 56 1
  { taskid := w 0
    image := w 8
    args := [w 16, w 24, w 32, w 40]
    ncore := fieldAt bs 48 2
    mode := BitVec.ofNat 8 (fieldAt bs 50 1)
    place := BitVec.ofNat 8 (fieldAt bs 51 1)
    slice := BitVec.ofNat 32 (fieldAt bs 52 4)
    ndep := BitVec.ofNat 8 ndep
    deps := [w 64, w 72, w 80, w 88].take ndep
    cdva := w 96
    zeros := zeroAt bs 57 7 && zeroAt bs 104 24 && zeroAt bs (64 + 8 * ndep) (32 - 8 * ndep) }

/-- Firmware accepts a record of a partition; one that fails is refused with LREASON 2 (R360). -/
def LaunchRec.ok (p : Partition) (r : LaunchRec) : Bool :=
  r.zeros && decide (r.mode.toNat < 16) && decide (r.mode.toNat % 4 ≤ 2) && decide (r.place.toNat ≤ 2)
    && decide (r.ndep.toNat ≤ 4) && decide (1 ≤ r.ncore) && decide (r.ncore ≤ 4608)
    && (r.slice == 0 || sliceOk r.slice.toNat) && r.taskid != 0 && (p.task r.taskid).isNone
    && r.deps.all (fun d => (p.task d).isSome) && r.cdva.toNat % 8 == 0

/-- Firmware takes a record of a partition: it is accepted, or refused and counted (R360, R362, R424). -/
def State.acceptRecord (s : State) (part : Fin 64) (bs : List Byte) : State :=
  let r := LaunchRec.ofBytes bs
  let p := s.part part
  if r.ok p then
    { s.modPart part (fun q => { q with tasks := q.tasks ++ [⟨r, .queued, 0, 0, 0, [], s.accepted, false⟩] }) with accepted := s.accepted + 1 }
  else
    let s := s.modVf p.vf (fun v => { v with refused := v.refused + 1 })
    s.complete part r.cdva (completionWord 0 2 0x8001)

/-- The copy of a record from the launch window (R423). A word of it that the host has written since TAIL took it in is old or
new: free choices (assumption log 1). -/
def State.copyRecord (s : State) (v : Fin 64) (i : Nat) : List Byte :=
  let q := s.vf v
  (List.range 16).flatMap (fun k =>
    let o := 128 * (i % 256) + 8 * k
    let now := (List.range 8).map (fun j => Sparse.get (0 : Byte) q.window (o + j))
    match (q.stale.filter (fun w => w.1 == o)).map (fun w => bytesLE 8 w.2.toNat) with
    | [] => now
    | old => ((now :: old)[Config.freeNat (s.fresh + k) % (old.length + 1)]?).getD now)

/-- The record at HEAD of a VF's window has been copied: HEAD passes it (R423). -/
def State.passHead (s : State) (v : Fin 64) : State :=
  let s := s.modVf v (fun q => { q with
    head := q.head + 1, stale := q.stale.filter (fun w => w.1 / 128 != q.head.toNat % 256) })
  { s with fresh := s.fresh + 16 }

/-- LAUNCH_RECORD_ACCEPT (R360, R363, R423): from the device queue, or the record at HEAD of the VF's window. -/
def execLaunchRecordAccept (part : Fin 64) (dev : Bool) (s : State) : Host.Outcome State Fault Refusal :=
  let p := s.part part
  let v := s.vf p.vf
  if dev then
    match p.devQueue with
    | [] => .next s
    | bs :: r =>
      s.on (s.firmwareActs && p.assigned && !v.teardown)
        (fun s => (s.modPart part (fun q => { q with devQueue := r })).acceptRecord part bs)
  else
    s.on (s.firmwareActs && p.assigned && !v.teardown && v.head != v.tail)
      (fun s => (s.passHead p.vf).acceptRecord part (s.copyRecord p.vf v.head.toNat))

/-! Dependences (R361, R362). -/

/-- A dependence is done with STATUS 0x0000. -/
def Partition.depMet (p : Partition) (d : W64) : Bool := (p.task d).any (fun t => t.state == .done && t.status == 0)
/-- A dependence has failed. -/
def Partition.depFailed (p : Partition) (d : W64) : Bool := (p.task d).any (fun t => t.state == .done && t.status != 0)
/-- A QUEUED task whose dependences are met. -/
def Partition.startable (p : Partition) (t : Task) : Bool := t.state == .queued && t.recd.deps.all p.depMet

/-- A task goes before another: the higher priority, then the earlier accepted (R362). -/
def Task.before (a b : Task) : Bool := decide (b.prio < a.prio) || (a.prio == b.prio && decide (a.order ≤ b.order))

/-- TASK_DEPENDENCES_MET (R362): to PLACING, the highest priority first; or the task does not run. -/
def execTaskDependencesMet (part : Fin 64) (task : W64) (s : State) : Host.Outcome State Fault Refusal :=
  let p := s.part part
  match p.task task with
  | none => .next s
  | some t =>
    s.on (t.state == .queued && s.firmwareActs) (fun s =>
      if t.recd.deps.any p.depFailed then s.notRun part t 3
      else if p.startable t && s.parts.all (fun q => q.2.tasks.all (fun u => !q.2.startable u || t.before u)) then
        s.modPart part (fun q => q.modTask t.order (fun u => { u with state := .placing }))
      else s)

/-! Images (R29 to R31). -/

/-- A section of an image (R30). -/
structure Section where
  kind  : Nat
  foff  : Nat
  fsize : Nat
  msize : Nat
deriving DecidableEq, Repr

/-- A fix-up of an image (R31). -/
structure FixUp where
  kind   : Nat
  sect   : Nat
  loc    : Nat
  target : Nat
deriving DecidableEq, Repr

/-- What the loader uses of an image (R29). -/
structure Image where
  entry    : Nat
  stack    : Nat
  granules : List Byte
  secs     : List Section
  fixes    : List FixUp
deriving DecidableEq, Repr

/-- The pages of `n` bytes from a DVA on translate. -/
def State.readable (s : State) (p : Fin 64) (dva : Nat) : Nat → Bool
  | 0 => true
  | n + 1 => (s.partLoc p (BitVec.ofNat 64 dva)).isSome && State.readable s p (dva / 4096 * 4096 + 4096) n

/-- `n` bytes at a DVA of a partition, where all of them translate. -/
def State.fetchBytes (s : State) (p : Fin 64) (dva n : Nat) : Option (List Byte) :=
  let pages := (dva % 4096 + n + 4095) / 4096
  if dva + n ≤ 2 ^ 64 && s.readable p dva pages then some (s.partRead p n (BitVec.ofNat 64 dva)) else none

/-- The section entries of a table. -/
def sectionsOf (bs : List Byte) (n : Nat) : List Section :=
  (List.range n).map (fun i =>
    let o := 48 * i
    ⟨fieldAt bs (o + 16) 4, fieldAt bs (o + 24) 8, fieldAt bs (o + 32) 8, fieldAt bs (o + 40) 8⟩)

/-- The fix-up entries of a table. -/
def fixesOf (bs : List Byte) (n : Nat) : List FixUp :=
  (List.range n).map (fun i =>
    let o := 24 * i
    ⟨fieldAt bs o 4, fieldAt bs (o + 4) 4, fieldAt bs (o + 8) 8, fieldAt bs (o + 16) 8⟩)

/-- A fix-up names a location inside a section and a source. -/
def Image.fixOk (g : Image) (f : FixUp) : Bool :=
  decide (1 ≤ f.kind) && decide (f.kind ≤ 3) && f.loc % 16 == 0 && (match g.secs[f.sect]? with
    | some c => decide (f.loc + 16 ≤ c.msize)
    | none => false)

/-- The section of a kind: 1 `.text`, 2 `.data`, 3 `.ls`. -/
def Image.sec (g : Image) (kind : Nat) : Option Section := g.secs.find? (fun c => c.kind == kind)

/-- The image at a DVA of a partition, where it can be read (R29, R361). -/
def State.imageAt (s : State) (p : Fin 64) (dva : W64) : Option Image :=
  match s.fetchBytes p dva.toNat 128 with
  | none => none
  | some h =>
    let nsec := fieldAt h 6 2
    let nfix := fieldAt h 24 4
    if h.take 6 ≠ [0x4C, 0x5A, 0x49, 0x4D, 1, 0] then none
    else
      match s.fetchBytes p (dva.toNat + fieldAt h 32 8) (48 * nsec), s.fetchBytes p (dva.toNat + fieldAt h 40 8) (24 * nfix) with
      | some st, some ft =>
        let g : Image := ⟨fieldAt h 8 8, fieldAt h 16 8, (h.drop 64).take 64, sectionsOf st nsec, fixesOf ft nfix⟩
        if (g.sec 1).isSome && g.fixes.all g.fixOk
            && g.secs.all (fun c => decide (c.fsize ≤ c.msize) && (s.fetchBytes p (dva.toNat + c.foff) c.fsize).isSome) then some g
        else none
      | _, _ => none

/-! Loading (R32, R439). -/

/-- The image fits the slot of a bind record (R32 step 1). -/
def Image.fits (g : Image) (b : BindRec) : Bool :=
  (match g.sec 3 with
    | some c => decide (c.msize ≤ b.size)
    | none => true) && (g.granules.drop b.granules).all (fun x => x == 0)

/-- Permissions of dd and of `.data` (R32). -/
def dataPerms : BitVec 12 := permL ||| permS ||| permLC ||| permSC ||| permA ||| permE

/-- Where the parts of an image lie: the capabilities to `.text` and `.data`. -/
structure Placed where
  text : Reg
  data : Reg
deriving DecidableEq, Repr

/-- dd of a slot (R32). -/
def ddOf (root : BitVec 12) (b : BindRec) : Reg := mkCapRange dataPerms root 0 b.size 0
/-- The capability to a section that is placed at a DVA. -/
def secCap (perms root : BitVec 12) (at_ : W64) (c : Option Section) : Reg :=
  match c with
  | some c => mkCapRange perms root at_.toNat (at_.toNat + c.msize) at_
  | none => Reg.zero

/-- The 4 KiB pages that a range touches. -/
def pagesOf (lo hi : Nat) : List Nat := (List.range ((hi + 4095) / 4096 - lo / 4096)).map (fun i => (lo / 4096 + i) * 4096)
/-- The pages under a capability's bounds. -/
def capPages (r : Reg) : List Nat := if r.tag = 1 then pagesOf (capBase r) (capTop r) else []

/-- No part of a placement lies in the service range (R410). -/
def outsideService (ps : List Nat) : Bool := ps.all (fun d => decide (d + 4096 ≤ 0x00FFFF0000000000) && decide (2 ^ 32 ≤ d))

/-- The bytes that the file holds of a section; the rest loads as zero (R30). -/
def State.sectionBytes (s : State) (p : Fin 64) (image : W64) (c : Section) : List Byte :=
  s.partRead p c.fsize (image + BitVec.ofNat 64 c.foff)

/-- Store a tagged register at a location. -/
def State.putReg (s : State) (l : Loc) (r : Reg) : State :=
  (s.writeBytes l (bytesLE 16 r.bits.toNat)).setTagAt (l.tagKey 0) (r.tag == 1)

/-- The capability that a fix-up stores (R31, R32 step 4): the source with its cursor at the offset TARGET. -/
def FixUp.cap (f : FixUp) (dd : Reg) (q : Placed) : Reg :=
  let src := match f.kind with
    | 1 => dd
    | 2 => q.text
    | _ => q.data
  let to_ := BitVec.ofNat 64 (capBase src + f.target)
  let r := src.withCursor to_
  if src.tag = 1 ∧ representable src to_ then r else ⟨r.bits, 0⟩

/-- Apply the fix-ups whose location lies in the section of a kind; `at_` gives the place of an offset of it. -/
def State.applyFixes (s : State) (g : Image) (kind : Nat) (dd : Reg) (q : Placed) (at_ : State → Nat → Option Loc) : State :=
  (g.fixes.filter (fun f => (g.secs[f.sect]?).any (fun c => c.kind == kind))).foldl (fun t f =>
    match at_ t f.loc with
    | some l => t.putReg l (f.cap dd q)
    | none => t) s

/-- Load the local store of a slot (R32 step 2): `.ls`, GRANULES and its fix-ups. -/
def State.loadSlot (p : Fin 64) (image : W64) (g : Image) (q : Placed) (s : State) (sl : SlotId) : State :=
  let b := (s.slot sl).bind
  let s := match g.sec 3 with
    | some c => (s.writeBytes (s.slotLoc sl 0) (s.sectionBytes p image c)).zeroBytes (s.slotLoc sl c.fsize) (c.msize - c.fsize)
    | none => s
  let lsg := ((List.range b.granules).zip g.granules).foldl
    (fun l (v : Nat × Byte) => if v.2 = 0 then l else Sparse.put l v.1 v.2) ([] : Sparse (BitVec 8))
  let s := s.modSlot sl (fun k => { k with lsg := lsg })
  s.applyFixes g 3 (ddOf (s.part p).root b) q (fun t o => some (t.slotLoc sl o))

/-- Context 0 as a task starts it (R32 step 5, R373). -/
def startCtx (root : BitVec 12) (q : Placed) (entry : Nat) (stack dd : Reg) (args : List W64) (x : Ctx) : Ctx :=
  let y : Ctx := { Ctx.reset with
    status := .ready, pcc := q.text.withCursor (BitVec.ofNat 64 (capBase q.text + entry)), dom := root
    hslots := x.hslots, hserial := x.hserial, rings := x.rings, ports := x.ports }
  let y := (y.setReg 2 stack).setReg 3 dd
  let y := ([4, 5, 6, 7] : List (Fin 32)).zip args |>.foldl (fun z a => z.setReg a.1 (Reg.data a.2)) y
  (y.setReg 8 q.text).setReg 9 q.data

/-- The stack capability of a slot's context 0 (R32). -/
def stackCap (root : BitVec 12) (at_ : W64) (n : Nat) : Reg :=
  mkCapRange (permL ||| permS ||| permLC ||| permSC) root at_.toNat (at_.toNat + n) (at_ + BitVec.ofNat 64 n)

/-- Start context 0 of a slot (R32, R275). -/
def State.startSlot (p : Fin 64) (g : Image) (q : Placed) (args : List W64) (s : State) (k : SlotId × W64) : State :=
  let c : CtxId := ⟨k.1.core, k.1.slot, 0⟩
  let root := (s.part p).root
  (s.dropImage c).modCtx c (startCtx root q g.entry (stackCap root k.2 g.stack) (ddOf root (s.slot k.1).bind) args)

/-- The level-4 domain of a task of more than one core (R372). -/
def taskDom (taskid : W64) (slots : List SlotId) : DomReg :=
  let cores := (slots.map (fun sl => sl.core.val)).mergeSort (fun a b => decide (a ≤ b))
  ⟨true, taskid.setWidth 16, 4, 1, cores, 0, 0⟩

/-- Place, load and start an image on slots of a partition (R32, R439): `.text`, `.data` and a stack for each slot, on fresh
pages made from the frames. Where a size does not encode exactly (R176), the bounds are the least that encode and hold it,
and a `.text` or `.data` base that they would move is not taken, nor one that is no multiple of 16, where a fix-up would not
give a tagged capability (assumption log 27). -/
def State.loadImageOn (s : State) (p : Fin 64) (image : W64) (g : Image) (slots : List SlotId) (args : List W64)
    (textAt dataAt : W64) (stackAt : List W64) (frames : List Nat) : Option State :=
  let root := (s.part p).root
  let q : Placed := ⟨secCap (permL ||| permX) root textAt (g.sec 1), secCap dataPerms root dataAt (g.sec 2)⟩
  let stks := stackAt.map (fun a => stackCap root a g.stack)
  let spages := stks.flatMap capPages
  if stackAt.length ≠ slots.length ∨ outsideService (capPages q.text ++ capPages q.data ++ spages) = false
      ∨ textAt.toNat % 16 ≠ 0 ∨ dataAt.toNat % 16 ≠ 0 ∨ capBase q.text ≠ textAt.toNat ∨ (q.data.tag = 1 ∧ capBase q.data ≠ dataAt.toNat) then none
  else
    match s.mapPages p 0x37 (capPages q.text) frames with
    | none => none
    | some (s, frames) =>
      match s.mapPages p 0x2F (capPages q.data ++ spages) frames with
      | none => none
      | some (s, _) =>
        let put : State → Nat → W64 → State := fun t kind at_ => match g.sec kind with
          | some c => t.partWrite p (t.sectionBytes p image c) at_
          | none => t
        let s := put (put s 1 textAt) 2 dataAt
        let dd := ddOf root ((slots.head?).elim BindRec.none (fun sl => (s.slot sl).bind))
        let s := s.applyFixes g 1 dd q (fun t o => t.partLoc p (textAt + BitVec.ofNat 64 o))
        let s := s.applyFixes g 2 dd q (fun t o => t.partLoc p (dataAt + BitVec.ofNat 64 o))
        let s := slots.foldl (State.loadSlot p image g q) s
        some ((slots.zip stackAt).foldl (State.startSlot p g q args) s)

/-- DM0 of each context 0 of a task of more than one core (R372). -/
def State.installTask (s : State) (taskid : W64) (slots : List SlotId) : State :=
  if slots.length ≤ 1 then s
  else slots.foldl (fun t sl => t.installDom ⟨sl.core, sl.slot, 0⟩ 0 (taskDom taskid slots)) s

/-- The supervisor slot of a partition, with context 0 not live. -/
def State.idleSupervisor (s : State) (p : Fin 64) : Option SlotId :=
  (s.slotsOfPart p).find? (fun sl => (s.slot sl).bind.supv && !(s.ctx ⟨sl.core, sl.slot, 0⟩).live)

/-- Four argument words that no record gives: free values (assumption log 1). -/
def State.freeArgs (s : State) : List W64 := (List.range 4).map (fun i => BitVec.ofNat 64 (Config.freeNat (s.fresh + i)))

/-- IMAGE_LOAD (R32, R361, R362, R372): the image of a LOADING task, on every one of its cores; TASKID 0 means the
supervisor image (R422). -/
def execImageLoad (part : Fin 64) (task textAt dataAt : W64) (stackAt : List W64) (frames : List Nat) (s : State) :
    Host.Outcome State Fault Refusal :=
  if task = 0 then
    match s.idleSupervisor part, s.imageAt part (s.part part).supImage with
    | some sl, some g =>
      s.onSome (s.firmwareActs && g.fits (s.slot sl).bind) (fun s =>
        ({ s with fresh := s.fresh + 4 } : State).loadImageOn part (s.part part).supImage g [sl] s.freeArgs textAt dataAt stackAt
          frames)
    | _, _ => .next s
  else
    match (s.part part).task task with
    | none => .next s
    | some t =>
      s.onSome (t.state == .loading && s.firmwareActs && t.slots.all (fun sl => s.present part sl && !s.copyingWeights part (dieOf sl.core)))
        (fun s =>
          match s.imageAt part t.recd.image with
          | none => some (s.notRun part t 5)
          | some g =>
            if t.slots.all (fun sl => g.fits (s.slot sl).bind) then
              (s.loadImageOn part t.recd.image g t.slots t.recd.args textAt dataAt stackAt frames).map (fun u =>
                (u.installTask task t.slots).modPart part (fun q => q.modTask t.order (fun v => { v with state := .running })))
            else some (s.notRun part t 1))

/-! The end of a task (R361, R372). -/

/-- A slot of a running task has ended: context 0 has completed EXIT. -/
def State.slotEnded (s : State) (p : Fin 64) (sl : SlotId) : Bool :=
  s.slotHeld sl && s.partOf sl == p && !(s.ctx ⟨sl.core, sl.slot, 0⟩).live

/-- TASK_DONE (R361, R362, R372): every context 0 has exited; the slots are unbound and the completion word is written. An
abort that waited for firmware is made (R430). -/
def execTaskDone (part : Fin 64) (task : W64) (s : State) : Host.Outcome State Fault Refusal :=
  match (s.part part).task task with
  | none => .next s
  | some t =>
    if t.abort then s.on s.firmwareActs (fun s => s.abortTask part t)
    else s.on (t.state == .running && s.firmwareActs && t.slots.all (fun sl => s.slotEnded part sl && !s.nestedSlot sl))
      (fun s => s.finishTask part t 0 0 ((s.taskResult part t).getD 0))

end Sys2Proof.Machine
end

