-- ==== Sys2Proof/Machine/Sreg.lean ====
section
/-! DEFINITION. Machine/Sreg.lean: the special registers (R233) and SRD and SWR (R231, R232, R399). -/
namespace Sys2Proof.Machine
open Sys2Proof

/-! Rights (R233). -/

/-- Who asks: a task context, one with supervisor rights, or the dispatch firmware. -/
inductive Right where
  | task | sup | disp
deriving DecidableEq, Repr

/-- Who may: all, the supervisor and the firmware, the firmware, none. -/
inductive Allow where
  | all | sup | disp | none
deriving DecidableEq, Repr

/-- A right suffices. -/
def Allow.ok (a : Allow) (r : Right) : Bool :=
  match a with
  | .all => true
  | .sup => r != .task
  | .disp => r == .disp
  | .none => false

/-- Who may read a special register (R233). -/
def sregReadBy (n : Nat) : Allow :=
  if n = 0x021 ∨ 0x100 ≤ n ∧ n ≤ 0x109 then .sup else if 0x200 ≤ n then .disp else .all

/-- Who may write a special register (R233). -/
def sregWriteBy (n : Nat) : Allow :=
  if 0x003 ≤ n ∧ n ≤ 0x00C ∨ n = 0x013 ∨ n = 0x014 ∨ 0x080 ≤ n ∧ n ≤ 0x0BF then .all
  else if n = 0x020 ∨ n = 0x021 ∨ n = 0x023 ∨ 0x100 ≤ n ∧ n ≤ 0x102 ∨ n = 0x109 then .sup
  else if n = 0x200 ∨ n = 0x201 ∨ 0x203 ≤ n ∧ n ≤ 0x205 then .disp
  else .none

/-- The right of a context. -/
def State.rightOf (s : State) (c : CtxId) : Right := if s.isSup c then .sup else .task

/-! Values. -/

/-- CTXID (R234). -/
def State.ctxid (s : State) (c : CtxId) : W64 :=
  BitVec.ofNat 64 ((s.partOf c.sl).val * 2 ^ 40 + c.core.val * 2 ^ 26 + c.slot.val * 2 ^ 24 + c.ctx.val * 2 ^ 20)

/-- TSTAT, lower half (R399). -/
def TStat.low (t : TStat) : W128 :=
  (t.loopc.setWidth 128 <<< 64) ||| BitVec.ofNat 128 (t.repc.toNat * 2 ^ 48 + t.repi.toNat * 2 ^ 32 + t.pfr.toNat * 2 ^ 28
    + t.uw.toNat * 2 ^ 27 + t.suph.toNat * 2 ^ 25 + t.inh.toNat * 2 ^ 24)
/-- TSTAT, upper half (R399). -/
def TStat.high (t : TStat) : W128 := (t.loope.setWidth 128 <<< 64) ||| t.loopb.setWidth 128

/-- TSTAT as SWR writes it: SUPH and INH are read-only (R399). -/
def TStat.written (t : TStat) (lo hi : W128) : TStat :=
  { loope := hi.extractLsb' 64 64, loopb := hi.extractLsb' 0 64, loopc := lo.extractLsb' 64 64
    repc := lo.extractLsb' 48 16, repi := lo.extractLsb' 32 16, pfr := lo.extractLsb' 28 4, uw := lo.getLsbD 27
    suph := t.suph, inh := t.inh }

/-- PORTSTAT (R192). -/
def State.portstat (s : State) (c : CtxId) : W64 :=
  let x := s.ctx c
  let four : List (Fin 4) := [0, 1, 2, 3]
  let bits : (Fin 4 → Bool) → Nat := fun f => (four.map (fun m => if f m then 2 ^ m.val else 0)).sum
  BitVec.ofNat 64 (x.drops.toNat * 2 ^ 32 + bits (fun m => !(x.port m).latch.isEmpty) * 2 ^ 28
    + bits (fun m => (x.port m).bound) * 2 ^ 24 + bits (fun k => (x.ring k).bound) * 2 ^ 20
    + bits (fun k => !((s.slot c.sl).ovfFor c.ctx k).isEmpty) * 2 ^ 16)

/-- GSTAT (R381). -/
def Ctx.gstat (x : Ctx) : W64 :=
  let caller := match x.bight x.depth with
    | some b => b.caller
    | none => x.dom
  (x.runLeft <<< 32) ||| BitVec.ofNat 64
    (x.cdepth.toNat * 2 ^ 27 + x.creason.toNat * 2 ^ 24 + caller.toNat * 2 ^ 12 + x.dom.toNat)

/-- LSMODE (R119). -/
def lsmodeOf (b : BindRec) : W64 :=
  BitVec.ofNat 64 (b.none_.toNat * 2 ^ 4 + (if b.none_ then 0 else b.lslot.toNat) * 2 ^ 2 + b.mode.toNat)

/-- PHTAG (R105). -/
def Ctx.phtag (x : Ctx) : W64 := BitVec.ofNat 64 (x.phaseTag.val * 2 ^ 4 + x.dsel.toNat)

/-- LSECC (R134). -/
def Core.lsecc (k : Core) : W64 :=
  (k.transient.setWidth 64 <<< 32) ||| (match k.failed with
    | some b => BitVec.ofNat 64 (2 ^ 15 + b.val * 2 ^ 8)
    | none => 0)

/-- ACCSAVEn (R275): the save area of a slot that the reader's tenant holds on its core. -/
def State.accsave (s : State) (c : CtxId) (n : Fin 4) : Reg :=
  let q := s.slot ⟨c.core, n⟩
  if s.slotHeld ⟨c.core, n⟩ && q.bind.part == s.partOf c.sl then
    mkCapRange (permL ||| permS ||| permE) (s.part q.bind.part).root q.bind.accdva.toNat
      (q.bind.accdva.toNat + 11 * imageBytes) q.bind.accdva
  else Reg.zero

/-- The value of a special register, as a register holds it; TSTAT gives its lower half (R232, R233). -/
def State.sreg (s : State) (c : CtxId) (n : Nat) : Reg :=
  let x := s.ctx c
  let q := s.slot c.sl
  let k := s.core c.core
  let u := s.cluster (clusterOf c.core)
  let die := s.die (dieOf c.core)
  let part := (s.partOf c.sl).val
  match n with
  | 0x000 => Reg.data (s.ctxid c)
  | 0x001 => Reg.data (BitVec.ofNat 64 s.cycle)
  | 0x002 => Reg.data (q.time.setWidth 64)
  | 0x003 => Reg.data (x.frm.setWidth 64)
  | 0x004 => Reg.data (x.fflags.setWidth 64)
  | 0x005 => Reg.data x.srseed
  | 0x006 => Reg.data x.srseq
  | 0x007 => Reg.data (x.dscope.setWidth 64)
  | 0x008 => x.tvec
  | 0x009 => Reg.data (x.tcause.setWidth 64)
  | 0x00A => Reg.data x.tval
  | 0x00B => Reg.data x.tpc
  | 0x00C => ⟨x.tstat.low, 0⟩
  | 0x00D => Reg.data x.loopc
  | 0x00E => Reg.data x.loopb
  | 0x00F => Reg.data x.loope
  | 0x010 => Reg.data (x.repc.setWidth 64)
  | 0x011 => Reg.data (x.repi.setWidth 64)
  | 0x012 => Reg.data (BitVec.ofNat 64 x.usc)
  | 0x013 => Reg.data x.phtag
  | 0x014 => Reg.data (ofBool x.htrapEn)
  | 0x015 => Reg.data x.gstat
  | 0x016 => Reg.data (BitVec.ofNat 64 (x.resident * 2 ^ 5 + x.depth))
  | 0x017 => Reg.data (x.belays.setWidth 64)
  | 0x018 => Reg.data (x.domReg 0).word
  | 0x019 => Reg.data (x.domReg 1).word
  | 0x01A => Reg.data (x.domReg 2).word
  | 0x01B => Reg.data (x.domReg 3).word
  | 0x01C => Reg.data (x.domReg 4).word
  | 0x01D => Reg.data (x.domReg 5).word
  | 0x020 => Reg.data k.accown.word
  | 0x021 => Reg.data (k.mxw.setWidth 64)
  | 0x022 => Reg.data (lsmodeOf q.bind)
  | 0x023 => Reg.data (BitVec.ofNat 64 (q.used % 2 ^ 32 * 2 ^ 32 + q.sliceLen))
  | 0x040 => Reg.data (s.portstat c)
  | 0x100 => Sparse.get Reg.zero die.svec part
  | 0x101 => Sparse.get Reg.zero die.ssp part
  | 0x102 => Sparse.get Reg.zero die.sdd part
  | 0x104 => s.accsave c 0
  | 0x105 => s.accsave c 1
  | 0x106 => s.accsave c 2
  | 0x107 => s.accsave c 3
  | 0x108 => Reg.data (q.smiss.setWidth 64)
  | 0x109 => Reg.data q.dsbase
  | 0x200 => Reg.data q.bind.ptroot
  | 0x201 => Reg.data q.bind.pctb
  | 0x202 => Reg.data k.lsecc
  | 0x203 => Reg.data u.wbgrant0
  | 0x204 => Reg.data u.wbgrant1
  | 0x205 => Reg.data u.hkgrant
  | _ => Reg.data ((Sparse.get 0 q.lsg (n - 0x080)).setWidth 64)

/-! Writes. -/

/-- A register that holds a capability or data 0 takes a source (R232), or the trap. -/
def capSource (v : Reg) : Option Cause :=
  if v.tag = 3 then some .capSealed
  else if v.tag = 1 ∨ v.tag = 0 ∧ v.bits = 0 then none
  else some .capTag

/-- The registers of R232 that hold a capability or data 0 and can be written. -/
def isCapSreg (n : Nat) : Bool := n == 0x008 || decide (0x100 ≤ n ∧ n ≤ 0x102)

/-- A context of a slot holds a spilled bight (R380). -/
def State.spilled (s : State) (sl : SlotId) : Bool :=
  (ctxsOf sl).any (fun c => decide ((s.ctx c).resident < (s.ctx c).depth))

/-- A granted region whose byte changes loses its panels (R264); `n` is the grant register. -/
def Cluster.setGrant (u : Cluster) (n : Fin 2) (v : W64) : Cluster :=
  let old := if n = 0 then u.wbgrant0 else u.wbgrant1
  let v := v &&& 0xBFBFBFBFBFBFBFBF
  let moved : Nat → Bool := fun r =>
    r / 8 == n.val && (old.extractLsb' (r % 8 * 8) 8 != v.extractLsb' (r % 8 * 8) 8)
  let u := { u with panels := u.panels.filter (fun p => !((List.range p.count).any (fun i => moved (p.region + i)))) }
  if n = 0 then { u with wbgrant0 := v } else { u with wbgrant1 := v }

/-- The byte of a region in the grant registers (R264). -/
def Cluster.grantByte (u : Cluster) (r : Nat) : BitVec 8 := (if r < 8 then u.wbgrant0 else u.wbgrant1).extractLsb' (r % 8 * 8) 8

/-- WBGRANT0 or WBGRANT1 of a cluster is written (R264): the commands that wait for a panel that becomes invalid have lost
it, and so have the started ones whose regions change hands. -/
def State.setGrant (s : State) (cl : Fin 576) (n : Fin 2) (v : W64) : State :=
  let after := (s.cluster cl).setGrant n v
  let moved : Nat → Bool := fun r => (s.cluster cl).grantByte r != after.grantByte r
  let gone := ((s.cluster cl).panels.filter (fun p => !after.panels.contains p)).map (fun p => p.region)
  let mark : MatOp → MatOp := fun o => match o.kind with
    | .mma _ b _ =>
      if (if o.started then (List.range o.count).any (fun i => moved (o.first + i)) else gone.contains (wordRegion b)) then
        { o with lost := true }
      else o
    | .mldb _ => if o.started && (List.range o.count).any (fun i => moved (o.first + i)) then { o with lost := true } else o
    | _ => o
  (coresOf cl).foldl (fun t c =>
    if (t.core c).matQ.isEmpty then t else t.modCore c (fun k => { k with matQ := k.matQ.map mark }))
    (s.modCluster cl (fun _ => after))

/-- A hank whose grant changes becomes IDLE (R355), with no request. -/
def Cluster.setHanks (u : Cluster) (v : W64) : Cluster :=
  let v := v &&& 0x00000000BFBFBFBF
  let keep : Nat → Bool := fun h => u.hkgrant.extractLsb' (h % 4 * 8) 8 == v.extractLsb' (h % 4 * 8) 8
  { u with hkgrant := v, hanks := u.hanks.filter (fun p => keep p.1) }

/-- Write a special register of a context, its slot, core, cluster or partition (R232): what it refuses traps
ILLEGAL_OPERAND, with the instruction word `w`. A supervisor register reaches the copy of every die (R400). Flags of engines that
resolve in the same cycle are ORed in after an SWR of FFLAGS (R237). The spec gives no TVAL of the CAP_SEALED or CAP_TAG of a
register that takes a capability: here it is reg(a)[63:0] (DESIGN CHOICE, assumption log 6). -/
def sregWrite (w : W64) (c : CtxId) (n : Nat) (r : Reg) : M Unit := fun s =>
  let v := r.lo
  let ctx : (Ctx → Ctx) → Except Stop (Unit × State) := fun f => .ok ((), s.modCtx c f)
  let refuse : Except Stop (Unit × State) := .error (.trap ⟨.illegalOperand, w, 0, false⟩)
  let part := (s.partOf c.sl).val
  let cl := clusterOf c.core
  if isCapSreg n then
    match capSource r with
    | some e => .error (.trap ⟨e, v, 0, false⟩)
    | none =>
      match n with
      | 0x008 => ctx (fun x => { x with tvec := r })
      | 0x100 => .ok ((), s.modDies (fun d => { d with svec := Sparse.put d.svec part r }))
      | 0x101 =>
        if r.tag = 1 ∧ lacks r (permL ||| permS ||| permLC ||| permSC) then refuse
        else .ok ((), s.modDies (fun d => { d with ssp := Sparse.put d.ssp part r }))
      | _ => .ok ((), s.modDies (fun d => { d with sdd := Sparse.put d.sdd part r }))
  else
    match n with
    | 0x003 =>
      if 6 ≤ v.toNat % 8 then refuse else ctx (fun x => { x with frm := (v &&& 0x7C7).setWidth 11 })
    | 0x004 => ctx (fun x => { x with fflags := v.setWidth 5 ||| x.lateFlags s.cycle })
    | 0x005 => ctx (fun x => { x with srseed := v })
    | 0x006 => ctx (fun x => { x with srseq := v })
    | 0x007 => if 6 ≤ v.toNat % 8 then refuse else ctx (fun x => { x with dscope := v.setWidth 3 })
    | 0x009 => ctx (fun x => { x with tcause := v.setWidth 8 })
    | 0x00A => ctx (fun x => { x with tval := v })
    | 0x00B => ctx (fun x => { x with tpc := v })
    | 0x013 =>
      if 6 ≤ v.toNat % 8 then refuse
      else if v.setWidth 3 ≠ (s.ctx c).dsel ∧ (s.ctx c).usc ≠ 0 then .error (.wait .uscZero)
      else ctx (fun x => { x with dsel := v.setWidth 3 })
    | 0x014 => ctx (fun x => { x with htrapEn := v.getLsbD 0 })
    | 0x020 =>
      if (s.core c.core).matQ.isEmpty then
        .ok ((), s.modCore c.core (fun k => { k with accown := AccOwn.written v }))
      else refuse
    | 0x021 =>
      if v.toNat % 16 = 0 then refuse
      else .ok ((), s.modCore c.core (fun k => { k with mxw := v.setWidth 4 }))
    | 0x023 =>
      let len := v.toNat % 2 ^ 32
      if len < 1024 ∨ 16777215 < len then refuse
      else .ok ((), s.modSlot c.sl (fun q => { q with sliceLen := len }))
    | 0x109 =>
      if s.spilled c.sl then refuse
      else .ok ((), s.modSlot c.sl (fun q => { q with dsbase := v &&& 0xFFFFFFFFFFFFE000 }))
    | 0x200 => .ok ((), s.modSlot c.sl (fun q => { q with bind := { q.bind with ptroot := v } }))
    | 0x201 => .ok ((), s.modSlot c.sl (fun q => { q with bind := { q.bind with pctb := v } }))
    | 0x203 => .ok ((), s.setGrant cl 0 v)
    | 0x204 => .ok ((), s.setGrant cl 1 v)
    | 0x205 => .ok ((), s.modCluster cl (fun u => u.setHanks v))
    | _ =>
      if 0x080 ≤ n ∧ n ≤ 0x0BF ∧ n - 0x080 < (s.slot c.sl).bind.granules then
        .ok ((), s.modSlot c.sl (fun q => { q with lsg := Sparse.put q.lsg (n - 0x080) (v.setWidth 8) }))
      else refuse

/-- A register is assigned for the slot: an LSG register below the granule count (R122). -/
def State.sregThere (s : State) (c : CtxId) (n : Nat) : Bool :=
  !(decide (0x080 ≤ n ∧ n ≤ 0x0BF)) || decide (n - 0x080 < (s.slot c.sl).bind.granules)

/-- The next register of a pair of TSTAT. -/
def nextG (r : RegCode) : GReg :=
  match r with
  | .g k => k + 1
  | _ => 0

/-- Write the value of a special register to d; TSTAT writes a pair, or nothing for g0 (R232, R399). -/
def putSreg (w : W64) (d : RegCode) (n : Nat) (lo hi : Reg) : M Unit := do
  write w d lo
  if n = 0x00C ∧ d ≠ .g 0 then setG (nextG d) hi else pure ()

/-- The upper half of TSTAT, as a register holds it. -/
def State.tstatHigh (s : State) (c : CtxId) : Reg := ⟨(s.ctx c).tstat.high, 0⟩

/-- The right to a special register, checked at decode (R48, R233). -/
def needSreg (w : W64) (n : Nat) (a : State → CtxId → Bool) : M Unit := fun s =>
  if a s s.cur && s.sregThere s.cur n then .ok ((), s) else .error (.trap ⟨.illegalOperand, w, 0, false⟩)

/-- SRD (R232). -/
def execSrd (d : RegCode) (n : BitVec 12) (s : State) : Host.Outcome State Fault Refusal :=
  let w := Instr.word (.srd d n)
  operate (.srd d n) .closes [] [d] (needSreg w n.toNat (fun s c => (sregReadBy n.toNat).ok (s.rightOf c))) (do
    let c ← who
    let s ← get
    putSreg w d n.toNat (s.sreg c n.toNat) (s.tstatHigh c)
    pure .next) s

/-- SWR to TSTAT (R399): both halves. -/
def writeTstat (w : W64) (a : RegCode) (lo : Reg) : M Unit := do
  let hi ← greg (nextG a)
  let x ← me
  let t := x.tstat.written lo.bits hi.bits
  if t.repi.toNat + t.repc.toNat > 65535 then raise .illegalOperand w
  else edit (fun y => { y with tstat := t })

/-- What SWR gives of the previous value: it as data, and all of TSTAT (R232, R399); of FFLAGS that before the resolutions of the
same cycle (R237). -/
def State.before (s : State) (c : CtxId) (n : Nat) : Reg :=
  if n = 0x00C then s.sreg c n
  else if n = 0x004 then Reg.data (((s.ctx c).flagsBefore s.cycle).setWidth 64)
  else Reg.data (s.sreg c n).lo

/-- SWR (R232). -/
def execSwr (d : RegCode) (n : BitVec 12) (a : RegCode) (s : State) : Host.Outcome State Fault Refusal :=
  let w := Instr.word (.swr d n a)
  operate (.swr d n a) .closes [a] [d, a] (needSreg w n.toNat (fun s c => (sregWriteBy n.toNat).ok (s.rightOf c))) (do
    let r ← read a
    let c ← who
    let s ← get
    if n.toNat = 0x00C then writeTstat w a r else sregWrite w c n.toNat r
    putSreg w d n.toNat (s.before c n.toNat) (s.tstatHigh c)
    pure .next) s

/-- The new image of an update has not sent its first heartbeat (R430). -/
def State.waitsBeat (s : State) : Bool :=
  match s.fw.update with
  | .waitingBeat _ _ => true
  | _ => false

/-- The dispatch firmware writes a special register (R233); what the register refuses has no effect, and the hardware refuses
WBGRANT and HKGRANT before the first heartbeat of a new image (R430). -/
def State.firmwareWrite (s : State) (c : CtxId) (n : BitVec 12) (r : Reg) : State :=
  if (sregWriteBy n.toNat).ok .disp && n != 0x00C && !(s.waitsBeat && decide (0x203 ≤ n.toNat ∧ n.toNat ≤ 0x205)) then
    match sregWrite 0 c n.toNat r s with
    | .ok (_, t) => t
    | .error _ => s
  else s

end Sys2Proof.Machine
end

