-- ==== Sys2Proof/Machine/Hosts.lean ====
section
/-! DEFINITION. Machine/Hosts.lean: what hosts do through the registers of their functions (R417 to R425): register writes and
reads, doorbells, mailboxes and their commands (R421, R422), the debug window and the dump (R415, R420), and teardown (R426). -/
namespace Sys2Proof.Machine
open Sys2Proof

/-! Mailboxes (R421). -/

/-- The statuses of R421: EBUSY, EDENIED and EBADIMAGE. -/
def stBusy : Nat := 0x27
/-- EDENIED. -/
def stDenied : Nat := 0x28
/-- EBADIMAGE. -/
def stBadImage : Nat := 0x29

/-- The mailbox of a function. -/
def State.mbox (s : State) (f : HostFn) : Mailbox :=
  match f with
  | .pf n => (s.pf n).mbox
  | .vf n => (s.vf n).mbox
/-- Change the mailbox of a function. -/
def State.modMbox (s : State) (f : HostFn) (g : Mailbox → Mailbox) : State :=
  match f with
  | .pf n => s.modPf n (fun p => { p with mbox := g p.mbox })
  | .vf n => s.modVf n (fun v => { v with mbox := g v.mbox })
/-- Count in DB_ERR of a function. -/
def State.countDbErr (s : State) (f : HostFn) : State :=
  match f with
  | .pf n => s.modPf n (fun p => { p with dbErr := p.dbErr + 1 })
  | .vf n => s.modVf n (fun v => { v with dbErr := v.dbErr + 1 })

/-- The commands of a VF and of a PF (R422); SHOOTDOWN and FSYNC of a host's driver too (R81, R97). -/
def knownCommand (f : HostFn) (code : Nat) : Bool :=
  match f with
  | .vf _ => decide (1 ≤ code ∧ code ≤ 5)
  | .pf _ => decide (0x100 ≤ code ∧ code ≤ 0x104 ∨ code = 2 ∨ code = 3)

/-- The command code of a request. -/
def Mailbox.code (m : Mailbox) : Nat := (m.req.headD 0).toNat % 2 ^ 16
/-- Argument word w1 to w7. -/
def Mailbox.arg (m : Mailbox) (i : Nat) : W64 := (m.req[i]?).getD 0

/-- The statuses of responses (R411, R421). -/
def mailStatuses : List Nat := [0, 0x21, 0x22, 0x23, 0x24, 0x25, 0x26, 0x2A, 0x27, 0x28, 0x29]

/-- An answer whose status the spec does not state: any of those of R421, a free value (assumption log 1). -/
def State.answerFree (s : State) (f : HostFn) : State :=
  s.takeFresh.answer f (mailStatuses.getD (Config.freeNat s.fresh % mailStatuses.length) 0) 0

/-- A VF of a logical device, by its index. -/
def State.vfOf (s : State) (ld : Fin 16) (v : Nat) : Option (Fin 64) :=
  if h : v < 64 then (if (s.vf ⟨v, h⟩).ld = ld then some ⟨v, h⟩ else none) else none

/-- The VF that a request concerns: the function's own, or the one that w3 of a SHOOTDOWN or an FSYNC of the PF names. R81 and R97
have a host ask through the PF mailbox, and R422's table, which gives the two commands to the VF mailbox, has no argument for
the partition (DESIGN CHOICE, assumption log 29). -/
def State.namedVf (s : State) (f : HostFn) : Option (Fin 64) :=
  match f with
  | .vf n => some n
  | .pf ld => s.vfOf ld ((s.mbox f).arg 3).toNat

/-- RING (R421, R426): a write of 1 sends the request; while one is busy it is ignored and counted; in a teardown it is
discarded; an unknown command is answered at once, and so is one that names no VF. -/
def State.ringMailbox (s : State) (f : HostFn) (data : W64) : State :=
  let m := s.mbox f
  let torn : Bool := match f with
    | .vf n => (s.vf n).teardown
    | .pf _ => false
  if data ≠ 1 ∨ torn then s
  else if m.mstate = 1 then s.countDbErr f
  else
    let s := s.modMbox f (fun m => { m with mstate := 1 })
    if !knownCommand f m.code then s.answer f 0x21 0
    else if m.code < 0x100 ∧ s.namedVf f = none then s.answerFree f
    else s

/-- A write into the command area of a mailbox. -/
def State.writeMailbox (s : State) (f : HostFn) (o : Nat) (data : W64) : State :=
  if o < 0x40 then s.modMbox f (fun m => { m with req := m.req.set (o / 8) data })
  else if o = 0x80 then s.ringMailbox f data
  else s

/-! Register writes (R418, R419, R423, R425). -/

/-- Put the bytes of a word into a byte table. -/
def putWord (l : Sparse Byte) (o : Nat) (data : W64) : Sparse Byte :=
  ((List.range 8).zip (bytesLE 8 data.toNat)).foldl (fun l (p : Nat × Byte) => Sparse.write 0 l (o + p.1) p.2) l

/-- A slot of the launch window lies between HEAD and TAIL (R423). -/
def Vf.taken (q : Vf) (i : Nat) : Bool :=
  decide (((BitVec.ofNat 8 i) - q.head.setWidth 8).toNat < (q.tail - q.head).toNat)

/-- A word of a byte table. -/
def tableWord (l : Sparse Byte) (o : Nat) : W64 := BitVec.ofNat 64 (ofBytesLE ((List.range 8).map (fun i => Sparse.get 0 l (o + i))))

/-- A write into the launch queue window of a VF (R423). In a slot between HEAD and TAIL the old word may still be copied. -/
def State.writeWindow (s : State) (v : Fin 64) (o : Nat) (data : W64) : State :=
  if o < 0x8000 then
    s.modVf v (fun q => { q with
      window := putWord q.window o data
      stale := if q.taken (o / 128) then (o, tableWord q.window o) :: q.stale else q.stale })
  else s

/-- A write of TAIL (R417, R423, R424, R426, R429): ignored and counted without a partition, before READY, backwards, or
beyond 256 records; discarded in a teardown. -/
def State.ringDoorbell (s : State) (v : Fin 64) (tail : BitVec 32) : State :=
  let q := s.vf v
  if q.teardown then s
  else if q.part.isNone ∨ s.fw.boot ≠ .ready ∨ (tail - q.head).toNat > 256 ∨ (tail - q.head).toNat < (q.tail - q.head).toNat then
    s.countDbErr (.vf v)
  else s.modVf v (fun q => { q with tail := tail })

/-- A write to a register of a VF. TAIL is written at the doorbell page (R423); after a machine check doorbells are ignored
(R414). -/
def State.writeVf (s : State) (v : Fin 64) (o : Nat) (data : W64) : State :=
  if o < 0x10000 then s.writeWindow v o data
  else if o = 0x10000 then (if s.mcheck then s else s.ringDoorbell v (data.setWidth 32))
  else if 0x11000 ≤ o ∧ o < 0x12000 then s.writeMailbox (.vf v) (o - 0x11000) data
  else if o = 0x13000 then s.modVf v (fun q => { q with ring := { q.ring with head := data.extractLsb' 32 32 } })
  else s

/-- A write to a register of a PF, with the mirrors of its VFs (R418). -/
def State.writePf (s : State) (ld : Fin 16) (o : Nat) (data : W64) : State :=
  if o = 0x10 then s.modPf ld (fun p => { p with dumpsel := data.setWidth 2 })
  else if o = 0x18 then s.modPf ld (fun p => { p with dbgcore := data.setWidth 13, dbgslot := data.extractLsb' 16 2 })
  else if o = 0x10108 then s.modPf ld (fun p => { p with inHead := data.setWidth 32 })
  else if 0x10000 ≤ o ∧ o < 0x10100 then s.writeMailbox (.pf ld) (o - 0x10000) data
  else if o = 0x11000 then s.modPf ld (fun p => { p with ring := { p.ring with head := data.extractLsb' 32 32 } })
  else if 0x400000 ≤ o ∧ o < 0x800000 then
    match s.vfOf ld ((o - 0x400000) / 0x10000) with
    | some v => s.writeWindow v ((o - 0x400000) % 0x10000) data
    | none => s
  else if 0x800000 ≤ o ∧ o < 0x840000 ∧ o % 0x1000 = 0 then
    match s.vfOf ld ((o - 0x800000) / 0x1000) with
    | some v => if s.mcheck then s else s.ringDoorbell v (data.setWidth 32)
    | none => s
  else if 0x1000000 ≤ o ∧ o < 0x2000000 then s.modPf ld (fun p => { p with staging := putWord p.staging (o - 0x1000000) data })
  else s

/-- REGISTER_WRITE (R418, R419, R421, R423, R425): a host writes 8 bytes at an aligned offset of BAR A of a function. -/
def execRegisterWrite (f : HostFn) (off : Nat) (data : W64) (s : State) : Host.Outcome State Fault Refusal :=
  .next (if off % 8 ≠ 0 then s
    else match f with
      | .pf n => s.writePf n off data
      | .vf n => s.writeVf n off data)

/-- DOORBELL (R414, R423): after a machine check it is ignored. -/
def execDoorbell (vf : Fin 64) (tail : BitVec 32) (s : State) : Host.Outcome State Fault Refusal :=
  s.on true (fun s => s.ringDoorbell vf tail)

/-! Register reads (R419, R421, R423 to R425). -/

/-- An update is in progress (R430). -/
def State.updating (s : State) : Bool := s.fw.update != .idle
/-- A flag as a bit of a word. -/
def bitIf (b : Bool) (i : Nat) : Nat := if b then 2 ^ i else 0

/-- DEVSTAT (R419). -/
def State.devstat (s : State) (ld : Fin 16) : W64 :=
  BitVec.ofNat 64 (bitIf (s.fw.boot == .ready) 0 + bitIf s.mcheck 1 + bitIf s.updating 2 + bitIf s.thermal 3 + ld.val * 2 ^ 4)
/-- FWSTAT (R419, R430). -/
def State.fwstat (s : State) : W64 := BitVec.ofNat 64 (s.fw.result.toNat + s.fw.active.val * 2 ^ 8)
/-- The state word of a VF (R424). -/
def State.vfState (s : State) (v : Vf) : W64 :=
  BitVec.ofNat 64 (bitIf v.part.isSome 0 + bitIf v.teardown 1 + bitIf s.mcheck 2 + bitIf s.updating 3
    + (v.part.elim 0 (fun p => p.val)) * 2 ^ 8)

/-- Two 32-bit words. -/
def words32 (lo hi : BitVec 32) : W64 := (hi.setWidth 64 <<< 32) ||| lo.setWidth 64

/-- The bytes of an event record (R117). -/
def EvRec.words (e : EvRec) : List W64 :=
  [words32 e.code (e.time.setWidth 32), words32 (e.time.extractLsb' 32 32) e.link, e.mask, words32 e.replayed e.detail]

/-- A word of an event ring (R425). -/
def EvRing.word (r : EvRing) (o : Nat) : W64 :=
  if o = 0 then words32 r.tail r.head
  else if o < 32 then 0
  else match Sparse.find? r.recs ((o - 32) / 32) with
    | some e => (e.words[o % 32 / 8]?).getD 0
    | none => 0

/-- A word of a mailbox page (R421). -/
def Mailbox.word (m : Mailbox) (o : Nat) : W64 :=
  if o < 0x40 then (m.req[o / 8]?).getD 0
  else if o < 0x80 then (m.resp[(o - 0x40) / 8]?).getD 0
  else if o = 0x88 then BitVec.ofNat 64 m.mstate
  else 0

/-- A word of the status page of a VF (R424). -/
def State.statusWord (s : State) (v : Vf) (o : Nat) : W64 :=
  match o with
  | 0x00 => v.head.setWidth 64
  | 0x08 => v.tail.setWidth 64
  | 0x10 => s.vfState v
  | 0x18 => words32 v.latePrg v.dbErr
  | 0x20 => words32 v.refused v.dropped
  | 0x28 => BitVec.ofNat 64 s.timeNs
  | _ => 0

/-- What a read of 8 bytes at an aligned offset of a VF's BAR A gives (R423 to R425). -/
def State.readVf (s : State) (n : Fin 64) (o : Nat) : W64 :=
  let v := s.vf n
  if o < 0x8000 then tableWord v.window o
  else if o = 0x10000 then v.tail.setWidth 64
  else if 0x11000 ≤ o ∧ o < 0x12000 then v.mbox.word (o - 0x11000)
  else if 0x12000 ≤ o ∧ o < 0x13000 then s.statusWord v (o - 0x12000)
  else if 0x13000 ≤ o ∧ o < 0x14000 then v.ring.word (o - 0x13000)
  else 0

/-- A word of the error record of a die (R419). -/
def Die.errWord (d : Die) (hi : Bool) : W64 := if hi then words32 d.secErr d.lastErr else words32 d.regErr d.lsErr

/-- What a read of 8 bytes at an aligned offset of a PF's BAR A gives (R418, R419, R421). -/
def State.readPf (s : State) (n : Fin 16) (o : Nat) : W64 :=
  let p := s.pf n
  if o = 0 then s.devstat n
  else if o = 0x08 then BitVec.ofNat 64 s.timeNs
  else if o = 0x10 then p.dumpsel.setWidth 64
  else if o = 0x18 then (p.dbgslot.setWidth 64 <<< 16) ||| p.dbgcore.setWidth 64
  else if o = 0x20 then s.fwstat
  else if 0x40 ≤ o ∧ o < 0x80 then (s.die ⟨(o - 0x40) / 16 % 4, by omega⟩).errWord (decide (o % 16 = 8))
  else if o = 0x10100 then p.inTail.setWidth 64
  else if o = 0x10108 then p.inHead.setWidth 64
  else if 0x10000 ≤ o ∧ o < 0x10090 then p.mbox.word (o - 0x10000)
  else if 0x10800 ≤ o ∧ o < 0x11000 then
    match Sparse.find? p.inbox ((o - 0x10800) / 64) with
    | some e => (e[(o - 0x10800) % 64 / 8]?).getD 0
    | none => 0
  else if 0x11000 ≤ o ∧ o < 0x12000 then p.ring.word (o - 0x11000)
  else if 0x1000000 ≤ o ∧ o < 0x2000000 then tableWord p.staging (o - 0x1000000)
  else if 0x400000 ≤ o ∧ o < 0x800000 then
    match s.vfOf n ((o - 0x400000) / 0x10000) with
    | some v => if (o - 0x400000) % 0x10000 < 0x8000 then tableWord (s.vf v).window ((o - 0x400000) % 0x10000) else 0
    | none => 0
  else if 0x800000 ≤ o ∧ o < 0x840000 ∧ o % 0x1000 = 0 then
    match s.vfOf n ((o - 0x800000) / 0x1000) with
    | some v => (s.vf v).tail.setWidth 64
    | none => 0
  else 0

/-- MSTATE_READ (R421): the read gives MSTATE; reading 2 returns it to 0. -/
def execMstateRead (f : HostFn) (s : State) : Host.Outcome State Fault Refusal :=
  let m := (s.mbox f).mstate
  let s := { s with hostRead := bytesLE 8 m }
  .next (if m = 2 then s.modMbox f (fun q => { q with mstate := 0 }) else s)

/-! The debug window and the dump (R415, R420). -/

/-- A byte of the dump (R415): the header, the local stores, the accumulator sets, the weight buffers and ACCOWN registers; what the
spec gives no place or no content is free (assumption logs 1, 33). -/
def State.dumpByte (s : State) (a : Nat) : Option Byte :=
  match s.dump with
  | none => none
  | some (time, e) =>
    let head : List Byte := [0x44, 0x56, 0x44, 0x50, 1, 0]
    let rec_ : List Byte := e.words.flatMap (fun w => bytesLE 8 w.toNat)
    if a < 6 then head[a]?
    else if 8 ≤ a ∧ a < 16 then (bytesLE 8 time.toNat)[a - 8]?
    else if 16 ≤ a ∧ a < 48 then rec_[a - 16]?
    else if 48 ≤ a ∧ a < 52 then some (if a = 48 then 0xF else 0)
    else if 0x10000 ≤ a ∧ a < 0x48010000 ∧ (a - 0x10000) % 0x40000 < Config.localBytes then
      some (s.byteAt (lsBase + (a - 0x10000)))
    else if 0x48010000 ≤ a ∧ a < 0x53650000 then
      let c := (a - 0x48010000) / 0x51000
      let o := (a - 0x48010000) % 0x51000
      let core : Nat → Fin 4608 := fun i => ⟨(8 * c + i) % 4608, by omega⟩
      if c ≥ 576 then none
      else if o < 0x10000 then some (s.byteAt (accPlace (core (o / accBytes)) + o % accBytes))
      else if o < 0x50000 then (s.cluster (Fin.ofNat 576 c)).bufferByte (o - 0x10000)
      else if o < 0x50040 then (bytesLE 8 (s.core (core ((o - 0x50000) / 8))).accown.word.toNat)[o % 8]?
      else some 0
    else none

/-- When the dump was written; 0 where there is none. -/
def State.dumpTime (s : State) : Nat :=
  match s.dump with
  | some (t, _) => t.toNat
  | none => 0

/-- The slot that DBGTGT names. -/
def Pf.target (p : Pf) : SlotId := ⟨⟨p.dbgcore.toNat % 4608, by omega⟩, ⟨p.dbgslot.toNat % 4, by omega⟩⟩

/-- A slot that the live debug window shows: bound, and of a partition assigned with DEBUG (R420). -/
def State.debugged (s : State) (sl : SlotId) : Bool := s.slotHeld sl && (s.part (s.partOf sl)).debug

/-- A byte of the live debug window of a slot (R420): its local store, and its context images. -/
def State.liveByte (s : State) (sl : SlotId) (o : Nat) : Byte :=
  if s.debugged sl = false then 0
  else if o < 0x25000 then (if o < (s.slot sl).bind.size then s.byteAt ((s.slotLoc sl o).place 0) else 0)
  else if 0x40000 ≤ o ∧ o < 0x40000 + 11 * 2048 then
    Config.imageByte (s.ctx ⟨sl.core, sl.slot, Fin.ofNat 11 ((o - 0x40000) / 2048)⟩) (o % 2048)
  else 0

/-- DEBUG_WINDOW_READ (R415, R419, R420): a host reads a byte of BAR B. A read of the live window waits while a drowsy bank
wakes (R368). -/
def execDebugWindowRead (ld : Fin 16) (off : Nat) (s : State) : Host.Outcome State Fault Refusal :=
  let p := s.pf ld
  let live := p.dumpsel == 2 && decide (p.dbgcore.toNat < 4608)
  let dumped : Nat → Byte := fun a => (s.dumpByte a).getD (Config.freeByte (s.dumpTime * 2 ^ 32 + a))
  let give : Byte → State → State := fun b t => { t with hostRead := [b] }
  .next (
    if off ≥ 2 ^ 30 then give 0 s
    else match p.dumpsel.toNat with
      | 0 => give (dumped off) s
      | 1 => give (dumped (off + 2 ^ 30)) s
      | 2 =>
        if live && s.debugged p.target then s.wakeBank p.target (give (s.liveByte p.target off)) else give 0 s
      | _ => give 0 s)

/-! Mailbox commands of a VF (R422). -/

/-- A function has sent a command, and firmware takes it: its mailbox. -/
def State.asked (s : State) (f : HostFn) (code : Nat) : Bool :=
  (s.mbox f).mstate == 1 && (s.mbox f).code == code && s.firmwareActs

/-- A command of a function for a VF, where that has a partition. -/
def State.fnCommand (s : State) (fn : HostFn) (v : Fin 64) (code : Nat) (also : Fin 64 → Bool) (f : Fin 64 → Mailbox → State → State) :
    Host.Outcome State Fault Refusal :=
  match (s.vf v).part with
  | some p => s.on (s.asked fn code && also p) (f p (s.mbox fn))
  | none => s.on (s.asked fn code) (fun s => s.answerFree fn)

/-- A command of a VF that has a partition. -/
def State.vfCommand (s : State) (v : Fin 64) (code : Nat) (also : Fin 64 → Bool) (f : Fin 64 → Mailbox → State → State) :
    Host.Outcome State Fault Refusal :=
  s.fnCommand (.vf v) v code also f

/-- Who asks for a SHOOTDOWN or an FSYNC for a VF (R81, R97): the VF, or else its PF. -/
def State.rangeAsker (s : State) (v : Fin 64) (code : Nat) : HostFn :=
  let pf : HostFn := .pf (s.vf v).ld
  if !s.asked (.vf v) code && s.asked pf code && s.namedVf pf == some v then pf else .vf v

/-- The entries of a region table (R422). -/
def regionsOf (bs : List Byte) (n : Nat) : List (W64 × W64) :=
  (List.range n).map (fun i => (BitVec.ofNat 64 (fieldAt bs (16 * i) 8), BitVec.ofNat 64 (fieldAt bs (16 * i + 8) 8)))

/-- REGION_SET (R83, R422). -/
def execRegionSet (vf : Fin 64) (s : State) : Host.Outcome State Fault Refusal :=
  s.vfCommand vf 1 (fun _ => true) (fun p m s =>
    let n := (m.arg 2).toNat
    if n > 4096 then s.answerFree (.vf vf)
    else
      match s.fetchBytes p (m.arg 1).toNat (16 * n) with
      | some bs =>
        let rs := regionsOf bs n
        if rs.all (fun r => r.1.toNat % 4096 == 0 && r.2.toNat % 4096 == 0) then
          (s.modPart p (fun q => { q with regions := rs })).answer (.vf vf) 0 0
        else s.answerFree (.vf vf)
      | none => s.answerFree (.vf vf))

/-- SHOOTDOWN (R81, R422), asked for through the mailbox of the VF or of its PF: the response follows the completion. -/
def execShootdown (vf : Fin 64) (s : State) : Host.Outcome State Fault Refusal :=
  let fn := s.rangeAsker vf 2
  s.fnCommand fn vf 2 (fun _ => s.shoots.all (fun h => h.asker != some fn))
    (fun p m s => { s with shoots := s.shoots ++ [⟨p, m.arg 1, m.arg 2, some fn, false, []⟩] })

/-- MAILBOX_FSYNC (R97, R422), asked for through the mailbox of the VF or of its PF. -/
def execMailboxFsync (vf : Fin 64) (ok : Bool) (s : State) : Host.Outcome State Fault Refusal :=
  let fn := s.rangeAsker vf 3
  s.fnCommand fn vf 3 (fun _ => true) (fun p m s =>
    if s.syncing p (m.arg 1) (m.arg 2) then
      if ok then s else (s.failSync p (m.arg 1) (m.arg 2)).answer fn 0x26 0
    else if (s.dirtyFiles p (m.arg 1) (m.arg 2)).isEmpty then s.answer fn 0 0
    else s.startSync p (m.arg 1) (m.arg 2))

/-- A register is a gate capability of a partition (R378). -/
def State.isGateOf (s : State) (p : Fin 64) (g : Reg) : Bool := g.tag == 3 && g.otype == 1 && s.domPart 0 g.owner == some p

/-- What the address of a gate record of a partition names (R69, R376): translated memory, or the local store of one of its
slots. -/
def State.gateNamed (s : State) (p : Fin 64) (a : W64) : Option Named :=
  if a.toNat < 2 ^ 56 then none else (s.slotsOfPart p).head?.map (fun sl => s.named sl a 64)

/-- The place of a gate record of a partition. -/
def State.gatePlace (s : State) (p : Fin 64) (a : W64) : Option Loc :=
  match s.gateNamed p a with
  | none => s.partLoc p a
  | some (.global t off) => some (s.slotLoc t off)
  | some _ => none

/-- The record of the gate capability at a DVA lies in a slot that is being evicted, or is evicted. -/
def State.gateAway (s : State) (p : Fin 64) (at_ : W64) : Bool :=
  match s.partLoc p at_ with
  | some l => (match s.gateNamed p (s.readReg l true).lo with
    | some (.global t _) => !s.present p t
    | _ => false)
  | none => false

/-- EXPORT (R377, R384, R422). It waits for a slot that holds the record and is away. -/
def execGateExport (vf : Fin 64) (s : State) : Host.Outcome State Fault Refusal :=
  s.vfCommand vf 4 (fun p => !s.gateAway p ((s.vf vf).mbox.arg 1)) (fun p m s =>
    match s.partLoc p (m.arg 1) with
    | none => s.answerFree (.vf vf)
    | some l =>
      let g := s.readReg l true
      if (m.arg 1).toNat % 16 ≠ 0 ∨ (m.arg 2).toNat > 255 then s.answerFree (.vf vf)
      else if !s.isGateOf p g then s.answer (.vf vf) 0x24 0
      else
        match s.gatePlace p g.lo with
        | some r =>
          if (s.gateRec r true).xport then
            (s.modPart p (fun q => { q with
              exports := ⟨(m.arg 2).setWidth 8, g⟩ :: q.exports.filter (fun e => e.number != (m.arg 2).setWidth 8) })).answer
              (.vf vf) 0 0
          else s.answer (.vf vf) stDenied 0
        | none => s.answer (.vf vf) stDenied 0)

/-- The entry that the PF inbox receives (R421): the request, with the VF index in bytes 4 and 5. -/
def inboxEntry (vf : Fin 64) (m : Mailbox) : List W64 :=
  match m.req with
  | w :: r => ((w &&& 0xFFFF0000FFFFFFFF) ||| (BitVec.ofNat 64 vf.val <<< 32)) :: r
  | [] => []

/-- IMPORT_ASK (R421, R422): the request goes to the PF inbox, where it has room; the response comes later. -/
def execImportAsk (vf : Fin 64) (s : State) : Host.Outcome State Fault Refusal :=
  let ld := (s.vf vf).ld
  let q := s.pf ld
  s.vfCommand vf 5 (fun p => (s.part p).asking.isNone && decide ((q.inTail - q.inHead).toNat < 32)) (fun p m s =>
    if (m.arg 1).toNat > 63 ∨ (m.arg 2).toNat > 255 then s.answerFree (.vf vf)
    else
      let s := s.modPart p (fun t => { t with asking := some (Fin.ofNat 64 (m.arg 1).toNat, (m.arg 2).setWidth 8) })
      s.modPf ld (fun t => { t with inbox := Sparse.put t.inbox (t.inTail.toNat % 32) (inboxEntry vf m), inTail := t.inTail + 1 }))

/-! Mailbox commands of a PF (R422). -/

/-- A command of a PF. -/
def State.pfCommand (s : State) (ld : Fin 16) (code : Nat) (f : Mailbox → State → State) : Host.Outcome State Fault Refusal :=
  s.on (s.asked (.pf ld) code) (f (s.pf ld).mbox)

/-- VF_ASSIGN (R373, R417, R422): the partition is bound to the VF, with a root domain whose id no partition holds; the
supervisor slot is bound and loaded by the steps SLOT_BIND and IMAGE_LOAD. -/
def execVfAssign (ld : Fin 16) (root : BitVec 12) (s : State) : Host.Outcome State Fault Refusal :=
  s.on (s.asked (.pf ld) 0x100 && (s.domPart 0 root).isNone) (fun s =>
    let m := (s.pf ld).mbox
    let p : Fin 64 := Fin.ofNat 64 (m.arg 2).toNat
    match s.vfOf ld (m.arg 1).toNat with
    | none => s.answerFree (.pf ld)
    | some v =>
      if (s.vf v).part.isSome ∨ (s.vf v).teardown ∨ (m.arg 2).toNat > 63 ∨ (s.part p).assigned then s.answerFree (.pf ld)
      else
        let s := s.modVf v (fun q => { q with part := some p, hbmBase := m.arg 7 })
        let s := s.modPart p (fun _ => { Partition.reset with
          assigned := true, vf := v, debug := (m.arg 3).getLsbD 0, root := root, ptroot := m.arg 4, pctb := m.arg 5
          supImage := m.arg 6 })
        (s.giveId p root).answer (.pf ld) 0 0)

/-- IMPORT_GRANT (R384, R422): the grant stands; an outstanding IMPORT_ASK for it is answered. -/
def execImportGrant (ld : Fin 16) (s : State) : Host.Outcome State Fault Refusal :=
  s.pfCommand ld 0x101 (fun m s =>
    let ex : Fin 64 := Fin.ofNat 64 (m.arg 1).toNat
    let im : Fin 64 := Fin.ofNat 64 (m.arg 3).toNat
    let num : BitVec 8 := (m.arg 2).setWidth 8
    let idx : BitVec 8 := (m.arg 4).setWidth 8
    if (m.arg 1).toNat > 63 ∨ (m.arg 3).toNat > 63 ∨ (m.arg 2).toNat > 255 ∨ (m.arg 4).toNat > 255 then s.answerFree (.pf ld)
    else
      let asked := (s.part im).asking == some (ex, num)
      let s := s.modPart im (fun q => { q with
        grants := ⟨ex, num, idx⟩ :: q.grants.filter (fun g => g.index != idx)
        asking := if asked then none else q.asking })
      let s := if asked then s.answer (.vf (s.part im).vf) 0 (idx.setWidth 64) else s
      s.answer (.pf ld) 0 0)

/-- IMPORT_DENY and WITHDRAW (R384, R422). -/
def execImportDeny (ld : Fin 16) (s : State) : Host.Outcome State Fault Refusal :=
  s.pfCommand ld 0x102 (fun m s =>
    let im : Fin 64 := Fin.ofNat 64 (m.arg 3).toNat
    if (m.arg 3).toNat > 63 then s.answerFree (.pf ld)
    else
      let asked := (s.part im).asking.isSome
      let s := s.modPart im (fun q => { q with grants := q.grants.filter (fun g => g.index.setWidth 64 != m.arg 4), asking := none })
      let s := if asked then s.answer (.vf (s.part im).vf) stDenied 0 else s
      s.answer (.pf ld) 0 0)

/-- EXPWIN (R88, R422). -/
def execExpwin (ld : Fin 16) (s : State) : Host.Outcome State Fault Refusal :=
  s.pfCommand ld 0x103 (fun m s =>
    if (m.arg 1).toNat > 15 ∨ (m.arg 4).toNat > 3 then s.answerFree (.pf ld)
    else
      ({ s with windows := Sparse.put s.windows (m.arg 1).toNat ⟨m.arg 2, m.arg 3, Fin.ofNat 4 (m.arg 4).toNat⟩ } : State).answer
        (.pf ld) 0 0)

/-! Teardown (R426). -/

/-- The grants of regions and hanks that name a partition are withdrawn from a grant word (R264). -/
def dropGrants (w : W64) (p : Fin 64) : W64 :=
  BitVec.ofNat 64 ((List.range 8).foldr (fun i acc =>
    let b := w.toNat / 2 ^ (8 * i) % 256
    acc * 256 + (if b = 128 + p.val then 0 else b)) 0)

/-- Regions and hanks of a cluster that a partition holds are withdrawn. -/
def Cluster.withdraw (u : Cluster) (p : Fin 64) : Cluster :=
  let u := (u.setGrant 0 (dropGrants u.wbgrant0 p)).setGrant 1 (dropGrants u.wbgrant1 p)
  u.setHanks (dropGrants u.hkgrant p)

/-- The records of a VF that firmware has not taken receive STATUS 0x8301 (R426 step 2). -/
def State.failQueued (s : State) (v : Fin 64) (p : Fin 64) : State :=
  (List.range ((s.vf v).tail - (s.vf v).head).toNat).foldl (fun t _ =>
    (t.passHead v).complete p (LaunchRec.ofBytes (t.copyRecord v (t.vf v).head.toNat)).cdva (completionWord 0 0 0x8301)) s

/-- Steps 2 to 4 of a teardown (R426), which firmware takes: the VF's tasks and queued records are aborted, its domains die,
its slots are unbound and scrubbed, its grants are withdrawn. -/
def State.tearDown (s : State) (v : Fin 64) : State :=
  let s := s.modVf v (fun q => { q with torn := true })
  match (s.vf v).part with
  | none => s
  | some p =>
    let held := (s.slotsOfPart p).map (fun sl => (sl, (s.slot sl).bind))
    let s := (s.abortTenant p).failQueued v p
    let s := held.foldl (fun t (q : SlotId × BindRec) =>
      if t.slotHeld q.1 || q.2.none_ then t else t.scrub q.1.core q.2.lslot.toNat q.2.mode.toNat) s
    let s := s.dropAborted p
    let s := s.clusters.foldl (fun t u => t.modCluster (Fin.ofNat 576 u.1) (fun k => k.withdraw p)) s
    s.modPart p (fun q => { q with grants := [], devQueue := [], asking := none })

/-- Teardown of a VF begins (R426): its page request groups are orphaned (R93); those that an earlier reset orphaned count their
2 s anew (assumption log 29). The other steps follow at once, or when firmware acts again (R430). -/
def State.beginTeardown (s : State) (v : Fin 64) : State :=
  let s := s.modVf v (fun q => { q with
    teardown := true
    groups := q.groups.map (fun g => (g.1, { g.2 with orphaned := true, since := s.timeNs })) })
  if s.firmwareActs then s.tearDown v else s

/-- FLR (R426). -/
def execFlr (vf : Fin 64) (s : State) : Host.Outcome State Fault Refusal :=
  s.on (!(s.vf vf).teardown) (fun s => s.beginTeardown vf)

/-- The VFs of a logical device. -/
def State.vfsOf (s : State) (ld : Fin 16) : List (Fin 64) := ((List.range 64).map (Fin.ofNat 64)).filter (fun v => (s.vf v).ld == ld)

/-- VF_ENABLE_CLEAR (R426): every VF of the logical device is torn down; with none, VF Enable reads 0 at once. -/
def execVfEnableClear (ld : Fin 16) (s : State) : Host.Outcome State Fault Refusal :=
  s.on (s.pf ld).vfEnable (fun s =>
    let vs := s.vfsOf ld
    let s := (vs.filter (fun v => !(s.vf v).teardown)).foldl State.beginTeardown s
    s.modPf ld (fun p => { p with clearing := !vs.isEmpty, vfEnable := !vs.isEmpty }))

/-- The slots that a partition still holds are unbound and scrubbed (R120, R426). -/
def State.clearPart (s : State) (p : Fin 64) : State :=
  (s.slotsOfPart p).foldl (fun t sl =>
    let b := (t.slot sl).bind
    let t := t.unbindSlot sl
    if b.none_ then t else t.scrub sl.core b.lslot.toNat b.mode.toNat) s

/-- What is under way for the pages of a partition ends with it: its TLB entries, shootdowns, fault records and NVMe
commands go, and the lines of expansion memory are written back (R81, R84, R89). -/
def State.dropPages (s : State) (p : Fin 64) : State :=
  let s := s.expLines.foldl (fun t e => t.dropExp e.1) s
  { s.tlbDrop p 0 0 with
    shoots := s.shoots.filter (fun h => h.part != p)
    faults := s.faults.filter (fun f => f.part != p)
    nvme := s.nvme.filter (fun c => c.part != p)
    counted := s.counted.filter (fun c => c.1 != p) }

/-- The partition of a VF is reset: its ids are free again (R373). -/
def State.resetPart (s : State) (p : Fin 64) : State :=
  ((s.dropPages p).modPart p (fun _ => Partition.reset)).modDies (fun d => { d with
    walks := d.walks.filter (fun q => q.1 != p)
    owner := d.owner.filter (fun q => q.2 != p)
    svec := Sparse.erase d.svec p.val, ssp := Sparse.erase d.ssp p.val, sdd := Sparse.erase d.sdd p.val })

/-- No context has a frame in a domain of a partition (R426): the ids of its domains may be free again (R373). -/
def State.vacant (s : State) (p : Fin 64) : Bool :=
  let out : Ctx → Bool := fun x => !x.live || (List.range (x.depth + 1)).all (fun j => s.domPart 0 (x.domAt j) != some p)
  s.ctxs.all (fun q => s.partOf (ctxOfKey q.1).sl == p || out q.2) && s.saved.all (fun v => v.ctxs.all out)

/-- TEARDOWN_COMPLETE (R426): no context of the partition is nested in another tenant's domain any more, and none of another
tenant's in one of its; 0x0501 goes to the
PF, and VF Enable reads 0 when the last VF is done. The severity, unit and DETAIL of the record are not stated: free values.
Steps that waited for firmware are taken first. -/
def execTeardownComplete (vf : Fin 64) (s : State) : Host.Outcome State Fault Refusal :=
  let v := s.vf vf
  let done : Bool := match v.part with
    | some p => (s.slotsOfPart p).all (fun sl => !s.nestedSlot sl) && !(s.saved.any (fun w => w.slot.bind.part == p)) && s.vacant p
    | none => true
  if v.torn = false then s.on (v.teardown && s.firmwareActs) (fun s => s.tearDown vf)
  else s.on (v.teardown && done && s.firmwareActs) (fun s =>
    let s := match v.part with
      | some p => (s.clearPart p).resetPart p
      | none => s
    let s := s.modVf vf (fun q => { Vf.reset with ld := q.ld, groups := q.groups, latePrg := q.latePrg })
    let e := s.takeFresh.openRec 0x0501 (some vf.val) (Config.freeNat s.fresh)
    let s := s.takeFresh.takeThree.toPf v.ld e
    if (s.pf v.ld).clearing && (s.vfsOf v.ld).all (fun w => !(s.vf w).teardown) then
      s.modPf v.ld (fun p => { p with clearing := false, vfEnable := false })
    else s)

end Sys2Proof.Machine
end

