-- ==== Sys2Proof/Machine/Firmware.lean ====
section
/-! DEFINITION. Machine/Firmware.lean: boot (R429), the live update of the dispatch firmware (R430, R431), measurements and SPDM
(R427), and the set-up of IDE keys (R428). -/
namespace Sys2Proof.Machine
open Sys2Proof

/-! Images (R429). -/

/-- The bytes of an image slot: 0 and 1 management A and B, 2 and 3 dispatch, 4 and 5 service. -/
def State.imageSlot (s : State) (i : Nat) : List Byte := (Sparse.find? s.fw.images i).getD (Config.flash i)

/-- KIND of an image. -/
def imageKind (b : List Byte) : Nat := fieldAt b 4 4
/-- Firmware version. -/
def imageVersion (b : List Byte) : Nat := fieldAt b 8 8
/-- Handover version produced. -/
def imageProduces (b : List Byte) : Nat := fieldAt b 24 4
/-- Lowest handover version accepted. -/
def imageAccepts (b : List Byte) : Nat := fieldAt b 28 4
/-- The magic, and a signature that verifies. -/
def imageValid (b : List Byte) : Bool := b.take 4 == [0x44, 0x46, 0x57, 0x31] && Config.signed b
/-- The digest of an image: of bytes 0 to 31 and the body (R427, R429). -/
def imageDigest (b : List Byte) : BitVec 512 := Config.sha512 (b.take 32 ++ (b.drop 256).take (fieldAt b 16 8))

/-- The slot that boot takes of two (R429): the valid one with the higher version, else the other; A where neither is valid
(assumption log 13). -/
def pickSlot (a b : List Byte) : Fin 2 :=
  if imageValid a then (if imageValid b && decide (imageVersion a < imageVersion b) then 1 else 0)
  else if imageValid b then 1 else 0

/-- A digest as bytes. -/
def digestBytes (d : BitVec 512) : List Byte := (bytesLE 64 d.toNat).reverse
/-- Measurement 3 extended by a digest (R427). -/
def extend (old new : BitVec 512) : BitVec 512 := Config.sha512 (digestBytes old ++ digestBytes new)

/-! Boot (R429). -/

/-- PERST_DEASSERT (R429): the device is reset, takes its images and begins to train. What the fabric manager configured,
the flash and the bytes of memory stay as they are (assumption log 13), but for the accumulator sets, which are zero (R267);
so do the model's own fields. -/
def execPerstDeassert (s : State) : Host.Outcome State Fault Refusal :=
  let pick : Nat → Fin 2 := fun k => pickSlot (s.imageSlot (2 * k)) (s.imageSlot (2 * k + 1))
  let run := imageDigest (s.imageSlot (2 + (pick 1).val))
  .next { State.reset with
    mem := dropRange s.mem accBase (accBase + 4608 * accBytes), tags := s.tags
    badFrames := s.badFrames, agenda := s.agenda, cur := s.cur, fresh := s.fresh
    vfs := s.vfs.map (fun q => (q.1, { Vf.reset with ld := q.2.ld }))
    pfs := s.pfs.map (fun q => (q.1, { Pf.reset with hbmBase := q.2.hbmBase, hbmSize := q.2.hbmSize }))
    fw := { State.reset.fw with
      boot := .training, images := s.fw.images, mgmt := pick 0, active := pick 1, service := pick 2, history := run, running := run } }

/-- BOOT_COMPLETE (R429): training finishes and READY is set. -/
def execBootComplete (s : State) : Host.Outcome State Fault Refusal :=
  s.on (s.fw.boot == .training) (fun s => { s with fw := { s.fw with boot := .ready } })

/-! Live update (R430, R431). -/

/-- The image in the staging window of a PF: as many bytes as w1 says. -/
def State.staged (s : State) (ld : Fin 16) (n : Nat) : List Byte := (List.range n).map (fun i => Sparse.get 0 (s.pf ld).staging i)

/-- An update is refused (R430): FWSTAT and the answer say so, and the old image goes on. -/
def State.refuseUpdate (s : State) (ld : Fin 16) (result : Nat) : State :=
  ({ s with fw := { s.fw with update := .idle, result := BitVec.ofNat 8 result } } : State).answer (.pf ld) stBadImage 0

/-- The handover record (R431): its version, when and where it is written, and what the dispatch firmware decides. -/
def State.handoverRec (s : State) (version : Nat) : Handover :=
  { version := BitVec.ofNat 32 version, place := Config.handoverBase, time := BitVec.ofNat 64 s.timeNs
    vfs := s.vfs.map (fun q => (q.1, q.2.part))
    heads := s.vfs.map (fun q => (q.1, q.2.head))
    queues := s.parts.map (fun p => (p.1, p.2.devQueue))
    tasks := s.parts.map (fun p => (p.1, p.2.tasks))
    domains := (s.die 0).owner
    regions := s.clusters.map (fun u => (u.1, u.2.wbgrant0, u.2.wbgrant1, u.2.hkgrant))
    imports := s.parts.map (fun p => (p.1, p.2.grants))
    evicted := s.saved.map (fun v => (v.sl, v.slot.bind.save.toNat)) }

/-- The bytes of a handover record (R431), within the place that is kept for it. -/
def Handover.bytes (h : Handover) : List Byte :=
  let tables := (Config.handoverBytes h).take (2 ^ 24 - 16)
  bytesLE 4 h.version.toNat ++ bytesLE 4 (16 + tables.length) ++ bytesLE 8 h.time.toNat ++ tables

/-- Handover (R430 step 3, R431): the image goes to the inactive slot, measurement 3 is extended, the record is written to HBM,
and the new image runs, with 50 ms for its heartbeat. -/
def State.handOver (s : State) (ld : Fin 16) (img : List Byte) (version : Nat) : State :=
  let other : Fin 2 := s.fw.active + 1
  let h := s.handoverRec version
  ({ s.poke (.hbm h.place) h.bytes with fw := { s.fw with
    images := Sparse.put s.fw.images (2 + other.val) img
    history := extend s.fw.history (imageDigest img)
    running := imageDigest img
    update := .waitingBeat ld s.timeNs
    handover := some h } } : State).answer (.pf ld) 0 0

/-- FW_UPDATE (R422, R430): EBUSY during another. Else the firmware is quiesced first; then the signature, KIND and the
handover version of the image are checked, and it is handed over. The FWSTAT result of an image of another KIND is not stated:
a free value (assumption log 1). -/
def execFwUpdate (ld : Fin 16) (s : State) : Host.Outcome State Fault Refusal :=
  let m := (s.pf ld).mbox
  s.on (m.mstate == 1 && m.code == 0x104 && s.fw.boot == .ready) (fun s =>
    if s.fw.update = .idle then { s with fw := { s.fw with update := .quiesced ld } }
    else if s.fw.update ≠ .quiesced ld then s.answer (.pf ld) stBusy 0
    else
      let n := min (m.arg 1).toNat (2 ^ 24)
      let img := s.staged ld n
      let running := s.imageSlot (2 + s.fw.active.val)
      let v := imageProduces running
      if imageValid img = false then s.refuseUpdate ld 1
      else if imageKind img ≠ 2 then s.takeFresh.refuseUpdate ld (Config.freeNat s.fresh)
      else if v < imageAccepts img ∨ imageProduces img < v then s.refuseUpdate ld 2
      else s.handOver ld img v)

/-- HEARTBEAT (R430 step 4): within 50 ms of the start the update commits; 0x0502 goes to every PF, with severity, unit and
LINK that the spec does not state: free values. -/
def execHeartbeat (s : State) : Host.Outcome State Fault Refusal :=
  match s.fw.update with
  | .idle => .next s
  | .quiesced _ => .next s
  | .waitingBeat _ start =>
    s.on (decide (s.timeNs ≤ start + 50000000)) (fun s =>
      let other : Fin 2 := s.fw.active + 1
      let img := s.imageSlot (2 + other.val)
      let e := s.openRec 0x0502 none (imageVersion img)
      ({ s.takeThree with fw := { s.fw with
        active := other, update := .idle, result := 0 } } : State).toPfs e)

/-- HEARTBEAT_TIMEOUT (R430 step 4): the old image runs again; measurement 3 is extended by its digest; 0x0503 goes to every
PF. -/
def execHeartbeatTimeout (s : State) : Host.Outcome State Fault Refusal :=
  match s.fw.update with
  | .idle => .next s
  | .quiesced _ => .next s
  | .waitingBeat _ start =>
    s.on (decide (start + 50000000 < s.timeNs)) (fun s =>
      let e := s.openRec 0x0503 none 3
      let old := imageDigest (s.imageSlot (2 + s.fw.active.val))
      ({ s.takeThree with fw := { s.fw with
        update := .idle, result := 3, history := extend s.fw.history old, running := old } } : State).toPfs e)

/-! Measurements and SPDM (R427). -/

/-- What measurement 5 is taken of: each assigned VF, its partition, its DEBUG flag and its import grants. -/
def State.config (s : State) : List (Nat × Nat × Bool × List (Nat × Nat × Nat)) :=
  (s.parts.filter (fun p => p.2.assigned)).map (fun p =>
    (p.2.vf.val, p.1, p.2.debug, p.2.grants.map (fun g => (g.exporter.val, g.number.toNat, g.index.toNat))))

/-- A measurement block (R427). -/
def State.measurement (s : State) (i : Nat) : BitVec 512 :=
  match i with
  | 1 => Config.sha512 Config.bootRom
  | 2 => imageDigest (s.imageSlot s.fw.mgmt.val)
  | 3 => s.fw.history
  | 4 => imageDigest (s.imageSlot (4 + s.fw.service.val))
  | 5 => Config.sha512 (Config.configBytes s.config)
  | _ => s.fw.running

/-- A response whose bytes the spec does not give: free (assumption log 1). -/
def State.freeReply (s : State) : State :=
  { s with
    hostRead := (List.range (Config.freeNat s.fresh % 4096)).map (fun i => Config.freeByte (s.fresh + 1 + i))
    fresh := s.fresh + 4097 }

/-- An SPDM request of a host (R427): where the state of the responder allows it, the state goes on; the response is free. -/
def State.spdm (s : State) (ld : Fin 16) (allowed : Spdm → Bool) (to_ : Spdm → Spdm) : Host.Outcome State Fault Refusal :=
  s.on true (fun s =>
    let s := s.freeReply
    if allowed (s.pf ld).spdm then s.modPf ld (fun p => { p with spdm := to_ p.spdm }) else s)

/-- Version, capabilities and algorithms have been negotiated. -/
def Spdm.ready (x : Spdm) : Bool :=
  match x with
  | .algs => true
  | .keyed => true
  | .session => true
  | _ => false

/-- GET_VERSION (R427): the negotiation begins anew. -/
def execGetVersion (ld : Fin 16) (s : State) : Host.Outcome State Fault Refusal := s.spdm ld (fun _ => true) (fun _ => .version)
/-- GET_CAPABILITIES (R427). -/
def execGetCapabilities (ld : Fin 16) (s : State) : Host.Outcome State Fault Refusal :=
  s.spdm ld (fun x => x == .version) (fun _ => .caps)
/-- NEGOTIATE_ALGORITHMS (R427). -/
def execNegotiateAlgorithms (ld : Fin 16) (s : State) : Host.Outcome State Fault Refusal :=
  s.spdm ld (fun x => x == .caps) (fun _ => .algs)
/-- GET_DIGESTS (R427). -/
def execGetDigests (_ld : Fin 16) (s : State) : Host.Outcome State Fault Refusal := s.on true State.freeReply
/-- GET_CERTIFICATE (R427). -/
def execGetCertificate (_ld : Fin 16) (s : State) : Host.Outcome State Fault Refusal := s.on true State.freeReply
/-- CHALLENGE (R427). -/
def execChallenge (_ld : Fin 16) (s : State) : Host.Outcome State Fault Refusal := s.on true State.freeReply

/-- GET_MEASUREMENTS (R427): the six blocks. -/
def execGetMeasurements (ld : Fin 16) (s : State) : Host.Outcome State Fault Refusal :=
  s.on (s.pf ld).spdm.ready (fun s =>
    { s with hostRead := ([1, 2, 3, 4, 5, 6] : List Nat).flatMap (fun i => digestBytes (s.measurement i)) })

/-- KEY_EXCHANGE (R427). -/
def execKeyExchange (ld : Fin 16) (s : State) : Host.Outcome State Fault Refusal :=
  s.spdm ld (fun x => x == .algs) (fun _ => .keyed)
/-- FINISH (R427). -/
def execFinish (ld : Fin 16) (s : State) : Host.Outcome State Fault Refusal := s.spdm ld (fun x => x == .keyed) (fun _ => .session)
/-- END_SESSION (R427). -/
def execEndSession (ld : Fin 16) (s : State) : Host.Outcome State Fault Refusal :=
  s.spdm ld (fun x => x == .session) (fun _ => .algs)

/-- IDE_KM (R428): in a session, the key of a stream of a port is set up or refreshed; traffic is not disturbed. Which stream it is
and its key come from the host: free values (assumption log 32). -/
def execIdeKm (ld : Fin 16) (port : Fin 4) (s : State) : Host.Outcome State Fault Refusal :=
  s.on ((s.pf ld).spdm == .session) (fun s =>
    let p := Sparse.get ⟨[], false⟩ s.ide port.val
    let key : BitVec 256 := BitVec.ofNat 256 (Config.freeNat (s.fresh + 1))
    { s with ide := Sparse.put s.ide port.val { p with keys := Sparse.put p.keys (Config.freeNat s.fresh % 6) key }, fresh := s.fresh + 2 })

end Sys2Proof.Machine
end

