-- ==== Sys2Proof/Machine/Fp.lean ====
section
/-! DEFINITION. Machine/Fp.lean: the floating-point group (R222, R223), the fused multiply-adds (R224) and CVT
(R211, R225). -/
namespace Sys2Proof.Machine

/-- FADD (R222). -/
def execFadd (p : Prec) (d a b : RegCode) (s : State) : Host.Outcome State Fault Refusal :=
  fp3 (.fadd p d a b) p d a b (fun m r x y => roundOut p m r (addV m ((Prec.fmt p).val x) ((Prec.fmt p).val y))) s
/-- FSUB (R222). -/
def execFsub (p : Prec) (d a b : RegCode) (s : State) : Host.Outcome State Fault Refusal :=
  fp3 (.fsub p d a b) p d a b (fun m r x y => roundOut p m r (addV m ((Prec.fmt p).val x) ((Prec.fmt p).val y).negate)) s
/-- FMUL (R222). -/
def execFmul (p : Prec) (d a b : RegCode) (s : State) : Host.Outcome State Fault Refusal :=
  fp3 (.fmul p d a b) p d a b (fun m r x y => roundOut p m r (mulV ((Prec.fmt p).val x) ((Prec.fmt p).val y))) s
/-- FDIV (R222). -/
def execFdiv (p : Prec) (d a b : RegCode) (s : State) : Host.Outcome State Fault Refusal :=
  fp3 (.fdiv p d a b) p d a b (fun m r x y => roundOut p m r (divV ((Prec.fmt p).val x) ((Prec.fmt p).val y))) s
/-- FSQRT (R222). -/
def execFsqrt (p : Prec) (d a : RegCode) (s : State) : Host.Outcome State Fault Refusal :=
  fp2 (.fsqrt p d a) p d a (fun m r x => roundOut p m r (sqrtV ((Prec.fmt p).val x))) s
/-- The operand that FMIN, FMAX, FMINM or FMAXM gives, or the canonical NaN, with the flags (R222). -/
def pickOut (p : Prec) (max_ strict : Bool) (x y : Nat) : W64 × BitVec 5 :=
  let r := pickV max_ strict ((Prec.fmt p).val x) ((Prec.fmt p).val y)
  (fpOut p (match r.1 with
    | some true => x
    | some false => y
    | none => (Prec.fmt p).cnan), r.2)
/-- FMIN (R222). -/
def execFmin (p : Prec) (d a b : RegCode) (s : State) : Host.Outcome State Fault Refusal :=
  fp3 (.fmin p d a b) p d a b (fun _ _ x y => pickOut p false false x y) s
/-- FMAX (R222). -/
def execFmax (p : Prec) (d a b : RegCode) (s : State) : Host.Outcome State Fault Refusal :=
  fp3 (.fmax p d a b) p d a b (fun _ _ x y => pickOut p true false x y) s
/-- FMINM (R222). -/
def execFminm (p : Prec) (d a b : RegCode) (s : State) : Host.Outcome State Fault Refusal :=
  fp3 (.fminm p d a b) p d a b (fun _ _ x y => pickOut p false true x y) s
/-- FMAXM (R222). -/
def execFmaxm (p : Prec) (d a b : RegCode) (s : State) : Host.Outcome State Fault Refusal :=
  fp3 (.fmaxm p d a b) p d a b (fun _ _ x y => pickOut p true true x y) s
/-- A comparison: data 1 or 0; NV for a NaN where it is `loud`, else only for a signalling NaN (R222). -/
def cmpOut (p : Prec) (loud : Bool) (x y : Nat) (f : Val → Val → Bool) (unordered : Bool) : W64 × BitVec 5 :=
  let u := (Prec.fmt p).val x
  let v := (Prec.fmt p).val y
  if u.isNan || v.isNan then (ofBool unordered, if loud || u.isSnan || v.isSnan then fNV else 0)
  else (ofBool (f u v), 0)
/-- FEQ (R222). -/
def execFeq (p : Prec) (d a b : RegCode) (s : State) : Host.Outcome State Fault Refusal :=
  fp3 (.feq p d a b) p d a b (fun _ _ x y => cmpOut p false x y eqV false) s
/-- FLT (R222). -/
def execFlt (p : Prec) (d a b : RegCode) (s : State) : Host.Outcome State Fault Refusal :=
  fp3 (.flt p d a b) p d a b (fun _ _ x y => cmpOut p true x y ltV false) s
/-- FLE (R222). -/
def execFle (p : Prec) (d a b : RegCode) (s : State) : Host.Outcome State Fault Refusal :=
  fp3 (.fle p d a b) p d a b (fun _ _ x y => cmpOut p true x y (fun u v => !ltV v u) false) s
/-- FUNORD (R222). -/
def execFunord (p : Prec) (d a b : RegCode) (s : State) : Host.Outcome State Fault Refusal :=
  fp3 (.funord p d a b) p d a b (fun _ _ x y => cmpOut p false x y (fun _ _ => false) true) s
/-- FCLASS (R223). -/
def execFclass (p : Prec) (d a : RegCode) (s : State) : Host.Outcome State Fault Refusal :=
  fp2 (.fclass p d a) p d a (fun _ _ x => (BitVec.ofNat 64 (2 ^ (Prec.fmt p).classBit ((Prec.fmt p).val x)), 0)) s
/-- The bits of x with another sign (R222). -/
def signOut (p : Prec) (x : Nat) (neg : Bool) : W64 × BitVec 5 :=
  let h := 2 ^ ((Prec.fmt p).e + (Prec.fmt p).m)
  (fpOut p (x % h + (if neg then h else 0)), 0)
/-- The sign bit of a pattern. -/
def signBit (p : Prec) (x : Nat) : Bool := decide (x / 2 ^ ((Prec.fmt p).e + (Prec.fmt p).m) % 2 = 1)
/-- FSGNJ (R222). -/
def execFsgnj (p : Prec) (d a b : RegCode) (s : State) : Host.Outcome State Fault Refusal :=
  fp3 (.fsgnj p d a b) p d a b (fun _ _ x y => signOut p x (signBit p y)) s
/-- FSGNJN (R222). -/
def execFsgnjn (p : Prec) (d a b : RegCode) (s : State) : Host.Outcome State Fault Refusal :=
  fp3 (.fsgnjn p d a b) p d a b (fun _ _ x y => signOut p x (!signBit p y)) s
/-- FSGNJX (R222). -/
def execFsgnjx (p : Prec) (d a b : RegCode) (s : State) : Host.Outcome State Fault Refusal :=
  fp3 (.fsgnjx p d a b) p d a b (fun _ _ x y => signOut p x (signBit p x != signBit p y)) s
/-- FRINT's result: an integral value of the format (R222). -/
def rintOut (p : Prec) (m r x : Nat) : W64 × BitVec 5 :=
  match (Prec.fmt p).val x with
  | .nan q => (fpOut p (Prec.fmt p).cnan, if q then fNV else 0)
  | .inf _ => (fpOut p x, 0)
  | v =>
    let t := v.roundInt m r
    if t.2 then (fpOut p ((Prec.fmt p).pack v.neg? t.1.natAbs 0), fNX) else (fpOut p x, 0)
/-- FRINT (R222). -/
def execFrint (p : Prec) (d a : RegCode) (s : State) : Host.Outcome State Fault Refusal :=
  fp2 (.frint p d a) p d a (fun m r x => rintOut p m r x) s
/-- A fused multiply-add of a precision, its product negated or not (R224). -/
def fma4 (i : Instr) (p : Prec) (n : Bool) (d a b c : RegCode) (s : State) : Host.Outcome State Fault Refusal :=
  run i [a, b, c] [d, a, b, c] (do
    let x ← readData a
    let y ← readData b
    let z ← readData c
    let t ← me
    let f := (Prec.fmt p)
    let r := roundOut p t.mode t.draw (fmaV t.mode n (f.val (fpIn p x)) (f.val (fpIn p y)) (f.val (fpIn p z)))
    raiseFlags t.mode r.2
    writeData (Instr.word i) d r.1
    pure .next) s
/-- FMA.D (R224). -/
def execFmaD (d a b c : RegCode) (s : State) : Host.Outcome State Fault Refusal :=
  fma4 (.fmaD d a b c) .d false d a b c s
/-- FNMA.D (R224). -/
def execFnmaD (d a b c : RegCode) (s : State) : Host.Outcome State Fault Refusal :=
  fma4 (.fnmaD d a b c) .d true d a b c s
/-- FMA.S (R224). -/
def execFmaS (d a b c : RegCode) (s : State) : Host.Outcome State Fault Refusal :=
  fma4 (.fmaS d a b c) .s false d a b c s
/-- FNMA.S (R224). -/
def execFnmaS (d a b c : RegCode) (s : State) : Host.Outcome State Fault Refusal :=
  fma4 (.fnmaS d a b c) .s true d a b c s
/-- The floating-point format of a CVT type, or its integer width and signedness (R51, R225). -/
def CvtType.ffmt : CvtType → Option FFmt
  | .fp64 => some fp64
  | .fp32 => some fp32
  | .fp16 => some fp16
  | .bf16 => some bf16
  | _ => none
/-- The width of an integer type. -/
def CvtType.bits : CvtType → Nat
  | .i64 | .n64 => 64
  | _ => 32
/-- The integer type is signed. -/
def CvtType.signed : CvtType → Bool
  | .i64 | .i32 => true
  | _ => false
/-- A value as it is read from a register (R225). -/
def CvtType.input (t : CvtType) (x : W64) : Val :=
  match t with
  | .fp64 => fp64.val x.toNat
  | .fp32 => fp32.val (unbox32 x)
  | .fp16 => fp16.val (unbox16 fp16 x)
  | .bf16 => bf16.val (unbox16 bf16 x)
  | t => Val.ofInt (intOf (CvtType.bits t) (CvtType.signed t) x.toNat)
/-- A result as it is written to a register (R225). -/
def CvtType.output (t : CvtType) (w : Nat) : W64 :=
  match t with
  | .i64 | .n64 | .fp64 => BitVec.ofNat 64 w
  | .i32 => sx32 (BitVec.ofNat 64 w)
  | .n32 => BitVec.ofNat 64 (w % 2 ^ 32)
  | .fp32 => box32 w
  | .fp16 | .bf16 => box16 w
/-- The conversion of R211. -/
def cvtOut (dst src : CvtType) (sat : Bool) (mode r : Nat) (x : W64) : W64 × BitVec 5 :=
  match (CvtType.ffmt dst), (CvtType.ffmt src) with
  | some f, _ =>
    let o := f.round false mode r ((CvtType.input src) x)
    ((CvtType.output dst) o.1, o.2)
  | none, some _ =>
    let o := ((CvtType.input src) x).toIntBits (CvtType.bits dst) (CvtType.signed dst) sat mode r
    ((CvtType.output dst) o.1, o.2)
  | none, none => ((CvtType.output dst) (intToInt (CvtType.bits dst) (CvtType.signed dst) sat (intOf (CvtType.bits src) (CvtType.signed src) x.toNat)), 0)
/-- CVT (R211, R225): in the mode it names, or in that of FRM where it names DYN. -/
def execCvt (rm : BitVec 3) (sat : Bool) (dst src : CvtType) (d a : RegCode) (s : State) : Host.Outcome State Fault Refusal :=
  run (.cvt rm sat dst src d a) [a] [d, a] (do
    let x ← readData a
    let c ← me
    let m := if rm = 6 then c.mode else rm.toNat
    let r := cvtOut dst src sat m c.draw x
    raiseFlags m r.2
    writeData (Instr.word (.cvt rm sat dst src d a)) d r.1
    pure .next) s

end Sys2Proof.Machine
end

