-- ==== Sys2Proof/Machine/Imm.lean ====
section
/-! DEFINITION. Machine/Imm.lean: the immediate forms (R219, R220) and the constants (R221). -/
namespace Sys2Proof.Machine

/-- ADDI (R219). -/
def execAddi (d a : RegCode) (k : BitVec 13) (s : State) : Host.Outcome State Fault Refusal :=
  alu2 (.addi d a k) d a (fun x => x + imm13 k) s
/-- ANDI (R219). -/
def execAndi (d a : RegCode) (k : BitVec 13) (s : State) : Host.Outcome State Fault Refusal :=
  alu2 (.andi d a k) d a (fun x => x &&& imm13 k) s
/-- ORI (R219). -/
def execOri (d a : RegCode) (k : BitVec 13) (s : State) : Host.Outcome State Fault Refusal :=
  alu2 (.ori d a k) d a (fun x => x ||| imm13 k) s
/-- XORI (R219). -/
def execXori (d a : RegCode) (k : BitVec 13) (s : State) : Host.Outcome State Fault Refusal :=
  alu2 (.xori d a k) d a (fun x => x ^^^ imm13 k) s
/-- SLTI (R219). -/
def execSlti (d a : RegCode) (k : BitVec 13) (s : State) : Host.Outcome State Fault Refusal :=
  alu2 (.slti d a k) d a (fun x => ofBool (x.slt (imm13 k))) s
/-- SLTNI (R219). -/
def execSltni (d a : RegCode) (k : BitVec 13) (s : State) : Host.Outcome State Fault Refusal :=
  alu2 (.sltni d a k) d a (fun x => ofBool (x.ult (imm13 k))) s
/-- MULI (R219). -/
def execMuli (d a : RegCode) (k : BitVec 13) (s : State) : Host.Outcome State Fault Refusal :=
  alu2 (.muli d a k) d a (fun x => x * imm13 k) s
/-- SHLI (R220). -/
def execShli (d a : RegCode) (n : BitVec 6) (s : State) : Host.Outcome State Fault Refusal :=
  alu2 (.shli d a n) d a (fun x => x <<< n.toNat) s
/-- SHRI (R220). -/
def execShri (d a : RegCode) (n : BitVec 6) (s : State) : Host.Outcome State Fault Refusal :=
  alu2 (.shri d a n) d a (fun x => x >>> n.toNat) s
/-- SARI (R220). -/
def execSari (d a : RegCode) (n : BitVec 6) (s : State) : Host.Outcome State Fault Refusal :=
  alu2 (.sari d a n) d a (fun x => x.sshiftRight n.toNat) s
/-- ROLI (R220). -/
def execRoli (d a : RegCode) (n : BitVec 6) (s : State) : Host.Outcome State Fault Refusal :=
  alu2 (.roli d a n) d a (fun x => x.rotateLeft n.toNat) s
/-- RORI (R220). -/
def execRori (d a : RegCode) (n : BitVec 6) (s : State) : Host.Outcome State Fault Refusal :=
  alu2 (.rori d a n) d a (fun x => x.rotateRight n.toNat) s
/-- SHLWI (R220). -/
def execShlwi (d a : RegCode) (n : BitVec 5) (s : State) : Host.Outcome State Fault Refusal :=
  alu2 (.shlwi d a n) d a (fun x => ((x.setWidth 32) <<< n.toNat).signExtend 64) s
/-- SHRWI (R220). -/
def execShrwi (d a : RegCode) (n : BitVec 5) (s : State) : Host.Outcome State Fault Refusal :=
  alu2 (.shrwi d a n) d a (fun x => ((x.setWidth 32) >>> n.toNat).signExtend 64) s
/-- SARWI (R220). -/
def execSarwi (d a : RegCode) (n : BitVec 5) (s : State) : Host.Outcome State Fault Refusal :=
  alu2 (.sarwi d a n) d a (fun x => ((x.setWidth 32).sshiftRight n.toNat).signExtend 64) s
/-- MOVI (R221). -/
def execMovi (d : RegCode) (k : BitVec 19) (s : State) : Host.Outcome State Fault Refusal :=
  alu1 (.movi d k) d (k.signExtend 64) s
/-- MOVSH (R221): a q code in d pops and then pushes. -/
def execMovsh (d : RegCode) (k : BitVec 19) (s : State) : Host.Outcome State Fault Refusal :=
  alu2 (.movsh d k) d d (fun x => (x <<< 19) ||| k.setWidth 64) s

end Sys2Proof.Machine
end

