-- ==== Sys2Proof/Machine/Links.lean ====
section
/-! DEFINITION. Machine/Links.lean: the Peraujor links: what is received, acknowledged and replayed (R111, R113), the loss of
light and the restripe (R114, R441, R442), lost links (R116), their event records (R117), and the operations that other
devices send here (R168, R440, R443). Flits come from the outside, on the agenda. -/
namespace Sys2Proof.Machine
open Sys2Proof

/-! The operations on a link. -/

/-- The link that an operation has taken. -/
def CopyOp.link (o : CopyOp) : Option (Fin 256) := match o.kind with | .cpyrX _ l _ => l | _ => none
/-- The number of an operation to another device. -/
def CopyOp.opid (o : CopyOp) : Option (BitVec 16) := match o.kind with | .cpyrX _ _ n => some n | _ => none

/-- The operations of this device on a link, queued ones too. -/
def State.opsOn (s : State) (n : Fin 256) : List CopyOp :=
  s.coreIds.flatMap (fun k => (s.core k).copyQ.filter (fun o => o.link == some n))

/-- Change the operations of this device on a link. -/
def State.modOps (s : State) (n : Fin 256) (f : CopyOp → CopyOp) : State :=
  s.coreIds.foldl (fun t k =>
    if (t.core k).copyQ.any (fun o => o.link == some n) then
      t.modCore k (fun q => { q with copyQ := q.copyQ.map (fun o => if o.link == some n then f o else o) })
    else t) s

/-- Some flit of an operation is held on a link. -/
def Link.holds (l : Link) (o : CopyOp) : Bool := l.held.any (fun f => f.kind == 1 && some f.opid == o.opid)

/-! Event records (R117). -/

/-- The source unit of a link's events: 0x20 and its die. -/
def linkUnit (n : Fin 256) : Nat := 0x20 + n.val / 64
/-- Live wavelengths of a mask. -/
def maskCount (m : BitVec 16) : Nat := (List.range 16).countP (fun i => m.getLsbD i)
/-- A mask of a link's wavelengths in its fibre (R109, R117). -/
def fibreMask (n : Fin 256) (m : BitVec 16) : W64 := m.setWidth 64 <<< (16 * (n.val % 4))

/-- A link's event record. -/
def State.linkRec (s : State) (n : Fin 256) (code sev dir : Nat) (mask : W64) (replayed : BitVec 32) (detail : Nat) : EvRec :=
  { s.evRec code sev (linkUnit n) (n.val + dir * 2 ^ 8) detail with mask := mask, replayed := replayed }

/-- An incoming operation has nothing more to write: its completion is next. -/
def Incoming.over (i : Incoming) : Bool := i.last && (i.failed.isSome || decide (i.buf.length < i.unit))

/-- The partitions whose flits are held or queued on a link (R117): data flits, and completions. -/
def State.linkParts (s : State) (n : Fin 256) : List (Fin 64) :=
  ((((s.opsOn n).filter (fun o => !o.last || (s.link n).holds o)).map (fun o => s.partOf o.head.owner.sl))
    ++ ((s.link n).arriving.filter (fun i => i.done.isSome || i.over)).map (fun i => i.part)).dedup

/-- Raise a link's event to its recipients (R117). -/
def State.raiseLink (s : State) (ps : List (Fin 64)) (e : EvRec) : State := (ps.foldl (fun t p => t.toPart p e) s).toPfs e

/-- 0x0322 of the sending end: the mask in force, to those who had flits on the link at a detection of this restripe (R114,
R117, R442). -/
def State.raiseStriped (s : State) (n : Fin 256) : State :=
  let l := s.link n
  (s.modLink n (fun l => { l with parts := [] })).raiseLink l.parts (s.linkRec n 0x0322 2 0 (fibreMask n l.live) l.replayed (maskCount l.live))

/-! Loss (R116). -/

/-- The result of an operation whose link is lost (R115, R163): a completion that reports a failure stands; a failure or a
cancel that this device found keeps its STATUS, and PROGRESS is what was acknowledged. -/
def CopyOp.lostWord (o : CopyOp) : W64 × Option W64 :=
  match o.comp.filter (fun w => w.getLsbD 15), o.ending with
  | none, some (st, _, r) => (resultWord st.toNat o.acked r, none)
  | _, _ => o.failure.getD (resultWord 0x8201 o.acked 0, none)

/-- A link is lost (R116): its operations resolve, 0x0323 goes out, and it leaves every route. -/
def State.loseLink (s : State) (n : Fin 256) : State :=
  let l := s.link n
  let dies := (s.opsOn n).filter (fun o => !(o.comp.isSome && !l.holds o))
  let ps := s.linkParts n
  let gone : CopyOp → Bool := fun o => dies.any (fun p => p.head.owner == o.head.owner && p.head.issued == o.head.issued)
  let s := s.coreIds.foldl (fun t k => t.modCore k (fun q => { q with copyQ := q.copyQ.filter (fun o => !gone o) })) s
  let s := dies.foldl (fun t o => t.resolveOp o.head true o.lostWord.1 o.lostWord.2) s
  let s := s.raiseLink ps (s.linkRec n 0x0323 3 0 0 l.replayed (dies.countP (fun o => o.failure.isNone)))
  let s := s.modLink n (fun l =>
    { l with lost := true, held := [], restripe := false, first := none, parts := [], arriving := [], rounds := 0 })
  { s with routes := s.routes.map (fun r => (r.1, r.2.filter (fun m => m != n))) }

/-! Acknowledgement and replay (R113). -/

/-- A restripe is between its first step and its replay: no data crosses (R114). -/
def Link.marking (l : Link) : Bool := l.restripe && l.first.isNone

/-- Replay every held flit, oldest first (R113), as one more round. The replay of a restripe (R114 step 5) counts as one of
the 64 consecutive rounds too: the spec does not say (DESIGN CHOICE, assumption log 23). -/
def State.replayAll (s : State) (n : Fin 256) : State :=
  let l := s.link n
  let fs := l.held.map (fun f => { f with replay := true })
  let s := fs.foldl (fun t f => t.transmit n f) s
  let s := s.modLink n (fun l =>
    { l with held := fs, replayed := l.replayed + BitVec.ofNat 32 fs.length, rounds := l.rounds + 1, since := s.timeNs })
  s.modOps n (fun o => if l.holds o then { o with replayed := true } else o)

/-- A cause of a replay (R113): after 64 rounds without an advance the link is lost. -/
def State.replayCause (s : State) (n : Fin 256) : State :=
  let l := s.link n
  if l.held.isEmpty ∨ l.marking = true then s
  else if 64 ≤ l.rounds then s.loseLink n
  else s.replayAll n

/-- The flits that an ACKSEQ releases: the held ones up to it. -/
def Link.released (l : Link) (a : BitVec 12) : List Flit :=
  match l.held.findIdx? (fun f => f.seq == a) with
  | some i => l.held.take (i + 1)
  | none => []

/-- A restripe is over (R114 step 6). -/
def State.striped (s : State) (n : Fin 256) : State :=
  (s.modLink n (fun l => { l with restripe := false, first := none })).raiseStriped n

/-- An ACKSEQ arrives (R113): flits are released, and the operations learn which elements are acknowledged (R163); the first
replayed flit of a restripe ends it. -/
def State.ackUpTo (s : State) (n : Fin 256) (a : BitVec 12) : State :=
  let l := s.link n
  let fs := l.released a
  if fs.isEmpty then s
  else
    let s := s.modLink n (fun l =>
      { l with
        held := l.held.drop fs.length, lastAck := a, since := s.timeNs, rounds := 0
        arriving := l.arriving.filter (fun i => !(fs.any (fun f => i.done == some f.seq))) })
    let s := s.modOps n (fun o => fs.foldl (fun p f =>
      if f.kind = 1 ∧ some f.opid = p.opid ∧ f.offset ≠ 0xFFFFFFFF then { p with acked := max p.acked f.elems } else p) o)
    match l.first with
    | some q => if fs.any (fun f => f.seq == q) then s.striped n else s
    | none => s

/-- The mask that bytes 0 and 1 of a payload hold (R114, R441). -/
def maskOf (f : Flit) : BitVec 16 := BitVec.ofNat 16 (numAt f.payload 0 2)

/-- A flit without number: its payload is a mask, or nothing. The spec does not say what SEQ, DCORE, DEVICE, OPID, OFFSET
and PTAG hold in an acknowledgement, a negative acknowledgement or a marker, but for a marker's SEQ (R441): here 0, and VC 2
(DESIGN CHOICE, assumption log 30). -/
def bareFlit (kind : BitVec 8) (seq : BitVec 12) (payload : List Byte) : Flit :=
  { kind := kind, seq := seq, ackseq := 0, ptag := 0, vc := 2, dcore := 0, device := 0, opid := 0, offset := 0
    len := BitVec.ofNat 8 (payload.length - 1), last := false, replay := false, payload := payload, reserved := 0, mask := 0
    noise := [], elems := 0, result := 0 }

/-- The receiver discards a flit as lost (R111, R112): its beat was striped otherwise than the receiver reads it, or over a
wavelength that is dark here; more than the 6 bytes are wrong that the code corrects; a reserved bit is set; its TYPE is
none of those that the table names. A marker is read as it is striped: it brings the mask. -/
def Link.garbled (l : Link) (f : Flit) : Bool :=
  let wrong := gather f.mask f.noise
  (f.kind != 3 && f.mask != l.rxLive) || (wavelengths f.mask).any (fun w => !l.rxLit.getLsbD (w / 4))
    || decide (6 < (List.range 96).countP (fun i => wrong / 2 ^ (8 * i) % 256 != 0))
    || f.reserved != 0 || decide (7 ≤ f.kind.toNat)

/-- What becomes of a numbered flit at the receiver (R111, R113): the state after it, and whether it is accepted. A bad flit
is as a lost one; a flit ahead of the next expected number shows a gap, which one negative acknowledgement answers. A replayed
flit counts for the records that the receiver writes (R442) when it is accepted (DEDUCED, assumption log 30). -/
def State.receiveFlit (s : State) (n : Fin 256) (f : Flit) : State × Bool :=
  if (s.link n).garbled f then (s, false)
  else
    let s := s.ackUpTo n f.ackseq
    let l := s.link n
    if f.seq = l.expect then
      (s.modLink n (fun l =>
        { l with expect := l.expect + 1, nacked := false, rxReplayed := l.rxReplayed + (if f.replay then 1 else 0) }), true)
    else if (f.seq - l.expect).toNat < 2048 ∧ l.nacked = false then
      ((s.transmit n (bareFlit 4 0 [])).modLink n (fun l => { l with nacked := true }), false)
    else (s, false)

/-! Operations from other devices (R168, R440, R443). -/

/-- The page of an incoming element (R443): as for a core's own miss it joins the walks of the die (R79, R80), but no fault is
serviced; a host page is asked for by ATS. -/
def State.incomingPage (s : State) (i : Incoming) (a : W64) : State × Elem Xl :=
  let root := (s.part i.part).ptroot
  let give : State → State × Elem Xl := fun t => (t, match t.lookPage i.core i.part root .write a with
    | .ok x => .ok x
    | .fault r => .fail faultPage r.code none
    | .walk => .halt (.walk a true)
    | .service => .halt (.service a true))
  match s.tlbMicro i.core i.part a, s.tlbFind i.core i.part a with
  | some _, _ => give s
  | none, some e => give (s.refill i.core e)
  | none, none => (s.joinMiss i.core i.part a, .halt (.walk a true))

/-- The next transaction of an incoming operation to expansion memory is poisoned, or times out (R88). -/
def State.poisonIncoming (s : State) (n : Fin 256) (op : BitVec 16) : State :=
  s.modLink n (fun l => { l with arriving := l.arriving.map (fun (i : Incoming) => if i.opid = op then { i with poison := true } else i) })

/-- Where the bytes of an incoming unit lie in translated memory: at most two pages. A transaction to expansion memory may fail
(R88). -/
def State.incomingPages (s : State) (i : Incoming) : Nat → W64 → Nat → State × Elem (List Piece)
  | 0, _, _ => (s, .ok [])
  | f + 1, a, n =>
    match s.incomingPage i a with
    | (s, .ok x) =>
      let m := min n (x.vbase + x.size - a.toNat)
      if x.loc.inExp && i.poison && i.fmt.isSome then (s, .fail faultPage PageReason.expansionError.code none)
      else if m ≥ n then (s, .ok [⟨x.loc, n, some x⟩])
      else
        match State.incomingPages s i f (a + BitVec.ofNat 64 m) (n - m) with
        | (s, .ok ps) => (s, .ok (⟨x.loc, m, some x⟩ :: ps))
        | r => r
    | (s, .fail st r d) => (s, .fail st r d)
    | (s, .halt p) => (s, .halt p)
    | (s, _) => (s, .stay)

/-- What an address names on this device in the partition of an incoming operation (R68, R69, R168): the slot of the tenant on
the core it names decides; none while that slot is being evicted or is evicted. -/
def State.incomingNamed (s : State) (i : Incoming) (a : W64) (n : Nat) : Option Named :=
  let far := decide (2 ^ 32 ≤ a.toNat ∧ a.toNat + n ≤ 2 ^ 56)
  match s.tenantSlot i.part i.core 0 with
  | some sl =>
    if s.present i.part sl then some (s.named sl a n)
    else if far then some .translated
    else none
  | none => some (if far then .translated else if a.toNat / 2 ^ 57 ≠ 0 then .fault .nonCanonical a else .fault .noSlot a)

/-- Where a unit of an incoming operation lies (R158 step 4), with the format there, the offset in the granule or page, and
its size. -/
def State.incomingSeek (s : State) (i : Incoming) (a : W64) (n : Nat) : State × Elem (List Piece × Fmt × Nat × Nat) :=
  let inSlot : SlotId → Nat → List Piece × Fmt × Nat × Nat := fun t off =>
    ([⟨s.slotLoc t off, n, none⟩], s.keptFmt i.lsgs t off, off % Config.granuleBytes, Config.granuleBytes)
  match s.incomingNamed i a n with
  | none => (s, .stay)
  | some (.fault r _) => (s, .fail faultPage r.code none)
  | some (.own off) =>
    match s.tenantSlot i.part i.core 0 with
    | some t => (s, .ok (inSlot t off))
    | none => (s, .stay)
  | some (.global t off) => if s.present i.part t then (s, .ok (inSlot t off)) else (s, .stay)
  | some .translated =>
    match s.incomingPages i 2 a n with
    | (s, .ok ps) =>
      match (ps.head?).bind (fun p => p.xl) with
      | some x => (s, .ok (ps, x.fmt, a.toNat - x.vbase, x.size))
      | none => (s, .stay)
    | (s, .fail st r d) => (s, .fail st r d)
    | (s, .halt p) => (s, .halt p)
    | (s, _) => (s, .stay)

/-- How an incoming operation fares with its next element: it goes on, it stands still. -/
inductive Inward where
  | go (s : State) (i : Incoming)
  | stand (s : State) (i : Incoming)

/-- An element fails (R443): no later one is written. -/
def Incoming.stop (i : Incoming) (s : State) (st reason : Nat) : Inward :=
  .go s { i with failed := some (BitVec.ofNat 16 st, i.k, reason), asks := none, walks := none }

/-- What an element waits for. -/
def Incoming.halt (i : Incoming) (s : State) (p : Pause) : Inward :=
  match p with
  | .service a _ => .stand s { i with asks := some a }
  | .walk a _ => .stand s { i with walks := some a }
  | .snoop n w => .stand (s.snoop n w) i
  | _ => .stand s i

/-- The kick at the destination (R155, R168): the format at DATA's cursor; its unit must be the sender's. What fails here
fails at ordinal 0. -/
def Incoming.kick (i : Incoming) (s : State) : Inward :=
  match s.incomingSeek i i.shape.data.lo 1 with
  | (s, .ok (_, f, _, _)) =>
    if f.unit = i.unit then .go s { i with fmt := some f, asks := none } else { i with k := 0 }.stop s faultFormat 0
  | (s, .fail st r _) => { i with k := 0 }.stop s st r
  | (s, .halt p) => i.halt s p
  | (s, _) => .stand s i

/-- The weight store refuses an incoming write (R137): a supervisor's copy writes where the store is open. -/
def Incoming.wsRefused (i : Incoming) (s : State) (p : Piece) : Bool :=
  match p.loc with
  | .weight die _ => !(i.supv && s.wsOpen i.part die)
  | _ => false

/-- The next element of an incoming operation: steps 4 to 6 of R158 (R443), then its write. -/
def Incoming.element (i : Incoming) (s : State) : Inward :=
  let u := i.unit
  let past : Incoming := { i with buf := i.buf.drop u, k := i.k + 1, asks := none }
  if i.holes.contains i.k then .go s past
  else
    match i.shape.edgeAt u (i.shape.addrAt u i.k) with
    | .ok a =>
      match s.incomingSeek i a u with
      | (s, .ok (ps, f, off, len)) =>
        if ps.any (i.wsRefused s) then { i with denied := true }.stop s faultPage 2
        else if f.bad || f.unit != u || f.inTail off len || !ps.all (Piece.agrees u) then i.stop s faultFormat 0
        else
          match ps.findSome? (s.pieceWait i.part true) with
          | some p => i.halt s p
          | none => .go (s.putPieces ps (i.buf.take u)) past
      | (s, .fail st r _) => i.stop s st r
      | (s, .halt p) => i.halt s p
      | (s, _) => .stand s i
    | .fail st r _ => i.stop s st r
    | _ => .go s past

/-- An incoming operation goes on with the payload that has come, and answers once it is over (R115, R443). -/
def Incoming.run (n : Fin 256) : Nat → State → Incoming → State × Incoming
  | 0, s, i => (s, i)
  | f + 1, s, i =>
    if i.done.isSome || i.asks.isSome || i.walks.isSome then (s, i)
    else if i.failed.isNone ∧ i.fmt.isNone ∧ i.shape.count ≠ 0 then
      match i.kick s with
      | .go t j => Incoming.run n f t j
      | .stand t j => (t, j)
    else if i.failed.isNone ∧ i.unit ≤ i.buf.length ∧ 0 < i.unit then
      match i.element s with
      | .go t j => Incoming.run n f t j
      | .stand t j => (t, j)
    else if i.last ∧ (s.link n).takes then
      let w := match i.failed with
        | some (st, k, r) => resultWord st.toNat k r ||| (if i.denied then 1 <<< 63 else 0)
        | none => resultWord 0 i.k 0
      let seq := (s.link n).nextSeq
      let c : Flit :=
        { kind := 5, seq := 0, ackseq := 0, ptag := i.ptag, vc := 1, dcore := i.dcore, device := BitVec.ofNat 12 (Config.freeNat s.fresh)
          opid := i.opid, offset := 0, len := 0, last := false, replay := false, payload := []
          reserved := 0, mask := 0, noise := [], elems := 0, result := w }
      (s.takeFresh.sendNumbered n c, { i with done := some seq, buf := [] })
    else (s, i)

/-- Every incoming operation of a link goes on as far as it comes. -/
def State.pump (s : State) (n : Fin 256) : State :=
  (s.link n).arriving.foldl (fun t i =>
    let r := Incoming.run n (i.buf.length + 3) t i
    r.1.modLink n (fun l => { l with arriving := l.arriving.map (fun j => if j.opid = i.opid ∧ j.done = i.done then r.2 else j) })) s

/-- The bits that are set below 64, as numbers. -/
def bitsSet (w : W64) : List Nat := (List.range 64).filter (fun i => w.getLsbD i)

/-- An accepted data flit joins its operation: a descriptor opens it; payload is kept until it fills an element, or discarded
after a failure (R440, R443). -/
def State.takeData (s : State) (n : Fin 256) (f : Flit) : State :=
  if f.offset = 0xFFFFFFFF then
    let sh := shapeOf f.payload ⟨BitVec.ofNat 128 (numAt f.payload 0 16), 0⟩ 0
    let p := Sparse.get 0 s.peers n.val
    let k := f.result.toNat % 2 ^ 32
    let i : Incoming :=
      { opid := f.opid, dcore := f.dcore, shape := sh, part := p, unit := f.elems, start := k, fmt := none, buf := [], got := 0
        holes := [], k := k, last := f.last, failed := none, asks := none, walks := none, poison := false, done := none, ptag := f.ptag
        supv := f.result.getLsbD 63, lsgs := s.lsgsOf p, denied := false }
    s.modLink n (fun l => { l with arriving := l.arriving ++ [i] })
  else
    let bs := f.payload.take (f.len.toNat + 1)
    s.modLink n (fun l => { l with arriving := l.arriving.map (fun (i : Incoming) =>
      if i.opid = f.opid ∧ i.done.isNone then
        { i with
          buf := if i.failed.isSome then [] else i.buf ++ bs
          got := i.got + bs.length, last := f.last
          holes := i.holes ++ (bitsSet f.result).map (fun b => i.start + (i.got + b) / i.unit) }
      else i) })

/-! The steps. -/

/-- FLIT_DATA_RECEIVE (R111, R113, R440, R443). A flit of a TYPE that the table does not name is discarded. -/
def execFlitDataReceive (n : Fin 256) (f : Flit) (s : State) : Host.Outcome State Fault Refusal :=
  s.on ((f.kind == 1 || decide (7 ≤ f.kind.toNat)) && !(s.link n).lost) (fun s =>
    let r := s.receiveFlit n f
    (if r.2 then r.1.takeData n f else r.1).pump n)

/-- COMPLETION_FLIT_RECEIVE (R113, R115): the operation has its completion. -/
def execCompletionFlitReceive (n : Fin 256) (f : Flit) (s : State) : Host.Outcome State Fault Refusal :=
  s.on (f.kind == 5 && !(s.link n).lost) (fun s =>
    let r := s.receiveFlit n f
    (if r.2 then r.1.modOps n (fun o => if o.opid = some f.opid then { o with comp := some f.result } else o) else r.1).pump n)

/-- FLIT_ACK_RECEIVE (R113, R114, R441): an acknowledgement comes, or an idle or training flit, which carries ACKSEQ as
every flit does. Flits are released; the acknowledgement of a marker starts the replay in the new striping, or ends the
restripe where nothing is held. -/
def execFlitAckReceive (n : Fin 256) (f : Flit) (s : State) : Host.Outcome State Fault Refusal :=
  s.on ((f.kind == 2 || f.kind == 0 || f.kind == 6) && !(s.link n).garbled f && !(s.link n).lost) (fun s =>
    let s := s.ackUpTo n f.ackseq
    let l := s.link n
    (if f.kind = 2 ∧ l.marking ∧ maskOf f = l.live then
      match l.held with
      | [] => s.striped n
      | h :: _ => (s.modLink n (fun l => { l with first := some h.seq })).replayAll n
    else s).pump n)

/-- FLIT_NACK_RECEIVE (R113). -/
def execFlitNackReceive (n : Fin 256) (f : Flit) (s : State) : Host.Outcome State Fault Refusal :=
  s.on (f.kind == 4 && !(s.link n).garbled f && !(s.link n).lost) (fun s => ((s.ackUpTo n f.ackseq).replayCause n).pump n)

/-- RESTRIPE_MARKER_RECEIVE (R114, R441): the new mask is taken, and answered; a mask already in force changes nothing. The
record counts the replayed flits that came and the replay that follows, which is what lies between the expected number and the
marker's (R442). -/
def execRestripeMarkerReceive (n : Fin 256) (f : Flit) (s : State) : Host.Outcome State Fault Refusal :=
  s.on (f.kind == 3 && !(s.link n).garbled f && !(s.link n).lost) (fun s =>
    let s := s.ackUpTo n f.ackseq
    let m := maskOf f
    let s :=
      if (s.link n).rxLive = m then s
      else
        let l := s.link n
        let e := s.linkRec n 0x0322 2 1 (fibreMask n m) (l.rxReplayed + (f.seq - l.expect).setWidth 32) (maskCount m)
        (s.modLink n (fun l => { l with rxLive := m })).toPfs e
    s.transmit n (bareFlit 2 0 (bytesLE 2 m.toNat)))

/-- ACK_FLIT_TIMER (R113): an acknowledgement flit is sent. -/
def execAckFlitTimer (n : Fin 256) (s : State) : Host.Outcome State Fault Refusal :=
  s.on (!(s.link n).lost) (fun s => (s.transmit n (bareFlit 2 0 [])).pump n)

/-- The marker of a restripe (R441): it carries the next number and does not take it. -/
def State.sendMarker (s : State) (n : Fin 256) : State :=
  let l := s.link n
  s.transmit n (bareFlit 3 l.nextSeq (bytesLE 2 l.live.toNat))

/-- REPLAY_TIMEOUT (R113, R114): 4 µs without an advance of ACKSEQ replay the held flits; while a restripe waits for the
acknowledgement of its markers, the marker is repeated. -/
def execReplayTimeout (n : Fin 256) (s : State) : Host.Outcome State Fault Refusal :=
  let l := s.link n
  s.on (!l.lost && (l.marking || (!l.held.isEmpty && decide (l.since + 4000 ≤ s.timeNs)))) (fun s =>
    if l.marking then s.sendMarker n else s.replayCause n)

/-- LOSS_OF_LIGHT (R114): a laser group of the link goes dark, in the transmit or in the receive direction. -/
def execLossOfLight (n : Fin 256) (g : Laser) (s : State) : Host.Outcome State Fault Refusal :=
  let b := ~~~((1 : BitVec 4) <<< g.grp.val)
  s.on true (fun s => s.modLink n (fun l => if g.rx then { l with rxLit := l.rxLit &&& b } else { l with lit := l.lit &&& b }))

/-- LASER_LIGHT_RETURN (R114): a laser group reports light again; the link stays as it is striped. -/
def execLaserLightReturn (n : Fin 256) (g : Laser) (s : State) : Host.Outcome State Fault Refusal :=
  let b := (1 : BitVec 4) <<< g.grp.val
  s.on true (fun s => s.modLink n (fun l => if g.rx then { l with rxLit := l.rxLit ||| b } else { l with lit := l.lit ||| b }))

/-- The wavelengths of a laser group in a link (R109). -/
def groupMask (g : Fin 4) : BitVec 16 := (0xF : BitVec 16) <<< (4 * g.val)

/-- The laser source of a group of a link (R117). -/
def laserOf (n : Fin 256) (g : Fin 4) : Nat := n.val / 4 * 16 + n.val % 4 * 4 + g.val

/-- This device detects, as the receiver, that a laser group is dark (R114, R441): it raises 0x0321 of the receive
direction, and reports the loss in a control flit on the reverse direction. The TYPE of that flit is a free value (assumption
log 1); which group it reports stands where the spec gives no bits (assumption log 30). -/
def State.reportLoss (s : State) (n : Fin 256) (g : Fin 4) : State :=
  let e := s.linkRec n 0x0321 2 1 (fibreMask n (groupMask g)) (s.link n).rxReplayed (laserOf n g)
  let s := (s.modLink n (fun l => { l with rxTold := l.rxTold ||| ((1 : BitVec 4) <<< g.val) })).toPfs e
  s.takeFresh.transmit n { bareFlit (BitVec.ofNat 8 (Config.freeNat s.fresh)) 0 [] with result := BitVec.ofNat 64 (g.val + 1) }

/-- This device detects a loss of the transmit direction, or hears of it from the other end (R114): 0x0321 goes out, and a
restripe begins, or begins again, with the smaller mask; where no wavelength is left, the link is lost (R116). -/
def State.narrow (s : State) (n : Fin 256) (g : Fin 4) : State :=
  let l := s.link n
  let ps := s.linkParts n
  let s := s.raiseLink ps (s.linkRec n 0x0321 2 0 (fibreMask n (groupMask g)) l.replayed (laserOf n g))
  let live := l.live &&& ~~~(groupMask g)
  let s := s.modLink n (fun l => { l with live := live, parts := (l.parts ++ ps).dedup })
  if live = 0 then s.loseLink n
  else
    ((s.modLink n (fun l => { l with restripe := true, first := none })).modOps n
      (fun o => if o.sent ∧ o.comp.isNone then { o with restriped := true } else o)).sendMarker n

/-- A dark laser group whose loss is not yet known: of the transmit direction, one that is striped over; of the receive
direction, one that this device has not reported and that no marker has taken out (R114, R441). -/
def Link.unknownLoss (l : Link) (g : Laser) : Bool :=
  if g.rx then !l.rxLit.getLsbD g.grp.val && l.rxLive &&& groupMask g.grp != 0 && !l.rxTold.getLsbD g.grp.val
  else !l.lit.getLsbD g.grp.val && l.live &&& groupMask g.grp != 0

/-- LOSS_DETECT (R114, R116): a loss of light is detected, once. -/
def execLossDetect (n : Fin 256) (g : Laser) (s : State) : Host.Outcome State Fault Refusal :=
  s.on (!(s.link n).lost && (s.link n).unknownLoss g) (fun s => if g.rx then s.reportLoss n g.grp else s.narrow n g.grp)

/-- LINK_RETRAIN (R114): firmware retrains a link whose window is empty and whose lasers all report light; one that widens a
direction raises 0x0322 of that direction with the new mask. Numbers start again (R441). R117 names recipients by the flits held
or queued at a detection, and a retraining has none: its records go to the physical functions only (DESIGN CHOICE, assumption
log 30). -/
def execLinkRetrain (n : Fin 256) (s : State) : Host.Outcome State Fault Refusal :=
  let l := s.link n
  s.on (l.held.isEmpty && l.lit == 0xF && l.rxLit == 0xF && (l.lost || !l.restripe)) (fun s =>
    let s := s.modLink n (fun l =>
      { l with
        live := 0xFFFF, rxLive := 0xFFFF, lost := false, restripe := false, first := none, parts := [], replayed := 0
        rounds := 0, rxTold := 0, rxReplayed := 0, nextSeq := 0, expect := 0, lastAck := 0xFFF, nacked := false })
    let s := if l.live = 0xFFFF then s else s.raiseStriped n
    if l.rxLive = 0xFFFF then s else s.toPfs (s.linkRec n 0x0322 2 1 (fibreMask n 0xFFFF) 0 16))

end Sys2Proof.Machine
end

