-- ==== Sys2Proof/Machine/Short16.lean ====
section
/-! DEFINITION. Machine/Short16.lean: the 16-bit arithmetic forms (R41 to R43). Each has the effect of the 32-bit statement
that R42 or R43 names, with TVAL and the next PC of a 16-bit instruction. -/
namespace Sys2Proof.Machine

/-- ADD.C (R42): ADD d, d, b. -/
def execAddC (d : RegCode) (b : GReg) (s : State) : Host.Outcome State Fault Refusal :=
  alu3 (.addC d b) d d (.g b) (fun x y => x + y) s
/-- SUB.C (R42). -/
def execSubC (d : RegCode) (b : GReg) (s : State) : Host.Outcome State Fault Refusal :=
  alu3 (.subC d b) d d (.g b) (fun x y => x - y) s
/-- AND.C (R42). -/
def execAndC (d : RegCode) (b : GReg) (s : State) : Host.Outcome State Fault Refusal :=
  alu3 (.andC d b) d d (.g b) (fun x y => x &&& y) s
/-- OR.C (R42). -/
def execOrC (d : RegCode) (b : GReg) (s : State) : Host.Outcome State Fault Refusal :=
  alu3 (.orC d b) d d (.g b) (fun x y => x ||| y) s
/-- XOR.C (R42). -/
def execXorC (d : RegCode) (b : GReg) (s : State) : Host.Outcome State Fault Refusal :=
  alu3 (.xorC d b) d d (.g b) (fun x y => x ^^^ y) s
/-- SHLI.C (R42). -/
def execShliC (d : RegCode) (k : BitVec 5) (s : State) : Host.Outcome State Fault Refusal :=
  alu2 (.shliC d k) d d (fun x => x <<< k.toNat) s
/-- SHRI.C (R42). -/
def execShriC (d : RegCode) (k : BitVec 5) (s : State) : Host.Outcome State Fault Refusal :=
  alu2 (.shriC d k) d d (fun x => x >>> k.toNat) s
/-- ADDI.C (R42). -/
def execAddiC (d : RegCode) (k : BitVec 5) (s : State) : Host.Outcome State Fault Refusal :=
  alu2 (.addiC d k) d d (fun x => x + k.signExtend 64) s
/-- MOVI.C (R42). -/
def execMoviC (d : RegCode) (k : BitVec 5) (s : State) : Host.Outcome State Fault Refusal :=
  alu1 (.moviC d k) d (k.signExtend 64) s
/-- FADD.D.C (R42): FADD.D d, d, b. -/
def execFaddDC (d : RegCode) (b : GReg) (s : State) : Host.Outcome State Fault Refusal :=
  fp3 (.faddDC d b) .d d d (.g b) (fun m r x y => roundOut .d m r (addV m (fp64.val x) (fp64.val y))) s
/-- FMUL.D.C (R42). -/
def execFmulDC (d : RegCode) (b : GReg) (s : State) : Host.Outcome State Fault Refusal :=
  fp3 (.fmulDC d b) .d d d (.g b) (fun m r x y => roundOut .d m r (mulV (fp64.val x) (fp64.val y))) s
/-- NEG (R43): SUB d, zero, d. -/
def execNeg (d : RegCode) (s : State) : Host.Outcome State Fault Refusal :=
  alu2 (.neg d) d d (fun x => 0 - x) s
/-- NOT (R43): XORI d, d, #-1. -/
def execNot (d : RegCode) (s : State) : Host.Outcome State Fault Refusal :=
  alu2 (.not_ d) d d (fun x => x ^^^ BitVec.allOnes 64) s

end Sys2Proof.Machine
end

