-- ==== Sys2Proof/Machine/Dispatch.lean ====
section
/-! DEFINITION. Machine/Dispatch.lean: the meaning of every instruction and step, one arm per constructor of `Instr`. -/
namespace Sys2Proof.Machine
open Sys2Proof

/-- One instruction, or one step of the hardware, the firmware or a host. -/
def exec (i : Instr) (s : State) : Host.Outcome State Fault Refusal :=
  match i with
  | .add d a b => Sys2Proof.Machine.execAdd d a b s
  | .sub d a b => Sys2Proof.Machine.execSub d a b s
  | .mul d a b => Sys2Proof.Machine.execMul d a b s
  | .mulh d a b => Sys2Proof.Machine.execMulh d a b s
  | .mulhn d a b => Sys2Proof.Machine.execMulhn d a b s
  | .div d a b => Sys2Proof.Machine.execDiv d a b s
  | .divn d a b => Sys2Proof.Machine.execDivn d a b s
  | .rem d a b => Sys2Proof.Machine.execRem d a b s
  | .remn d a b => Sys2Proof.Machine.execRemn d a b s
  | .and_ d a b => Sys2Proof.Machine.execAnd d a b s
  | .or_ d a b => Sys2Proof.Machine.execOr d a b s
  | .xor d a b => Sys2Proof.Machine.execXor d a b s
  | .andn d a b => Sys2Proof.Machine.execAndn d a b s
  | .shl d a b => Sys2Proof.Machine.execShl d a b s
  | .shr d a b => Sys2Proof.Machine.execShr d a b s
  | .sar d a b => Sys2Proof.Machine.execSar d a b s
  | .rol d a b => Sys2Proof.Machine.execRol d a b s
  | .ror d a b => Sys2Proof.Machine.execRor d a b s
  | .slt d a b => Sys2Proof.Machine.execSlt d a b s
  | .sltn d a b => Sys2Proof.Machine.execSltn d a b s
  | .seq d a b => Sys2Proof.Machine.execSeq d a b s
  | .min d a b => Sys2Proof.Machine.execMin d a b s
  | .max d a b => Sys2Proof.Machine.execMax d a b s
  | .minn d a b => Sys2Proof.Machine.execMinn d a b s
  | .maxn d a b => Sys2Proof.Machine.execMaxn d a b s
  | .clz d a => Sys2Proof.Machine.execClz d a s
  | .ctz d a => Sys2Proof.Machine.execCtz d a s
  | .popc d a => Sys2Proof.Machine.execPopc d a s
  | .brev d a => Sys2Proof.Machine.execBrev d a s
  | .bswap d a => Sys2Proof.Machine.execBswap d a s
  | .clmul d a b => Sys2Proof.Machine.execClmul d a b s
  | .clmulh d a b => Sys2Proof.Machine.execClmulh d a b s
  | .addw d a b => Sys2Proof.Machine.execAddw d a b s
  | .subw d a b => Sys2Proof.Machine.execSubw d a b s
  | .mulw d a b => Sys2Proof.Machine.execMulw d a b s
  | .sel d a b => Sys2Proof.Machine.execSel d a b s
  | .extr d a b => Sys2Proof.Machine.execExtr d a b s
  | .insr d a b => Sys2Proof.Machine.execInsr d a b s
  | .adds d a b => Sys2Proof.Machine.execAdds d a b s
  | .subs d a b => Sys2Proof.Machine.execSubs d a b s
  | .addi d a k => Sys2Proof.Machine.execAddi d a k s
  | .andi d a k => Sys2Proof.Machine.execAndi d a k s
  | .ori d a k => Sys2Proof.Machine.execOri d a k s
  | .xori d a k => Sys2Proof.Machine.execXori d a k s
  | .slti d a k => Sys2Proof.Machine.execSlti d a k s
  | .sltni d a k => Sys2Proof.Machine.execSltni d a k s
  | .muli d a k => Sys2Proof.Machine.execMuli d a k s
  | .shli d a n => Sys2Proof.Machine.execShli d a n s
  | .shri d a n => Sys2Proof.Machine.execShri d a n s
  | .sari d a n => Sys2Proof.Machine.execSari d a n s
  | .roli d a n => Sys2Proof.Machine.execRoli d a n s
  | .rori d a n => Sys2Proof.Machine.execRori d a n s
  | .shlwi d a n => Sys2Proof.Machine.execShlwi d a n s
  | .shrwi d a n => Sys2Proof.Machine.execShrwi d a n s
  | .sarwi d a n => Sys2Proof.Machine.execSarwi d a n s
  | .movi d k => Sys2Proof.Machine.execMovi d k s
  | .movsh d k => Sys2Proof.Machine.execMovsh d k s
  | .fadd p d a b => Sys2Proof.Machine.execFadd p d a b s
  | .fsub p d a b => Sys2Proof.Machine.execFsub p d a b s
  | .fmul p d a b => Sys2Proof.Machine.execFmul p d a b s
  | .fdiv p d a b => Sys2Proof.Machine.execFdiv p d a b s
  | .fsqrt p d a => Sys2Proof.Machine.execFsqrt p d a s
  | .fmin p d a b => Sys2Proof.Machine.execFmin p d a b s
  | .fmax p d a b => Sys2Proof.Machine.execFmax p d a b s
  | .fminm p d a b => Sys2Proof.Machine.execFminm p d a b s
  | .fmaxm p d a b => Sys2Proof.Machine.execFmaxm p d a b s
  | .feq p d a b => Sys2Proof.Machine.execFeq p d a b s
  | .flt p d a b => Sys2Proof.Machine.execFlt p d a b s
  | .fle p d a b => Sys2Proof.Machine.execFle p d a b s
  | .funord p d a b => Sys2Proof.Machine.execFunord p d a b s
  | .fclass p d a => Sys2Proof.Machine.execFclass p d a s
  | .fsgnj p d a b => Sys2Proof.Machine.execFsgnj p d a b s
  | .fsgnjn p d a b => Sys2Proof.Machine.execFsgnjn p d a b s
  | .fsgnjx p d a b => Sys2Proof.Machine.execFsgnjx p d a b s
  | .frint p d a => Sys2Proof.Machine.execFrint p d a s
  | .fmaD d a b c => Sys2Proof.Machine.execFmaD d a b c s
  | .fnmaD d a b c => Sys2Proof.Machine.execFnmaD d a b c s
  | .fmaS d a b c => Sys2Proof.Machine.execFmaS d a b c s
  | .fnmaS d a b c => Sys2Proof.Machine.execFnmaS d a b c s
  | .cvt rm sat dst src d a => Sys2Proof.Machine.execCvt rm sat dst src d a s
  | .ld sz o d a off => Sys2Proof.Machine.execLd sz o d a off s
  | .ldc o d a off => Sys2Proof.Machine.execLdc o d a off s
  | .st sz o v a off => Sys2Proof.Machine.execSt sz o v a off s
  | .stc o v a off => Sys2Proof.Machine.execStc o v a off s
  | .amoadd w8 o d b a => Sys2Proof.Machine.execAmoadd w8 o d b a s
  | .amoand w8 o d b a => Sys2Proof.Machine.execAmoand w8 o d b a s
  | .amoor w8 o d b a => Sys2Proof.Machine.execAmoor w8 o d b a s
  | .amoxor w8 o d b a => Sys2Proof.Machine.execAmoxor w8 o d b a s
  | .amoswp w8 o d b a => Sys2Proof.Machine.execAmoswp w8 o d b a s
  | .amomin w8 o d b a => Sys2Proof.Machine.execAmomin w8 o d b a s
  | .amomax w8 o d b a => Sys2Proof.Machine.execAmomax w8 o d b a s
  | .amominn w8 o d b a => Sys2Proof.Machine.execAmominn w8 o d b a s
  | .amomaxn w8 o d b a => Sys2Proof.Machine.execAmomaxn w8 o d b a s
  | .amofadd w8 o d b a => Sys2Proof.Machine.execAmofadd w8 o d b a s
  | .cas w8 o d b a => Sys2Proof.Machine.execCas w8 o d b a s
  | .fence sc kinds lb rs eng => Sys2Proof.Machine.execFence sc kinds lb rs eng s
  | .phase n => Sys2Proof.Machine.execPhase n s
  | .phasea d n => Sys2Proof.Machine.execPhasea d n s
  | .beq a b off => Sys2Proof.Machine.execBeq a b off s
  | .bne a b off => Sys2Proof.Machine.execBne a b off s
  | .blt a b off => Sys2Proof.Machine.execBlt a b off s
  | .bge a b off => Sys2Proof.Machine.execBge a b off s
  | .bltn a b off => Sys2Proof.Machine.execBltn a b off s
  | .bgen a b off => Sys2Proof.Machine.execBgen a b off s
  | .jal d off => Sys2Proof.Machine.execJal d off s
  | .jalr d a k => Sys2Proof.Machine.execJalr d a k s
  | .loop a half => Sys2Proof.Machine.execLoop a half s
  | .rep a mask k => Sys2Proof.Machine.execRep a mask k s
  | .cgeta d a => Sys2Proof.Machine.execCgeta d a s
  | .cgetb d a => Sys2Proof.Machine.execCgetb d a s
  | .cgetl d a => Sys2Proof.Machine.execCgetl d a s
  | .cgetp d a => Sys2Proof.Machine.execCgetp d a s
  | .cgetd d a => Sys2Proof.Machine.execCgetd d a s
  | .cgett d a => Sys2Proof.Machine.execCgett d a s
  | .cseta d a b => Sys2Proof.Machine.execCseta d a b s
  | .cinc d a b => Sys2Proof.Machine.execCinc d a b s
  | .csetb d a b => Sys2Proof.Machine.execCsetb d a b s
  | .csetbr d a b => Sys2Proof.Machine.execCsetbr d a b s
  | .candp d a b => Sys2Proof.Machine.execCandp d a b s
  | .cseal d a b => Sys2Proof.Machine.execCseal d a b s
  | .cunseal d a b => Sys2Proof.Machine.execCunseal d a b s
  | .cclr d a => Sys2Proof.Machine.execCclr d a s
  | .ctsub d a b => Sys2Proof.Machine.execCtsub d a b s
  | .movt d a => Sys2Proof.Machine.execMovt d a s
  | .csetbi d a len => Sys2Proof.Machine.execCsetbi d a len s
  | .cinci d a k => Sys2Proof.Machine.execCinci d a k s
  | .qcfg d a => Sys2Proof.Machine.execQcfg d a s
  | .qclr d a => Sys2Proof.Machine.execQclr d a s
  | .qcnt d a => Sys2Proof.Machine.execQcnt d a s
  | .rbind d a b => Sys2Proof.Machine.execRbind d a b s
  | .pbind m a b => Sys2Proof.Machine.execPbind m a b s
  | .punbind m => Sys2Proof.Machine.execPunbind m s
  | .rpoll d a => Sys2Proof.Machine.execRpoll d a s
  | .radv d a b => Sys2Proof.Machine.execRadv d a b s
  | .recv d a k => Sys2Proof.Machine.execRecv d a k s
  | .send d a b => Sys2Proof.Machine.execSend d a b s
  | .start d a b => Sys2Proof.Machine.execStart d a b s
  | .exit => Sys2Proof.Machine.execExit s
  | .join a => Sys2Proof.Machine.execJoin a s
  | .barc a => Sys2Proof.Machine.execBarc a s
  | .yield_ => Sys2Proof.Machine.execYield s
  | .follow => Sys2Proof.Machine.execFollow s
  | .unfollow => Sys2Proof.Machine.execUnfollow s
  | .park d a b => Sys2Proof.Machine.execPark d a b s
  | .helpers d => Sys2Proof.Machine.execHelpers d s
  | .fetcht d a => Sys2Proof.Machine.execFetcht d a s
  | .tdcfg d a b => Sys2Proof.Machine.execTdcfg d a b s
  | .tdstat d a => Sys2Proof.Machine.execTdstat d a s
  | .dmset d a b => Sys2Proof.Machine.execDmset d a b s
  | .dmget d a => Sys2Proof.Machine.execDmget d a s
  | .hwait d a => Sys2Proof.Machine.execHwait d a s
  | .htest d a => Sys2Proof.Machine.execHtest d a s
  | .hcancel d a => Sys2Proof.Machine.execHcancel d a s
  | .gcall a => Sys2Proof.Machine.execGcall a s
  | .gret a => Sys2Proof.Machine.execGret a s
  | .grets a b => Sys2Proof.Machine.execGrets a b s
  | .gclean => Sys2Proof.Machine.execGclean s
  | .dstat d a => Sys2Proof.Machine.execDstat d a s
  | .drevoke d a => Sys2Proof.Machine.execDrevoke d a s
  | .gmake d a b => Sys2Proof.Machine.execGmake d a b s
  | .srd d n => Sys2Proof.Machine.execSrd d n s
  | .swr d n a => Sys2Proof.Machine.execSwr d n a s
  | .trap a => Sys2Proof.Machine.execTrap a s
  | .syscall => Sys2Proof.Machine.execSyscall s
  | .eret => Sys2Proof.Machine.execEret s
  | .bkpt => Sys2Proof.Machine.execBkpt s
  | .launch d a => Sys2Proof.Machine.execLaunch d a s
  | .cpy h a b c => Sys2Proof.Machine.execCpy h a b c s
  | .cfill h a c => Sys2Proof.Machine.execCfill h a c s
  | .cpyr h a b c => Sys2Proof.Machine.execCpyr h a b c s
  | .cpyb h a b c => Sys2Proof.Machine.execCpyb h a b c s
  | .vmap h a b e => Sys2Proof.Machine.execVmap h a b e s
  | .vmapBs h a b e => Sys2Proof.Machine.execVmapBs h a b e s
  | .vchain h a b c => Sys2Proof.Machine.execVchain h a b c s
  | .vred h a e => Sys2Proof.Machine.execVred h a e s
  | .vscan h a b e => Sys2Proof.Machine.execVscan h a b e s
  | .vgath h a b => Sys2Proof.Machine.execVgath h a b s
  | .vscat h a b => Sys2Proof.Machine.execVscat h a b s
  | .vcomp h a b => Sys2Proof.Machine.execVcomp h a b s
  | .vexpd h a b => Sys2Proof.Machine.execVexpd h a b s
  | .mma h a b c => Sys2Proof.Machine.execMma h a b c s
  | .mmas h a b c => Sys2Proof.Machine.execMmas h a b c s
  | .mldb d a b => Sys2Proof.Machine.execMldb d a b s
  | .mzero d a => Sys2Proof.Machine.execMzero d a s
  | .msta d a b => Sys2Proof.Machine.execMsta d a b s
  | .mlda d a b => Sys2Proof.Machine.execMlda d a b s
  | .msync d a => Sys2Proof.Machine.execMsync d a s
  | .mown d => Sys2Proof.Machine.execMown d s
  | .mfree d => Sys2Proof.Machine.execMfree d s
  | .mresume d a => Sys2Proof.Machine.execMresume d a s
  | .ecfg a b => Sys2Proof.Machine.execEcfg a b s
  | .epost a b => Sys2Proof.Machine.execEpost a b s
  | .epostv d a => Sys2Proof.Machine.execEpostv d a s
  | .etick d a => Sys2Proof.Machine.execEtick d a s
  | .edrain d a b => Sys2Proof.Machine.execEdrain d a b s
  | .erd d a => Sys2Proof.Machine.execErd d a s
  | .ewr d a b => Sys2Proof.Machine.execEwr d a b s
  | .efan d a b => Sys2Proof.Machine.execEfan d a b s
  | .wswin d a => Sys2Proof.Machine.execWswin d a s
  | .wsstat d a => Sys2Proof.Machine.execWsstat d a s
  | .mov d b => Sys2Proof.Machine.execMov d b s
  | .addC d b => Sys2Proof.Machine.execAddC d b s
  | .subC d b => Sys2Proof.Machine.execSubC d b s
  | .andC d b => Sys2Proof.Machine.execAndC d b s
  | .orC d b => Sys2Proof.Machine.execOrC d b s
  | .xorC d b => Sys2Proof.Machine.execXorC d b s
  | .shliC d k => Sys2Proof.Machine.execShliC d k s
  | .shriC d k => Sys2Proof.Machine.execShriC d k s
  | .addiC d k => Sys2Proof.Machine.execAddiC d k s
  | .moviC d k => Sys2Proof.Machine.execMoviC d k s
  | .ldDC d b => Sys2Proof.Machine.execLdDC d b s
  | .stDC v b => Sys2Proof.Machine.execStDC v b s
  | .faddDC d b => Sys2Proof.Machine.execFaddDC d b s
  | .fmulDC d b => Sys2Proof.Machine.execFmulDC d b s
  | .bnz d k => Sys2Proof.Machine.execBnz d k s
  | .nop => Sys2Proof.Machine.execNop s
  | .yieldC => Sys2Proof.Machine.execYieldC s
  | .hwaitC d => Sys2Proof.Machine.execHwaitC d s
  | .ret => Sys2Proof.Machine.execRet s
  | .exitC => Sys2Proof.Machine.execExitC s
  | .neg d => Sys2Proof.Machine.execNeg d s
  | .not_ d => Sys2Proof.Machine.execNot d s
  | .scopeMissRepair c => Sys2Proof.Machine.execScopeMissRepair c s
  | .unwindCheck c => Sys2Proof.Machine.execUnwindCheck c s
  | .frameExpire c j => Sys2Proof.Machine.execFrameExpire c j s
  | .cleanupBudgetExpire c => Sys2Proof.Machine.execCleanupBudgetExpire c s
  | .livenessUpdate die dom => Sys2Proof.Machine.execLivenessUpdate die dom s
  | .domnew c id => Sys2Proof.Machine.execDomnew c id s
  | .domgrant c => Sys2Proof.Machine.execDomgrant c s
  | .dspage c frames => Sys2Proof.Machine.execDspage c frames s
  | .gimport c => Sys2Proof.Machine.execGimport c s
  | .fsync c ok => Sys2Proof.Machine.execFsync c ok s
  | .writebackComplete part idx => Sys2Proof.Machine.execWritebackComplete part idx s
  | .pageWalk die part dva => Sys2Proof.Machine.execPageWalk die part dva s
  | .faultService part dva frames => Sys2Proof.Machine.execFaultService part dva frames s
  | .nvmeReadComplete part idx status data => Sys2Proof.Machine.execNvmeReadComplete part idx status data s
  | .shootdownComplete n => Sys2Proof.Machine.execShootdownComplete n s
  | .atsInvalidate part dva len => Sys2Proof.Machine.execAtsInvalidate part dva len s
  | .priResponse vf grp code => Sys2Proof.Machine.execPriResponse vf grp code s
  | .prgQuarantineExpire vf grp => Sys2Proof.Machine.execPrgQuarantineExpire vf grp s
  | .hostSnoop part line inv => Sys2Proof.Machine.execHostSnoop part line inv s
  | .bisnpResponse host line data => Sys2Proof.Machine.execBisnpResponse host line data s
  | .hostHdmWrite host addr data => Sys2Proof.Machine.execHostHdmWrite host addr data s
  | .hostHdmRead host addr n excl => Sys2Proof.Machine.execHostHdmRead host addr n excl s
  | .expansionTimeout c => Sys2Proof.Machine.execExpansionTimeout c s
  | .wsRefreshWindow grp => Sys2Proof.Machine.execWsRefreshWindow grp s
  | .messengerPass ch => Sys2Proof.Machine.execMessengerPass ch s
  | .layChannelFail ch => Sys2Proof.Machine.execLayChannelFail ch s
  | .remoteStoreArrive c dest => Sys2Proof.Machine.execRemoteStoreArrive c dest s
  | .remoteAckSend c tag dest => Sys2Proof.Machine.execRemoteAckSend c tag dest s
  | .remoteAckArrive c tag dest => Sys2Proof.Machine.execRemoteAckArrive c tag dest s
  | .retryResend c dest => Sys2Proof.Machine.execRetryResend c dest s
  | .ringDeliver n => Sys2Proof.Machine.execRingDeliver n s
  | .ringRetry c => Sys2Proof.Machine.execRingRetry c s
  | .overflowDivert c => Sys2Proof.Machine.execOverflowDivert c s
  | .overflowMove c k => Sys2Proof.Machine.execOverflowMove c k s
  | .flitDataReceive link f => Sys2Proof.Machine.execFlitDataReceive link f s
  | .flitAckReceive link f => Sys2Proof.Machine.execFlitAckReceive link f s
  | .flitNackReceive link f => Sys2Proof.Machine.execFlitNackReceive link f s
  | .restripeMarkerReceive link f => Sys2Proof.Machine.execRestripeMarkerReceive link f s
  | .completionFlitReceive link f => Sys2Proof.Machine.execCompletionFlitReceive link f s
  | .ackFlitTimer link => Sys2Proof.Machine.execAckFlitTimer link s
  | .replayTimeout link => Sys2Proof.Machine.execReplayTimeout link s
  | .lossOfLight link grp => Sys2Proof.Machine.execLossOfLight link grp s
  | .lossDetect link grp => Sys2Proof.Machine.execLossDetect link grp s
  | .linkRetrain link => Sys2Proof.Machine.execLinkRetrain link s
  | .engineQueueStart core eng units => Sys2Proof.Machine.execEngineQueueStart core eng units s
  | .copyResolve core => Sys2Proof.Machine.execCopyResolve core s
  | .vectorResolve core => Sys2Proof.Machine.execVectorResolve core s
  | .tileStep cluster => Sys2Proof.Machine.execTileStep cluster s
  | .matrixResolve core => Sys2Proof.Machine.execMatrixResolve core s
  | .eventDeliver n => Sys2Proof.Machine.execEventDeliver n s
  | .etickStart core => Sys2Proof.Machine.execEtickStart core s
  | .tickDrainResume core => Sys2Proof.Machine.execTickDrainResume core s
  | .etickResolve core => Sys2Proof.Machine.execEtickResolve core s
  | .epostvResolve core => Sys2Proof.Machine.execEpostvResolve core s
  | .phaseComplete c n => Sys2Proof.Machine.execPhaseComplete c n s
  | .contextWake c => Sys2Proof.Machine.execContextWake c s
  | .heldCyclesExpire c => Sys2Proof.Machine.execHeldCyclesExpire c s
  | .sliceExpire core => Sys2Proof.Machine.execSliceExpire core s
  | .drowsy sl => Sys2Proof.Machine.execDrowsy sl s
  | .belayWake c => Sys2Proof.Machine.execBelayWake c s
  | .belayRecheck c => Sys2Proof.Machine.execBelayRecheck c s
  | .launchRecordAccept part dev => Sys2Proof.Machine.execLaunchRecordAccept part dev s
  | .taskDependencesMet part task => Sys2Proof.Machine.execTaskDependencesMet part task s
  | .taskPlace part task picks => Sys2Proof.Machine.execTaskPlace part task picks s
  | .imageLoad part task textAt dataAt stackAt frames => Sys2Proof.Machine.execImageLoad part task textAt dataAt stackAt frames s
  | .taskDone part task => Sys2Proof.Machine.execTaskDone part task s
  | .slotBind sl rec frames => Sys2Proof.Machine.execSlotBind sl rec frames s
  | .slotUnbind sl => Sys2Proof.Machine.execSlotUnbind sl s
  | .slotEvict sl => Sys2Proof.Machine.execSlotEvict sl s
  | .slotRestore sl n => Sys2Proof.Machine.execSlotRestore sl n s
  | .clockModeChange solo => Sys2Proof.Machine.execClockModeChange solo s
  | .tenantAbort part => Sys2Proof.Machine.execTenantAbort part s
  | .storageError w lasting uncorr => Sys2Proof.Machine.execStorageError w lasting uncorr s
  | .machineCheck unit detail => Sys2Proof.Machine.execMachineCheck unit detail s
  | .thermalWarning temp => Sys2Proof.Machine.execThermalWarning temp s
  | .thermalClear temp => Sys2Proof.Machine.execThermalClear temp s
  | .registerWrite f off data => Sys2Proof.Machine.execRegisterWrite f off data s
  | .doorbell vf tail => Sys2Proof.Machine.execDoorbell vf tail s
  | .mstateRead f => Sys2Proof.Machine.execMstateRead f s
  | .debugWindowRead ld off => Sys2Proof.Machine.execDebugWindowRead ld off s
  | .regionSet vf => Sys2Proof.Machine.execRegionSet vf s
  | .shootdown vf => Sys2Proof.Machine.execShootdown vf s
  | .mailboxFsync vf ok => Sys2Proof.Machine.execMailboxFsync vf ok s
  | .gateExport vf => Sys2Proof.Machine.execGateExport vf s
  | .importAsk vf => Sys2Proof.Machine.execImportAsk vf s
  | .vfAssign ld root => Sys2Proof.Machine.execVfAssign ld root s
  | .importGrant ld => Sys2Proof.Machine.execImportGrant ld s
  | .importDeny ld => Sys2Proof.Machine.execImportDeny ld s
  | .expwin ld => Sys2Proof.Machine.execExpwin ld s
  | .fwUpdate ld => Sys2Proof.Machine.execFwUpdate ld s
  | .heartbeat => Sys2Proof.Machine.execHeartbeat s
  | .heartbeatTimeout => Sys2Proof.Machine.execHeartbeatTimeout s
  | .perstDeassert => Sys2Proof.Machine.execPerstDeassert s
  | .bootComplete => Sys2Proof.Machine.execBootComplete s
  | .vfEnableClear ld => Sys2Proof.Machine.execVfEnableClear ld s
  | .flr vf => Sys2Proof.Machine.execFlr vf s
  | .teardownComplete vf => Sys2Proof.Machine.execTeardownComplete vf s
  | .getVersion ld => Sys2Proof.Machine.execGetVersion ld s
  | .getCapabilities ld => Sys2Proof.Machine.execGetCapabilities ld s
  | .negotiateAlgorithms ld => Sys2Proof.Machine.execNegotiateAlgorithms ld s
  | .getDigests ld => Sys2Proof.Machine.execGetDigests ld s
  | .getCertificate ld => Sys2Proof.Machine.execGetCertificate ld s
  | .challenge ld => Sys2Proof.Machine.execChallenge ld s
  | .getMeasurements ld => Sys2Proof.Machine.execGetMeasurements ld s
  | .keyExchange ld => Sys2Proof.Machine.execKeyExchange ld s
  | .finish ld => Sys2Proof.Machine.execFinish ld s
  | .endSession ld => Sys2Proof.Machine.execEndSession ld s
  | .ideKm ld port => Sys2Proof.Machine.execIdeKm ld port s
  | .remoteLoadArrive c => Sys2Proof.Machine.execRemoteLoadArrive c s
  | .remoteReplyArrive c => Sys2Proof.Machine.execRemoteReplyArrive c s
  | .atsTranslationCompletion die part dva rd wr => Sys2Proof.Machine.execAtsTranslationCompletion die part dva rd wr s
  | .laserLightReturn link grp => Sys2Proof.Machine.execLaserLightReturn link grp s
  | .powerCapClockStep mhz => Sys2Proof.Machine.execPowerCapClockStep mhz s

end Sys2Proof.Machine
end

