-- ==== Sys2Proof/Machine/Turns.lean ====
section
/-! DEFINITION. Machine/Turns.lean: what a step is made of: the passing of cycles (R5, R340, R366, R383), the choice of the
context that issues (R339, R366), fetching and executing its instruction (R36 to R38, R60), following (R343, R344), and
the turns of the agenda (assumption log 1). `ex` stands for `exec`. -/
namespace Sys2Proof.Machine
open Sys2Proof

/-- The meaning of instructions, as a step is given it. -/
abbrev Exec := Instr → State → Host.Outcome State Fault Refusal

/-! Cycles. -/

/-- Another slot of the core holds issue. -/
def State.otherHolds (s : State) (sl : SlotId) : Bool :=
  let h := (s.core sl.core).holds
  h != sl.slot && s.slotRuns ⟨sl.core, h⟩

/-- A cycle is charged to a context (R383): none while its slot is being evicted. -/
def State.charges (s : State) (c : CtxId) (x : Ctx) : Bool :=
  s.slotOn c.sl &&
    (match x.status with
      | .issuing => true
      | .free => false
      | .ready => false
      | _ => !s.otherHolds c.sl)

/-- Cycles pass: the counter, the time, charged and held cycles, and the slice of each slot that holds issue. -/
def State.passTime (s : State) (n : Nat) : State :=
  let t := n * 1000 + s.timeRem
  { s with
    cycle := s.cycle + n
    timeNs := s.timeNs + t / s.clock.mhz
    timeRem := t % s.clock.mhz
    ctxs := s.ctxs.map (fun p =>
      (p.1, { p.2 with
        charged := if s.charges (ctxOfKey p.1) p.2 then p.2.charged + n else p.2.charged
        held := if p.2.status = .issuing then p.2.held + n else p.2.held }))
    slots := s.slots.map (fun p =>
      let sl : SlotId := ⟨⟨p.1 / 4 % 4608, by omega⟩, ⟨p.1 % 4, by omega⟩⟩
      if (s.core sl.core).holds = sl.slot ∧ s.slotRuns sl = true then
        (p.1, { p.2 with used := p.2.used + (s.cycle + n - max s.cycle p.2.holdFrom), heldAt := s.cycle + n })
      else p) }

/-- Cycles pass until a cycle. -/
def State.passTo (s : State) (n : Nat) : State := if s.cycle < n then s.passTime (n - s.cycle) else s

/-! Who issues. -/

/-- The slot that holds issue of a core gives it up: its next instruction would issue after it has held issue for its LEN (R366),
or after its ISSUING context has held it for 4,096 cycles (R340). Until SLICE_EXPIRE or HELD_CYCLES_EXPIRE has happened nothing
issues there. -/
def State.mustYield (s : State) (sl : SlotId) : Bool :=
  s.sliceOver sl || (match s.issuer sl with
    | some c => s.heldOver c
    | none => false)

/-- The context that the ring of a core gives issue to (R339, R366). -/
def State.ringChoice (s : State) (core : Fin 4608) : Option CtxId :=
  let sl : SlotId := ⟨core, (s.core core).holds⟩
  let here : Option CtxId :=
    if s.slotOn sl then
      match s.issuer sl with
      | some c => some c
      | none => s.nextReady sl (s.slot sl).lastRun
    else none
  if s.mustYield sl then none
  else
    match here with
    | some c => some c
    | none =>
      match s.nextSlot core sl.slot with
      | some k => s.nextReady ⟨core, k⟩ (s.slot ⟨core, k⟩).lastRun
      | none => none

/-- A context 0 of a slot that is evicted is attached to a leader (R343, R370). -/
def State.followersAway (s : State) (c : CtxId) : Bool :=
  c.ctx == 0 && c.core.val % 8 == 0 && s.saved.any (fun v =>
    v.sl.core.val / 8 == c.core.val / 8 && v.slot.bind.part == s.partOf c.sl && (match v.ctxs with
      | x :: _ => x.attached && s.tenantSlot v.slot.bind.part c.core v.sl.slot == some c.sl
      | [] => false))

/-- A leader stalls while the buffer of a follower is full, or its slot is evicted (R343). -/
def State.leaderStalls (s : State) (c : CtxId) : Bool :=
  (s.followers c).any (fun f => decide (16 ≤ (s.ctx f).follow.length)) || s.followersAway c

/-- An attached follower of a core has an instruction to execute (R343). -/
def Ctx.hasPassed (x : Ctx) : Bool := x.status == .following true && (x.repc != 0 || !x.follow.isEmpty)

/-- The contexts of a core that may issue now. -/
def State.mayIssue (s : State) (core : Fin 4608) : List CtxId :=
  let chosen := match s.ringChoice core with
    | some c => if s.leaderStalls c then [] else [c]
    | none => []
  chosen ++ (allSlots.map (fun k => (⟨core, k, 0⟩ : CtxId))).filter (fun c => (s.ctx c).hasPassed && s.slotOn c.sl)

/-- The context that issues first among those that may. -/
def State.firstIssuer (s : State) : Option CtxId :=
  let cores := (s.ctxIds.map (fun c => c.core)).dedup
  match cores.flatMap s.mayIssue with
  | [] => none
  | c :: r => some (r.foldl (fun a b => if s.issueAt b < s.issueAt a then b else a) c)

/-! One instruction. -/

/-- Why a word does not decode, as a trap (R47, R48). -/
def rejectCause (r : Reject) : Cause :=
  match r with
  | .illegalOperand => .illegalOperand
  | _ => .illegalInstruction

/-- An instruction outside the path of a possible spin ends its count (R341). -/
def Ctx.keepSpin (x : Ctx) (i : Instr) : Ctx :=
  { x with spin := x.spin.filter (fun q =>
      decide (q.target.toNat ≤ x.pc.toNat) && decide (x.pc.toNat ≤ q.branch.toNat) && Instr.onPath i) }

/-- Decode a word that a context has fetched, and execute it. -/
def State.executeWord (ex : Exec) (s : State) (c : CtxId) (w : Nat) : Host.Outcome State Fault Refusal :=
  match decode w with
  | .error r => .next (s.takeTrap c ⟨rejectCause r, BitVec.ofNat 64 w, 0, false⟩)
  | .ok i => ex i (s.modCtx c (fun x => x.keepSpin i))

/-- What a fetch gives: its trap or wait, or the word, which goes on. -/
def State.fetched (s : State) (c : CtxId) (a : W64) (k : Nat → Nat → Host.Outcome State Fault Refusal) :
    Host.Outcome State Fault Refusal :=
  match s.fetch c a with
  | .error (.trap t) => .next (s.takeTrap c t)
  | .error (.wait w) => .next (s.stall c w)
  | .ok (w, len) => k w len

/-- The next repetition of a REP (R60), with the mask, the step and the instruction that its checks kept. After a trap
return the two words are fetched and checked anew (R407). -/
def State.repeatTurn (ex : Exec) (s : State) (c : CtxId) : Host.Outcome State Fault Refusal :=
  let x := s.ctx c
  let go : State → Repeated → Host.Outcome State Fault Refusal := fun s r =>
    s.executeWord ex c (stepWord r.word r.mask.toNat r.step.toInt x.repi.toNat)
  match x.rep with
  | some r => go s r
  | none =>
    s.fetched c x.pc (fun r len =>
      s.fetched c (x.pc + BitVec.ofNat 64 len) (fun w _ =>
        match decode r with
        | .ok (.rep _ mask k) =>
          if repeatable w = false ∨ maskOk w mask.toNat = false then
            .next (s.takeTrap c ⟨.illegalInstruction, BitVec.ofNat 64 r, 0, false⟩)
          else if (maskFields w mask.toNat).all (stepInRange w k.toInt (x.repi.toNat + x.repc.toNat - 1)) = false then
            .next (s.takeTrap c ⟨.repRange, BitVec.ofNat 64 (x.repi.toNat + x.repc.toNat), 0, false⟩)
          else go (s.modCtx c (fun y => { y with rep := some ⟨w, mask, k⟩ })) ⟨w, mask, k⟩
        | _ => .next (s.takeTrap c ⟨.illegalInstruction, BitVec.ofNat 64 r, 0, false⟩)))

/-- A context executes the instruction at its PC, fetched by itself. -/
def State.ownTurn (ex : Exec) (s : State) (c : CtxId) : Host.Outcome State Fault Refusal :=
  let x := s.ctx c
  if x.pc.getLsbD 0 then .next (s.takeTrap c ⟨.align, x.pc, 0, false⟩)
  else if x.repc ≠ 0 then s.repeatTurn ex c
  else s.fetched c x.pc (fun w _ => s.executeWord ex c w)

/-! Following (R343, R344). -/

/-- Where a context went when an instruction of `size` bytes completed, from the context before and after it; none where it
did not complete, or belongs to a handler. An arrival at a barrier or a phase, and a request to a hank, count as
completed. -/
def Ctx.wentTo (x y : Ctx) (size : Nat) : Option W64 :=
  if x.tstat.inh then none
  else if y.tstat.inh then (if y.tpc = x.pc then none else some y.tpc)
  else
    let arrived : Option W64 := match x.advance size with
      | .ok z => some z.pc
      | .error _ => none
    match y.status with
    | .waiting (.barrier _) => arrived
    | .waiting (.phase _ _) => arrived
    | .waiting (.hank _) => arrived
    | .waiting .enqueued => some y.pc
    | .waiting _ => none
    | .parked _ => none
    | .free => some x.pc
    | _ => some y.pc

/-- A follower goes on by itself (R344). -/
def Ctx.detach (x : Ctx) : Ctx :=
  { x with status := (match x.status with
      | .following _ => .ready
      | st => st), attached := false, follow := [] }

/-- The halfwords of a leader's code that an instruction of it looks at (R60, R64). -/
def State.looksAt (s : State) (c : CtxId) (w : Nat) : List (W64 × Nat) :=
  let pc := (s.ctx c).pc
  let at_ : List W64 := match decode w with
    | .ok (.rep _ _ _) => [pc + 4, pc + 6]
    | .ok (.loop _ half) => [pc + 2 * half.setWidth 64]
    | _ => []
  at_.filterMap (fun a => match s.codeHalf c a with
    | .ok h => some (a, h)
    | .error _ => none)

/-- A follower's code capability allows the fetch of the word that it received (R343). -/
def State.checkPassed (s : State) (c : CtxId) (p : Passed) (k : Unit → Host.Outcome State Fault Refusal) :
    Host.Outcome State Fault Refusal :=
  let halves : List W64 := if p.size = 2 then [p.addr] else [p.addr, p.addr + 2]
  match halves.findSome? (fun a => match s.codeHalf c a with
    | .ok _ => none
    | .error e => some e) with
  | some (.trap t) => .next (s.takeTrap c t)
  | some (.wait w) => .next (s.stall c w)
  | none => k ()

/-- The word of a leader's instruction. -/
def State.leaderWord (s : State) (c : CtxId) : Option (Nat × Nat) :=
  match s.fetch c (s.ctx c).pc with
  | .ok w => some w
  | .error _ => none

/-- A leader's completed instruction goes to its followers: `s` is the state before it, `t` the state after it. -/
def State.passDown (s t : State) (c : CtxId) : State :=
  let fs := s.followers c
  if fs.isEmpty || (s.ctx c).repc != 0 then t
  else
    match s.leaderWord c with
    | none => t
    | some (w, len) =>
      match (s.ctx c).wentTo (t.ctx c) len with
      | none => t
      | some next =>
        fs.foldl (fun u f => u.modCtx f (fun y =>
          if y.attached then { y with follow := y.follow ++ [⟨(s.ctx c).pc, w, len, next, s.looksAt c w⟩] } else y)) t

/-- An instruction that a follower executes on its own fetch: EXIT (R344) and every GATE form (R382). -/
def ownFetch (i : Instr) : Bool :=
  match i with
  | .exit => true
  | .exitC => true
  | .gcall _ => true
  | .gret _ => true
  | .grets _ _ => true
  | .gclean => true
  | .dstat _ _ => true
  | .drevoke _ _ => true
  | .gmake _ _ _ => true
  | _ => false

/-- UNFOLLOW. -/
def isUnfollow (i : Instr) : Bool :=
  match i with
  | .unfollow => true
  | _ => false

/-- The follower after it executed its leader's word: the instruction leaves its buffer when it has completed, and the
follower detaches after UNFOLLOW, or where it went another way than its leader (R344). -/
def Ctx.afterPassed (x y : Ctx) (p : Passed) (un : Bool) : Ctx :=
  match x.wentTo y p.size with
  | none => y
  | some next =>
    if y.attached = false then y
    else
      let z := { y with follow := y.follow.drop 1 }
      if un || next != p.next then z.detach else z

/-- A follower executes the next instruction of its leader, or detaches where its PC is another (R343, R344). -/
def State.followTurn (ex : Exec) (s : State) (c : CtxId) : Host.Outcome State Fault Refusal :=
  let x := s.ctx c
  if x.repc ≠ 0 then s.repeatTurn ex c
  else
    match x.follow with
    | [] => .next s
    | p :: _ =>
      if x.pc ≠ p.addr then .next (s.modCtx c Ctx.detach)
      else
        s.checkPassed c p (fun _ =>
          match decode p.word with
          | .error r => .next (s.takeTrap c ⟨rejectCause r, BitVec.ofNat 64 p.word, 0, false⟩)
          | .ok i =>
            if ownFetch i then .next (s.modCtx c Ctx.detach)
            else
              match ex i s with
              | .next t => .next (t.modCtx c (fun y => x.afterPassed y p (isUnfollow i)))
              | o => o)

/-! The turn of a context. -/

/-- The core issues again in the cycle after, at the earliest (R7). -/
def State.issued (t : State) (c : CtxId) : State :=
  t.modCore c.core (fun k => { k with nextIssue := max k.nextIssue (t.cycle + 1) })

/-- Issue passes to a context that the ring has reached (R339, R366), and the cycle of its issue comes. -/
def State.toIssue (s : State) (c : CtxId) : State :=
  let ready : Bool := (s.ctx c).status == .ready
  let s := if ready && (s.core c.core).holds != c.slot then s.giveIssue c.core c.slot (s.cycle + 1) false else s
  let s := s.passTo (s.issueAt c)
  let s := if ready then s.issueTo c else s
  { s with cur := c }

/-- What a context's instruction comes to: its followers receive it. While hosts hold a line of HBM that it writes, it waits for
the answers to the snoops instead (R86). -/
def State.afterInstr (s t : State) (c : CtxId) : State :=
  match s.wroteHeld t with
  | some n => (s.stall c (.snoop n true)).issued c
  | none => ((if (s.ctx c).attached then id else s.cacheCode c (s.ctx c).pc) (s.passDown t c)).issued c

/-- A context executes one instruction, its leader's where it follows. -/
def State.runTurn (ex : Exec) (s : State) (c : CtxId) : Host.Outcome State Fault Refusal :=
  match (if (s.ctx c).attached then s.followTurn ex c else s.ownTurn ex c) with
  | .next t => .next (s.afterInstr t c)
  | o => o

/-- The turn of a context: the unwind check at the boundary (R385, R403), and one instruction. -/
def State.contextTurn (ex : Exec) (s : State) (c : CtxId) : Host.Outcome State Fault Refusal :=
  let s := s.toIssue c
  match s.unwindStep c with
  | some t => .next (match s.wroteHeld t with
    | some n => (s.stall c (.snoop n true)).issued c
    | none => t.issued c)
  | none => s.runTurn ex c

/-! The agenda. -/

/-- Keep what a halfword holds as a value that the context's later fetches of it may return (R38). -/
def State.prefetch (s : State) (c : CtxId) (l : Loc) : State :=
  let h := BitVec.ofNat 16 (s.readNat l 2)
  s.modCtx c (fun x =>
    let old := Sparse.get [] x.ibuf (l.place 0)
    if old.contains h then x else { x with ibuf := Sparse.put x.ibuf (l.place 0) (h :: old) })

/-- The next fetches of a context from a place return a value that is kept for it, or what memory holds (R38). -/
def State.chooseHalf (s : State) (c : CtxId) (place : Nat) (v : Option (BitVec 16)) : State :=
  s.modCtx c (fun x =>
    match v with
    | some h => if (Sparse.get [] x.ibuf place).contains h then { x with stale := Sparse.put x.stale place h } else x
    | none => { x with stale := Sparse.erase x.stale place })

/-- The next load of a context by the global alias misses some of its private stores (R70). -/
def State.lagBy (s : State) (c : CtxId) (n : Nat) : State := s.modCtx c (fun x => { x with lag := n })

/-- From now on the private stores of a context are kept (R70). -/
def State.keepFrom (s : State) (c : CtxId) : State :=
  s.modCtx c (fun x => { x with kept := some (x.kept.getD []) })

/-- Another agent writes expansion memory, where no cached line hides it, and under those that are cached (R89). -/
def State.fabricWrite (s : State) (pa : Nat) (bs : List Byte) : State :=
  let l : Loc := .expansion (some 0) pa
  ((s.swapExp l bs.length).writeBytes l bs).swapExp l bs.length

/-- A host writes its own memory: it has taken the line from the memory-side cache first (R91). -/
def State.hostWrite (s : State) (part : Fin 64) (va : Nat) (bs : List Byte) : State :=
  let l : Loc := .host part va
  if (List.range bs.length).any (fun i => (Sparse.find? s.sideCache (l.place i / 64)).isSome) then s else s.poke l bs

/-- Firmware gives a range of HBM to the pool of a partition: of no other's, not of the dump area, which it withholds
from every tenant, nor of its own handover record, and of no save area (R83, R365, R415, R431). -/
def State.givePool (s : State) (part : Fin 64) (base size : Nat) : State :=
  let apart : Nat × Nat → Bool := fun q => decide (base + size ≤ q.1) || decide (q.1 + q.2 ≤ base)
  if base + size ≤ Config.handoverBase ∧ s.parts.all (fun p => p.2.ranges.all apart) = true
      ∧ s.saveAreas.all (fun a => apart (a, saveSize)) = true then
    s.modPart part (fun p => { p with ranges := p.ranges ++ [(base, size)] })
  else s

/-- The dispatch firmware's copy writes weights for a tenant while the weight store of the die is open for it (R137)
and no bank group that it touches is in its refresh window (R138). -/
def State.firmwareWeights (s : State) (part : Fin 64) (die : Fin 4) (off : Nat) (bs : List Byte) : State :=
  if s.wsOpen part die && decide (off + bs.length ≤ Config.wsBytes)
      && !((List.range bs.length).any (fun i => s.refreshing (wsGroup (off + i)))) then s.poke (.weight die off) bs else s

/-- A host's own access to HBM (R86). -/
def hostsOwn (i : Instr) : Bool :=
  match i with
  | .hostHdmWrite _ _ _ => true
  | .bisnpResponse _ _ _ => true
  | _ => false

/-- A step of the device that would write a line of HBM which hosts hold sends its snoops only (R86): it happens when they have
answered. -/
def snoopFirst (s : State) (o : Host.Outcome State Fault Refusal) : Host.Outcome State Fault Refusal :=
  match o with
  | .next t => .next (match s.wroteHeld t with
    | some n => s.snoop n true
    | none => t)
  | o => o

/-- A turn of the agenda. One that is not due changes nothing. -/
def State.takeTurn (ex : Exec) (s : State) (t : Turn) : Host.Outcome State Fault Refusal :=
  match t with
  | .event i => if i.encoded then .next s else if hostsOwn i then ex i s else snoopFirst s (ex i s)
  | .context c => if (s.mayIssue c.core).contains c then s.contextTurn ex c else .next s
  | .pass n => .next (s.passTime n)
  | .prefetch c l => .next (s.prefetch c l)
  | .stale c p v => .next (s.chooseHalf c p v)
  | .firmware c n v => .next (s.firmwareWrite c n v)
  | .overtake q => .next (s.overtake q)
  | .tearStore q hi => .next (s.tearStore q hi)
  | .tearLoad c hi => .next (s.tearLoad c hi)
  | .keep c => .next (s.keepFrom c)
  | .lag c n => .next (s.lagBy c n)
  | .poison c op => .next (s.modCtx c (fun x => { x with poison := some op }))
  | .badRead c => .next (s.modCtx c (fun x => { x with badRead := true }))
  | .badStore q => .next (s.failStore q)
  | .badIncoming l id => .next (s.poisonIncoming l id)
  | .spread core => s.on true (fun s => s.spreadCopy core)
  | .member core sl => s.on true (fun s => s.memberTakes core sl)
  | .expLine n => .next (s.dropExp n)
  | .fabricWrite pa bs => .next (s.fabricWrite pa bs)
  | .hostWrite p va bs => .next (s.hostWrite p va bs)
  | .weights p d off bs => .next (s.firmwareWeights p d off bs)
  | .pool p b n => .next (s.givePool p b n)
  | .route d ls => .next { s with routes := Sparse.put s.routes d.toNat (ls.take 4) }
  | .peer l p => .next { s with peers := Sparse.put s.peers l.val p }
  | .window d b n => .next (s.modPf d (fun p => { p with hbmBase := b, hbmSize := n }))
  | .function v d => .next (if (s.vf v).part.isSome then s else s.modVf v (fun q => { q with ld := d }))

/-- The turn is an event. -/
def Turn.isEvent (t : Turn) : Bool :=
  match t with
  | .event _ => true
  | _ => false

/-- The first of a list of events that changes the state. -/
def State.firstEvent (s : State) : List (State → Host.Outcome State Fault Refusal) → Option State
  | [] => none
  | f :: r =>
    match snoopFirst s (f s) with
    | .next t => if t = s then State.firstEvent s r else some t
    | _ => State.firstEvent s r

/-- The turn where the agenda names none: an event that is due, else the context that issues first, else a cycle passes. -/
def State.defaultTurn (ex : Exec) (due : State → List (State → Host.Outcome State Fault Refusal)) (s : State) :
    Host.Outcome State Fault Refusal :=
  match s.firstEvent (due s) with
  | some t => .next t
  | none =>
    match s.firstIssuer with
    | some c => s.contextTurn ex c
    | none => .next (s.passTime 1)

/-- The state after a step, with WAITERS kept (R94). -/
def keepWaiters (o : Host.Outcome State Fault Refusal) : Host.Outcome State Fault Refusal :=
  match o with
  | .next t => .next t.recountFiles
  | o => o

/-- One step: the first turn of the agenda, or the default turn, after which WAITERS are as they must be (R94). After a
machine check nothing but a host's or the firmware's step happens (R414). -/
def State.oneStep (ex : Exec) (due : State → List (State → Host.Outcome State Fault Refusal)) (s : State) :
    Host.Outcome State Fault Refusal :=
  match s.agenda with
  | t :: rest =>
    if s.mcheck && !t.isEvent then .fault .deviceStopped
    else keepWaiters (({ s with agenda := rest } : State).takeTurn ex t)
  | [] => if s.mcheck then .fault .deviceStopped else keepWaiters (s.defaultTurn ex due)

end Sys2Proof.Machine
end

