-- ==== Sys2Proof/Machine/Due.lean ====
section
/-! DEFINITION. Machine/Due.lean: the steps of the hardware and the firmware that the default turn tries, in an order of the
model's own (assumption log 1). A step that needs a choice of the firmware, of a host or of the outside stands on the
agenda only. -/
namespace Sys2Proof.Machine
open Sys2Proof

/-- A step of the hardware, the firmware or a host: the meaning of its row. -/
abbrev Event := State → Host.Outcome State Fault Refusal

/-- Steps of a context: its end of a wait, its held cycles, its watched word, the unwind check, its outstanding access. -/
def State.dueOf (s : State) (c : CtxId) : List Event :=
  let x := s.ctx c
  let waits : List Event := match x.status with
    | .waiting (.walk d _) => [execContextWake c, execPageWalk (dieOf c.core) (s.partOf c.sl) d]
    | .waiting (.ringRoom _ _) => [execRingRetry c, execOverflowDivert c]
    | .waiting .reply => [execRemoteReplyArrive c, execRemoteLoadArrive c]
    | .waiting .syscall => [execContextWake c, execDomgrant c, execGimport c, execFsync c true]
    | .waiting (.phase n _) => [execPhaseComplete c n]
    | .waiting _ => [execContextWake c]
    | .belayed _ => [execBelayWake c, execBelayRecheck c]
    | .parked _ => [execBelayWake c, execBelayRecheck c]
    | .issuing => [execHeldCyclesExpire c]
    | _ => []
  let unwind : List Event := match x.status with
    | .waiting _ => [execUnwindCheck c]
    | .belayed _ => [execUnwindCheck c]
    | .parked _ => [execUnwindCheck c]
    | .following _ => [execUnwindCheck c]
    | _ => []
  let missed : List Event := match x.remote with
    | some _ => [execScopeMissRepair c]
    | none => []
  waits ++ unwind ++ missed

/-- The lowest domain id that no partition holds (R373). -/
def State.freeDomain (s : State) : Nat := ((List.range 4096).find? (fun i => (s.domPart 0 (BitVec.ofNat 12 i)).isNone)).getD 0

/-- Requests whose SYSCALL was abandoned (R408). -/
def State.duePosted (s : State) : List Event :=
  s.posted.flatMap (fun p => [execDomgrant p.ctx, execGimport p.ctx, execFsync p.ctx true])

/-- A request for a new domain (R438). -/
def State.dueDomnew (s : State) : List Event :=
  (s.ctxIds.filter (fun c => (s.asks c 0x40).isSome)).map (fun c => execDomnew c (BitVec.ofNat 12 s.freeDomain))

/-- Phases of a domain that a member closes asynchronously are tried after each arrival and acknowledgement (R336). -/
def State.duePhases (s : State) : List Event :=
  (s.doms.filter (fun y => !y.handles.isEmpty)).flatMap (fun y => s.ctxIds.flatMap (fun c =>
    (allDms.filter (fun n => y.isFor (s.partOf c.sl) ((s.ctx c).domReg n.val))).map (execPhaseComplete c)))

/-- Steps of the network. -/
def State.dueNetwork (s : State) : List Event :=
  (s.frames.map (fun f => execMessengerPass ⟨f.channel % 208, by omega⟩))
    ++ (s.stores.map (fun r => execRemoteStoreArrive r.ctx r.dest))
    ++ (s.arrivals.map (fun p => execRemoteAckSend (arrivalCtx p.1) ⟨p.1 / 8192 % 4, by omega⟩ (p.1 % 8192)))
    ++ (s.acks.map (fun a => execRemoteAckArrive a.ctx a.tag a.dest))
    ++ (s.stores.map (fun r => execScopeMissRepair r.ctx))
    ++ (s.stores.map (fun r => execRetryResend r.ctx r.dest))
    ++ (s.evmsgs.map (fun e => execRetryResend e.ctx e.target.val))
    ++ (List.range s.ringmsgs.length).map execRingDeliver
    ++ (List.range s.evmsgs.length).map execEventDeliver

/-- Operations of other devices that can go on (R443): the receiver's next acknowledgement (R113) finds them further. -/
def State.dueIncoming (s : State) : List Event :=
  (s.links.map (fun p => (Fin.ofNat 256 p.1 : Fin 256))).filterMap (fun n =>
    if (s.link n).lost = false ∧ s.pump n ≠ s then some (execAckFlitTimer n) else none)

/-- Words that stand in overflow rings (R189). -/
def State.dueOverflow (s : State) : List Event :=
  s.slotIds.flatMap (fun sl => (s.slot sl).portOvf.map (fun e => execOverflowMove ⟨sl.core, sl.slot, e.1⟩ e.2.1))

/-- Walks that engine operations of a core wait for (R79). -/
def State.dueWalks (s : State) (core : Fin 4608) : List Event :=
  let k := s.core core
  let one : CtxId → Option Pause → List Event := fun c p => match p with
    | some (.walk d _) => [execPageWalk (dieOf core) (s.partOf c.sl) d]
    | _ => []
  k.copyQ.flatMap (fun o => one o.head.owner o.pause) ++ k.vecQ.flatMap (fun o => one o.head.owner o.pause)
    ++ k.matQ.flatMap (fun o => one o.head.owner o.pause) ++ k.intQ.flatMap (fun o => one o.head.owner o.pause)

/-- Walks that a die runs for misses that nobody waits for any more (R79). -/
def State.dueQueue (s : State) : List Event :=
  ([0, 1, 2, 3] : List (Fin 4)).flatMap (fun d =>
    ((s.die d).walks.take 64).map (fun q => execPageWalk d q.1 (BitVec.ofNat 64 (q.2 * 4096))))

/-- Steps of the engines of a core (R164, R242, R270, R310). -/
def State.dueEngines (s : State) (core : Fin 4608) : List Event :=
  let k := s.core core
  (if k.copyQ.isEmpty then [] else [execCopyResolve core])
    ++ (if k.vecQ.isEmpty then [] else [execVectorResolve core])
    ++ (if k.matQ.isEmpty && k.syncs.isEmpty then [] else [execTileStep (clusterOf core), execMatrixResolve core])
    ++ (if k.intQ.isEmpty then []
        else [execEtickStart core, execTickDrainResume core, execEtickResolve core, execEpostvResolve core])
    ++ s.dueWalks core

/-- Steps of the slots of a core (R366, R368). -/
def State.dueCore (s : State) (core : Fin 4608) : List Event :=
  execSliceExpire core :: (s.boundOf core).map execDrowsy

/-- Steps of the tasks of a partition that need no choice (R362, R363, R372). -/
def State.dueTasks (s : State) (p : Fin 64) : List Event :=
  let q := s.part p
  (if q.devQueue.isEmpty then [] else [execLaunchRecordAccept p true])
    ++ (if (s.vf q.vf).head = (s.vf q.vf).tail then [] else [execLaunchRecordAccept p false])
    ++ q.tasks.flatMap (fun t => [execTaskDependencesMet p t.recd.taskid, execTaskDone p t.recd.taskid])

/-- Steps of the device as a whole that need no choice: boot, an update that is quiesced or without a heartbeat, evictions that have
begun, slots whose register bank went out of service while firmware did not act, teardowns (R369, R413, R426, R429, R430). -/
def State.dueDevice (s : State) : List Event :=
  [execBootComplete, execHeartbeatTimeout]
    ++ (match s.fw.update with
      | .quiesced ld => [execFwUpdate ld]
      | _ => [])
    ++ ((s.slotIds.filter (fun sl => (s.slot sl).going)).map execSlotEvict)
    ++ ((s.slotIds.filter (fun sl => (s.slot sl).retired && s.slotHeld sl && (s.taskOf sl).isNone)).map execSlotUnbind)
    ++ (((s.vfs.map (fun q => (Fin.ofNat 64 q.1 : Fin 64))).filter (fun v => (s.vf v).teardown)).map execTeardownComplete)

/-- The steps that the default turn tries. -/
def State.dueEvents (s : State) : List Event :=
  s.ctxIds.flatMap s.dueOf
    ++ (s.ctxIds.map (fun c => c.core)).dedup.flatMap s.dueCore
    ++ s.duePhases ++ s.dueNetwork ++ s.dueIncoming ++ s.dueOverflow ++ s.duePosted ++ s.dueDomnew
    ++ s.coreIds.flatMap s.dueEngines
    ++ (List.range s.shoots.length).map execShootdownComplete
    ++ s.dueQueue
    ++ s.revoking.flatMap (fun d => [execLivenessUpdate 0 d, execLivenessUpdate 1 d, execLivenessUpdate 2 d, execLivenessUpdate 3 d])
    ++ ([0, 1, 2, 3, 4, 5, 6, 7] : List (Fin 8)).map execWsRefreshWindow
    ++ s.dueDevice
    ++ s.parts.flatMap (fun q => s.dueTasks (Fin.ofNat 64 q.1))

end Sys2Proof.Machine
end

