-- ==== Sys2Proof/Machine/Place.lean ====
section
/-! DEFINITION. Machine/Place.lean: the state whose next step fetches and runs a given instruction (assumption log 4): context
0 of slot 0 of core 0, in a slot that holds the whole local store, with its code capability over everything and the
instruction at the start of its local store. -/
namespace Sys2Proof.Machine
open Sys2Proof

/-- The context that runs a placed instruction. -/
def placeCtx : CtxId := ⟨0, 0, 0⟩
/-- Its domain. -/
def placeDomain : BitVec 12 := 1
/-- Its code capability: all of the address space, every permission (R174). -/
def placeCode : Reg := mkCap (BitVec.allOnes 12) placeDomain (63, 0, 0) 0
/-- Its slot's bind record: the whole local store of the core (R118, R364). -/
def placeBind : BindRec := { BindRec.none with valid := true, none_ := false, banks := 0xFF }

/-- The state whose next step fetches the instruction of the low `nbits` bits of `w`, the bits above being zero. -/
def State.place (s : State) (nbits w : Nat) : State :=
  let s := s.giveId 0 placeDomain
  let s := s.setSlot placeCtx.sl { s.slot placeCtx.sl with phase := .bound, bind := placeBind, used := 0, sliceLen := Config.sliceDefault }
  let s := s.modCore 0 (fun k => { k with holds := 0 })
  let s := s.modCtx placeCtx (fun x => { x with
    status := .issuing, pcc := placeCode, dom := placeDomain, loopc := 0, repc := 0, repi := 0, bights := [], resident := 0
    attached := false, follow := [], ibuf := [], stale := [], rep := none, pending := none, creason := 0, held := 0 })
  { s.writeBytes (s.slotLoc placeCtx.sl 0) (bytesLE 4 (w % 2 ^ nbits)) with
    agenda := [.context placeCtx], mcheck := false, hostLines := [] }

end Sys2Proof.Machine
end

