-- ==== Sys2Proof/Machine/Step.lean ====
section
/-! DEFINITION. Machine/Step.lean: the step function, and the state in which the next step runs a given instruction. -/
namespace Sys2Proof.Machine

/-- One step of the machine: the next turn of its agenda, or the default turn (Turns.lean). -/
def step (s : State) : Host.Outcome State Fault Refusal := s.oneStep exec State.dueEvents

/-- The state whose next step fetches and runs the instruction of the bits `w` (Place.lean). -/
def State.withFetchWord (s : State) (nbits w : Nat) : State := s.place nbits w

end Sys2Proof.Machine
end

