-- ==== Sys2Proof/Safety.lean ====
section
/-! DEFINITION. Safety.lean: what the statements mean by an instruction that starts, that reads its operands and that goes
on; by a step that completes and a run that goes on; by a memory in its canonical form and by what an instruction leaves
alone. -/
namespace Sys2Proof.Safety
open Sys2Proof Sys2Proof.Machine

/-! Steps. -/

/-- The step answers a next state. -/
def Steps (s t : State) : Prop := Machine.step s = .next t

/-- `n` steps lead from one state to another. -/
inductive Runs : Nat → State → State → Prop where
  | none (s : State) : Runs 0 s s
  | more (n : Nat) (s t u : State) : Steps s t → Runs n t u → Runs (n + 1) s u

/-- Memory and tag bits are in their canonical form (Mem.lean). -/
def Canonical (s : State) : Prop := Memory.wf s.mem = true ∧ Sparse.canonical false s.tags = true

/-! An instruction's course. -/

/-- The instruction starts: no frozen code (R184), no trap of the loop (R65), no empty queue (R46), and every word that it reads
from a port has been received (R191): `t` is the state then. -/
structure Starts (i : Instr) (e : AtEnd) (reads names : List RegCode) (s t : State) : Prop where
  unfrozen : (s.ctx s.cur).depth = 0 ∨ names.any RegCode.special = false
  loop     : (s.ctx s.cur).loopTrap (Instr.word i) e = none
  queues   : (s.ctx s.cur).shortQueue reads = none
  ports    : s.receive s.cur (Instr.word i) reads [] = .ok t

/-- Read register operands in their order (R46). -/
def takeAll : List RegCode → M (List Reg)
  | [] => pure []
  | r :: rs => do
    let v ← read r
    let vs ← takeAll rs
    pure (v :: vs)

/-- The instruction is complete in `t`, transfers nowhere, and `u` is the state behind it (R36, R60, R64). -/
def GoesOn (i : Instr) (t u : State) : Prop :=
  ∃ x, (t.ctx t.cur).settled.advance i.size = .ok x ∧ u = t.setCtx t.cur x

/-- The low 64 bits of registers. -/
def lows (vs : List Reg) : List W64 := vs.map Reg.lo
/-- A function of one word. -/
def one (f : W64 → W64) (vs : List W64) : W64 := match vs with
  | [x] => f x
  | _ => 0
/-- A function of two words. -/
def two (f : W64 → W64 → W64) (vs : List W64) : W64 := match vs with
  | [x, y] => f x y
  | _ => 0
/-- A function of three words. -/
def three (f : W64 → W64 → W64 → W64) (vs : List W64) : W64 := match vs with
  | [x, y, z] => f x y z
  | _ => 0

/-- The context that executes. -/
def here (s : State) : Ctx := s.ctx s.cur

/-! What is left alone. -/

/-- Every byte of memory and every tag bit reads as before. -/
def SameMemory (s t : State) : Prop := (∀ p, t.byteAt p = s.byteAt p) ∧ ∀ k, t.tagAt k = s.tagAt k

/-- Every context but that of `s.cur` is as before, and so is everything that is no context and no memory. -/
def SameElsewhere (s t : State) : Prop :=
  (∀ c, c ≠ s.cur → t.ctx c = s.ctx c) ∧ t = { s with ctxs := t.ctxs, mem := t.mem, tags := t.tags }

/-- What an instruction changes in its own context besides its destination: its place in the code, the loop and repeat
state, and what is remembered while an instruction waits. -/
def SameContext (x y : Ctx) : Prop :=
  y = { x with
    g := y.g, pcc := y.pcc, loopc := y.loopc, repc := y.repc, repi := y.repi, refusal := none, sending := none, fan := none
    remote := none, sysreq := none, revoke := false, reading := none, place := none }

/-- Every general register but those of a list is as before. -/
def SameRegs (x y : Ctx) (but : List GReg) : Prop := ∀ r, r ∉ but → y.reg r = x.reg r

end Sys2Proof.Safety
end

