-- ==== Sys2Proof/Certificates/Slice0/Obligations.lean ====
section
/-! DEFINITION. Certificates/Slice0/Obligations.lean: the statements for the provers, with the tables of the spec that they
quote. -/
open Sys2Proof Sys2Proof.Machine Sys2Proof.Safety

/-! Scalar arithmetic. -/
namespace Sys2Proof.Safety

/-- The ALU group (R217, R218): what a member reads, its destination, and its result from what it read. -/
def aluForm (i : Instr) : Option (List RegCode × RegCode × (List W64 → W64)) :=
  match i with
  | .add d a b => some ([a, b], d, two (fun x y => x + y))
  | .sub d a b => some ([a, b], d, two (fun x y => x - y))
  | .mul d a b => some ([a, b], d, two (fun x y => x * y))
  | .mulh d a b => some ([a, b], d, two (fun x y => BitVec.ofInt 64 (x.toInt * y.toInt / 2 ^ 64)))
  | .mulhn d a b => some ([a, b], d, two (fun x y => BitVec.ofNat 64 (x.toNat * y.toNat / 2 ^ 64)))
  | .div d a b => some ([a, b], d, two (fun x y =>
      if y = 0 then BitVec.allOnes 64
      else if x.toInt = -2 ^ 63 ∧ y.toInt = -1 then x
      else BitVec.ofInt 64 (x.toInt.tdiv y.toInt)))
  | .divn d a b => some ([a, b], d, two (fun x y =>
      if y = 0 then BitVec.allOnes 64 else BitVec.ofNat 64 (x.toNat / y.toNat)))
  | .rem d a b => some ([a, b], d, two (fun x y =>
      if y = 0 then x
      else if x.toInt = -2 ^ 63 ∧ y.toInt = -1 then 0
      else BitVec.ofInt 64 (x.toInt - y.toInt * x.toInt.tdiv y.toInt)))
  | .remn d a b => some ([a, b], d, two (fun x y => if y = 0 then x else BitVec.ofNat 64 (x.toNat % y.toNat)))
  | .and_ d a b => some ([a, b], d, two (fun x y => x &&& y))
  | .or_ d a b => some ([a, b], d, two (fun x y => x ||| y))
  | .xor d a b => some ([a, b], d, two (fun x y => x ^^^ y))
  | .andn d a b => some ([a, b], d, two (fun x y => x &&& ~~~y))
  | .shl d a b => some ([a, b], d, two (fun x y => x <<< (y.toNat % 64)))
  | .shr d a b => some ([a, b], d, two (fun x y => x >>> (y.toNat % 64)))
  | .sar d a b => some ([a, b], d, two (fun x y => x.sshiftRight (y.toNat % 64)))
  | .rol d a b => some ([a, b], d, two (fun x y => x <<< (y.toNat % 64) ||| x >>> (64 - y.toNat % 64)))
  | .ror d a b => some ([a, b], d, two (fun x y => x >>> (y.toNat % 64) ||| x <<< (64 - y.toNat % 64)))
  | .slt d a b => some ([a, b], d, two (fun x y => if x.toInt < y.toInt then 1 else 0))
  | .sltn d a b => some ([a, b], d, two (fun x y => if x.toNat < y.toNat then 1 else 0))
  | .seq d a b => some ([a, b], d, two (fun x y => if x = y then 1 else 0))
  | .min d a b => some ([a, b], d, two (fun x y => if x.toInt < y.toInt then x else y))
  | .max d a b => some ([a, b], d, two (fun x y => if x.toInt < y.toInt then y else x))
  | .minn d a b => some ([a, b], d, two (fun x y => if x.toNat < y.toNat then x else y))
  | .maxn d a b => some ([a, b], d, two (fun x y => if x.toNat < y.toNat then y else x))
  | .clz d a => some ([a], d, one (fun x => BitVec.ofNat 64 (leadZeros x)))
  | .ctz d a => some ([a], d, one (fun x => BitVec.ofNat 64 (trailZeros x)))
  | .popc d a => some ([a], d, one (fun x => BitVec.ofNat 64 (popBits x)))
  | .brev d a => some ([a], d, one (fun x => BitVec.ofNat 64 (ofBits (fun i => x.getLsbD (63 - i)) 64)))
  | .bswap d a => some ([a], d, one (fun x => BitVec.ofNat 64 (ofBits (fun i => x.getLsbD (8 * (7 - i / 8) + i % 8)) 64)))
  | .clmul d a b => some ([a, b], d, two (fun x y => BitVec.ofNat 64 (clmulNat x y)))
  | .clmulh d a b => some ([a, b], d, two (fun x y => BitVec.ofNat 64 (clmulNat x y / 2 ^ 64)))
  | .addw d a b => some ([a, b], d, two (fun x y => ((x + y).setWidth 32).signExtend 64))
  | .subw d a b => some ([a, b], d, two (fun x y => ((x - y).setWidth 32).signExtend 64))
  | .mulw d a b => some ([a, b], d, two (fun x y => ((x * y).setWidth 32).signExtend 64))
  | .sel d a b => some ([a, b, d], d, three (fun x y z => if z = 0 then y else x))
  | .extr d a b => some ([a, b], d, two extrVal)
  | .insr d a b => some ([a, b, d], d, three insrVal)
  | .adds d a b => some ([a, b], d, two (fun x y =>
      let z := x.toInt + y.toInt
      BitVec.ofInt 64 (if z < -2 ^ 63 then -2 ^ 63 else if 2 ^ 63 - 1 < z then 2 ^ 63 - 1 else z)))
  | .subs d a b => some ([a, b], d, two (fun x y =>
      let z := x.toInt - y.toInt
      BitVec.ofInt 64 (if z < -2 ^ 63 then -2 ^ 63 else if 2 ^ 63 - 1 < z then 2 ^ 63 - 1 else z)))
  | _ => none

/-- The immediate forms and the constants (R219, R220, R221). -/
def immForm (i : Instr) : Option (List RegCode × RegCode × (List W64 → W64)) :=
  match i with
  | .addi d a k => some ([a], d, one (fun x => x + k.signExtend 64))
  | .andi d a k => some ([a], d, one (fun x => x &&& k.signExtend 64))
  | .ori d a k => some ([a], d, one (fun x => x ||| k.signExtend 64))
  | .xori d a k => some ([a], d, one (fun x => x ^^^ k.signExtend 64))
  | .slti d a k => some ([a], d, one (fun x => if x.toInt < k.toInt then 1 else 0))
  | .sltni d a k => some ([a], d, one (fun x => if x.toNat < (k.signExtend 64).toNat then 1 else 0))
  | .muli d a k => some ([a], d, one (fun x => x * k.signExtend 64))
  | .shli d a n => some ([a], d, one (fun x => x <<< n.toNat))
  | .shri d a n => some ([a], d, one (fun x => x >>> n.toNat))
  | .sari d a n => some ([a], d, one (fun x => x.sshiftRight n.toNat))
  | .roli d a n => some ([a], d, one (fun x => x <<< n.toNat ||| x >>> (64 - n.toNat)))
  | .rori d a n => some ([a], d, one (fun x => x >>> n.toNat ||| x <<< (64 - n.toNat)))
  | .shlwi d a n => some ([a], d, one (fun x => ((x.setWidth 32) <<< n.toNat).signExtend 64))
  | .shrwi d a n => some ([a], d, one (fun x => ((x.setWidth 32) >>> n.toNat).signExtend 64))
  | .sarwi d a n => some ([a], d, one (fun x => ((x.setWidth 32).sshiftRight n.toNat).signExtend 64))
  | .movi d k => some ([], d, fun _ => k.signExtend 64)
  | .movsh d k => some ([d], d, one (fun x => (x <<< 19) ||| k.setWidth 64))
  | _ => none

/-- The 16-bit arithmetic forms (R42, R43). -/
def shortForm (i : Instr) : Option (List RegCode × RegCode × (List W64 → W64)) :=
  match i with
  | .addC d b => some ([d, .g b], d, two (fun x y => x + y))
  | .subC d b => some ([d, .g b], d, two (fun x y => x - y))
  | .andC d b => some ([d, .g b], d, two (fun x y => x &&& y))
  | .orC d b => some ([d, .g b], d, two (fun x y => x ||| y))
  | .xorC d b => some ([d, .g b], d, two (fun x y => x ^^^ y))
  | .shliC d k => some ([d], d, one (fun x => x <<< k.toNat))
  | .shriC d k => some ([d], d, one (fun x => x >>> k.toNat))
  | .addiC d k => some ([d], d, one (fun x => x + k.signExtend 64))
  | .moviC d k => some ([], d, fun _ => k.signExtend 64)
  | .neg d => some ([d], d, one (fun x => 0 - x))
  | .not_ d => some ([d], d, one (fun x => ~~~x))
  | _ => none

/-- An instruction of a table completes: it reads its operands in their order, and its result, as data, goes to its
destination. -/
def DataCompletes (form : Instr → Option (List RegCode × RegCode × (List W64 → W64))) : Prop :=
  ∀ (i : Instr) (rs : List RegCode) (d : RegCode) (f : List W64 → W64) (s s1 t u v : State) (vs : List Reg),
    form i = some (rs, d, f) → Starts i .closes rs (d :: rs) s s1 → takeAll rs s1 = .ok (vs, t) →
    write (Instr.word i) d (Reg.data (f (lows vs))) t = .ok ((), u) → GoesOn i u v →
    exec i s = .next v

end Sys2Proof.Safety

/-- R217 and R218: every member of the ALU group completes with its result. -/
def Sys2Proof.Safety.AluResult : Prop := Safety.DataCompletes Safety.aluForm

/-- R219 to R221: every immediate form and every constant completes with its result. -/
def Sys2Proof.Safety.ImmediateResult : Prop := Safety.DataCompletes Safety.immForm

/-- R42 and R43: every 16-bit arithmetic form completes with the result of its 32-bit form. -/
def Sys2Proof.Safety.ShortResult : Prop := Safety.DataCompletes Safety.shortForm

/-- R42, R43 and R217 to R221: every member of the ALU group, every immediate form, every constant and every 16-bit arithmetic
form completes with its result. -/
def Obligations.ScalarResult : Prop :=
  Safety.AluResult ∧ Safety.ImmediateResult ∧ Safety.ShortResult

/-- R218: signed division and remainder agree: with a divisor other than 0, and but for the one overflow, x is y times DIV
plus REM, and REM is smaller than y. -/
def Obligations.DivisionIdentity : Prop :=
  ∀ x y : W64, y ≠ 0 → ¬ (x.toInt = -2 ^ 63 ∧ y.toInt = -1) →
    x.toInt = y.toInt * (divS x y).toInt + (remS x y).toInt ∧ (remS x y).toInt.natAbs < y.toInt.natAbs ∧
    (0 ≤ x.toInt → 0 ≤ (remS x y).toInt) ∧ (x.toInt ≤ 0 → (remS x y).toInt ≤ 0)

/-! Register operands. -/

/-- R171, R183 and R46: a general register keeps what is written to it and g0 reads as zero; reading a q code takes the
oldest entry of its queue, and writing one appends the low 64 bits where the queue has room; reading a p code takes the word
its latch holds. -/
def Obligations.OperandAccess : Prop :=
  (∀ (x : Ctx) (r q : GReg) (v : Reg), (x.setReg r v).reg q = if q = 0 then Reg.zero else if q = r then v else x.reg q) ∧
  (∀ (s : State) (r : GReg), read (.g r) s = .ok ((here s).reg r, s)) ∧
  (∀ (s : State) (n : Fin 8) (w : W64) (ws : List W64), ((here s).queue n).items = w :: ws →
    ∃ t, read (.q n) s = .ok (Reg.data w, t) ∧ (here t).queue n = ⟨((here s).queue n).depth, ws⟩ ∧ SameMemory s t) ∧
  (∀ (s : State) (n : Fin 8) (iw : W64) (v : Reg), ((here s).queue n).items.length < ((here s).queue n).depth →
    ∃ t, write iw (.q n) v s = .ok ((), t) ∧
      (here t).queue n = ⟨((here s).queue n).depth, ((here s).queue n).items ++ [v.lo]⟩ ∧ SameMemory s t) ∧
  (∀ (s : State) (m : Fin 4) (w : W64) (ws : List W64), ((here s).port m).latch = w :: ws →
    ∃ t, read (.p m) s = .ok (Reg.data w, t) ∧ (here t).port m = { (here s).port m with latch := ws } ∧ SameMemory s t)

/-- R46 and R183: an instruction that reads a queue more often than it holds entries traps QUEUE_EMPTY with the queue's
number, and nothing is popped; writing a full queue is refused with QUEUE_FULL. -/
def Sys2Proof.Safety.QueueTraps : Prop :=
  (∀ (d a b : RegCode) (s : State) (n : Fin 8), (here s).depth = 0 → (here s).loopTrap (Instr.word (.add d a b)) .closes = none →
    (here s).shortQueue [a, b] = some n →
    exec (.add d a b) s = .next (s.takeTrap s.cur ⟨.queueEmpty, BitVec.ofNat 64 n.val, 0, false⟩)) ∧
  (∀ (s : State) (n : Fin 8) (iw : W64) (v : Reg), ((here s).queue n).depth ≤ ((here s).queue n).items.length →
    write iw (.q n) v s = .error (.trap ⟨.queueFull, BitVec.ofNat 64 n.val, 0, false⟩)) ∧
  (∀ (x : Ctx) (rs : List RegCode) (n : Fin 8), x.shortQueue rs = some n → (x.queue n).items.length < countQ n rs)

/-- R184: a gate callee that names a q or p code traps ILLEGAL_OPERAND with the instruction word, whatever else would stop
it. -/
def Sys2Proof.Safety.FrozenCodes : Prop :=
  ∀ (i : Instr) (rs : List RegCode) (d : RegCode) (f : List W64 → W64) (s : State),
    (aluForm i = some (rs, d, f) ∨ immForm i = some (rs, d, f)) → 0 < (here s).depth → (d :: rs).any RegCode.special = true →
    exec i s = .next (s.takeTrap s.cur ⟨.illegalOperand, Instr.word i, 0, false⟩)

/-- R46, R183 and R184: the traps of register operands: an empty or a full queue, and a queue or port code in a gate callee. -/
def Obligations.OperandTraps : Prop :=
  Safety.QueueTraps ∧ Safety.FrozenCodes

/-! Floating point. -/
namespace Sys2Proof.Safety

/-- A precision's operand as a value. -/
def valOf (p : Prec) (x : W64) : Val := (Prec.fmt p).val (fpIn p x)
/-- A function of one operand, or of two, that gives a result and flags. -/
def fone (f : W64 → W64 × BitVec 5) (vs : List W64) : W64 × BitVec 5 := match vs with
  | [x] => f x
  | _ => (0, 0)
/-- A function of two operands that gives a result and flags. -/
def ftwo (f : W64 → W64 → W64 × BitVec 5) (vs : List W64) : W64 × BitVec 5 := match vs with
  | [x, y] => f x y
  | _ => (0, 0)
/-- A function of three operands that gives a result and flags. -/
def fthree (f : W64 → W64 → W64 → W64 × BitVec 5) (vs : List W64) : W64 × BitVec 5 := match vs with
  | [x, y, z] => f x y z
  | _ => (0, 0)

/-- The result of a comparison that no NaN takes part in, and the value and flags with one (R222). -/
def compared (p : Prec) (x y : W64) (r : Bool) (loud un : Bool) : W64 × BitVec 5 :=
  let u := valOf p x
  let v := valOf p y
  if u.isNan || v.isNan then (if un then 1 else 0, if loud || u.isSnan || v.isSnan then fNV else 0)
  else (if r then 1 else 0, 0)

/-- The floating-point group, the fused multiply-adds and CVT (R222 to R225): what a member reads, its destination, its rounding
mode from that of FRM, and its result and flags from the mode, the bits of R213 and what it read. -/
def fpForm (i : Instr) : Option (List RegCode × RegCode × (Nat → Nat) × (Nat → Nat → List W64 → W64 × BitVec 5)) :=
  match i with
  | .fadd p d a b => some ([a, b], d, id, fun m r => ftwo (fun x y => roundOut p m r (addV m (valOf p x) (valOf p y))))
  | .fsub p d a b => some ([a, b], d, id, fun m r => ftwo (fun x y => roundOut p m r (addV m (valOf p x) (valOf p y).negate)))
  | .fmul p d a b => some ([a, b], d, id, fun m r => ftwo (fun x y => roundOut p m r (mulV (valOf p x) (valOf p y))))
  | .fdiv p d a b => some ([a, b], d, id, fun m r => ftwo (fun x y => roundOut p m r (divV (valOf p x) (valOf p y))))
  | .fsqrt p d a => some ([a], d, id, fun m r => fone (fun x => roundOut p m r (sqrtV (valOf p x))))
  | .fmin p d a b => some ([a, b], d, id, fun _ _ => ftwo (fun x y => pickOut p false false (fpIn p x) (fpIn p y)))
  | .fmax p d a b => some ([a, b], d, id, fun _ _ => ftwo (fun x y => pickOut p true false (fpIn p x) (fpIn p y)))
  | .fminm p d a b => some ([a, b], d, id, fun _ _ => ftwo (fun x y => pickOut p false true (fpIn p x) (fpIn p y)))
  | .fmaxm p d a b => some ([a, b], d, id, fun _ _ => ftwo (fun x y => pickOut p true true (fpIn p x) (fpIn p y)))
  | .feq p d a b => some ([a, b], d, id, fun _ _ => ftwo (fun x y => compared p x y (eqV (valOf p x) (valOf p y)) false false))
  | .flt p d a b => some ([a, b], d, id, fun _ _ => ftwo (fun x y => compared p x y (ltV (valOf p x) (valOf p y)) true false))
  | .fle p d a b => some ([a, b], d, id, fun _ _ => ftwo (fun x y => compared p x y (!ltV (valOf p y) (valOf p x)) true false))
  | .funord p d a b => some ([a, b], d, id, fun _ _ => ftwo (fun x y => compared p x y false false true))
  | .fclass p d a => some ([a], d, id, fun _ _ => fone (fun x => (BitVec.ofNat 64 (2 ^ (Prec.fmt p).classBit (valOf p x)), 0)))
  | .fsgnj p d a b => some ([a, b], d, id, fun _ _ => ftwo (fun x y => signOut p (fpIn p x) (signBit p (fpIn p y))))
  | .fsgnjn p d a b => some ([a, b], d, id, fun _ _ => ftwo (fun x y => signOut p (fpIn p x) (!signBit p (fpIn p y))))
  | .fsgnjx p d a b => some ([a, b], d, id, fun _ _ => ftwo (fun x y =>
      signOut p (fpIn p x) (signBit p (fpIn p x) != signBit p (fpIn p y))))
  | .frint p d a => some ([a], d, id, fun m r => fone (fun x => rintOut p m r (fpIn p x)))
  | .fmaD d a b c => some ([a, b, c], d, id, fun m r => fthree (fun x y z =>
      roundOut .d m r (fmaV m false (valOf .d x) (valOf .d y) (valOf .d z))))
  | .fnmaD d a b c => some ([a, b, c], d, id, fun m r => fthree (fun x y z =>
      roundOut .d m r (fmaV m true (valOf .d x) (valOf .d y) (valOf .d z))))
  | .fmaS d a b c => some ([a, b, c], d, id, fun m r => fthree (fun x y z =>
      roundOut .s m r (fmaV m false (valOf .s x) (valOf .s y) (valOf .s z))))
  | .fnmaS d a b c => some ([a, b, c], d, id, fun m r => fthree (fun x y z =>
      roundOut .s m r (fmaV m true (valOf .s x) (valOf .s y) (valOf .s z))))
  | .cvt rm sat dst src d a => some ([a], d, fun m => if rm = 6 then m else rm.toNat, fun m r => fone (cvtOut dst src sat m r))
  | .faddDC d b => some ([d, .g b], d, id, fun m r => ftwo (fun x y => roundOut .d m r (addV m (valOf .d x) (valOf .d y))))
  | .fmulDC d b => some ([d, .g b], d, id, fun m r => ftwo (fun x y => roundOut .d m r (mulV (valOf .d x) (valOf .d y))))
  | _ => none

/-- The flags are ORed into FFLAGS, and SRSEQ advances where the mode is SR (R210, R212). -/
def Raised (s : State) (mode : Nat) (fl : BitVec 5) : State :=
  s.modCtx s.cur (fun y => { y with fflags := y.fflags ||| fl, srseq := if mode = 5 then y.srseq + 1 else y.srseq })

end Sys2Proof.Safety

/-- R210, R212 and R222 to R225: a floating-point instruction whose flags are not enabled to trap completes with its result, its
flags and the advance of SRSEQ. -/
def Sys2Proof.Safety.FloatResult : Prop :=
  ∀ (i : Instr) (rs : List RegCode) (d : RegCode) (eff : Nat → Nat) (f : Nat → Nat → List W64 → W64 × BitVec 5)
    (s s1 t u v : State) (vs : List Reg),
    fpForm i = some (rs, d, eff, f) → Starts i .closes rs (d :: rs) s s1 → takeAll rs s1 = .ok (vs, t) →
    (f (eff (here t).mode) (here t).draw (lows vs)).2 &&& (here t).frm.extractLsb' 6 5 = 0 →
    write (Instr.word i) d (Reg.data (f (eff (here t).mode) (here t).draw (lows vs)).1)
      (Raised t (eff (here t).mode) (f (eff (here t).mode) (here t).draw (lows vs)).2) = .ok ((), u) →
    GoesOn i u v → exec i s = .next v

/-- R210: where a raised flag is enabled, the instruction traps FP_TRAP with the flags in TVAL, and with none of its effect:
what it read from a queue is still there. -/
def Sys2Proof.Safety.FloatTrap : Prop :=
  ∀ (i : Instr) (rs : List RegCode) (d : RegCode) (eff : Nat → Nat) (f : Nat → Nat → List W64 → W64 × BitVec 5)
    (s s1 t : State) (vs : List Reg),
    fpForm i = some (rs, d, eff, f) → Starts i .closes rs (d :: rs) s s1 → takeAll rs s1 = .ok (vs, t) →
    (f (eff (here t).mode) (here t).draw (lows vs)).2 &&& (here t).frm.extractLsb' 6 5 ≠ 0 →
    exec i s = .next (s1.takeTrap s.cur
      ⟨.fpTrap, (f (eff (here t).mode) (here t).draw (lows vs)).2.setWidth 64, 0, false⟩)

/-- R210, R212 and R222 to R225: a floating-point instruction completes with its result and its flags, or traps FP_TRAP with
none of its effect. -/
def Obligations.FloatForms : Prop :=
  Safety.FloatResult ∧ Safety.FloatTrap

/-! Capabilities. -/
namespace Sys2Proof.Safety

/-- A register with another cursor (R181): data, or a capability that stays representable. -/
def moved (r : Reg) (n : W64) : Option Reg :=
  if r.tag = 0 then some (Reg.data n)
  else if r.tag = 1 ∧ representable r n = true then some (r.withCursor n)
  else none

/-- A capability narrowed to the `v` bytes from its cursor (R181): exactly, or to the least bounds that contain them. -/
def narrowed (r : Reg) (v : Nat) (rounded : Bool) : Option Reg :=
  let bt := if rounded then roundBounds 8 r.lo.toNat (r.lo.toNat + v) else (r.lo.toNat, r.lo.toNat + v)
  if r.tag = 1 ∧ capBase r ≤ bt.1 ∧ bt.2 ≤ capTop r then
    match encodeBounds bt.1 bt.2 with
    | some e => if representable (withBounds r e) r.lo then some (withBounds r e) else none
    | none => none
  else none

/-- A function of one register, or of two, that may be refused. -/
def rone (f : Reg → Option Reg) (vs : List Reg) : Option Reg := match vs with
  | [x] => f x
  | _ => none
/-- A function of two registers that may be refused. -/
def rtwo (f : Reg → Reg → Option Reg) (vs : List Reg) : Option Reg := match vs with
  | [x, y] => f x y
  | _ => none
/-- A capability, sealed or not. -/
def isCap (r : Reg) : Prop := r.tag = 1 ∨ r.tag = 3

/-- The CAP group, CSETBI, CINCI and MOV (R180 to R182, R42): what a member reads, its destination, and its result from the
context and what it read; none where a check of R180 or R181 fails. -/
def capForm (i : Instr) : Option (List RegCode × RegCode × (Ctx → List Reg → Option Reg)) :=
  match i with
  | .cgeta d a => some ([a], d, fun _ => rone (fun r => some (Reg.data r.lo)))
  | .cgetb d a => some ([a], d, fun _ => rone (fun r => if r.tag = 1 ∨ r.tag = 3 then some (Reg.data (BitVec.ofNat 64 (capBase r))) else none))
  | .cgetl d a => some ([a], d, fun _ => rone (fun r =>
      if r.tag = 1 ∨ r.tag = 3 then some (Reg.data (BitVec.ofNat 64 (min (capTop r - capBase r) (2 ^ 64 - 1)))) else none))
  | .cgetp d a => some ([a], d, fun _ => rone (fun r => if r.tag = 1 ∨ r.tag = 3 then some (Reg.data (r.perms.setWidth 64)) else none))
  | .cgetd d a => some ([a], d, fun _ => rone (fun r => if r.tag = 1 ∨ r.tag = 3 then some (Reg.data (r.owner.setWidth 64)) else none))
  | .cgett d a => some ([a], d, fun _ => rone (fun r => some (Reg.data (r.tag.setWidth 64))))
  | .cseta d a b => some ([a, b], d, fun _ => rtwo (fun r v => moved r v.lo))
  | .cinc d a b => some ([a, b], d, fun _ => rtwo (fun r v => moved r (r.lo + v.lo)))
  | .csetb d a b => some ([a, b], d, fun _ => rtwo (fun r v => narrowed r v.lo.toNat false))
  | .csetbr d a b => some ([a, b], d, fun _ => rtwo (fun r v => narrowed r v.lo.toNat true))
  | .candp d a b => some ([a, b], d, fun _ => rtwo (fun r v =>
      if r.tag = 1 ∨ r.tag = 3 then some (withPerms r (r.perms &&& v.lo.setWidth 12)) else none))
  | .cseal d a b => some ([a, b], d, fun _ => rtwo (fun r k =>
      if r.tag = 1 ∧ k.tag = 1 ∧ lacks k permSE = false ∧ k.owner = r.owner then some (withOtype r 3 3) else none))
  | .cunseal d a b => some ([a, b], d, fun _ => rtwo (fun r k =>
      if r.tag = 3 ∧ r.otype = 3 ∧ k.tag = 1 ∧ lacks k permUS = false ∧ k.owner = r.owner then some (withOtype r 0 1) else none))
  | .cclr d a => some ([a], d, fun _ => rone (fun r => some (Reg.data r.lo)))
  | .ctsub d a b => some ([a, b], d, fun _ => rtwo (fun r k =>
      if r.tag = 1 ∧ k.tag = 1 then some (Reg.data (r.lo - k.lo)) else none))
  | .movt d a => some ([a], d, fun _ => rone some)
  | .csetbi d a len => some ([], d, fun x _ => narrowed (x.reg a) len.toNat false)
  | .cinci d a k => some ([], d, fun x _ => moved (x.reg a) ((x.reg a).lo + k.signExtend 64))
  | .mov d b => some ([], d, fun x _ => some (x.reg b))
  | _ => none

end Sys2Proof.Safety

/-- R180 to R182: a CAP instruction whose checks pass completes with its result, tag and all. -/
def Sys2Proof.Safety.CapabilityResult : Prop :=
  ∀ (i : Instr) (rs : List RegCode) (d : RegCode) (f : Ctx → List Reg → Option Reg) (s s1 t u v : State) (vs : List Reg) (r : Reg),
    capForm i = some (rs, d, f) → Starts i .closes rs (d :: rs) s s1 → takeAll rs s1 = .ok (vs, t) → f (here t) vs = some r →
    write (Instr.word i) d r t = .ok ((), u) → GoesOn i u v → exec i s = .next v

/-- R180 and R181: where a check fails, a CAP instruction traps CAP_TAG, CAP_SEALED, CAP_BOUNDS or CAP_PERM, and writes
nothing; a sealed source given to a member that would change it traps CAP_SEALED with the source in TVAL. -/
def Sys2Proof.Safety.CapabilityTraps : Prop :=
  (∀ (i : Instr) (rs : List RegCode) (d : RegCode) (f : Ctx → List Reg → Option Reg) (s s1 t : State) (vs : List Reg),
    capForm i = some (rs, d, f) → Starts i .closes rs (d :: rs) s s1 → takeAll rs s1 = .ok (vs, t) → f (here t) vs = none →
    ∃ c v, (c = .capTag ∨ c = .capSealed ∨ c = .capBounds ∨ c = .capPerm) ∧
      exec i s = .next (s1.takeTrap s.cur ⟨c, v, 0, false⟩)) ∧
  (∀ (i : Instr) (d a b : RegCode) (s s1 t : State) (r v : Reg),
    (i = .cseta d a b ∨ i = .cinc d a b ∨ i = .csetb d a b ∨ i = .csetbr d a b ∨ i = .cseal d a b) →
    Starts i .closes [a, b] [d, a, b] s s1 → takeAll [a, b] s1 = .ok ([r, v], t) → r.tag = 3 →
    exec i s = .next (s1.takeTrap s.cur ⟨.capSealed, r.lo, 0, false⟩))

/-- R180 to R182: a CAP instruction whose checks pass completes with its result; one whose check fails traps and writes
nothing. -/
def Obligations.CapabilityForms : Prop :=
  Safety.CapabilityResult ∧ Safety.CapabilityTraps

/-- R179: a capability that a CAP instruction derives from a capability has at most its bounds and its permissions, and its
owner. -/
def Obligations.CapabilityMonotonic : Prop :=
  ∀ (i : Instr) (rs : List RegCode) (d : RegCode) (f : Ctx → List Reg → Option Reg) (x : Ctx) (vs : List Reg) (r : Reg),
    capForm i = some (rs, d, f) → f x vs = some r → (r.tag = 1 ∨ r.tag = 3) →
    ∃ q, (q ∈ vs ∨ ∃ g, q = x.reg g) ∧ (q.tag = 1 ∨ q.tag = 3) ∧
      capBase q ≤ capBase r ∧ capTop r ≤ capTop q ∧ r.perms &&& q.perms = r.perms ∧ r.owner = q.owner

/-- R175 and R176: bounds that encode are the bounds that decode, wherever the cursor stands in their window. -/
def Obligations.BoundsExact : Prop :=
  ∀ (r : Reg) (base top : Nat) (e : Nat × Nat × Nat) (n : W64),
    base ≤ top → base < 2 ^ 64 → top ≤ 2 ^ 64 → encodeBounds base top = some e →
    (e.1 = 63 ∨ (n.toNat + 2 ^ 64 - base + 4096 * 2 ^ e.1) % 2 ^ 64 < 32768 * 2 ^ e.1) →
    capBounds ((withBounds r e).withCursor n) = (base, top)

/-- R178: check_cap fails with the first of its checks that fails, in the order tag, seal, permissions, bounds, liveness. -/
def Sys2Proof.Safety.CheckOrder : Prop :=
  ∀ (live : BitVec 12 → Bool) (cap : Reg) (perm : BitVec 12) (addr : W64) (size : Nat),
    (checkCap live cap perm addr size = some .capTag ↔ cap.tag ≠ 1 ∧ cap.tag ≠ 3) ∧
    ((cap.tag = 1 ∨ cap.tag = 3) → (checkCap live cap perm addr size = some .capSealed ↔ cap.otype ≠ 0)) ∧
    ((cap.tag = 1 ∨ cap.tag = 3) → cap.otype = 0 →
      (checkCap live cap perm addr size = some .capPerm ↔ ∃ i, perm.getLsbD i = true ∧ cap.perms.getLsbD i = false)) ∧
    (checkCap live cap perm addr size = none ↔
      (cap.tag = 1 ∨ cap.tag = 3) ∧ cap.otype = 0 ∧ (∀ i, perm.getLsbD i = true → cap.perms.getLsbD i = true) ∧
      capBase cap ≤ addr.toNat ∧ addr.toNat + size ≤ capTop cap ∧ live cap.owner = true)

/-! Memory. -/

/-- R68 and R139: an access makes its checks in the order capability, alignment, decode; one that passes them at an address
of its slot's private alias reaches that byte of its own local store. -/
def Sys2Proof.Safety.OwnAlias : Prop :=
  ∀ (s : State) (c : CtxId) (cap : Reg) (a : Ask) (addr : W64),
    (∀ e, firstFail (s.live (dieOf c.core)) a.unsealed cap addr a.size a.perms = some e →
      s.reach c cap a addr = .trap e addr 0) ∧
    (firstFail (s.live (dieOf c.core)) a.unsealed cap addr a.size a.perms = none →
      (addr.toNat % a.align ≠ 0 → s.reach c cap a addr = .trap .align addr 0) ∧
      (addr.toNat % a.align = 0 → addr.toNat < (s.slot c.sl).bind.size →
        (addr.toNat + a.size ≤ (s.slot c.sl).bind.size → s.granuleBad c.sl addr.toNat a.size = false →
          s.reach c cap a addr = .ok ⟨s.slotLoc c.sl addr.toNat, true, none, none, true⟩) ∧
        ((s.slot c.sl).bind.size < addr.toNat + a.size →
          s.reach c cap a addr = .trap .pageFault (BitVec.ofNat 64 (s.slot c.sl).bind.size) 1)))

/-- R68, R139 and R178: the checks of an access, in their order, and what passes them in the private alias. -/
def Obligations.AccessChecks : Prop :=
  Safety.CheckOrder ∧ Safety.OwnAlias

/-- R121: the words of a slot and its banks and rows correspond one to one: two words of a local store that lie in one bank
and one row are the same word of the same slot. -/
def Sys2Proof.Safety.LayoutOneToOne : Prop :=
  ∀ (mode l l' w w' : Nat), mode ≤ 2 → l < 2 ^ mode → l' < 2 ^ mode → w < 37 * slotRows mode → w' < 37 * slotRows mode →
    bankOf w = bankOf w' → rowOf l mode w = rowOf l' mode w' → l = l' ∧ w = w'

/-- R8 and R140: bytes that are written read back, lowest address first, and the tags of the units written are clear; a byte
and a tag at another place are as before. (It takes the canonical form of memory as a premise, which every step keeps.) -/
def Sys2Proof.Safety.WriteThenRead : Prop :=
  ∀ (s : State) (l : Loc) (bs : List Byte), Canonical s →
    (∀ i j, i < j → j < bs.length → l.place i ≠ l.place j) →
    (s.writeBytes l bs).readBytes l bs.length = bs ∧
    (∀ i, i < bs.length → (s.writeBytes l bs).tagAt (l.tagKey i) = false) ∧
    (∀ p, (∀ i, i < bs.length → p ≠ l.place i) → (s.writeBytes l bs).byteAt p = s.byteAt p) ∧
    (∀ k, (∀ i, i < bs.length → k ≠ l.tagKey i) → (s.writeBytes l bs).tagAt k = s.tagAt k)

/-- R8, R121 and R140: memory keeps what is written to it, byte by byte, with its tags; the words of a slot lie in its banks and
rows one to one. -/
def Obligations.MemoryLaws : Prop :=
  Safety.LayoutOneToOne ∧ Safety.WriteThenRead

namespace Sys2Proof.Safety

/-- A load of a context (R142, R144, R42): bytes, order, destination, address register and offset, and the register it gives
from the value, the tag bit and the capability. -/
def loadForm (i : Instr) : Option (Nat × BitVec 2 × RegCode × GReg × BitVec 8 × (W128 → Bool → Reg → Reg)) :=
  match i with
  | .ld sz o d a off => some (loadBytes sz, o, d, a, off, fun v _ _ => Reg.data (match sz with
      | .b => (v.setWidth 8).signExtend 64
      | .h => (v.setWidth 16).signExtend 64
      | .w => (v.setWidth 32).signExtend 64
      | .bn => (v.setWidth 8).setWidth 64
      | .hn => (v.setWidth 16).setWidth 64
      | .wn => (v.setWidth 32).setWidth 64
      | .d => v.setWidth 64))
  | .ldc o d a off => some (16, o, d, a, off, fun v t cap =>
      if t = true ∧ lacks cap permLC = false ∧ capFieldsOk v = true then ⟨v, if (⟨v, 1⟩ : Reg).otype = 0 then 1 else 3⟩
      else ⟨v, 0⟩)
  | .ldDC d b => some (8, 0, d, b, 0, fun v _ _ => Reg.data (v.setWidth 64))
  | _ => none

/-- A store of a context (R143, R145, R42): bytes, order, the register stored, address register and offset, and whether it
stores a tag. -/
def storeForm (i : Instr) : Option (Nat × BitVec 2 × RegCode × GReg × BitVec 8 × Bool) :=
  match i with
  | .st sz o v a off => some (storeBytes sz, o, v, a, off, false)
  | .stc o v a off => some (16, o, v, a, off, true)
  | .stDC v b => some (8, 0, v, b, 0, false)
  | _ => none

/-- The order of an access lets it go ahead (R323): a release has nothing earlier to wait for. -/
def Ordered (s : State) (o : BitVec 2) : Prop := ∀ sc, (here s).ordScope o = some sc → s.releaseBlocked s.cur sc = false

/-- An AMO or a CAS (R146, R148): its operands in the order of their reads, whether it is of 8 bytes, order, destination,
address register, and what it does from the values read and the context. -/
def atomicForm (i : Instr) : Option (List RegCode × Bool × BitVec 2 × RegCode × GReg × (Ctx → List W64 → RemoteOp)) :=
  let amo : Nat → Bool → Bool → Ctx → List W64 → RemoteOp := fun op n w8 x vs =>
    .amo op n (one (fun v => if op = 7 ∧ w8 = false then BitVec.ofNat 64 (unbox32 v) else v) vs) x.frm x.srseed x.srseq
  match i with
  | .amoadd w8 o d b a => some ([b], w8, o, d, a, amo 0 false w8)
  | .amoand w8 o d b a => some ([b], w8, o, d, a, amo 1 false w8)
  | .amoor w8 o d b a => some ([b], w8, o, d, a, amo 2 false w8)
  | .amoxor w8 o d b a => some ([b], w8, o, d, a, amo 3 false w8)
  | .amoswp w8 o d b a => some ([b], w8, o, d, a, amo 4 false w8)
  | .amomin w8 o d b a => some ([b], w8, o, d, a, amo 5 false w8)
  | .amomax w8 o d b a => some ([b], w8, o, d, a, amo 6 false w8)
  | .amominn w8 o d b a => some ([b], w8, o, d, a, amo 5 true w8)
  | .amomaxn w8 o d b a => some ([b], w8, o, d, a, amo 6 true w8)
  | .amofadd w8 o d b a => some ([b], w8, o, d, a, amo 7 false w8)
  | .cas w8 o d b a => some ([b, d], w8, o, d, a, fun _ vs => match vs with
      | [new, exp] => .cas new exp
      | _ => .load)
  | _ => none

/-- AMOFADD. -/
def isFadd (i : Instr) : Bool :=
  match i with
  | .amofadd _ _ _ _ _ => true
  | _ => false

/-- The old value as an AMO or CAS gives it (R146, R148). -/
def oldValue (i : Instr) (w8 : Bool) (old : Nat) : W64 :=
  if w8 then BitVec.ofNat 64 old
  else if isFadd i then 0xFFFFFFFF00000000 ||| BitVec.ofNat 64 (old % 2 ^ 32)
  else ((BitVec.ofNat 64 old).setWidth 32).signExtend 64

end Sys2Proof.Safety

/-- R142, R144 and R40: a load through the private alias completes in one step: the value at its address, extended, or with
its tag, goes to its destination. -/
def Obligations.LoadResult : Prop :=
  ∀ (i : Instr) (n : Nat) (o : BitVec 2) (d : RegCode) (a : GReg) (off : BitVec 8) (conv : W128 → Bool → Reg → Reg)
    (s s' u v : State) (p : Spot),
    loadForm i = some (n, o, d, a, off, conv) → Starts i .closes [] [d] s s → (here s).remote = none →
    s.reach s.cur ((here s).reg a) (loadAsk n)
      (((here s).reg a).lo + off.signExtend 64 * BitVec.ofNat 64 n) = .ok p → p.own = true →
    noteLoad p.loc n (BitVec.ofNat 128 (s.readNat p.loc n)) s = .ok ((), s') →
    write (Instr.word i) d
      (conv (BitVec.ofNat 128 (s.readNat p.loc n)) (p.tags && s.tagAt (p.loc.tagKey 0)) ((here s).reg a)) s' = .ok ((), u) →
    GoesOn i u v → exec i s = .next v

/-- R143, R145 and R40: a store through the private alias completes in one step: the low bytes of its register, or the register
with its tag, stand at its address. -/
def Sys2Proof.Safety.StoreResult : Prop :=
  ∀ (i : Instr) (n : Nat) (o : BitVec 2) (r : RegCode) (a : GReg) (off : BitVec 8) (tagged : Bool) (s s1 t u : State) (p : Spot)
    (q : Reg),
    storeForm i = some (n, o, r, a, off, tagged) → Starts i .closes [r] [r] s s1 →
    s.reach s.cur ((here s).reg a) (storeAsk n)
      (((here s).reg a).lo + off.signExtend 64 * BitVec.ofNat 64 n) = .ok p →
    s1.reach s1.cur ((here s1).reg a) (storeAsk n)
      (((here s1).reg a).lo + off.signExtend 64 * BitVec.ofNat 64 n) = .ok p → p.own = true →
    read r s1 = .ok (q, t) → (tagged = true → stcTrap ((here s1).reg a) q p s1.cur.sl = none) → Ordered t o →
    (here s1).ordScope o = (here t).ordScope o →
    GoesOn i (t.keepStore (if tagged = true ∧ q.tag ≠ 0 then t.pokeReg p.loc q true
      else t.poke p.loc (bytesLE n (if tagged = true then q.bits.toNat else q.lo.toNat))) p.loc n) u →
    exec i s = .next u

/-- R145: STC refuses a handle with CAP_TAG; a capability with CAP_PERM where the address register lacks SC, where the place
keeps no tags, or where it is shared and the capability lacks G; TVAL is the address. -/
def Sys2Proof.Safety.StcRefusals : Prop :=
  ∀ (o : BitVec 2) (r : RegCode) (a : GReg) (off : BitVec 8) (s s1 t : State) (p : Spot) (q : Reg) (e : Cause),
    Starts (.stc o r a off) .closes [r] [r] s s1 →
    s.reach s.cur ((here s).reg a) (storeAsk 16) (((here s).reg a).lo + off.signExtend 64 * 16) = .ok p →
    s1.reach s1.cur ((here s1).reg a) (storeAsk 16) (((here s1).reg a).lo + off.signExtend 64 * 16) = .ok p →
    read r s1 = .ok (q, t) →
    (e = .capTag ∧ q.tag = 2 ∨
      e = .capPerm ∧ (q.tag = 1 ∨ q.tag = 3) ∧
        (lacks ((here s1).reg a) permSC = true ∨ p.tags = false ∨ p.shared s1.cur.sl = true ∧ lacks q permG = true)) →
    exec (.stc o r a off) s = .next (s1.takeTrap s.cur ⟨e, ((here s1).reg a).lo + off.signExtend 64 * 16, 0, false⟩)

/-- R143 and R145: a store through the private alias completes in one step, and STC refuses what the rules refuse it. -/
def Obligations.StoreForms : Prop :=
  Safety.StoreResult ∧ Safety.StcRefusals

/-- R127, R146 and R148: an AMO or CAS through the private alias performs its combination in one step, gives the old value, and
keeps its core from issuing for 4 cycles. -/
def Sys2Proof.Safety.AtomicResult : Prop :=
  ∀ (i : Instr) (rs : List RegCode) (w8 : Bool) (o : BitVec 2) (d : RegCode) (a : GReg) (f : Ctx → List W64 → RemoteOp)
    (s s1 t m u v : State) (vs : List Reg) (p : Spot) (old : Nat) (fl : BitVec 5),
    atomicForm i = some (rs, w8, o, d, a, f) → Starts i .closes rs (d :: rs) s s1 → takeAll rs s1 = .ok (vs, t) →
    (here t).remote = none →
    t.reach t.cur ((here t).reg a) (amoAsk (if w8 then 8 else 4)) ((here t).reg a).lo = .ok p → p.own = true → Ordered t o →
    t.performAt (f (here t) (lows vs)) p.loc (if w8 then 8 else 4) = .ok (m, old, fl) →
    let k := (t.keepStore m p.loc (if w8 then 8 else 4)).costs 4
    fl &&& (here k).frm.extractLsb' 6 5 = 0 →
    write (Instr.word i) d (Reg.data (oldValue i w8 old)) (if isFadd i = true then Raised k (here t).mode fl else k) = .ok ((), u) →
    GoesOn i u v → exec i s = .next v

/-- R146 and R148: what an AMO or CAS leaves at its place: the sum, the bits combined, the operand, the smaller, the larger; CAS
writes its new value where the old one is the expected one. -/
def Sys2Proof.Safety.AtomicCombination : Prop :=
  ∀ (s : State) (l : Loc) (n : Nat) (v : W64) (frm : BitVec 11) (seed seq : W64), n = 4 ∨ n = 8 →
    let old := s.readNat l n
    let w := v.toNat % 2 ^ (8 * n)
    let put := fun (x : Nat) => s.poke l (bytesLE n x)
    s.performAt (.amo 0 false v frm seed seq) l n = .ok (put ((old + w) % 2 ^ (8 * n)), old, 0) ∧
    s.performAt (.amo 1 false v frm seed seq) l n = .ok (put (old &&& w), old, 0) ∧
    s.performAt (.amo 2 false v frm seed seq) l n = .ok (put (old ||| w), old, 0) ∧
    s.performAt (.amo 3 false v frm seed seq) l n = .ok (put (old ^^^ w), old, 0) ∧
    s.performAt (.amo 4 false v frm seed seq) l n = .ok (put w, old, 0) ∧
    s.performAt (.amo 5 true v frm seed seq) l n = .ok (put (min old w), old, 0) ∧
    s.performAt (.amo 6 true v frm seed seq) l n = .ok (put (max old w), old, 0) ∧
    s.performAt (.amo 5 false v frm seed seq) l n =
      .ok (put (if (BitVec.ofNat (8 * n) w).toInt < (BitVec.ofNat (8 * n) old).toInt then w else old), old, 0) ∧
    s.performAt (.amo 6 false v frm seed seq) l n =
      .ok (put (if (BitVec.ofNat (8 * n) old).toInt < (BitVec.ofNat (8 * n) w).toInt then w else old), old, 0) ∧
    (∀ new exp : W64, s.performAt (.cas new exp) l n =
      .ok (if old = exp.toNat % 2 ^ (8 * n) then put new.toNat else s, old, 0))

/-- R127, R146 and R148: an AMO or CAS through the private alias performs its combination in one step. -/
def Obligations.AtomicForms : Prop :=
  Safety.AtomicResult ∧ Safety.AtomicCombination

/-- A write through a leaf has set its DI (R76). -/
def Sys2Proof.Safety.Marked (s : State) (p : Spot) : State :=
  match p.xl with
  | some x => s.markDirty x
  | none => s

/-- R127, R139, R146 and R339: an access that leaves the core, a load, an AMO or a CAS, is sent, with what it does and where,
and its context waits for the reply; its registers are as before, its operands are not consumed, and no byte of memory has changed but
for the leaf whose DI an AMO or CAS sets as it is sent (R76). That it sets DI then, and that a place of the overflow ring is kept for a
result that goes to a port, is the model's choice (assumption log 8). -/
def Sys2Proof.Safety.OffCoreAccess : Prop :=
  (∀ (i : Instr) (n : Nat) (o : BitVec 2) (d : RegCode) (a : GReg) (off : BitVec 8) (conv : W128 → Bool → Reg → Reg)
    (s : State) (p : Spot),
    loadForm i = some (n, o, d, a, off, conv) → Starts i .closes [] [d] s s → (here s).remote = none →
    s.reach s.cur ((here s).reg a) (loadAsk n)
      (((here s).reg a).lo + off.signExtend 64 * BitVec.ofNat 64 n) = .ok p → p.own = false →
    mayWrite (Instr.word i) d s = .ok ((), s) →
    ∃ t, exec i s = .next t ∧ (here t).status = .waiting .reply ∧ (here t).pcc = (here s).pcc ∧ (here t).g = (here s).g ∧
      SameMemory s t ∧
      ∃ r, (here t).remote = some r ∧ r.phase = .sent ∧ r.op = .load ∧ r.loc = p.loc ∧ r.size = n ∧ r.seq = s.nextSeq) ∧
  (∀ (i : Instr) (rs : List RegCode) (w8 : Bool) (o : BitVec 2) (d : RegCode) (a : GReg) (f : Ctx → List W64 → RemoteOp)
    (s s1 t m : State) (vs : List Reg) (p : Spot),
    atomicForm i = some (rs, w8, o, d, a, f) → Starts i .closes rs (d :: rs) s s1 → takeAll rs s1 = .ok (vs, t) →
    (here t).remote = none →
    t.reach t.cur ((here t).reg a) (amoAsk (if w8 then 8 else 4)) ((here t).reg a).lo = .ok p → p.own = false → Ordered t o →
    mayWrite (Instr.word i) d t = .ok ((), t) → keepPlace (Instr.word i) d t = .ok ((), m) →
    ∃ u, exec i s = .next u ∧ (here u).status = .waiting .reply ∧ (here u).pcc = (here s).pcc ∧ (here u).g = (here s).g ∧
      (here u).q = (here s1).q ∧ (here u).ports = (here s1).ports ∧ SameMemory (Safety.Marked t p) u ∧
      ∃ r, (here u).remote = some r ∧ r.phase = .sent ∧ r.op = f (here t) (lows vs) ∧ r.loc = p.loc ∧
        r.size = (if w8 then 8 else 4) ∧ r.seq = t.nextSeq)

/-- R103, R104, R105 and R145: a store that leaves the core, STC included, retires at once: it travels with the tag of PHTAG, STC of a
capability with its tag, and its tag's unacknowledged count rises by 1; through a translated page it sets DI (R76). -/
def Sys2Proof.Safety.RemoteStoreIssue : Prop :=
  ∀ (i : Instr) (n : Nat) (o : BitVec 2) (r : RegCode) (a : GReg) (off : BitVec 8) (tagged : Bool) (s s1 t : State) (p : Spot)
    (q : Reg) (x : Ctx),
    storeForm i = some (n, o, r, a, off, tagged) → Starts i .closes [r] [r] s s1 →
    s.reach s.cur ((here s).reg a) (storeAsk n)
      (((here s).reg a).lo + off.signExtend 64 * BitVec.ofNat 64 n) = .ok p →
    s1.reach s1.cur ((here s1).reg a) (storeAsk n)
      (((here s1).reg a).lo + off.signExtend 64 * BitVec.ofNat 64 n) = .ok p → p.own = false →
    read r s1 = .ok (q, t) → (tagged = true → stcTrap ((here s1).reg a) q p s1.cur.sl = none) → Ordered t o → (here s1).ordScope o = (here t).ordScope o → (here t).usc < 1024 →
    (here t).settled.advance i.size = .ok x →
    ∃ u m, exec i s = .next u ∧ u.stores = t.stores ++ [m] ∧ m.ctx = s.cur ∧ m.tag = (here t).phaseTag ∧ m.loc = p.loc ∧
      m.bytes = bytesLE n (if tagged = true then q.bits.toNat else q.lo.toNat) ∧ (m.setTag = true ↔ tagged = true ∧ q.tag ≠ 0) ∧
      m.dest = p.loc.dest ∧ m.phase = .flying ∧
      (here u).count (here t).phaseTag = (here t).count (here t).phaseTag + 1 ∧ (here u).pcc = x.pcc ∧
      SameMemory (Safety.Marked t p) u

/-- R76, R103 to R105, R127, R139, R145, R146 and R339: an access that leaves the core is sent, and waits for its reply; a store
that leaves it retires at once and counts. -/
def Obligations.OffCoreForms : Prop :=
  Safety.OffCoreAccess ∧ Safety.RemoteStoreIssue

/-! Control transfer. -/
namespace Sys2Proof.Safety

/-- A branch (R228, R41): what it reads, its test, and its offset from the PC. -/
def branchForm (i : Instr) : Option (List RegCode × (List W64 → Bool) × W64) :=
  let test : (Int → Int → Bool) → Bool → List W64 → Bool := fun f signed vs => match vs with
    | [x, y] => if signed then f x.toInt y.toInt else f x.toNat y.toNat
    | _ => false
  match i with
  | .beq a b off => some ([a, b], test (fun x y => decide (x = y)) false, 2 * off.signExtend 64)
  | .bne a b off => some ([a, b], test (fun x y => decide (x ≠ y)) false, 2 * off.signExtend 64)
  | .blt a b off => some ([a, b], test (fun x y => decide (x < y)) true, 2 * off.signExtend 64)
  | .bge a b off => some ([a, b], test (fun x y => decide (y ≤ x)) true, 2 * off.signExtend 64)
  | .bltn a b off => some ([a, b], test (fun x y => decide (x < y)) false, 2 * off.signExtend 64)
  | .bgen a b off => some ([a, b], test (fun x y => decide (y ≤ x)) false, 2 * off.signExtend 64)
  | .bnz d k => some ([d], fun vs => decide (vs ≠ [0]), 0 - 2 * (k.setWidth 64 + 1))
  | _ => none

/-- What a jump that completed leaves: the code capability, the registers and the memory of `w`, and its cost. -/
def Jumped (w u : State) (pcc : Reg) : Prop :=
  u.cur = w.cur ∧ (here u).pcc = pcc ∧ (here u).g = (here w).g ∧ (here u).loopb = (here w).loopb ∧
    (here u).loope = (here w).loope ∧ SameMemory w u ∧ (u.core u.cur.core).nextIssue = u.cycle + 2

end Sys2Proof.Safety

/-- R228, R229 and R65: a branch whose test holds goes to its target, which ends the loop where it lies outside the body,
and writes no register; a target that is not representable traps CAP_BOUNDS instead; a branch whose test fails goes on in
sequence. -/
def Obligations.BranchResult : Prop :=
  ∀ (i : Instr) (rs : List RegCode) (test : List W64 → Bool) (off : W64) (s s1 t : State) (vs : List Reg),
    branchForm i = some (rs, test, off) → Starts i .transfer rs rs s s1 → takeAll rs s1 = .ok (vs, t) →
    let target := (here t).pc + off
    (test (lows vs) = true → representable (here t).pcc target = true →
      ∃ u, exec i s = .next u ∧ Jumped t u ((here t).pcc.withCursor target) ∧
        (here u).loopc = (if target.toNat < (here t).loopb.toNat ∨ (here t).loope.toNat < target.toNat then 0
          else (here t).loopc)) ∧
    (test (lows vs) = true → representable (here t).pcc target = false →
      exec i s = .next (s1.takeTrap s.cur ⟨.capBounds, target, 0, false⟩)) ∧
    (∀ x, test (lows vs) = false → (here t).settled.advance i.size = .ok x →
      ∃ u, exec i s = .next u ∧ (here u).pcc = x.pcc ∧ (here u).loopc = x.loopc ∧ (here u).g = (here t).g ∧ SameMemory t u)

/-- R229, R230 and R43: JAL and JALR write the link, the code capability behind the instruction, and go to their target;
through a capability, JALR and RET replace the code capability by it. -/
def Sys2Proof.Safety.JumpResult : Prop :=
  (∀ (d : RegCode) (off : BitVec 19) (s s1 w : State),
    Starts (.jal d off) .transfer [] [d] s s1 →
    let target := (here s).pc + 2 * off.signExtend 64
    representable (here s).pcc target = true →
    write (Instr.word (.jal d off)) d ((here s).pcc.withCursor ((here s).pc + 4)) s = .ok ((), w) →
    ∃ u, exec (.jal d off) s = .next u ∧ Jumped w u ((here w).pcc.withCursor target)) ∧
  (∀ (d a : RegCode) (k : BitVec 13) (s s1 t w : State) (r : Reg),
    Starts (.jalr d a k) .transfer [a] [d, a] s s1 → read a s1 = .ok (r, t) →
    let target := r.lo + k.signExtend 64
    let cap := if r.tag = 1 then r else (here t).pcc
    (r.tag = 0 ∨ r.tag = 1 ∧ lacks r permX = false) → representable cap target = true → target.toNat % 2 = 0 →
    write (Instr.word (.jalr d a k)) d ((here t).pcc.withCursor ((here t).pc + 4)) t = .ok ((), w) →
    ∃ u, exec (.jalr d a k) s = .next u ∧ Jumped w u (cap.withCursor target)) ∧
  (∀ (s s1 : State),
    Starts .ret .transfer [] [] s s1 →
    let r := (here s).reg 1
    let cap := if r.tag = 1 then r else (here s).pcc
    (r.tag = 0 ∨ r.tag = 1 ∧ lacks r permX = false) → representable cap r.lo = true → r.lo.toNat % 2 = 0 →
    ∃ u, exec .ret s = .next u ∧ Jumped s u (cap.withCursor r.lo))

/-- The cause of a jump through a register `r` to a target, where the code capability is `pcc` (R230, R37). -/
def Sys2Proof.Safety.JumpCause (r pcc : Reg) (target : W64) (e : Cause) : Prop :=
  let cap := if r.tag = 1 then r else pcc
  let passes := r.tag = 0 ∨ r.tag = 1 ∧ lacks r permX = false
  e = .capTag ∧ r.tag = 2 ∨ e = .capSealed ∧ r.tag = 3 ∨ e = .capPerm ∧ r.tag = 1 ∧ lacks r permX = true ∨
    e = .capBounds ∧ passes ∧ representable cap target = false ∨
    e = .align ∧ passes ∧ representable cap target = true ∧ target.toNat % 2 = 1

/-- R229 and R230: JALR and RET through a handle, a sealed capability, a capability without X, to a target that is not
representable or odd, and JAL to a target that is not representable, trap with that target and leave the link unwritten. -/
def Sys2Proof.Safety.JumpTraps : Prop :=
  (∀ (d : RegCode) (off : BitVec 19) (s s1 : State),
    Starts (.jal d off) .transfer [] [d] s s1 →
    let target := (here s).pc + 2 * off.signExtend 64
    representable (here s).pcc target = false →
    exec (.jal d off) s = .next (s1.takeTrap s.cur ⟨.capBounds, target, 0, false⟩)) ∧
  (∀ (d a : RegCode) (k : BitVec 13) (s s1 t : State) (r : Reg) (e : Cause),
    Starts (.jalr d a k) .transfer [a] [d, a] s s1 → read a s1 = .ok (r, t) →
    let target := r.lo + k.signExtend 64
    Safety.JumpCause r (here t).pcc target e →
    exec (.jalr d a k) s = .next (s1.takeTrap s.cur ⟨e, target, 0, false⟩)) ∧
  (∀ (s s1 : State) (e : Cause),
    Starts .ret .transfer [] [] s s1 →
    let r := (here s).reg 1
    Safety.JumpCause r (here s).pcc r.lo e →
    exec .ret s = .next (s1.takeTrap s.cur ⟨e, r.lo, 0, false⟩))

/-- R43, R229 and R230: JAL, JALR and RET go to their target, or trap. -/
def Obligations.JumpForms : Prop :=
  Safety.JumpResult ∧ Safety.JumpTraps

/-- R60, R64 and R65: LOOP notes its body and its count, or skips the body where the count is 0; REP sets its count, or
skips the next instruction; a LOOP inside a loop is refused, and so is a count of REP beyond 65,535. -/
def Sys2Proof.Safety.LoopResult : Prop :=
  (∀ (a : RegCode) (half : BitVec 11) (s s1 t : State) (n : W64),
    Starts (.loop a half) .closes [a] [a] s s1 → readData a s1 = .ok (n, t) →
    let body := (here t).pc + 4
    let last := (here t).pc + 2 * half.setWidth 64
    ((here t).loopc ≠ 0 →
      exec (.loop a half) s = .next (s1.takeTrap s.cur ⟨.illegalInstruction, Instr.word (.loop a half), 0, false⟩)) ∧
    ((here t).loopc = 0 → n ≠ 0 →
      ∃ u, exec (.loop a half) s = .next u ∧ (here u).loopb = body ∧ (here u).loope = last ∧ (here u).loopc = n ∧
        (here u).pcc = (here t).pcc.withCursor body ∧ (here u).g = (here t).g ∧ SameMemory t u) ∧
    (∀ h, (here t).loopc = 0 → n = 0 → t.fetchHalf t.cur last = .ok h →
      ∃ u, exec (.loop a half) s = .next u ∧ (here u).loopb = body ∧ (here u).loope = last ∧ (here u).loopc = 0 ∧
        (here u).pcc = (here t).pcc.withCursor (last + if h % 2 = 0 then 2 else 4) ∧ (here u).g = (here t).g ∧
        SameMemory t u)) ∧
  (∀ (a : RegCode) (mask : BitVec 4) (k : BitVec 13) (s s1 t : State) (n : W64) (h : Nat),
    Starts (.rep a mask k) .transfer [a] [a] s s1 → readData a s1 = .ok (n, t) →
    let next := (here t).pc + 4
    t.fetchHalf t.cur next = .ok h →
    (∀ y, n = 0 → (here t).closeLoop next (next + if h % 2 = 0 then 2 else 4) = .ok y →
      ∃ u, exec (.rep a mask k) s = .next u ∧ (here u).pcc = y.pcc ∧ (here u).loopc = y.loopc ∧ (here u).repc = (here t).repc ∧
        (here u).g = (here t).g ∧ SameMemory t u) ∧
    (∀ g, n ≠ 0 → (h % 2 = 1 → t.fetchHalf t.cur (next + 2) = .ok g) →
      let w := h + (if h % 2 = 0 then 0 else g) * 2 ^ 16
      repeatable w = true → maskOk w mask.toNat = true →
      (65535 < n.toNat → exec (.rep a mask k) s = .next (s1.takeTrap s.cur ⟨.repRange, n, 0, false⟩)) ∧
      (n.toNat ≤ 65535 →
        (∀ f ∈ maskFields w mask.toNat, fld w f.1 f.2 ≤ 31 ∧ 0 ≤ (fld w f.1 f.2 : Int) + (n.toNat - 1 : Int) * k.toInt ∧
          (fld w f.1 f.2 : Int) + (n.toNat - 1 : Int) * k.toInt ≤ 31) →
        ∃ u, exec (.rep a mask k) s = .next u ∧ (here u).repc.toNat = n.toNat ∧ (here u).repi = 0 ∧
          (here u).rep = some ⟨w, mask, k⟩ ∧ (here u).pcc = (here t).pcc ∧ (here u).g = (here t).g ∧ SameMemory t u)))

/-- R60, R62, R64 and R36: where an instruction that completes without a transfer leaves its context: at the next
repetition; at the start of the body, or behind it after the last round; or behind the instruction. -/
def Sys2Proof.Safety.SequenceRules : Prop :=
  ∀ (x : Ctx) (n : Nat),
    (1 < x.repc.toNat → x.advance n = .ok { x with repc := x.repc - 1, repi := x.repi + 1 }) ∧
    (x.repc = 0 → (x.loopc = 0 ∨ x.pc ≠ x.loope) → x.advance n = .ok (x.setPc (x.pc + BitVec.ofNat 64 n))) ∧
    (x.repc = 0 → x.loopc = 1 → x.pc = x.loope →
      x.advance n = .ok ({ x with loopc := 0 }.setPc (x.pc + BitVec.ofNat 64 n))) ∧
    (x.repc = 0 → 1 < x.loopc.toNat → x.pc = x.loope → x.loopb.toNat % 2 = 0 → representable x.pcc x.loopb = true →
      x.advance n = .ok ({ x with loopc := x.loopc - 1 }.setPc x.loopb)) ∧
    (x.repc = 1 → (x.loopc = 0 ∨ x.pc + 4 ≠ x.loope) →
      x.advance n = .ok ({ x with repc := 0, repi := 0, rep := none }.setPc (x.pc + 4 + BitVec.ofNat 64 n)))

/-- R36, R60, R62, R64 and R65: LOOP and REP, and where an instruction that completes leaves its context. -/
def Obligations.LoopForms : Prop :=
  Safety.LoopResult ∧ Safety.SequenceRules

/-! Queues, rings and ports. -/
namespace Sys2Proof.Safety

/-- A QCTL member (R193, R194) that neither traps nor waits: the register it writes, if any, the result, and its context before
the result is written. Words delivered in the same cycle are not seen (R188). -/
def queueForm (i : Instr) (s : State) : Option (Option RegCode × W64 × Ctx) :=
  let x := here s
  let seen : Ring → BitVec 32 := fun r => if r.inAt = s.cycle then r.tail - BitVec.ofNat 32 r.inN else r.tail
  let low : GReg → Nat := fun r => ((x.reg r).lo).toNat
  match i with
  | .qcfg d a =>
    let depth : Fin 8 → Nat := fun q => low a / 2 ^ (8 * q.val) % 256
    if ([0, 1, 2, 3, 4, 5, 6, 7] : List (Fin 8)).all (fun q => decide (depth q ≤ 16)) then
      some (some d, 0, ([0, 1, 2, 3, 4, 5, 6, 7] : List (Fin 8)).foldl (fun y q => y.setQueue q ⟨depth q, []⟩) x)
    else some (some d, 1, x)
  | .qclr d a =>
    let named := ([0, 1, 2, 3, 4, 5, 6, 7] : List (Fin 8)).filter (fun q => low a / 2 ^ q.val % 2 == 1)
    some (some d, BitVec.ofNat 64 ((named.map (fun q => (x.queue q).items.length)).sum),
      named.foldl (fun y q => y.setQueue q ⟨(y.queue q).depth, []⟩) x)
  | .qcnt d a =>
    let q := x.queue ⟨low a % 8, Nat.mod_lt _ (by decide)⟩
    some (some d, BitVec.ofNat 64 (q.depth * 2 ^ 8 + q.items.length), x)
  | .rbind d a b =>
    let k : Fin 4 := ⟨low b % 4, Nat.mod_lt _ (by decide)⟩
    let r := x.ring k
    let cap := x.reg a
    let len := capTop cap - capBase cap
    let log := Nat.log2 (len / 8)
    if a = 0 then
      some (some d, if r.bound then BitVec.ofNat 64 ((r.tail - r.head).toNat) else 0, (x.setRing k Ring.unbound).unbindPorts k)
    else if r.bound then some (some d, 1, x)
    else if firstFail (s.live (dieOf s.cur.core)) false cap cap.lo len [permL, permS] = none ∧ cap.lo.toNat = capBase cap ∧
        len = 8 * 2 ^ log ∧ 3 ≤ log ∧ log ≤ 12 ∧ cap.lo.toNat % 8 = 0 ∧ cap.lo.toNat + len ≤ (s.slot s.cur.sl).bind.size then
      some (some d, 0, x.setRing k ⟨true, 0, 0, BitVec.ofNat 4 log, BitVec.ofNat 18 cap.lo.toNat, 0, 0, 0, 0⟩)
    else none
  | .pbind m a b =>
    let k : Fin 4 := ⟨low a % 4, Nat.mod_lt _ (by decide)⟩
    if (x.ring k).bound = true ∧ (ringAddr (x.reg b).lo).isSome = true then
      some (none, 0, x.setPort m ⟨true, k, (x.reg b).lo, (x.port m).latch⟩)
    else none
  | .punbind m => some (none, 0, x.setPort m ⟨false, 0, 0, []⟩)
  | .rpoll d a =>
    let r := x.ring ⟨low a % 4, Nat.mod_lt _ (by decide)⟩
    if r.bound then some (some d, BitVec.ofNat 64 (r.head.toNat * 2 ^ 32 + (seen r).toNat), x) else none
  | .radv d a b =>
    let k : Fin 4 := ⟨low b % 4, Nat.mod_lt _ (by decide)⟩
    let r := x.ring k
    let n := low a % 2 ^ 32
    if r.bound = false then none
    else if n ≤ (seen r - r.head).toNat then some (some d, 0, x.setRing k { r with
      head := r.head + BitVec.ofNat 32 n, outAt := s.cycle, outN := (if r.outAt = s.cycle then r.outN else 0) + n })
    else some (some d, 1, x)
  | .recv d a k =>
    let r := x.ring k
    if r.bound = true ∧ (seen r).toNat ≠ low a % 2 ^ 32 then some (some d, (seen r).setWidth 64, x) else none
  | _ => none

/-- A form that names a ring and finds it unbound, or a ring address that R186 refuses (R193 to R195). -/
def ringRefused (i : Instr) (x : Ctx) : Bool :=
  let at_ : GReg → Bool := fun r => !(x.ring ⟨((x.reg r).lo).toNat % 4, Nat.mod_lt _ (by decide)⟩).bound
  match i with
  | .pbind _ a b => at_ a || (ringAddr (x.reg b).lo).isNone
  | .rpoll _ a => at_ a
  | .radv _ _ b => at_ b
  | .recv _ _ k => !(x.ring k).bound
  | _ => false

end Sys2Proof.Safety

/-- R193 to R195: every QCTL member, and RECV where the tail has moved, completes with its result and with its effect on the
queues, rings and ports of its context. -/
def Sys2Proof.Safety.QueueControl : Prop :=
  ∀ (i : Instr) (d : Option RegCode) (r : W64) (y : Ctx) (names : List RegCode) (s s1 u v : State),
    queueForm i s = some (d, r, y) → names = .q 0 :: d.toList → Starts i .closes [] names s s1 →
    (match d with
      | some c => write (Instr.word i) c (Reg.data r) (s.setCtx s.cur y)
      | none => .ok ((), s.setCtx s.cur y)) = .ok ((), u) →
    GoesOn i u v → exec i s = .next v

/-- R193 to R195 and R184: a form that names an unbound ring traps ILLEGAL_OPERAND with the instruction word, and has no effect;
RECV whose tail has not moved waits. -/
def Sys2Proof.Safety.RingRefusals : Prop :=
  (∀ (i : Instr) (s : State), ringRefused i (here s) = true → (here s).depth = 0 → (here s).loopTrap (Instr.word i) .closes = none →
    exec i s = .next (s.takeTrap s.cur ⟨.illegalOperand, Instr.word i, 0, false⟩)) ∧
  (∀ (d : RegCode) (a : GReg) (k : Fin 4) (s : State), (here s).depth = 0 →
    (here s).loopTrap (Instr.word (.recv d a k)) .closes = none → ((here s).ring k).bound = true →
    ((here s).ring k).seenTail s.cycle = ((here s).reg a).lo.setWidth 32 →
    exec (.recv d a k) s = .next (s.modCtx s.cur (fun x => { x with
      status := .waiting (.ring k (((here s).ring k).seenTail s.cycle)) })))

/-- R193 to R195: every QCTL member, and RECV, completes with its result, or traps or waits. -/
def Obligations.RingForms : Prop :=
  Safety.QueueControl ∧ Safety.RingRefusals

/-- R187, R189, R190 and R196: SEND completes with 0 where the word stands in the destination ring, whose tail has moved on
by one; with 1 where it went to the overflow ring; with 2 where it was discarded. The word is counted until it is
acknowledged (R104). Its frame, where it crosses the Lay, has arrived (R99). -/
def Sys2Proof.Safety.SendResult : Prop :=
  ∀ (d : RegCode) (a : GReg) (b : RegCode) (s s1 t m u v : State) (w : W64) (n : Nat) (r : RingAddr),
    Starts (.send d a b) .closes [b] [d, b] s s1 → readData b s1 = .ok (w, t) →
    ringAddr ((here s1).reg a).lo = some r → (here t).counted < 1024 → t.storesTo s.cur r.core.val = false →
    t.postsTo s.cur r.core.val = false →
    let q := ((here t).sendingTo ((here s1).reg a).lo).back t.cycle
    t.arrived s.cur r q = true →
    (n = 0 ∧ t.sendWord s.cur.sl r w q.divert (here t).place = .delivered m ∨
      n = 1 ∧ t.sendWord s.cur.sl r w q.divert (here t).place = .diverted m ∨
      n = 2 ∧ t.sendWord s.cur.sl r w q.divert (here t).place = .discarded m) →
    write (Instr.word (.send d a b)) d (Reg.data (BitVec.ofNat 64 n)) (m.countSend s.cur r.core.val) = .ok ((), u) →
    GoesOn (.send d a b) u v →
    exec (.send d a b) s = .next v

namespace Sys2Proof.Safety

/-- The ring that an address names takes the word that a slot's tenant sends (R187 to R190), with the result of SEND (R196): 2 where
no slot of the tenant is there, or the ring is unbound; 1 where the word goes to the overflow ring, because words of the ring
stand there or the sender has waited 4,096 cycles, and a place is free there; 0 where it is written in the ring. -/
def RingTakes (s : State) (from_ : SlotId) (r : RingAddr) (late : Bool) (n : Nat) : Prop :=
  (s.tenantSlot (s.partOf from_) r.core from_.slot = none ∧ n = 2) ∨
  ∃ t, s.tenantSlot (s.partOf from_) r.core from_.slot = some t ∧ s.present (s.partOf from_) t = true ∧
    let k := (s.ctx ⟨t.core, t.slot, r.ctx⟩).ring r.ring
    let waits := (s.slot t).ovfFor r.ctx r.ring ≠ []
    (k.bound = false ∧ n = 2) ∨
    (k.bound = true ∧ (late = true ∨ waits) ∧ (s.slot t).portOvf.length + s.keptPlaces t < 4096 ∧ n = 1) ∨
    (k.bound = true ∧ late = false ∧ ¬ waits ∧ k.room s.cycle = true ∧ n = 0)

end Sys2Proof.Safety

/-- R104, R187, R189, R190 and R196: SEND of a general register completes, with its result in a general register, where
fewer than 1,024 stores and words of the context are unacknowledged, no store or event post of it to that core is on its way, its
frame has crossed the Lay and the ring takes the word. -/
def Sys2Proof.Safety.SendCompletes : Prop :=
  ∀ (d a b : GReg) (s : State) (r : RingAddr) (n : Nat),
    (here s).loopTrap (Instr.word (.send (.g d) a (.g b))) .closes = none → ringAddr ((here s).reg a).lo = some r →
    (here s).counted < 1024 → s.storesTo s.cur r.core.val = false → s.postsTo s.cur r.core.val = false →
    let q := ((here s).sendingTo ((here s).reg a).lo).back s.cycle
    s.arrived s.cur r q = true → Safety.RingTakes s s.cur.sl r q.divert n →
    (∃ x, (here s).settled.advance 4 = .ok x) →
    ∃ v, exec (.send (.g d) a (.g b)) s = .next v ∧ (d ≠ 0 → (here v).reg d = Reg.data (BitVec.ofNat 64 n)) ∧
      (here v).counted = (here s).counted + 1

/-- R187 to R190: what becomes of a word sent: with no slot, or an unbound ring, it is discarded; where the ring has room
and the overflow ring holds none of its words, it is written at the tail, modulo the size, in the ring's region, and the
tail moves on by 1; where the ring is full, the words consumed in the same cycle counted with it, it is refused; a word that
is diverted is appended to the overflow ring, whose 16 bytes lie in the save area, where a place is free there. Which places are
free is the model's choice (assumption log 8). -/
def Sys2Proof.Safety.RingDelivery : Prop :=
  ∀ (s : State) (from_ : SlotId) (a : RingAddr) (w : W64) (t : SlotId) (place : Option SlotId),
    (s.tenantSlot (s.partOf from_) a.core from_.slot = none → s.sendWord from_ a w false place = .discarded s) ∧
    (s.tenantSlot (s.partOf from_) a.core from_.slot = some t → s.present (s.partOf from_) t = true →
      let c : CtxId := ⟨t.core, t.slot, a.ctx⟩
      let r := (s.ctx c).ring a.ring
      let l := s.slotLoc t (r.base.toNat + 8 * (r.tail.toNat % 2 ^ r.log.toNat))
      let taken := (r.tail - r.head).toNat + (if r.outAt = s.cycle then r.outN else 0)
      (r.bound = false → ∀ late, ∃ m, s.sendWord from_ a w late place = .discarded m ∧
        (m.ctx c).drops.toNat = min 255 ((s.ctx c).drops.toNat + 1) ∧ ∀ p, m.byteAt p = s.byteAt p) ∧
      (r.bound = true → (s.slot t).ovfFor a.ctx a.ring = [] → taken < 2 ^ r.log.toNat →
        ∃ m, s.sendWord from_ a w false place = .delivered m ∧ ((m.ctx c).ring a.ring).tail = r.tail + 1 ∧
          ((m.ctx c).ring a.ring).head = r.head ∧ ∀ p, m.byteAt p = (s.poke l (bytesLE 8 w.toNat)).byteAt p) ∧
      (r.bound = true → (s.slot t).ovfFor a.ctx a.ring = [] → 2 ^ r.log.toNat ≤ taken →
        s.sendWord from_ a w false place = .full) ∧
      (r.bound = true → (s.slot t).portOvf.length + s.keptPlaces t < 4096 → Canonical s →
        ∃ m, s.sendWord from_ a w true place = .diverted m ∧
          (m.slot t).portOvf = (s.slot t).portOvf ++ [(a.ctx, a.ring, w)] ∧
          ∀ p, (∀ i < 16, p ≠ (Loc.hbm ((s.slot t).bind.save.toNat + 0x30000 + 16 * ((s.slot t).ovfAt % 4096))).place i) →
            m.byteAt p = s.byteAt p) ∧
      (r.bound = true → place ≠ some t → 4096 ≤ (s.slot t).portOvf.length → s.sendWord from_ a w true place = .deadlock))

/-- R104, R187 to R190 and R196: SEND, and what becomes of a word that is sent. -/
def Obligations.SendForms : Prop :=
  Safety.SendResult ∧ Safety.SendCompletes ∧ Safety.RingDelivery

/-! Handles. -/
namespace Sys2Proof.Safety

/-- HWAIT, HWAIT.C and HTEST (R169, R43): destination and handle register. -/
def waitForm (i : Instr) : Option (RegCode × GReg) :=
  match i with
  | .hwait d a => some (d, a)
  | .hwaitC d => some (.g d, d)
  | .htest d a => some (d, a)
  | _ => none

/-- HTEST, which does not wait. -/
def isTest (i : Instr) : Bool :=
  match i with
  | .htest _ _ => true
  | _ => false

/-- What a destination is named as, beside what is read: HWAIT.C names g registers only. -/
def waitNames (i : Instr) (d : RegCode) : List RegCode :=
  match i with
  | .hwaitC _ => []
  | _ => [d]

/-- A current handle of the domain of the context (R159, R161, R162): the context and the slot that it names. -/
def Names (s : State) (r : Reg) (o : CtxId) (h : Fin 16) : Prop :=
  r.tag = 2 ∧ o.core = s.cur.core ∧ o.slot = s.cur.slot ∧ ((s.ctx o).hslot h).dom = (here s).dom ∧
    ((s.ctx o).hslot h).state ≠ .free ∧
    r.lo.toNat = s.cur.core.val * 2 ^ 26 + s.cur.slot.val * 2 ^ 24 + o.ctx.val * 2 ^ 20 + h.val * 2 ^ 16 +
      ((s.ctx o).hslot h).serial.toNat

end Sys2Proof.Safety

/-- R169, R170 and R137: HWAIT and HTEST of an operation that has resolved give its result word and consume the slot; where
an error result traps, or a weight-store write was refused, they have completed before the trap is taken. -/
def Sys2Proof.Safety.HandleResult : Prop :=
  ∀ (i : Instr) (d : RegCode) (a : GReg) (o : CtxId) (h : Fin 16) (s s1 u : State),
    waitForm i = some (d, a) → Starts i .closes [] (waitNames i d) s s1 → Names s ((here s).reg a) o h →
    let q := (s.ctx o).hslot h
    q.state ≠ .pending →
    write (Instr.word i) d (Reg.data q.result) (s.modCtx o (fun x => x.setHslot h { q with state := .consumed })) = .ok ((), u) →
    (∀ v, q.denied = none → ((here u).htrapEn = false ∨ q.result.getLsbD 15 = false) → GoesOn i u v → exec i s = .next v) ∧
    (∀ x, (here u).settled.advance i.size = .ok x → (here u).depth = 0 →
      (q.denied = none → (here u).htrapEn = true → q.result.getLsbD 15 = true →
        exec i s = .next ((u.setCtx u.cur x).takeTrap u.cur ⟨.handleError, q.result, 0, false⟩)) ∧
      (∀ dva, q.denied = some dva →
        exec i s = .next ((u.setCtx u.cur x).takeTrap u.cur ⟨.wsWriteDenied, dva, 0, false⟩)))

/-- R161 and R169: a stale handle gives 0x8003 to HWAIT and HTEST, and 0 to HCANCEL; a pending operation gives −1 to HTEST,
keeps HWAIT waiting, and is asked to stop by HCANCEL, which gives 1; one that is not pending gives HCANCEL 0. -/
def Sys2Proof.Safety.HandleStates : Prop :=
  (∀ (i : Instr) (d : RegCode) (a : GReg) (n : Nat) (s s1 u v : State),
    (waitForm i = some (d, a) ∧ n = 0x8003 ∧ (here u).htrapEn = false ∨ i = .hcancel d a ∧ n = 0) →
    Starts i .closes [] (waitNames i d) s s1 → lookHandle ((here s).reg a) s = .ok (none, s) →
    write (Instr.word i) d (Reg.data (BitVec.ofNat 64 n)) s = .ok ((), u) → GoesOn i u v → exec i s = .next v) ∧
  (∀ (d : RegCode) (a : GReg) (o : CtxId) (h : Fin 16) (s s1 u v : State),
    Starts (.htest d a) .closes [] [d] s s1 → Names s ((here s).reg a) o h → ((s.ctx o).hslot h).state = .pending →
    write (Instr.word (.htest d a)) d (Reg.data (BitVec.allOnes 64)) s = .ok ((), u) → GoesOn (.htest d a) u v →
    exec (.htest d a) s = .next v) ∧
  (∀ (i : Instr) (d : RegCode) (a : GReg) (o : CtxId) (h : Fin 16) (s s1 : State),
    waitForm i = some (d, a) → isTest i = false → Starts i .closes [] (waitNames i d) s s1 →
    Names s ((here s).reg a) o h → ((s.ctx o).hslot h).state = .pending →
    exec i s = .next (s.modCtx s.cur (fun x => { x with status := .waiting (.handle o.ctx h) }))) ∧
  (∀ (d : RegCode) (a : GReg) (o : CtxId) (h : Fin 16) (s s1 u v : State),
    Starts (.hcancel d a) .closes [] [d] s s1 → Names s ((here s).reg a) o h →
    let q := (s.ctx o).hslot h
    let p : Bool := decide (q.state = .pending)
    write (Instr.word (.hcancel d a)) d (Reg.data (if p then 1 else 0))
      (if p then s.modCtx o (fun x => x.setHslot h { q with cancel := true }) else s) = .ok ((), u) →
    GoesOn (.hcancel d a) u v → exec (.hcancel d a) s = .next v)

/-- R137, R161, R169 and R170: HWAIT, HTEST and HCANCEL, in every state of a handle. -/
def Obligations.HandleForms : Prop :=
  Safety.HandleResult ∧ Safety.HandleStates

/-- R160: which handle slot an allocation takes: the lowest FREE one; else the lowest CONSUMED one; else, outside every
callee, the RESOLVED one that resolved first; where all are PENDING the instruction waits. -/
def Obligations.HandleAllocation : Prop :=
  ∀ (x : Ctx) (h : Fin 16),
    ((x.hslot h).state = .free → (∀ k < h, (x.hslot k).state ≠ .free) → x.pickSlot = .ok h) ∧
    ((∀ k, (x.hslot k).state ≠ .free) → (x.hslot h).state = .consumed → (∀ k < h, (x.hslot k).state ≠ .consumed) →
      x.pickSlot = .ok h) ∧
    ((∀ k, (x.hslot k).state ≠ .free ∧ (x.hslot k).state ≠ .consumed) → x.depth = 0 → (x.hslot h).state = .resolved →
      (∀ k, k ≠ h → (x.hslot k).state = .resolved → (x.hslot h).order < (x.hslot k).order) → x.pickSlot = .ok h) ∧
    ((∀ k, (x.hslot k).state = .pending) → x.depth = 0 → x.pickSlot = .error (.wait .handleSlot))

/-! Ordering, domains, contexts and hanks. -/

/-- R333: FENCE completes without effect where nothing that it selects is outstanding, and waits otherwise: SL or SS on stores,
posts and sends within its scope, LB or a scope from CLU on loop-back accesses, RS on the unacknowledged count, ENG on engine
operations. One with LB, or from CLU, orders the aliases of the context's own slot as well (R70). -/
def Sys2Proof.Safety.FenceResult : Prop :=
  ∀ (sc : Scope) (kinds : BitVec 4) (lb rs eng : Bool) (s : State),
    Starts (.fence sc kinds lb rs eng) .closes [] [] s s →
    let st : Prop := kinds.getLsbD 2 = true ∨ kinds.getLsbD 3 = true
    let blocked : Prop := st ∧ s.pendingIn s.cur sc = true ∨ (lb = true ∨ 2 ≤ sc.code) ∧ s.pendingLoop s.cur = true ∨
      rs = true ∧ (here s).usc ≠ 0 ∨ eng = true ∧ s.opsOf s.cur = true
    (∀ v, ¬ blocked → GoesOn (.fence sc kinds lb rs eng) (if lb = true ∨ 2 ≤ sc.code then s.joinAliases s.cur else s) v →
      exec (.fence sc kinds lb rs eng) s = .next v) ∧
    (blocked →
      let w : Wait := .fence sc (kinds.getLsbD 2 || kinds.getLsbD 3) (kinds.getLsbD 0 || kinds.getLsbD 1) lb rs eng
      exec (.fence sc kinds lb rs eng) s = .next (s.modCtx s.cur (fun x => { x with status := .waiting w })))

/-- R334, R335 and R160: PHASE arrives at the phase of its domain and waits for it; PHASEA allocates a handle, arrives and
goes on. The arrival raises the member's phase number by 1, and then completes each phase that it completes. -/
def Sys2Proof.Safety.PhaseResult : Prop :=
  (∀ (n : Fin 6) (s : State),
    Starts (.phase n) .closes [] [] s s →
    let d := (here s).domReg n.val
    d.valid = true → (here s).depth = 0 → s.domNext (s.partOf s.cur.sl) d = d.phase →
    exec (.phase n) s = .next (((((s.modCtx s.cur (fun x => x.setDomReg n.val { d with phase := d.phase + 1 })).waitOn s.cur
      (.phase n d.phase)).phaseSweep (s.partOf s.cur.sl) s.cur.slot d 2)).modCtx s.cur Ctx.settled)) ∧
  (∀ (d : GReg) (n : Fin 6) (h : Fin 16) (s v : State),
    Starts (.phasea d n) .closes [] [] s s →
    let dom := (here s).domReg n.val
    let part := s.partOf s.cur.sl
    dom.valid = true → (here s).depth = 0 → (here s).pickSlot = .ok h → s.domNext part dom = dom.phase →
    let k := (here s).hserial
    let s1 := s.modCtx s.cur (fun x =>
      { x.setHslot h ⟨.pending, k, 0, false, x.dom, x.depth, 0, none, false⟩ with hserial := k + 1 })
    let s2 := s1.modCtx s.cur (fun x => x.setDomReg n.val { dom with phase := dom.phase + 1 })
    let s3 : State := { s2 with doms := s2.doms.map (fun y =>
      if y.isFor part dom then { y with handles := y.handles ++ [(s.cur, h, k, dom.phase)] } else y) }
    GoesOn (.phasea d n) ((s3.modCtx s.cur (fun x => x.setReg d (handleReg s.cur h k))).phaseSweep part s.cur.slot dom 2) v →
    exec (.phasea d n) s = .next v)

/-- R107 and R335: a phase is complete when every live member has arrived at it and the counts of its tag are 0 in every
member whose DSEL names the domain; a member that is evicted counts as well; the first phase of a domain that is complete
closes; and a handle of PHASEA that is pending resolves then with status 0 and the phase as PROGRESS. -/
def Sys2Proof.Safety.PhaseCompletion : Prop :=
  ∀ (s : State) (part : Fin 64) (slot : Fin 4) (d : DomReg) (p : BitVec 32),
    let done : Ctx → Prop := fun x =>
      (∃ e, x.dmFor d = some e ∧ (e.phase - p).toNat ≠ 0 ∧ (e.phase - p).toNat < 2 ^ 31) ∧
        ((x.domReg x.dsel.toNat).same d = true → x.count ⟨p.toNat % 4, Nat.mod_lt _ (by decide)⟩ = 0)
    (s.phaseMet part slot d p = true ↔
      (∀ c ∈ s.liveMembers part slot d, done (s.ctx c)) ∧ ∀ x ∈ s.awayMembers part slot d, done x) ∧
    ((∀ c ∈ s.liveMembers part slot d, ¬ done (s.ctx c)) → s.liveMembers part slot d ≠ [] → p = s.domNext part d →
      ∀ f, s.phaseSweep part slot d f = s) ∧
    (p = s.domNext part d → d.valid = true → (∃ y ∈ s.doms, y.isFor part d = true) →
      (∃ c ∈ s.liveMembers part slot d, done (s.ctx c)) → s.phaseMet part slot d p = true →
      ∀ f, s.phaseSweep part slot d (f + 1) = (s.closePhase part slot d p).phaseSweep part slot d f) ∧
    (∀ (c : CtxId) (h : Fin 16), s.slotHeld c.sl = true → s.partOf c.sl = part → ((s.ctx c).hslot h).state = .pending →
      (∃ y ∈ s.doms, y.isFor part d = true ∧ (c, h, ((s.ctx c).hslot h).serial, p) ∈ y.handles) →
      (∀ k ∈ s.liveMembers part slot d, ∀ n, (s.ctx k).status ≠ .waiting (.phase n p)) →
      let q := ((s.closePhase part slot d p).ctx c).hslot h
      q.state = .resolved ∧ q.result = BitVec.ofNat 64 (p.toNat * 2 ^ 16) ∧ q.denied = none)

/-- R351 to R354: DMSET waits for the old domain's phase, installs the new one, with phase number 0, and gives the old
value; with g0 it empties the register; DMGET gives the phase number, the rank of its core and the number of member cores.
-/
def Sys2Proof.Safety.DomainRegisters : Prop :=
  (∀ (d : RegCode) (a : GReg) (b : RegCode) (s s1 t0 t u v : State) (n : Fin 6) (new : DomReg),
    Starts (.dmset d a b) .closes [b] [d, b] s s1 → readData b s1 = .ok (BitVec.ofNat 64 n.val, t0) → (here s1).depth = 0 →
    (if a = 0 then .ok (DomReg.none, t0) else readDomain ((here s1).reg a) t0) = .ok (new, t) →
    let old := (here s1).domReg n.val
    (old.valid = true → t.domNext (t.partOf s.cur.sl) old = old.phase) →
    write (Instr.word (.dmset d a b)) d
      (Reg.data (if old.valid = true then BitVec.ofNat 64 (old.key.toNat * 2 ^ 48 + 2 ^ 31 + old.level.toNat * 2 ^ 24 + old.cmask.toNat) else 0))
      (t.installDom s.cur n new) = .ok ((), u) →
    GoesOn (.dmset d a b) u v → exec (.dmset d a b) s = .next v) ∧
  (∀ (cap : Reg) (s t : State) (new : DomReg), readDomain cap s = .ok (new, t) → new.phase = 0 ∧ new.valid = true ∧ SameMemory s t ∧ t.ctxs = s.ctxs) ∧
  (∀ (d a : RegCode) (s s1 t u v : State) (n : Fin 6),
    Starts (.dmget d a) .closes [a] [d, a] s s1 → readData a s1 = .ok (BitVec.ofNat 64 n.val, t) →
    let e := (here t).domReg n.val
    let cores := t.memberCores (t.partOf s.cur.sl) e
    e.valid = true → (here t).depth = 0 →
    write (Instr.word (.dmget d a)) d (Reg.data (BitVec.ofNat 64
      (e.phase.toNat * 2 ^ 32 + (cores.countP (fun k => decide (k < s.cur.core.val))) * 2 ^ 13 + cores.length))) t = .ok ((), u) →
    GoesOn (.dmget d a) u v → exec (.dmget d a) s = .next v)

/-- R107, R333 to R335 and R351 to R354: FENCE, PHASE, PHASEA, DMSET and DMGET, and when a phase is complete. -/
def Obligations.OrderForms : Prop :=
  Safety.FenceResult ∧ Safety.PhaseResult ∧ Safety.PhaseCompletion ∧ Safety.DomainRegisters

namespace Sys2Proof.Safety

/-- An instruction that completes with no effect in the state it finds (R43, R344, R349), and the context as it leaves it. -/
def idleForm (i : Instr) : Option (Ctx → Ctx) :=
  match i with
  | .nop => some id
  | .unfollow => some id
  | .yield_ => some (fun x => { x with status := if x.attached then .following true else .ready })
  | .yieldC => some (fun x => { x with status := if x.attached then .following true else .ready })
  | _ => none

/-- EXIT and EXIT.C. -/
def isExit (i : Instr) : Bool :=
  match i with
  | .exit => true
  | .exitC => true
  | _ => false

end Sys2Proof.Safety

/-- R345: START starts the lowest free helper: its code capability is the entry, g4 the argument with its tag, g3 the
issuer's, every other register data 0; it takes the issuer's FRM, seed, DSCOPE, PHTAG, HTRAP and TVEC and is READY; START
gives its number, or −1 where no helper is free. -/
def Obligations.StartResult : Prop :=
  ∀ (d : RegCode) (a : GReg) (b : RegCode) (s s1 t u v : State) (arg : Reg),
    Starts (.start d a b) .closes [b] [d, b] s s1 → read b s1 = .ok (arg, t) → s.cur.ctx = 0 → (here s1).depth = 0 →
    let e := (here s1).reg a
    e.tag = 1 → lacks e permX = false → e.lo.toNat % 2 = 0 → t.releaseBlocked s.cur .core = false →
    GoesOn (.start d a b) u v →
    (t.freeHelper s.cur.sl = none →
      write (Instr.word (.start d a b)) d (Reg.data (BitVec.allOnes 64)) t = .ok ((), u) → exec (.start d a b) s = .next v) ∧
    (∀ h, t.freeHelper s.cur.sl = some h →
      let k : CtxId := ⟨s.cur.core, s.cur.slot, h⟩
      let w := (((t.joinersOf k).dropImage k).modCtx k (fun x => x.started (here t) h e arg)).joinDoms k
      (write (Instr.word (.start d a b)) d (Reg.data (BitVec.ofNat 64 h.val)) w = .ok ((), u) → exec (.start d a b) s = .next v) ∧
      (w.ctx k).status = .ready ∧ (w.ctx k).pcc = e ∧ (w.ctx k).reg 4 = arg ∧ (w.ctx k).reg 3 = (here t).reg 3 ∧
      (∀ r, r ≠ 3 → r ≠ 4 → (w.ctx k).reg r = Reg.zero) ∧ (∀ q, (w.ctx k).queue q = ⟨0, []⟩) ∧
      (w.ctx k).fflags = 0 ∧ (w.ctx k).srseq = 0 ∧ (w.ctx k).usc = 0 ∧ (w.ctx k).loopc = 0 ∧ (w.ctx k).repc = 0 ∧
      (w.ctx k).belays = 0 ∧ (w.ctx k).frm = (here t).frm ∧ (w.ctx k).srseed = (here t).srseed ∧
      (w.ctx k).dscope = (here t).dscope ∧ (w.ctx k).dsel = (here t).dsel ∧ (w.ctx k).htrapEn = (here t).htrapEn ∧
      (w.ctx k).tvec = (here t).tvec)

/-- R346 and R337: EXIT frees its context where nothing of it is outstanding and, for context 0, no helper is live; it then
completes the barriers that waited for it. -/
def Sys2Proof.Safety.ExitResult : Prop :=
  ∀ (i : Instr) (s : State), isExit i = true → Starts i .closes [] [] s s → (here s).depth = 0 →
    (s.cur.ctx = 0 → s.helpersLive s.cur.sl = false) → s.fenceBlocked s.cur .sys true true true false = false →
    let u := s.modCtx s.cur (fun x => { x.ended with exited := true })
    exec i s = .next ((u.barrierSweep s.cur.sl).modCtx s.cur Ctx.settled) ∧
      (here u).status = .free ∧ (here u).hslots = (here s).hslots ∧ (here u).rings = (here s).rings ∧ (here u).ports = (here s).ports

/-- R347 and R348: JOIN completes where the context it names is free, and waits where it is live; BARC arrives at a barrier that
names
its own context, and completes every barrier of the slot whose contexts all wait or are not live. -/
def Sys2Proof.Safety.JoinBarrier : Prop :=
  (∀ (a : RegCode) (k : Fin 11) (s s1 t : State),
    Starts (.join a) .closes [a] [a] s s1 → readData a s1 = .ok (BitVec.ofNat 64 k.val, t) → k ≠ 0 → k ≠ s.cur.ctx →
    ((t.ctx ⟨s.cur.core, s.cur.slot, k⟩).status = .free → ∀ v, GoesOn (.join a) t v → exec (.join a) s = .next v) ∧
    ((t.ctx ⟨s.cur.core, s.cur.slot, k⟩).status ≠ .free →
      exec (.join a) s = .next (s.modCtx s.cur (fun x => { x with status := .waiting (.join k a) })))) ∧
  (∀ (a : RegCode) (m : BitVec 11) (s s1 t : State),
    Starts (.barc a) .closes [a] [a] s s1 → readData a s1 = .ok (m.setWidth 64, t) → m.getLsbD s.cur.ctx.val = true →
    t.releaseBlocked s.cur .core = false →
    exec (.barc a) s = .next (((t.waitOn s.cur (.barrier m)).barrierSweep s.cur.sl).modCtx s.cur Ctx.settled)) ∧
  (∀ (s : State) (sl : SlotId) (m : BitVec 11), s.barrierMet sl m = true ↔
    ∀ i : Fin 11, m.getLsbD i.val = true →
      (s.ctx ⟨sl.core, sl.slot, i⟩).status = .free ∨ ∃ e, (s.ctx ⟨sl.core, sl.slot, i⟩).status = .waiting (.barrier e))

/-- R343, R344, R349, R350 and R43: NOP, UNFOLLOW and YIELD go on, YIELD in state READY; HELPERS gives the live contexts of
the slot; FOLLOW makes a follower wait for its leader, and attaches to a leader each follower that waits, at the leader's
next instruction; PARK goes on with the word where it is not the expected one, and parks where it is. -/
def Sys2Proof.Safety.ContextControl : Prop :=
  (∀ (i : Instr) (f : Ctx → Ctx) (s v : State), idleForm i = some f → Starts i .closes [] [] s s →
    GoesOn i (s.modCtx s.cur f) v → exec i s = .next v) ∧
  (∀ (d : RegCode) (s u v : State) (w : W64), Starts (.helpers d) .closes [] [d] s s →
    (∀ k : Nat, w.getLsbD k = true ↔ ∃ i : Fin 11, i.val = k ∧ (s.ctx ⟨s.cur.core, s.cur.slot, i⟩).status ≠ .free) →
    write (Instr.word (.helpers d)) d (Reg.data w) s = .ok ((), u) → GoesOn (.helpers d) u v →
    exec (.helpers d) s = .next v) ∧
  (∀ (s v : State), Starts .follow .closes [] [] s s → s.cur.ctx = 0 → (here s).depth = 0 →
    (s.cur.core.val % 8 ≠ 0 → (here s).attached = false → (s.leaderOf s.cur).isSome = true →
      GoesOn .follow (s.modCtx s.cur (fun x => { x with status := .following false })) v → exec .follow s = .next v) ∧
    (∀ y, s.cur.core.val % 8 = 0 → (here s).advance 4 = .ok y →
      GoesOn .follow ((s.waitingFollowers s.cur).foldl (fun t f => t.modCtx f (fun z => z.attach y.pc)) s) v →
      exec .follow s = .next v)) ∧
  (∀ (d : RegCode) (a : GReg) (b : RegCode) (s s1 t : State) (e : W64) (p : Spot),
    Starts (.park d a b) .closes [b] [d, b] s s1 → readData b s1 = .ok (e, t) → (here t).remote = none →
    t.reach s.cur ((here s1).reg a) (loadAsk 8) ((here s1).reg a).lo = .ok p → p.own = true →
    let w := BitVec.ofNat 64 (t.readNat p.loc 8)
    (∀ u v, w ≠ e → write (Instr.word (.park d a b)) d (Reg.data w) t = .ok ((), u) → GoesOn (.park d a b) u v →
      exec (.park d a b) s = .next v) ∧
    (w = e → ∃ u m, exec (.park d a b) s = .next u ∧ (here u).status = .parked m ∧ m.loc = p.loc ∧ m.size = 8 ∧
      (here u).pcc = (here s).pcc ∧ SameMemory s u))

/-- R43, R337, R343, R344 and R346 to R350: EXIT, JOIN, BARC, NOP, UNFOLLOW, YIELD, HELPERS, FOLLOW and PARK. -/
def Obligations.ContextForms : Prop :=
  Safety.ExitResult ∧ Safety.JoinBarrier ∧ Safety.ContextControl

/-- R355 to R359: FETCHT of an armed hank gives the next tile, of an exhausted one −1 and 0, and on an idle one waits its turn;
TDCFG with g0 makes a hank idle; TDSTAT gives the state, the requests that wait and the tiles handed out. -/
def Sys2Proof.Safety.HankResult : Prop :=
  (∀ (d : GReg) (a : RegCode) (s s1 t : State) (h : Fin 4),
    Starts (.fetcht d a) .closes [a] [a] s s1 → readData a s1 = .ok (BitVec.ofNat 64 h.val, t) →
    let n := clusterOf s.cur.core
    let k := (t.cluster n).hank h
    grants (t.cluster n).hkgrant h.val (t.partOf s.cur.sl) = true →
    (∀ v, k.state ≠ .idle →
      GoesOn (.fetcht d a) ((t.setCluster n ((t.cluster n).setHank h k.serve.2)).modCtx s.cur (fun x => x.takeTile d k.serve.1)) v →
      exec (.fetcht d a) s = .next v) ∧
    (k.state = .idle → ∃ u, exec (.fetcht d a) s = .next u ∧ (here u).status = .waiting (.hank h) ∧
      ((u.cluster n).hank h).waiters = k.waiters.filter (fun x => x.ctx != s.cur || x.away.isSome) ++ [⟨s.cur, d, a, none⟩] ∧
      (here u).g = (here t).g)) ∧
  (∀ (d : RegCode) (a : GReg) (b : RegCode) (s s1 t u v : State) (h : Fin 4) (p : Spot),
    Starts (.tdcfg d a b) .closes [b] [d, b] s s1 → readData b s1 = .ok (BitVec.ofNat 64 h.val, t) →
    let n := clusterOf s.cur.core
    let iw := Instr.word (.tdcfg d a b)
    grants (t.cluster n).hkgrant h.val (t.partOf s.cur.sl) = true → t.releaseBlocked s.cur .clu = false →
    GoesOn (.tdcfg d a b) u v →
    (a = 0 →
      write iw d (Reg.data 0) (t.modCluster n (fun c => c.setHank h { Hank.idle with waiters := (c.hank h).waiters })) = .ok ((), u) →
      exec (.tdcfg d a b) s = .next v) ∧
    (a ≠ 0 → t.reachRecord s.cur ((here s1).reg a) (loadAsk 16) ((here s1).reg a).lo = .ok p →
      let m := t.cacheHost p.loc 16 false
      let half : Nat → Nat := fun j => t.readNat (p.loc.plus (2 * j)) 2
      let k : Hank := ⟨.armed, [half 0, half 1, half 2, half 3], [half 4, half 5, half 6, half 7], 0, ((t.cluster n).hank h).left⟩
      ((k.tile.contains 0 = true ∨ 2 ^ 32 ≤ k.total) → write iw d (Reg.data 1) m = .ok ((), u) →
        exec (.tdcfg d a b) s = .next v) ∧
      (k.tile.contains 0 = false → k.total < 2 ^ 32 →
        write iw d (Reg.data 0) ((m.modCluster n (fun c => c.setHank h { k with state := if k.total = 0 then .exhausted else .armed })).serveHank
          n h ((t.cluster n).hank h).waiters) = .ok ((), u) →
        exec (.tdcfg d a b) s = .next v))) ∧
  (∀ (d a : RegCode) (s s1 t u v : State) (x : W64),
    Starts (.tdstat d a) .closes [a] [d, a] s s1 → readData a s1 = .ok (x, t) →
    let n := clusterOf s.cur.core
    let h : Fin 4 := ⟨x.toNat % 4, Nat.mod_lt _ (by decide)⟩
    let k := (t.cluster n).hank h
    grants (t.cluster n).hkgrant h.val (t.partOf s.cur.sl) = true →
    write (Instr.word (.tdstat d a)) d (Reg.data (BitVec.ofNat 64
      ((match k.state with
        | .idle => 0
        | .armed => 1
        | .exhausted => 2) * 2 ^ 40 +
       min (k.waiters.countP (fun c => c.away.isSome || decide ((t.ctx c.ctx).status = .waiting (.hank h)))) 255 * 2 ^ 32 +
       k.issued % 2 ^ 32))) t = .ok ((), u) →
    GoesOn (.tdstat d a) u v → exec (.tdstat d a) s = .next v)

/-- R356: the tiles of a hank cover its extents: the j-th request of an armed hank, for j below the number of tiles, gives
the tile with the coordinates of j, dimension 0 fastest: each origin is a multiple of the tile's size, and each tile is cut
at the extent. -/
def Sys2Proof.Safety.HankTiles : Prop :=
  ∀ (e0 e1 e2 e3 t0 t1 t2 t3 j : Nat), 0 < t0 → 0 < t1 → 0 < t2 → 0 < t3 →
    let c := fun e t : Nat => (e + t - 1) / t
    let k : Hank := ⟨.armed, [e0, e1, e2, e3], [t0, t1, t2, t3], j, []⟩
    let o0 := j % c e0 t0 * t0
    let o1 := j / c e0 t0 % c e1 t1 * t1
    let o2 := j / (c e0 t0 * c e1 t1) % c e2 t2 * t2
    let o3 := j / (c e0 t0 * c e1 t1 * c e2 t2) % c e3 t3 * t3
    k.total = c e0 t0 * c e1 t1 * c e2 t2 * c e3 t3 ∧
    (j < k.total →
      k.serve.1 = (pack16 [o0, o1, o2, o3], pack16 [min t0 (e0 - o0), min t1 (e1 - o1), min t2 (e2 - o2), min t3 (e3 - o3)]) ∧
      o0 < e0 ∧ o1 < e1 ∧ o2 < e2 ∧ o3 < e3 ∧ k.serve.2.issued = j + 1 ∧
      (k.serve.2.state = .exhausted ↔ j + 1 = k.total))

/-- R355 to R359: FETCHT, TDCFG and TDSTAT; and the tiles of a hank cover its extents. -/
def Obligations.HankForms : Prop :=
  Safety.HankResult ∧ Safety.HankTiles

/-! Gates. -/
namespace Sys2Proof.Safety

/-- GCALL may enter the domain of a gate (R390): the gate capability, its live domain, the stack's depth, the record at its
cursor and its checks, and for another tenant's gate the export and the grant. -/
structure MayEnter (s : State) (gc : Reg) (p : Spot) : Prop where
  sealed  : gc.tag = 3 ∧ gc.otype = 1
  live    : s.live (dieOf s.cur.core) gc.owner = true
  nest    : (here s).depth = 0 ∨ (here s).creason = 0 ∧ ∃ b, (here s).bights.head? = some b ∧ b.nest = true
  room    : (here s).depth < 16
  record  : s.reachRecord s.cur gc gateAsk gc.lo = .ok p
  good    : (s.gateRec p.loc p.tags).ok gc.owner = true
  granted : s.domPart (dieOf s.cur.core) gc.owner ≠ some (s.partOf s.cur.sl) →
    (s.gateRec p.loc p.tags).xport = true ∧ s.granted (s.partOf s.cur.sl) gc = true

/-- What GRET restores of a context from its top bight (R391, R444), but g11. -/
def Restored (x y : Ctx) (b : Bight) (rest : List Bight) : Prop :=
  x.bights = b :: rest ∧ y.bights = rest ∧ y.pcc = b.ret ∧ y.dom = b.caller ∧
    (∀ p ∈ savedRegs.zip b.regs, y.reg p.1 = p.2) ∧ y.tvec = b.tvec ∧ y.frm = b.frm ∧ y.fflags = b.fflags ∧
    y.dscope = b.dscope ∧ y.htrapEn = b.htrap ∧ y.tstat.inh = b.inh ∧ y.tstat.suph = b.suph ∧ y.srseed = b.srseed ∧
    y.srseq = b.srseq ∧ y.loopc = b.loopc ∧ y.loopb = b.loopb ∧ y.loope = b.loope

end Sys2Proof.Safety

/-- R390, R378 and R444: GCALL pushes a bight with the caller's registers and state, and enters the callee at ENTRY with g1 the
return capability, g2 STACK and g3 DATA; g4 up to the last argument pass as they are, and every other register is data 0. The
record has been read: the context was switched out for it, as for an off-core load, when it first came to GCALL (R339). -/
def Sys2Proof.Safety.GateCall : Prop :=
  ∀ (a : GReg) (s : State) (p : Spot),
    Starts (.gcall a) .transfer [] [] s s → MayEnter s ((here s).reg a) p → (here s).resident < 4 →
    ((here s).reading ≠ some (here s).pc →
      exec (.gcall a) s = .next (s.modCtx s.cur (fun x => { x with reading := some x.pc, status := .waiting .record }))) ∧
    ((here s).reading = some (here s).pc →
    let gc := (here s).reg a
    let g := s.gateRec p.loc p.tags
    let x := here s
    ∃ u b, exec (.gcall a) s = .next u ∧ SameMemory s u ∧
      (here u).bights = b :: x.bights ∧ b.ret = x.pcc.withCursor (x.pc + 4) ∧ b.regs = savedRegs.map x.reg ∧ b.gate = gc ∧
      b.tvec = x.tvec ∧ b.caller = x.dom ∧ b.callee = gc.owner ∧ b.frm = x.frm ∧ b.fflags = x.fflags ∧ b.dscope = x.dscope ∧
      b.htrap = x.htrapEn ∧ b.inh = x.tstat.inh ∧ b.suph = x.tstat.suph ∧ b.srseed = x.srseed ∧ b.srseq = x.srseq ∧
      b.loopc = x.loopc ∧ b.loopb = x.loopb ∧ b.loope = x.loope ∧ b.serial = x.serial + 1 ∧
      b.deadline = (if g.limit = 0 then BitVec.allOnes 64 else BitVec.ofNat 64 (x.charged + g.limit)) ∧
      (here u).serial = x.serial + 1 ∧ (here u).dom = gc.owner ∧ (here u).pcc = g.entry ∧ (here u).tvec = g.vector ∧
      (here u).frm = 0 ∧ (here u).fflags = 0 ∧ (here u).dscope = 4 ∧ (here u).htrapEn = false ∧ (here u).loopc = 0 ∧
      (here u).tstat.suph = false ∧ (here u).tstat.inh = x.tstat.inh ∧ (here u).srseed = x.srseed ∧ (here u).srseq = x.srseq ∧
      ((here u).reg 1).tag = 3 ∧ ((here u).reg 1).otype = 2 ∧ ((here u).reg 1).owner = gc.owner ∧
      ((here u).reg 1).lo.extractLsb' 16 48 = x.serial + 1 ∧ (((here u).reg 1).lo.extractLsb' 0 5).toNat = x.depth + 1 ∧
      (here u).reg 2 = g.stack ∧ (here u).reg 3 = g.data ∧
      (∀ r : GReg, 4 ≤ r.val → r.val < 4 + g.args → r.val ≤ 11 → (here u).reg r = x.reg r) ∧
      (∀ r : GReg, (4 + g.args ≤ r.val ∨ 12 ≤ r.val) → (here u).reg r = Reg.zero))

/-- R390: the traps of GCALL, each with the cursor of the gate capability. -/
def Sys2Proof.Safety.GateCallTraps : Prop :=
  ∀ (a : GReg) (s : State) (e : Cause),
    Starts (.gcall a) .transfer [] [] s s →
    let gc := (here s).reg a
    let x := here s
    let live := s.live (dieOf s.cur.core) gc.owner
    (e = .capTag ∧ gc.tag ≠ 3 ∨
      e = .gateInvalid ∧ gc.tag = 3 ∧ gc.otype ≠ 1 ∨
      e = .capDomainDead ∧ gc.tag = 3 ∧ gc.otype = 1 ∧ live = false ∨
      e = .gateInvalid ∧ gc.tag = 3 ∧ gc.otype = 1 ∧ live = true ∧
        (x.creason ≠ 0 ∧ 0 < x.depth ∨ ∃ b, x.bights.head? = some b ∧ b.nest = false) ∨
      e = .gateDepth ∧ gc.tag = 3 ∧ gc.otype = 1 ∧ live = true ∧ x.creason = 0 ∧ x.depth = 16 ∧
        (∃ b, x.bights.head? = some b ∧ b.nest = true) ∨
      e = .gateInvalid ∧ ∃ p, ¬ MayEnter s gc p ∧ gc.tag = 3 ∧ gc.otype = 1 ∧ live = true ∧ x.depth = 0 ∧ x.reading = some x.pc ∧
        s.reachRecord s.cur gc gateAsk gc.lo = .ok p) →
    exec (.gcall a) s = .next (s.takeTrap s.cur ⟨e, gc.lo, 0, false⟩)

/-- R378, R390 and R444: GCALL enters its callee, or traps. -/
def Obligations.GateCallForms : Prop :=
  Safety.GateCall ∧ Safety.GateCallTraps

/-- R391, R392 and R385: GRET, GRETS and GCLEAN leave the frame: everything that the bight keeps has its value again; g11 is
0, the status of GRETS with bit 16 set, or for GCLEAN 0x8402 or 0x8403 with g10 the depth of the cleanup and g4 to g9 data
0. -/
def Obligations.GateReturn : Prop :=
  (∀ (i : Instr) (a : GReg) (bs : List RegCode) (st : W64) (s s1 t : State) (vs : List Reg) (b : Bight) (rest : List Bight),
    (i = .gret a ∧ bs = [] ∧ st = 0 ∨ ∃ c v, i = .grets a c ∧ bs = [c] ∧ vs = [v] ∧ st = 0x10000 + (v.lo &&& 0xFFFF)) →
    Starts i .transfer bs bs s s1 → takeAll bs s1 = .ok (vs, t) →
    let r := (here s1).reg a
    let x := here t
    x.bights = b :: rest → b.regs.length = savedRegs.length → 0 < x.resident → x.creason = 0 → t.busyAt s.cur x.depth = false →
    r.tag = 3 → r.otype = 2 → r.owner = x.dom → r.lo.extractLsb' 16 48 = b.serial → (r.lo.extractLsb' 0 5).toNat = x.depth →
    ∃ u, exec i s = .next u ∧ SameMemory t u ∧ Restored x (here u) b rest ∧ (here u).reg 11 = Reg.data st ∧
      (∀ q : GReg, 4 ≤ q.val → q.val ≤ 10 → (here u).reg q = x.reg q)) ∧
  (∀ (s : State) (b : Bight) (rest : List Bight),
    Starts .gclean .transfer [] [] s s →
    let x := here s
    x.bights = b :: rest → b.regs.length = savedRegs.length → 0 < x.resident → x.creason ≠ 0 → s.busyAt s.cur x.depth = false →
    s.live (dieOf s.cur.core) (x.domAt (x.depth - 1)) = true →
    ∃ u, exec .gclean s = .next u ∧ SameMemory s u ∧ Restored x (here u) b rest ∧ (here u).creason = 0 ∧
      (here u).reg 11 = Reg.data (if x.creason = 3 then 0x8403 else 0x8402) ∧
      (here u).reg 10 = Reg.data (x.cdepth.setWidth 64) ∧ (∀ q : GReg, 4 ≤ q.val → q.val ≤ 9 → (here u).reg q = Reg.zero))

/-- R393, R394 and R395: DSTAT gives a domain's id, its least depth on the stack and its live bit; DREVOKE gives 1 for a
domain that is not live, once no revocation of it is under way, and waits while one is; else it starts the revocation and
waits, and gives 0 once no die has it live; GMAKE seals a record that passes its checks: bounds of 64 bytes, the permissions
L, LC, M and G at most, type 1, tag 11. -/
def Obligations.GateAdministration : Prop :=
  (∀ (d : RegCode) (a : GReg) (s u v : State) (dom : BitVec 12),
    Starts (.dstat d a) .closes [] [d] s s →
    let r := (here s).reg a
    let at_ := (here s).depthOf dom
    (a = 0 ∧ dom = (here s).dom ∨ a ≠ 0 ∧ (r.tag = 1 ∨ r.tag = 3) ∧ dom = r.owner ∨
      a ≠ 0 ∧ r.tag = 0 ∧ r.lo = dom.setWidth 64 ∧
        ((∀ p, s.domPart (dieOf s.cur.core) dom = some p → p = s.partOf s.cur.sl) ∨ at_.isSome = true)) →
    write (Instr.word (.dstat d a)) d (Reg.data (BitVec.ofNat 64 (dom.toNat * 2 ^ 8 + at_.getD 0 * 2 ^ 2 +
      (if at_.isSome = true then 2 else 0) + (if s.live (dieOf s.cur.core) dom = true then 1 else 0)))) s = .ok ((), u) →
    GoesOn (.dstat d a) u v → exec (.dstat d a) s = .next v) ∧
  (∀ (d : RegCode) (a : GReg) (s u v : State),
    Starts (.drevoke d a) .closes [] [d] s s →
    let m := (here s).reg a
    let n := m.owner
    let manager := m.tag = 1 ∧ lacks m (permSE ||| permUS) = false ∧ capTop m = capBase m
    ((here s).revoke = false → manager → s.live (dieOf s.cur.core) n = false → n ∈ s.revoking →
      exec (.drevoke d a) s = .next (s.modCtx s.cur (fun x => { x with status := .waiting (.revoke n) }))) ∧
    ((here s).revoke = false → manager → s.live (dieOf s.cur.core) n = false → n ∉ s.revoking →
      write (Instr.word (.drevoke d a)) d (Reg.data 1) s = .ok ((), u) → GoesOn (.drevoke d a) u v →
      exec (.drevoke d a) s = .next v) ∧
    ((here s).revoke = false → manager → s.live (dieOf s.cur.core) n = true →
      s.fenceBlocked s.cur .dev true false false false = false →
      ∃ w, exec (.drevoke d a) s = .next w ∧ n ∈ w.revoking ∧ (here w).status = .waiting (.revoke n) ∧ (here w).revoke = true ∧
        (here w).pcc = (here s).pcc ∧ SameMemory s w) ∧
    ((here s).revoke = true → (∀ i, s.live i n = false) →
      write (Instr.word (.drevoke d a)) d (Reg.data 0) s = .ok ((), u) →
      GoesOn (.drevoke d a) (u.modCtx u.cur (fun x => { x with revoke := false })) v → exec (.drevoke d a) s = .next v)) ∧
  (∀ (d : RegCode) (a b : GReg) (s : State) (p : Spot) (e : Nat × Nat × Nat),
    Starts (.gmake d a b) .closes [] [d] s s →
    let m := (here s).reg a
    let r := (here s).reg b
    m.tag = 1 → lacks m (permSE ||| permUS) = false → capTop m = capBase m → s.live (dieOf s.cur.core) m.owner = true →
    r.tag = 1 → checkCap (s.live (dieOf s.cur.core)) r (permL ||| permLC) r.lo 64 = none → r.lo.toNat % 64 = 0 →
    r.owner = m.owner → s.reachRecord s.cur r (recordAsk 64) r.lo = .ok p → p.tags = true →
    (s.gateRec p.loc p.tags).ok m.owner = true → encodeBounds r.lo.toNat (r.lo.toNat + 64) = some e →
    let q := withOtype (withPerms (withBounds r e) (r.perms &&& (permL ||| permLC ||| permM ||| permG))) 1 3
    q.tag = 3 ∧ q.otype = 1 ∧ q.lo = r.lo ∧ q.owner = r.owner ∧ q.perms = r.perms &&& (permL ||| permLC ||| permM ||| permG) ∧
    capBase q = r.lo.toNat ∧ capTop q = r.lo.toNat + 64 ∧
    ∀ u v, write (Instr.word (.gmake d a b)) d q (s.cacheHost p.loc 64 false) = .ok ((), u) → GoesOn (.gmake d a b) u v → exec (.gmake d a b) s = .next v)

/-! Special registers. -/
namespace Sys2Proof.Safety

/-- The special registers that a task context may read, those that it may write, and those that a supervisor context may
read and write beside them (R233). -/
def taskReads (n : Nat) : Prop := n ≤ 0x01D ∨ n = 0x020 ∨ n = 0x022 ∨ n = 0x023 ∨ n = 0x040 ∨ 0x080 ≤ n ∧ n ≤ 0x0BF
/-- As `taskReads`, for writes. -/
def taskWrites (n : Nat) : Prop := 0x003 ≤ n ∧ n ≤ 0x00C ∨ n = 0x013 ∨ n = 0x014 ∨ 0x080 ≤ n ∧ n ≤ 0x0BF
/-- As `taskReads`, for the supervisor. -/
def supReads (n : Nat) : Prop := taskReads n ∨ n = 0x021 ∨ 0x100 ≤ n ∧ n ≤ 0x102 ∨ 0x104 ≤ n ∧ n ≤ 0x109
/-- As `taskWrites`, for the supervisor. -/
def supWrites (n : Nat) : Prop :=
  taskWrites n ∨ n = 0x020 ∨ n = 0x021 ∨ n = 0x023 ∨ 0x100 ≤ n ∧ n ≤ 0x102 ∨ n = 0x109

/-- An LSG register lies below the granule count of the slot (R122). -/
def Granule (s : State) (n : Nat) : Prop := 0x080 ≤ n → n ≤ 0x0BF → n - 0x080 < (s.slot s.cur.sl).bind.granules

/-- The mask of the bits that an SWR to a register keeps (R105, R170, R212, R226, R227, R236, R264, R268, R355, R380). -/
def sregMask (n : Nat) : W64 :=
  match n with
  | 0x003 => 0x7C7
  | 0x004 => 0x1F
  | 0x007 => 0x7
  | 0x009 => 0xFF
  | 0x014 => 0x1
  | 0x020 => 0x393F
  | 0x021 => 0xF
  | 0x109 => 0xFFFFFFFFFFFFE000
  | 0x203 => 0xBFBFBFBFBFBFBFBF
  | 0x204 => 0xBFBFBFBFBFBFBFBF
  | 0x205 => 0x00000000BFBFBFBF
  | _ => if 0x080 ≤ n ∧ n ≤ 0x0BF then 0xFF else BitVec.allOnes 64

end Sys2Proof.Safety

/-- R231, R232 and R399: SRD gives the value of a register that its context may read; TSTAT goes to a pair of registers, or
nowhere. -/
def Sys2Proof.Safety.SrdResult : Prop :=
  ∀ (d : RegCode) (n : BitVec 12) (s s1 u v : State),
    Starts (.srd d n) .closes [] [d] s s1 →
    (if s.isSup s.cur = true then supReads n.toNat else taskReads n.toNat) → Granule s n.toNat →
    write (Instr.word (.srd d n)) d (s.sreg s.cur n.toNat) s = .ok ((), u) →
    (n.toNat ≠ 0x00C → GoesOn (.srd d n) u v → exec (.srd d n) s = .next v) ∧
    (∀ k : GReg, n.toNat = 0x00C → d = .g k →
      GoesOn (.srd d n) (if k = 0 then u else u.modCtx u.cur (fun x => x.setReg (k + 1) ⟨(here s).tstat.high, 0⟩)) v →
      exec (.srd d n) s = .next v)

/-- R232, R237 and R399: SWR writes a register that its context may write, and gives the register's previous value as data, and
that of TSTAT with all its bits; of FFLAGS that before the flags of this cycle's resolutions. -/
def Sys2Proof.Safety.SwrResult : Prop :=
  (∀ (d : RegCode) (n : BitVec 12) (a : RegCode) (s s1 t m u v : State) (r : Reg),
    Starts (.swr d n a) .closes [a] [d, a] s s1 → n.toNat ≠ 0x00C →
    (if s.isSup s.cur = true then supWrites n.toNat else taskWrites n.toNat) → Granule s n.toNat →
    read a s1 = .ok (r, t) → sregWrite (Instr.word (.swr d n a)) s.cur n.toNat r t = .ok ((), m) →
    let old : W64 := if n.toNat = 0x004 then ((here t).flagsBefore t.cycle).setWidth 64 else (t.sreg s.cur n.toNat).lo
    write (Instr.word (.swr d n a)) d (Reg.data old) m = .ok ((), u) → GoesOn (.swr d n a) u v →
    exec (.swr d n a) s = .next v) ∧
  (∀ (k j : GReg) (s v : State),
    let i : Instr := .swr (.g k) 0x00C (.g j)
    Starts i .closes [.g j] [.g k, .g j] s s →
    let x := here s
    let lo := (x.reg j).bits
    let hi := (x.reg (j + 1)).bits
    let repc : BitVec 16 := lo.extractLsb' 48 16
    let repi : BitVec 16 := lo.extractLsb' 32 16
    repi.toNat + repc.toNat ≤ 65535 →
    let y : Ctx := { x with tstat := ⟨hi.extractLsb' 64 64, hi.extractLsb' 0 64, lo.extractLsb' 64 64, repc, repi,
      lo.extractLsb' 28 4, lo.getLsbD 27, x.tstat.suph, x.tstat.inh⟩ }
    GoesOn i (s.setCtx s.cur (if k = 0 then y else (y.setReg k ⟨x.tstat.low, 0⟩).setReg (k + 1) ⟨x.tstat.high, 0⟩)) v →
    exec i s = .next v)

/-- R231, R232 and R399: SRD gives a special register, and SWR writes one and gives its previous value. -/
def Obligations.SregForms : Prop :=
  Safety.SrdResult ∧ Safety.SwrResult

/-- R232, and the bit map of each register: what SWR has written, SRD gives again, but for the bits that the register does not
keep; a register that holds a capability keeps all of it, with its tag. The flags of this cycle's resolutions are in FFLAGS after
the write (R237). PHTAG keeps DSEL, and SLICE the slice length; a write of
ACCOWN clears its dirty bits (R268). -/
def Obligations.SwrReadsBack : Prop :=
  ∀ (w : W64) (n : Nat) (r : Reg) (s t : State), (supWrites n ∨ n = 0x200 ∨ n = 0x201 ∨ 0x203 ≤ n ∧ n ≤ 0x205) → n ≠ 0x00C →
    sregWrite w s.cur n r s = .ok ((), t) →
    (n = 0x008 ∨ 0x100 ≤ n ∧ n ≤ 0x102 → t.sreg s.cur n = r) ∧
    (n = 0x013 → (t.sreg s.cur n).lo &&& 0x7 = r.lo &&& 0x7) ∧
    (n = 0x023 → (t.sreg s.cur n).lo &&& 0xFFFFFFFF = r.lo &&& 0xFFFFFFFF) ∧
    (n = 0x004 → t.sreg s.cur n = Reg.data ((r.lo &&& sregMask n) ||| ((s.ctx s.cur).lateFlags s.cycle).setWidth 64)) ∧
    (n ≠ 0x008 ∧ (n < 0x100 ∨ 0x102 < n) → n ≠ 0x004 → n ≠ 0x013 → n ≠ 0x023 →
      t.sreg s.cur n = Reg.data (r.lo &&& sregMask n)) ∧
    SameMemory s t ∧ (∀ c q, (t.ctx c).reg q = (s.ctx c).reg q)

/-- R48, R122, R232 and R233: an SRD or SWR of a register to which its context has no right, or of an LSG register beyond the
granules of its slot, traps ILLEGAL_OPERAND with the instruction word before it reads anything. -/
def Obligations.SregPrivilege : Prop :=
  ∀ (d a : RegCode) (n : BitVec 12) (s : State), (here s).depth = 0 →
    ((here s).loopTrap (Instr.word (.srd d n)) .closes = none →
      (if s.isSup s.cur = true then ¬ supReads n.toNat else ¬ taskReads n.toNat) ∨ ¬ Granule s n.toNat →
      (n.toNat ≤ 0x01D ∨ n.toNat = 0x020 ∨ n.toNat = 0x021 ∨ n.toNat = 0x022 ∨ n.toNat = 0x023 ∨
        n.toNat = 0x040 ∨ 0x080 ≤ n.toNat ∧ n.toNat ≤ 0x0BF ∨ 0x100 ≤ n.toNat ∧ n.toNat ≤ 0x102 ∨
        0x104 ≤ n.toNat ∧ n.toNat ≤ 0x109 ∨ 0x200 ≤ n.toNat ∧ n.toNat ≤ 0x205) →
      exec (.srd d n) s = .next (s.takeTrap s.cur ⟨.illegalOperand, Instr.word (.srd d n), 0, false⟩)) ∧
    ((here s).loopTrap (Instr.word (.swr d n a)) .closes = none →
      (if s.isSup s.cur = true then ¬ supWrites n.toNat else ¬ taskWrites n.toNat) ∨ ¬ Granule s n.toNat →
      exec (.swr d n a) s = .next (s.takeTrap s.cur ⟨.illegalOperand, Instr.word (.swr d n a), 0, false⟩))

/-! Traps. -/
namespace Sys2Proof.Safety

/-- What trap entry saves of a context, and what it leaves alone (R402). -/
def SavedFor (x y : Ctx) (t : TrapInfo) : Prop :=
  y.tcause.toNat = t.cause.code ∧ y.tval = t.tval ∧ y.tpc = x.pc ∧ y.tcode = x.pcc ∧
    y.tstat.loope = x.loope ∧ y.tstat.loopb = x.loopb ∧ y.tstat.loopc = x.loopc ∧ y.tstat.repc = x.repc ∧
    y.tstat.repi = x.repi ∧ y.tstat.pfr.toNat = t.pfr % 16 ∧ y.tstat.uw = t.uw ∧ y.tstat.inh = true ∧
    y.loopc = 0 ∧ y.repc = 0 ∧ y.repi = 0 ∧ y.q = x.q ∧ y.rings = x.rings ∧ y.ports = x.ports ∧ y.frm = x.frm ∧
    y.fflags = x.fflags ∧ y.srseed = x.srseed ∧ y.srseq = x.srseq ∧ y.dscope = x.dscope ∧ y.tvec = x.tvec ∧
    y.bights = x.bights ∧ y.dom = x.dom ∧ y.hslots = x.hslots

/-- Nothing stands before the delivery of a trap (R401): the domain of the frame is live, no cleanup runs in it, and the context
is in no handler. -/
def Deliverable (s : State) (c : CtxId) : Prop :=
  s.live (dieOf c.core) ((s.ctx c).domAt (s.ctx c).depth) = true ∧ (s.ctx c).creason = 0 ∧ (s.ctx c).tstat.inh = false

/-- The causes that the tenant's supervisor handles (R401). -/
def forSupervisor (e : Cause) : Prop := e = .accNotOwned ∨ e = .dstackSpillFault

end Sys2Proof.Safety

/-- R397: the codes of the trap causes. -/
def Sys2Proof.Safety.TrapCodes : Prop :=
  ([.illegalInstruction, .illegalOperand, .repRange, .capTag, .capBounds, .capPerm, .capSealed, .capDomainDead, .align, .pageFault,
    .formatFault] : List Cause).map Cause.code = [1, 2, 3, 4, 5, 6, 7, 8, 9, 10, 11] ∧
  ([.fpTrap, .accNotOwned] : List Cause).map Cause.code = [13, 14] ∧
  ([.gateInvalid, .gateDepth, .dstackSpillFault, .portDeadlock, .wsWriteDenied, .shapeInvalid, .handleForeign, .breakpoint, .trapInstr,
    .queueEmpty, .queueFull, .doubleTrap, .machineCheck, .handleError] : List Cause).map Cause.code =
    [0x10, 0x11, 0x12, 0x13, 0x14, 0x15, 0x16, 0x17, 0x18, 0x19, 0x1A, 0x1B, 0x1C, 0x1D] ∧
  ∀ e f : Cause, e.code = f.code → e = f

/-- R401 and R402: a trap that nothing stands before is entered at TVEC where TVEC holds a capability: cause, value, PC, code
capability, loop and repeat state are saved, INH is set, and no register and no byte of memory changes. -/
def Sys2Proof.Safety.TrapEntry : Prop :=
  ∀ (s : State) (c : CtxId) (t : TrapInfo), Deliverable s c → ¬ forSupervisor t.cause → (s.ctx c).tvec.tag = 1 →
    let x := s.ctx c
    let u := s.takeTrap c t
    SavedFor x (u.ctx c) t ∧ (u.ctx c).pcc = x.tvec ∧ (u.ctx c).g = x.g ∧ (u.ctx c).tstat.suph = x.tstat.suph ∧ SameMemory s u ∧
    (∀ d, d ≠ c → u.ctx d = s.ctx d)

/-- R400, R401, R402 and R410: ACC_NOT_OWNED and DSTACK_SPILL_FAULT go to the supervisor where SVEC holds a capability, and
SSP covers the context's supervisor stack, a page of which is mapped: g2 and g3 are kept, hidden, g2 spans the stack with
its cursor at the top, g3 is SDD, and the context runs at SVEC with sup rights. -/
def Obligations.SupervisorEntry : Prop :=
  ∀ (s : State) (c : CtxId) (t : TrapInfo) (l : Leaf) (e : Nat × Nat × Nat), Deliverable s c → forSupervisor t.cause →
    let die := s.die (dieOf c.core)
    let part := (s.partOf c.sl).val
    let svec := Sparse.get Reg.zero die.svec part
    let ssp := Sparse.get Reg.zero die.ssp part
    let lo := 0x00FFFF0000000000 + 0x20000 * (4 * c.core.val + c.slot.val) + 8192 * c.ctx.val + 4096
    svec.tag = 1 → ssp.tag = 1 → capBase ssp ≤ lo → lo + 4096 ≤ capTop ssp →
    s.walk (s.slot c.sl).bind.ptroot (BitVec.ofNat 64 lo) = .ok l → encodeBounds lo (lo + 4096) = some e →
    let x := s.ctx c
    let u := s.takeTrap c t
    SavedFor x (u.ctx c) t ∧ (u.ctx c).pcc = svec ∧ (u.ctx c).hidden2 = x.reg 2 ∧ (u.ctx c).hidden3 = x.reg 3 ∧
    (u.ctx c).tstat.suph = true ∧ u.isSup c = true ∧
    ((u.ctx c).reg 2).lo.toNat = lo + 4096 ∧ ((u.ctx c).reg 2).perms = ssp.perms ∧ capBase ((u.ctx c).reg 2) = lo ∧
    capTop ((u.ctx c).reg 2) = lo + 4096 ∧ ((u.ctx c).reg 2).tag = 1 ∧ (u.ctx c).reg 3 = Sparse.get Reg.zero die.sdd part ∧
    (∀ r, r ≠ 2 → r ≠ 3 → (u.ctx c).reg r = x.reg r) ∧ SameMemory s u

/-- R361, R386, R388 and R401: the rows of delivery beside these, in a live domain and outside every cleanup. A trap in a handler,
or with no vector, pops the frame of a callee with 0x8404 in g11 and its depth in g10; outside every callee it ends the context with
DOUBLE_TRAP: at once, or when the pending engine operations, whose cancel is requested, have resolved. Where that is context 0, its
task is aborted with 0x8301 and the slot is unbound. -/
def Sys2Proof.Safety.TrapElsewhere : Prop :=
  ∀ (s : State) (c : CtxId) (t : TrapInfo),
    let x := s.ctx c
    let u := s.takeTrap c t
    s.live (dieOf c.core) (x.domAt x.depth) = true → x.creason = 0 →
    (x.tstat.inh = true ∨ x.tstat.inh = false ∧ ¬ forSupervisor t.cause ∧ x.tvec.tag ≠ 1 ∨
      x.tstat.inh = false ∧ forSupervisor t.cause ∧ (s.svec c).tag ≠ 1) →
    (∀ b rest, x.bights = b :: rest → b.regs.length = savedRegs.length → 0 < x.resident → s.busyAt c x.depth = false →
      Restored x (u.ctx c) b rest ∧ (u.ctx c).reg 11 = Reg.data 0x8404 ∧
        (u.ctx c).reg 10 = Reg.data (BitVec.ofNat 64 x.depth) ∧
        (∀ q : GReg, 4 ≤ q.val → q.val ≤ 9 → (u.ctx c).reg q = Reg.zero) ∧ SameMemory s u) ∧
    (x.depth = 0 → s.busy c = false → c.ctx ≠ 0 → (u.ctx c).status = .free) ∧
    (x.depth = 0 → s.busy c = true → (u.ctx c).status = .waiting .ending ∧
      ∀ h : Fin 16, ((u.ctx c).hslot h).cancel = true) ∧
    (x.depth = 0 → s.busy c = false → c.ctx = 0 → s.slotHeld c.sl = true → s.firmwareActs = true → ∀ k, s.taskOf c.sl = some k →
      (u.slot c.sl).phase = .unbound ∧ (∀ n : Fin 11, (u.ctx ⟨c.core, c.slot, n⟩).status = .free) ∧
      ∀ y ∈ (u.part (s.partOf c.sl)).tasks, y.order = k.order → y.state = .done ∧ y.status = 0x8301)

/-- R401, R385 and R386: a trap whose frame's domain is dead is not delivered: outside every callee its context ends; the frame
of a callee pops with 0x8401 in g11 and its depth in g10, as the unwind check pops it. A trap in a cleanup unwinds with 0x8406 in g11
and the depth that the cleanup was entered for in g10. -/
def Sys2Proof.Safety.TrapUnwound : Prop :=
  ∀ (s : State) (c : CtxId) (t : TrapInfo),
    let x := s.ctx c
    let u := s.takeTrap c t
    let live : Nat → Prop := fun j => s.live (dieOf c.core) (x.domAt j) = true
    (x.depth = 0 → ¬ live 0 → (u.ctx c).status = .free) ∧
    (∀ b rest, x.bights = b :: rest → b.regs.length = savedRegs.length → 0 < x.resident → s.busyAt c x.depth = false →
      (¬ live x.depth → (∀ j < x.depth, live j ∧ x.expired j = false) → x.closing = none →
        Restored x (u.ctx c) b rest ∧ (u.ctx c).reg 11 = Reg.data 0x8401 ∧
          (u.ctx c).reg 10 = Reg.data (BitVec.ofNat 64 x.depth) ∧
          (∀ q : GReg, 4 ≤ q.val → q.val ≤ 9 → (u.ctx c).reg q = Reg.zero) ∧ SameMemory s u) ∧
      (live x.depth → live (x.depth - 1) → x.creason ≠ 0 →
        Restored x (u.ctx c) b rest ∧ (u.ctx c).creason = 0 ∧ (u.ctx c).reg 11 = Reg.data 0x8406 ∧
          (u.ctx c).reg 10 = Reg.data (x.cdepth.setWidth 64) ∧
          (∀ q : GReg, 4 ≤ q.val → q.val ≤ 9 → (u.ctx c).reg q = Reg.zero) ∧ SameMemory s u))

/-- R385, R386, R388, R397, R401 and R402: the codes of the causes, the entry of a trap, and the other rows of delivery. -/
def Obligations.TrapDelivery : Prop :=
  Safety.TrapCodes ∧ Safety.TrapEntry ∧ Safety.TrapElsewhere ∧ Safety.TrapUnwound

/-- R406: TRAP and BKPT complete, and then trap at the next instruction, unless R385 has the frame unwind at that boundary. -/
def Sys2Proof.Safety.TrapInstructions : Prop :=
  (∀ (a : RegCode) (s s1 t : State) (v : W64) (x : Ctx),
    Starts (.trap a) .closes [a] [a] s s1 → readData a s1 = .ok (v, t) → (here t).settled.advance 4 = .ok x →
    (x.depth = 0 ∨ (t.setCtx s.cur x).unwind s.cur = .quiet) →
    exec (.trap a) s = .next ((t.setCtx s.cur x).takeTrap s.cur ⟨.trapInstr, v, 0, false⟩)) ∧
  (∀ (s : State) (x : Ctx),
    Starts .bkpt .closes [] [] s s → (here s).settled.advance 4 = .ok x →
    (x.depth = 0 ∨ (s.setCtx s.cur x).unwind s.cur = .quiet) →
    exec .bkpt s = .next ((s.setCtx s.cur x).takeTrap s.cur ⟨.breakpoint, 0, 0, false⟩))

/-- R407: ERET restores the loop and repeat state from TSTAT, g2 and g3 of a supervisor entry, and the code capability with its
cursor at TPC; INH and SUPH are clear; outside a handler it is illegal. -/
def Sys2Proof.Safety.EretResult : Prop :=
  ∀ (s : State), Starts .eret .transfer [] [] s s →
    let x := here s
    (x.tstat.inh = true → x.tpc.toNat % 2 = 0 → representable x.tcode x.tpc = true →
      ∃ u, exec .eret s = .next u ∧ SameMemory s u ∧
        (here u).pcc = x.tcode.withCursor x.tpc ∧ (here u).loopc = x.tstat.loopc ∧ (here u).loopb = x.tstat.loopb ∧
        (here u).loope = x.tstat.loope ∧ (here u).tstat.inh = false ∧ (here u).tstat.suph = false ∧
        (x.tstat.uw = false → (here u).repc = x.tstat.repc) ∧ (x.tstat.uw = true → (here u).repc = 0) ∧
        (x.tstat.uw = false → x.tstat.repc ≠ 0 → (here u).repi = x.tstat.repi) ∧
        (x.tstat.suph = true → (here u).reg 2 = x.hidden2 ∧ (here u).reg 3 = x.hidden3) ∧
        (∀ r, (x.tstat.suph = false ∨ r ≠ 2 ∧ r ≠ 3) → (here u).reg r = x.reg r) ∧
        (u.core s.cur.core).nextIssue = u.cycle + 4) ∧
    (x.tstat.inh = false → exec .eret s = .next (s.takeTrap s.cur ⟨.illegalInstruction, Instr.word .eret, 0, false⟩))

/-- R406 and R407: TRAP, BKPT and ERET. -/
def Obligations.TrapForms : Prop :=
  Safety.TrapInstructions ∧ Safety.EretResult

/-- R408 to R411: SYSCALL posts its request and waits, with g4 to g10 as they were; when the answer has come, and nothing
was staged, it puts the status into g4 and the value, where there is one, into g5, and goes on; a service that does not
exist answers 0x21. -/
def Sys2Proof.Safety.SyscallResult : Prop :=
  ∀ (s : State), Starts .syscall .closes [] [] s s →
    let x := here s
    (∀ r st v g u, x.sysreq = some r → r.answer = some (st, g) → r.staged = [] →
      u = s.modCtx s.cur (fun y => (match g with
        | some w => y.setReg 5 w
        | none => y).setReg 4 (Reg.data st)) →
      GoesOn .syscall u v → exec .syscall s = .next v) ∧
    (x.sysreq = none → s.releaseBlocked s.cur .sys = false →
      (∀ i : GReg, 5 ≤ i.val → i.val ≤ 10 → s.mustStage s.cur.sl (x.reg i) = false) →
      (isService (x.reg 4).lo.toNat = true → ∃ u r, exec .syscall s = .next u ∧ (here u).sysreq = some r ∧
        (here u).status = .waiting .syscall ∧ r.service = (x.reg 4).lo.setWidth 16 ∧ r.answer = none ∧
        r.args = ([5, 6, 7, 8, 9, 10] : List GReg).map (fun i => if (x.reg i).tag = 2 then ⟨(x.reg i).bits, 0⟩ else x.reg i) ∧
        (here u).pcc = x.pcc ∧ (here u).g = x.g ∧ SameMemory s u) ∧
      (∀ v, isService (x.reg 4).lo.toNat = false →
        GoesOn .syscall (s.modCtx s.cur (fun y => y.setReg 4 (Reg.data 0x21))) v → exec .syscall s = .next v))

/-- R363: LAUNCH appends the record of 128 bytes at its cursor to the tenant's device launch queue and gives 0; where the queue
holds
64 records, it gives 1 and appends nothing. -/
def Sys2Proof.Safety.LaunchResult : Prop :=
  ∀ (d : RegCode) (a : GReg) (s u v : State) (p : Spot),
    Starts (.launch d a) .closes [] [d] s s →
    s.reachRecord s.cur ((here s).reg a) ⟨[permL], .read, false, 128, 128, false⟩ ((here s).reg a).lo = .ok p →
    s.releaseBlocked s.cur .dev = false →
    let part := s.partOf s.cur.sl
    let full := 64 ≤ (s.part part).devQueue.length
    let m := s.cacheHost p.loc 128 false
    (full → write (Instr.word (.launch d a)) d (Reg.data 1) m = .ok ((), u) → GoesOn (.launch d a) u v →
      exec (.launch d a) s = .next v) ∧
    (¬ full → write (Instr.word (.launch d a)) d (Reg.data 0)
        (m.modPart part (fun q => { q with devQueue := q.devQueue ++ [s.readBytes p.loc 128] })) = .ok ((), u) →
      GoesOn (.launch d a) u v → exec (.launch d a) s = .next v)

/-! The weight store. -/

/-- R149 and R150: WSWIN gives, for a bank group named by its number or by a byte of the weight store, the cycles to the next
refresh
window, or minus those to the end of the current one; WSSTAT gives the stalls of the context, whether a copy that writes the
die's weight store is unresolved, and whether the store is open for the tenant. -/
def Sys2Proof.Safety.WeightStoreForms : Prop :=
  (∀ (d a : RegCode) (s s1 t u v : State) (r : Reg) (g : Nat) (n : W64),
    Starts (.wswin d a) .closes [a] [d, a] s s1 → read a s1 = .ok (r, t) →
    (r.tag = 0 ∧ g = r.lo.toNat % 8 ∨ r.tag = 1 ∧ ∃ p x die off, t.reach s.cur r (loadAsk 1) r.lo = .ok p ∧ p.xl = some x ∧ x.mt = 1 ∧
      p.loc = .weight die off ∧ g = (wsGroup off).val) →
    let x : Int := ((t.timeNs : Int) % 64000 - 8000 * g) % 64000
    let ns : Int := if x < 1600 then -(1600 - x) else 64000 - x
    n.toInt = (ns * t.clock.mhz).tdiv 1000 → t.clock.mhz ≤ 100000 →
    write (Instr.word (.wswin d a)) d (Reg.data n) t = .ok ((), u) → GoesOn (.wswin d a) u v → exec (.wswin d a) s = .next v) ∧
  (∀ (d a : RegCode) (s s1 t u v : State) (w : W64),
    Starts (.wsstat d a) .closes [a] [d, a] s s1 → readData a s1 = .ok (w, t) →
    let die : Fin 4 := ⟨w.toNat % 4, Nat.mod_lt _ (by decide)⟩
    let part := t.partOf s.cur.sl
    write (Instr.word (.wsstat d a)) d (Reg.data (BitVec.ofNat 64 ((Sparse.get 0 (here t).stalls die.val).toNat * 2 ^ 32 +
      (if t.copyingWeights part die = true then 2 else 0) + (if t.wsOpen part die = true then 1 else 0)))) t = .ok ((), u) →
    GoesOn (.wsstat d a) u v → exec (.wsstat d a) s = .next v)

/-- R149, R150, R363 and R408 to R411: WSWIN, WSSTAT, SYSCALL and LAUNCH. -/
def Obligations.ServiceForms : Prop :=
  Safety.WeightStoreForms ∧ Safety.SyscallResult ∧ Safety.LaunchResult

/-! The engines. -/
namespace Sys2Proof.Safety

/-- A number of 32-bit fields of bits of a word. -/
def fieldOf (w : W64) (lo n : Nat) : Nat := w.toNat / 2 ^ lo % 2 ^ n

/-- An operation can be issued (R104, R157, R160, R164, R270): the queue has room and nobody waits for it longer, the count
is below its limit, nothing earlier keeps the release waiting, and a handle slot, where one is needed, can be taken. -/
structure CanIssue (s : State) (e : EngineKind) (counted : Bool) (slot : Option (Fin 16)) : Prop where
  room    : (s.core s.cur.core).queued e < 2
  first   : s.earlier s.cur e = false
  count   : counted = true → (here s).usc < 1024
  release : s.releaseBlocked s.cur (if (here s).dscope.toNat < 5 then .dev else .sys) = false
  handle  : ∀ h, slot = some h → (here s).pickSlot = .ok h

/-- What an operation keeps of its issue (R123, R157, R160, R166, R237). -/
def HeadIs (s : State) (o : OpHead) (slot : Option (Fin 16)) : Prop :=
  o.owner = s.cur ∧ o.handle = slot ∧ (slot ≠ none → o.serial = (here s).hserial) ∧ o.tag = (here s).phaseTag ∧
    o.frm = (here s).frm ∧ o.seed = (here s).srseed ∧ o.seq = (here s).srseq ∧ o.flags = 0 ∧ o.depth = (here s).depth ∧
    o.supv = (s.slot s.cur.sl).bind.supv ∧ o.lsgs = s.lsgsOf (s.partOf s.cur.sl)

/-- What an issue leaves of its context and of memory: the handle register, the handle slot, which is pending, the count of
its tag, and the place of the next instruction. -/
def Posted (s u : State) (n : Nat) (d : GReg) (slot : Option (Fin 16)) (counted draws : Bool) : Prop :=
  u.cur = s.cur ∧ SameMemory s u ∧ (∀ r, r ≠ d → (here u).reg r = (here s).reg r) ∧
  (here u).count (here s).phaseTag = (here s).count (here s).phaseTag + (if counted then 1 else 0) ∧
  (here u).srseq = (here s).srseq + (if draws then 1 else 0) ∧
  (∀ x, (here s).settled.advance n = .ok x → (here u).pcc = x.pcc) ∧
  match slot with
  | some h => (here u).reg d = (if d = 0 then Reg.zero else handleReg s.cur h (here s).hserial) ∧
      (here u).hslot h = ⟨.pending, (here s).hserial, 0, false, (here s).dom, (here s).depth, 0, none, true⟩ ∧
      (here u).hserial = (here s).hserial + 1
  | none => (here u).reg d = Reg.zero ∧ (here u).hslots = (here s).hslots ∧ (here u).hserial = (here s).hserial

/-- A copy of the copy engine with two records (R167): handle, records and options. -/
def copyForm (i : Instr) : Option (GReg × GReg × GReg × RegCode) :=
  match i with
  | .cpy h a b c => some (h, a, b, c)
  | .cpyr h a b c => some (h, a, b, c)
  | .cpyb h a b c => some (h, a, b, c)
  | _ => none

/-- The options word of a copy and what the copy then is (R167, R168). -/
def CopyOptions (i : Instr) (s : State) (w : W64) (k : CopyKind) : Prop :=
  fieldOf w 48 16 = 0 ∧
  match i with
  | .cpy _ _ _ _ => fieldOf w 32 16 = 0 ∧ k = .cpy
  | .cpyr _ _ _ _ => fieldOf w 45 3 = 0 ∧ (fieldOf w 44 1 = 0 ∧ fieldOf w 32 12 = 0 ∧ k = .cpyr ∨
      fieldOf w 44 1 = 1 ∧ k = .cpyrX (w.extractLsb' 32 12) (s.routeFor (w.extractLsb' 32 12) s.cur.core) s.nextOp)
  | .cpyb _ _ _ _ => fieldOf w 32 13 = 0 ∧ fieldOf w 45 3 < 6 ∧ k = .cpyb ((here s).domReg (fieldOf w 45 3)) ∧
      ((here s).domReg (fieldOf w 45 3)).valid = true ∧ ((here s).domReg (fieldOf w 45 3)).level ≠ 5
  | _ => False

end Sys2Proof.Safety

/-- R157, R160, R164, R167 and R168: CPY, CFILL, CPYR and CPYB put their operation into the queue of the copy engine, with its
records, its first ordinal and its count, and go on with the handle. -/
def Obligations.CopyIssue : Prop :=
  (∀ (i : Instr) (h a b : GReg) (c : RegCode) (s s1 s2 s3 t : State) (dst src : Shape) (opt : W64) (k : CopyKind) (q : Fin 16) (x : Ctx),
    copyForm i = some (h, a, b, c) → Starts i .closes [c] [c] s s1 → readShape a s1 = .ok (dst, s2) →
    readShape b s2 = .ok (src, s3) → readData c s3 = .ok (opt, t) → CopyOptions i t opt k → src.count = dst.count →
    fieldOf opt 0 32 ≤ dst.count → CanIssue t .copy true (some q) → (here t).settled.advance i.size = .ok x →
    ∃ u o, exec i s = .next u ∧ Posted t u i.size h (some q) true false ∧
      (u.core s.cur.core).copyQ = (t.core s.cur.core).copyQ ++ [o] ∧ HeadIs t o.head (some q) ∧ o.kind = k ∧ o.dst = dst ∧
      o.src = some src ∧ o.k = fieldOf opt 0 32 ∧ o.n = dst.count) ∧
  (∀ (h a : GReg) (c : RegCode) (s s1 s2 t : State) (dst : Shape) (fill : W64) (q : Fin 16) (x : Ctx),
    Starts (.cfill h a c) .closes [c] [c] s s1 → readShape a s1 = .ok (dst, s2) → readData c s2 = .ok (fill, t) →
    CanIssue t .copy true (some q) → (here t).settled.advance 4 = .ok x →
    ∃ u o, exec (.cfill h a c) s = .next u ∧ Posted t u 4 h (some q) true false ∧
      (u.core s.cur.core).copyQ = (t.core s.cur.core).copyQ ++ [o] ∧ HeadIs t o.head (some q) ∧ o.kind = .cfill fill ∧
      o.dst = dst ∧ o.src = none ∧ o.k = 0 ∧ o.n = dst.count)

namespace Sys2Proof.Safety

/-- The formats that an operand may have, as far as they can be read at issue (R238): that of its first unit; any, where its
page is not present or may not be read, or where its first access refuses its format (assumption log 15: the model's
reading). -/
def mayHave (s : State) (wr : Bool) (sh : Shape) : List Fmt :=
  match s.issueFmt s.cur wr sh with
  | some f => if f.bad then anyFormat else [f]
  | none => anyFormat

/-- A number of elements that an operand may have, as far as its format can be read at issue (R238). -/
def MayCount (s : State) (wr : Bool) (sh : Shape) (n : Nat) : Prop :=
  if sh.count = 0 then n = 0 else ∃ f ∈ mayHave s wr sh, n = sh.count * f.group

/-- The counts of a record and of those that must agree with it can agree. -/
def Agree (s : State) (wr : Bool) (sh : Shape) (l : List Shape) : Prop :=
  ∃ n, MayCount s wr sh n ∧ ∀ z ∈ l, MayCount s false z n

/-- Read the shape records of registers in their order (R238). -/
def shapesAt : List Nat → M (List Shape)
  | [] => pure []
  | n :: r => do
    let sh ← vecShape n
    let l ← shapesAt r
    pure (sh :: l)

/-- The vector engine has the operation as the last of its queue. -/
def VecIssued (s u : State) (i : Instr) (h : GReg) (q : Fin 16) (k : VecKind) (out a : Shape) (b c : Option Shape) (draws : Bool) : Prop :=
  ∃ o : VecOp, Posted s u i.size h (some q) true (draws && o.mode == 5) ∧
    (u.core s.cur.core).vecQ = (s.core s.cur.core).vecQ ++ [o] ∧ HeadIs s o.head (some q) ∧ o.kind = k ∧ o.out = out ∧
    o.a = a ∧ o.b = b ∧ o.c = c ∧ o.k = 0 ∧ o.p = 0 ∧ o.kicked = false

/-- VGATH, VSCAT, VCOMP and VEXPD (R254): handle, first register, second register, kind, and whether the count of B is that
of the destination. -/
def threeForm (i : Instr) : Option (GReg × GReg × GReg × VecKind × Bool) :=
  match i with
  | .vgath h a b => some (h, a, b, .gather, true)
  | .vscat h a b => some (h, a, b, .scatter, false)
  | .vcomp h a b => some (h, a, b, .comp, false)
  | .vexpd h a b => some (h, a, b, .expd, true)
  | _ => none

end Sys2Proof.Safety

/-- R237, R238, R242, R249 and R254: every vector instruction whose records agree puts its operation into the queue of the
vector engine, with its operands, and goes on with the handle. -/
def Obligations.VectorIssue : Prop :=
  ∀ (s : State) (q : Fin 16) (x : Ctx),
    (∀ (h a b : GReg) (e : BitVec 6) (out sa : Shape) (sb sc : Option Shape) (n : Nat) (t : State),
      Starts (.vmap h a b e) .closes [] [] s s → eopArity e.toNat = some n → sb.isSome = decide (2 ≤ n) → sc.isSome = decide (3 ≤ n) →
      shapesAt ([a.val, a.val + 1] ++ (if 2 ≤ n then [b.val] else []) ++ (if 3 ≤ n then [b.val + 1] else [])) s =
        .ok (out :: sa :: (sb.toList ++ sc.toList), t) →
      CanIssue t .vector true (some q) → Agree t true out (sa :: (sb.toList ++ sc.toList)) → (here t).settled.advance 4 = .ok x →
      ∃ u, exec (.vmap h a b e) s = .next u ∧ VecIssued t u (.vmap h a b e) h q (.map e none) out sa sb sc true) ∧
    (∀ (h a : GReg) (b : RegCode) (e : BitVec 6) (s1 s2 t : State) (out sa : Shape) (w : W64),
      Starts (.vmapBs h a b e) .closes [b] [b] s s1 → shapesAt [a.val, a.val + 1] s1 = .ok ([out, sa], s2) →
      readData b s2 = .ok (w, t) → CanIssue t .vector true (some q) → Agree t true out [sa] →
      (here t).settled.advance 4 = .ok x →
      ∃ u, exec (.vmapBs h a b e) s = .next u ∧ VecIssued t u (.vmapBs h a b e) h q (.map e (some w)) out sa none none true) ∧
    (∀ (h a : GReg) (b : RegCode) (e : BitVec 6) (s1 s2 t : State) (out sa : Shape) (w : W64),
      Starts (.vscan h a b e) .closes [b] [b] s s1 → shapesAt [a.val, a.val + 1] s1 = .ok ([out, sa], s2) →
      readData b s2 = .ok (w, t) → w.toNat ≤ 1 → CanIssue t .vector true (some q) → Agree t true out [sa] →
      (here t).settled.advance 4 = .ok x →
      ∃ u, exec (.vscan h a b e) s = .next u ∧
        VecIssued t u (.vscan h a b e) h q (.scan e (decide (w.toNat = 1))) out sa none none true) ∧
    (∀ (h a : GReg) (e : BitVec 6) (out sa : Shape) (m t : State),
      Starts (.vred h a e) .closes [] [] s s → vecShape a.val s = .ok (out, m) → vecShape (a.val + 1) m = .ok (sa, t) →
      CanIssue t .vector true (some q) → (here t).settled.advance 4 = .ok x →
      (e.toNat ≠ 0x2D → MayCount m true out 1) →
      (e.toNat = 0x2D → ∃ k, MayCount t false sa k ∧ (out.count = 0 ∧ k = 0 ∨ out.count ≠ 0 ∧ ∃ f ∈ mayHave t true out,
        out.count * f.group = (8 * k + fmtWidth f.n - 1) / fmtWidth f.n)) →
      ∃ u, exec (.vred h a e) s = .next u ∧ VecIssued t u (.vred h a e) h q (.red e) out sa none none true) ∧
    (∀ (i : Instr) (h a b : GReg) (k : VecKind) (byOut : Bool) (out sa sb : Shape) (t : State),
      threeForm i = some (h, a, b, k, byOut) → Starts i .closes [] [] s s →
      shapesAt [a.val, a.val + 1, b.val] s = .ok ([out, sa, sb], t) → CanIssue t .vector true (some q) →
      (if byOut = true then Agree t true out [sb] else Agree t false sa [sb]) → (here t).settled.advance 4 = .ok x →
      ∃ u, exec i s = .next u ∧ VecIssued t u i h q k out sa (some sb) none false) ∧
    (∀ (h a b c : GReg) (out sa : Shape) (sb sc : Option Shape) (ch : Chain) (s1 s2 t : State),
      Starts (.vchain h a b c) .closes [] [] s s → shapesAt [a.val, a.val + 1] s = .ok ([out, sa], s1) →
      readChain c (match (if out.count = 0 then none else s1.issueFmt s.cur true out) with
        | some f => f.blocked
        | none => false) s1 = .ok (ch, s2) →
      let names : Nat → Bool := fun j => (usedOps (ch.steps.map stepOf)).contains j
      ((names 1 = true ∨ names 2 = true) ↔ b ≠ 0) → sb.isSome = names 1 → sc.isSome = names 2 →
      shapesAt ((if names 1 = true then [b.val] else []) ++ (if names 2 = true then [b.val + 1] else [])) s2 =
        .ok (sb.toList ++ sc.toList, t) →
      Agree t true out (sa :: (sb.toList ++ sc.toList)) → CanIssue t .vector true (some q) →
      (here t).settled.advance 4 = .ok x →
      ∃ u, exec (.vchain h a b c) s = .next u ∧ VecIssued t u (.vchain h a b c) h q (.chain ch) out sa sb sc true)

namespace Sys2Proof.Safety

/-- The context owns the accumulator set of its core, and no handler holds it for another (R273, R434). -/
def Owns (s : State) : Prop := (s.core s.cur.core).accown.names s.cur = true ∧ s.accHeld s.cur = false

/-- The handle of a matrix instruction: none for g0 (R282, R284). -/
def handleOf (d : GReg) (q : Fin 16) : Option (Fin 16) := if d = 0 then none else some q

/-- The matrix queue of the core has the command as its last. -/
def MatIssued (s u : State) (d : GReg) (q : Fin 16) (k : MatKind) (sh : Option Shape) (stream steps : Nat) (fmt : Option Fmt)
    (counted draws : Bool) : Prop :=
  ∃ o : MatOp, Posted s u 4 d (handleOf d q) counted draws ∧
    (u.core s.cur.core).matQ = (s.core s.cur.core).matQ ++ [o] ∧ HeadIs s o.head (handleOf d q) ∧ o.kind = k ∧ o.shape = sh ∧
    o.stream.val = stream ∧ o.started = false ∧ o.steps = steps ∧ o.fmt = fmt

/-- MMA and MMAS. -/
def mmaForm (i : Instr) : Option (Bool × GReg × GReg × RegCode × RegCode) :=
  match i with
  | .mma h a b c => some (false, h, a, b, c)
  | .mmas h a b c => some (true, h, a, b, c)
  | _ => none

/-- MSTA and MLDA: whether it loads. -/
def storeTileForm (i : Instr) : Option (Bool × GReg × GReg × RegCode) :=
  match i with
  | .msta d a b => some (false, d, a, b)
  | .mlda d a b => some (true, d, a, b)
  | _ => none

/-- The elements of a row of a record, one group to a unit (R155). -/
def rowOf (s : State) (wr : Bool) (sh : Shape) : Nat :=
  sh.e0 * groupOf (if sh.count = 0 then none else s.issueFmt s.cur wr sh)

end Sys2Proof.Safety

/-- R270, R282 to R287: MMA, MMAS, MLDB, MZERO, MSTA and MLDA, of the owner of the set, put their command into the matrix
queue of the core, with its record, its words and its stream, and go on with the handle, or with none for g0. -/
def Obligations.MatrixIssue : Prop :=
  ∀ (s : State) (q : Fin 16) (x : Ctx), Owns s →
    (∀ (i : Instr) (sparse : Bool) (h a : GReg) (b c : RegCode) (s1 t m : State) (vs : List Reg) (bw cw : W64) (sh : Shape),
      mmaForm i = some (sparse, h, a, b, c) → Starts i .closes [b, c] [b, c] s s1 →
      takeAll [b, c] s1 = .ok (vs, t) → lows vs = [bw, cw] → fieldOf bw 16 48 = 0 → fieldOf bw 6 2 = 0 → fieldOf cw 6 58 = 0 →
      matShape a t = .ok (sh, m) → 1 ≤ sh.rows → sh.rows ≤ 32 → rowOf m false sh ≤ 8192 →
      CanIssue m .matrix true (handleOf h q) → (here m).settled.advance 4 = .ok x →
      ∃ u, exec i s = .next u ∧ MatIssued m u h q (.mma sparse bw cw) (some sh) (fieldOf cw 2 2) 0 none true false) ∧
    (∀ (d a : GReg) (b : RegCode) (s1 t m : State) (w : W64) (sh : Shape),
      Starts (.mldb d a b) .closes [b] [b] s s1 → readData b s1 = .ok (w, t) → fieldOf w 22 42 = 0 → fieldOf w 6 2 = 0 →
      fieldOf w 17 3 = 0 → matShape a t = .ok (sh, m) → sh.e0 * groupOf (m.issueFmt s.cur false sh) ≤ 32 * (wordKb w + 1) →
      sh.rows ≤ 32 * (wordNt w + 1) → CanIssue m .matrix true (handleOf d q) → (here m).settled.advance 4 = .ok x →
      ∃ u, exec (.mldb d a b) s = .next u ∧
        MatIssued m u d q (.mldb w) (some sh) (fieldOf w 20 2) 0 (m.issueFmt s.cur false sh) true false) ∧
    (∀ (d : GReg) (a : RegCode) (s1 t : State) (w : W64),
      Starts (.mzero d a) .closes [a] [a] s s1 → readData a s1 = .ok (w, t) → fieldOf w 4 60 = 0 →
      CanIssue t .matrix false (handleOf d q) → (here t).settled.advance 4 = .ok x →
      ∃ u, exec (.mzero d a) s = .next u ∧ MatIssued t u d q (.mzero w) none (fieldOf w 2 2) 0 none false false) ∧
    (∀ (i : Instr) (load : Bool) (d a : GReg) (b : RegCode) (s1 t : State) (w : W64) (sh : Shape),
      storeTileForm i = some (load, d, a, b) → Starts i .closes [b] [b] s s1 → readData b s1 = .ok (w, t) →
      storeWordBad load w = false → CanIssue t .matrix true (handleOf d q) → (here t).settled.advance 4 = .ok x →
      (∀ m, fieldOf w 11 1 = 0 → matShape a t = .ok (sh, m) → sh.rows ≤ 32 → rowOf m (!load) sh ≤ maxCols (wordTile w) →
        ∃ u, exec i s = .next u ∧ MatIssued m u d q (if load = true then .mlda w else .msta w) (some sh) (fieldOf w 2 2) 0 none true
          (decide ((if fieldOf w 4 3 = 6 then (here t).mode else fieldOf w 4 3) = 5))) ∧
      (fieldOf w 11 1 = 1 →
        let cap := (here t).reg a
        checkCap (t.live (dieOf s.cur.core)) cap
          (permL ||| permS ||| permE ||| (if cap.lo.toNat / 2 ^ 56 = 1 then permM else 0)) cap.lo imageBytes = none →
        cap.lo.toNat % 64 = 0 →
        ∃ u, exec i s = .next u ∧
          MatIssued t u d q (if load = true then .imgLoad cap (w.getLsbD 12) else .imgStore cap) none 0 0 none true false))

/-- R273, R274, R288, R289, R290 and R434: MOWN of the owner gives ACCOWN; MFREE of the owner, with the queue empty, clears
the set and ACCOWN and gives 0, and of another context gives 1; MSYNC allocates a handle for the commands queued in its
streams; MRESUME queues the recorded command again from its step, or gives 0x8003. -/
def Obligations.MatrixOwner : Prop :=
  (∀ (d : RegCode) (s u v : State), Starts (.mown d) .closes [] [d] s s → Owns s →
    write (Instr.word (.mown d)) d (Reg.data (s.core s.cur.core).accown.word) s = .ok ((), u) → GoesOn (.mown d) u v →
    exec (.mown d) s = .next v) ∧
  (∀ (d : RegCode) (s u v : State), Starts (.mfree d) .closes [] [d] s s → s.accHeld s.cur = false →
    let mine := (s.core s.cur.core).accown.names s.cur
    (mine = true → (s.core s.cur.core).matQ = []) →
    write (Instr.word (.mfree d)) d (Reg.data (if mine = true then 0 else 1))
      (if mine = true then (s.clearAcc s.cur.core).dropImage s.cur else s) = .ok ((), u) →
    GoesOn (.mfree d) u v → exec (.mfree d) s = .next v) ∧
  (∀ (d : GReg) (a : RegCode) (s s1 t : State) (w : W64) (q : Fin 16) (x : Ctx),
    Starts (.msync d a) .closes [a] [a] s s1 → s.accHeld s.cur = false →
    (s.isSup s.cur = true ∨ (s.core s.cur.core).accown.names s.cur = true) → readData a s1 = .ok (w, t) → fieldOf w 4 60 = 0 →
    (t.core s.cur.core).syncs = [] → (here t).settled.advance 4 = .ok x →
    (d = 0 → exec (.msync d a) s = .next (t.setCtx s.cur x)) ∧
    (d ≠ 0 → (here t).pickSlot = .ok q →
      ∃ u, exec (.msync d a) s = .next u ∧ (here u).reg d = handleReg s.cur q (here t).hserial ∧
        (here u).pcc = x.pcc ∧ SameMemory t u ∧
        (((t.core s.cur.core).matQ.any (fun o => w.getLsbD o.stream.val) = false → ((here u).hslot q).state = .resolved ∧
          ((here u).hslot q).result = 0) ∧
        ((t.core s.cur.core).matQ.any (fun o => w.getLsbD o.stream.val) = true → ((here u).hslot q).state = .pending)))) ∧
  (∀ (d a : GReg) (s : State) (q : Fin 16) (x : Ctx) (r : Option (CtxId × Fin 16)),
    Starts (.mresume d a) .closes [] [] s s → Owns s →
    let v := (here s).reg a
    v.tag = 2 → lookHandle v s = .ok (r, s) → (here s).settled.advance 4 = .ok x →
    (∀ f, (s.core s.cur.core).accFault = some f → f.handle = v.bits.setWidth 39 → CanIssue s .matrix true (handleOf d q) →
      ∃ u, exec (.mresume d a) s = .next u ∧
        MatIssued s u d q (.mma f.sparse f.b f.c) (some f.shape) (fieldOf f.c 2 2) f.steps none true false ∧
        (u.core s.cur.core).accFault = none) ∧
    ((∀ f, (s.core s.cur.core).accFault = some f → f.handle ≠ v.bits.setWidth 39) →
      ∃ u, exec (.mresume d a) s = .next u ∧ (here u).pcc = x.pcc ∧ (d ≠ 0 → (here u).reg d = Reg.data 0x8003) ∧
        (u.core s.cur.core).matQ = (s.core s.cur.core).matQ ∧ SameMemory s u))

/-! The event integrator. -/
namespace Sys2Proof.Safety

/-- A bank word of a bank that the slot holds (R311). -/
def HeldBank (s : State) (v : W64) (n : Nat) : Prop := v.toNat = n ∧ n < 8 ∧ (s.slot s.cur.sl).bind.banks.getLsbD n = true

/-- A neuron address (R311, R317): the field, the bank and the neuron, with the must-be-zero parts zero, of a bank that the slot
holds; SEL 2 names the slot. -/
def NeuronAt (s : State) (v : W64) (sel bank n : Nat) : Prop :=
  v.toNat = sel * 2 ^ 12 + bank * 2 ^ 8 + n ∧ sel < 4 ∧ bank < 8 ∧ n < 256 ∧ (sel = 2 → bank = 0 ∧ n = 0) ∧ (sel = 3 → n = 0) ∧
    (sel ≠ 2 → (s.slot s.cur.sl).bind.banks.getLsbD bank = true)

/-- V in register form (R317). -/
def vWord (b : Bank) (v : W64) : W64 :=
  if b.sfmt.toNat = 0 then v
  else if b.sfmt.toNat = 1 then 0xFFFFFFFF00000000 ||| BitVec.ofNat 64 (v.toNat % 2 ^ 32)
  else (v.setWidth 32).signExtend 64

end Sys2Proof.Safety

/-- R309, R310, R314 and R315: EPOSTV and ETICK put their operation into the queue of the integrator and go on with the
handle; an ETICK of another time than TIME, or while one of the slot is unresolved, traps ILLEGAL_OPERAND with TIME. -/
def Sys2Proof.Safety.IntegratorIssue : Prop :=
  (∀ (d a : GReg) (s t : State) (sh : Shape) (q : Fin 16) (x : Ctx),
    Starts (.epostv d a) .closes [] [] s s → readShape a s = .ok (sh, t) → CanIssue t .integrator true (some q) →
    (here t).settled.advance 4 = .ok x →
    ∃ u o, exec (.epostv d a) s = .next u ∧ Posted t u 4 d (some q) true false ∧
      (u.core s.cur.core).intQ = (t.core s.cur.core).intQ ++ [o] ∧ HeadIs t o.head (some q) ∧ o.kind = .postv sh ∧ o.n = sh.count ∧
      o.k = 0 ∧ o.started = false) ∧
  (∀ (d : GReg) (a : RegCode) (s s1 t : State) (v : W64) (q : Fin 16) (x : Ctx),
    Starts (.etick d a) .closes [a] [a] s s1 → readData a s1 = .ok (v, t) → (here t).settled.advance 4 = .ok x →
    let time := (t.slot s.cur.sl).time
    (t.noTickOf s.cur.sl = true → v.toNat = time.toNat → time.toNat < 2 ^ 32 - 1 → CanIssue t .integrator true (some q) →
      ∃ u o, exec (.etick d a) s = .next u ∧ Posted t u 4 d (some q) true false ∧
        (u.core s.cur.core).intQ = (t.core s.cur.core).intQ ++ [o] ∧ HeadIs t o.head (some q) ∧ o.kind = .tick time ∧ o.started = false) ∧
    (v.toNat < 2 ^ 32 → (t.noTickOf s.cur.sl = false ∨ v.toNat ≠ time.toNat ∨ v.toNat = 2 ^ 32 - 1) →
      exec (.etick d a) s = .next (s1.takeTrap s.cur ⟨.illegalOperand, time.setWidth 64, 0, false⟩)))

/-- R311, R312, R316 and R317: ECFG installs a record that R294 accepts, with every entry at V = 0, RC = 0 and T_LAST =
TIME, and HEAD and TAIL 0; EDRAIN frees records and gives HEAD and TAIL; ERD gives the field that SEL names; EWR writes V or
the bookkeeping of a neuron and gives the old value. -/
def Obligations.BankForms : Prop :=
  (∀ (a : GReg) (b : RegCode) (s s1 t v : State) (p : Spot) (w : W64) (n : Nat),
    Starts (.ecfg a b) .closes [b] [b] s s1 →
    s1.reachRecord s.cur ((here s1).reg a) ⟨[permL], .read, false, 64, 64, false⟩ ((here s1).reg a).lo = .ok p →
    readData b (s1.cacheHost p.loc 64 false) = .ok (w, t) → HeldBank t w n → t.noTickOf s.cur.sl = true →
    let k := bankOf64 (t.readBytes p.loc 64) (t.slot s.cur.sl).time
    bankBad (t.readBytes p.loc 64) k (t.slot s.cur.sl).bind.size = false → GoesOn (.ecfg a b) (t.setBank s.cur.core n k) v →
    exec (.ecfg a b) s = .next v ∧ k.head = 0 ∧ k.tail = 0 ∧
      ∀ j < 256, k.cell j = ⟨false, 0, (t.slot s.cur.sl).time, 0⟩) ∧
  (∀ (d a b : RegCode) (s s1 t u v : State) (vs : List Reg) (w m : W64) (n : Nat),
    Starts (.edrain d a b) .closes [a, b] [d, a, b] s s1 → takeAll [a, b] s1 = .ok (vs, t) → lows vs = [w, m] →
    HeldBank t w n → m.toNat < 2 ^ 32 →
    let q := (t.core s.cur.core).bank n
    let head : BitVec 32 := if m.toNat ≤ (q.tail - q.head).toNat then q.head + m.setWidth 32 else q.head
    write (Instr.word (.edrain d a b)) d (Reg.data (BitVec.ofNat 64 (head.toNat * 2 ^ 32 + q.tail.toNat)))
      (t.setBank s.cur.core n { q with head := head }) = .ok ((), u) →
    GoesOn (.edrain d a b) u v → exec (.edrain d a b) s = .next v) ∧
  (∀ (d a : RegCode) (s s1 t u v : State) (w : W64) (sel bank n : Nat),
    Starts (.erd d a) .closes [a] [d, a] s s1 → readData a s1 = .ok (w, t) → NeuronAt t w sel bank n →
    (sel ≤ 1 → t.noTickOf s.cur.sl = true) →
    let b := (t.core s.cur.core).bank bank
    let c := b.cell n
    let q := t.slot s.cur.sl
    write (Instr.word (.erd d a)) d (Reg.data (
      if sel = 0 then vWord b c.v
      else if sel = 1 then BitVec.ofNat 64 ((if c.ft = true then 2 ^ 63 else 0) + c.rc.toNat * 2 ^ 32 + c.tlast.toNat)
      else if sel = 2 then BitVec.ofNat 64 (q.late.toNat * 2 ^ 48 + q.lost.toNat * 2 ^ 32 + min q.evtOvf.length 65535 * 2 ^ 16 +
        q.bind.banks.toNat)
      else BitVec.ofNat 64 (b.head.toNat * 2 ^ 32 + b.tail.toNat))) t = .ok ((), u) →
    GoesOn (.erd d a) u v → exec (.erd d a) s = .next v) ∧
  (∀ (d a r : RegCode) (s s1 t u v : State) (vs : List Reg) (w x : W64) (bank n : Nat),
    Starts (.ewr d a r) .closes [a, r] [d, a, r] s s1 → takeAll [a, r] s1 = .ok (vs, t) → lows vs = [w, x] →
    t.noTickOf s.cur.sl = true →
    let b := (t.core s.cur.core).bank bank
    let c := b.cell n
    GoesOn (.ewr d a r) u v →
    (NeuronAt t w 0 bank n →
      write (Instr.word (.ewr d a r)) d (Reg.data (vWord b c.v)) (t.setBank s.cur.core bank
        (b.setCell n { c with v := if b.sfmt = 0 then x else BitVec.ofNat 64 (x.toNat % 2 ^ 32) })) = .ok ((), u) →
      exec (.ewr d a r) s = .next v) ∧
    (NeuronAt t w 1 bank n → fieldOf x 48 15 = 0 → fieldOf x 0 32 ≤ (t.slot s.cur.sl).time.toNat →
      write (Instr.word (.ewr d a r)) d
        (Reg.data (BitVec.ofNat 64 ((if c.ft = true then 2 ^ 63 else 0) + c.rc.toNat * 2 ^ 32 + c.tlast.toNat)))
        (t.setBank s.cur.core bank (b.setCell n { c with ft := x.getLsbD 63, rc := x.extractLsb' 32 16, tlast := x.extractLsb' 0 32 })) =
          .ok ((), u) →
      exec (.ewr d a r) s = .next v))

/-- R296, R297, R309 and R313: EPOST posts the event of its two operands, with the context's next source sequence: it joins
the queue of its own core, or sets out for another and is counted; one that its own core refuses keeps the context waiting
until it is enqueued (R309); one stamped 0xFFFF_FFFF is not sent and counts in LOST; a bad header traps. -/
def Sys2Proof.Safety.EpostResult : Prop :=
  ∀ (a b : RegCode) (s s1 t : State) (vs : List Reg) (h p : W64),
    Starts (.epost a b) .closes [a, b] [a, b] s s1 → takeAll [a, b] s1 = .ok (vs, t) → lows vs = [h, p] →
    let i : Instr := .epost a b
    let e : QEvent := ⟨h, p, s.cur.core, BitVec.ofNat 32 (s.cur.ctx.val * 2 ^ 28 + (here t).evtSeq.toNat)⟩
    let bad : Prop := fieldOf h 0 8 ≠ 0 ∨ 143 < fieldOf h 22 8
    (bad → exec i s = .next (s1.takeTrap s.cur ⟨.illegalOperand, Instr.word i, 0, false⟩)) ∧
    (∀ v, ¬ bad → fieldOf h 32 32 = 2 ^ 32 - 1 →
      GoesOn i (t.modSlot s.cur.sl (fun q => { q with lost := if q.lost = 0xFFFF then q.lost else q.lost + 1 })) v →
      exec i s = .next v) ∧
    (∀ x sl, ¬ bad → fieldOf h 32 32 < 2 ^ 32 - 1 → headerCore h = s.cur.core → (here t).settled.advance 4 = .ok x →
      t.bankSlot (t.partOf s.cur.sl) s.cur.core e.bank = some sl → t.present (t.partOf s.cur.sl) sl = false →
      ∃ u m, exec i s = .next u ∧ (here u).status = .waiting .enqueued ∧ u.evmsgs = t.evmsgs ++ [m] ∧ m.ev = e ∧ m.retry = true ∧
        m.counted = false ∧ (u.core s.cur.core).events = (t.core s.cur.core).events ∧ (here u).evtSeq = (here t).evtSeq + 1 ∧
        (here u).counts = (here t).counts ∧ (here u).pcc = x.pcc ∧ SameMemory t u) ∧
    (∀ x sl, ¬ bad → fieldOf h 32 32 < 2 ^ 32 - 1 → headerCore h = s.cur.core → (here t).settled.advance 4 = .ok x →
      t.bankSlot (t.partOf s.cur.sl) s.cur.core e.bank = some sl → t.present (t.partOf s.cur.sl) sl = true →
      (t.slot sl).time.toNat ≤ fieldOf h 32 32 → (t.core s.cur.core).events.length < 1024 →
      ∃ u, exec i s = .next u ∧ (u.core s.cur.core).events = (t.core s.cur.core).events ++ [e] ∧
        (here u).evtSeq = (here t).evtSeq + 1 ∧ (here u).counts = (here t).counts ∧ (here u).pcc = x.pcc ∧ SameMemory t u) ∧
    (∀ x, ¬ bad → fieldOf h 32 32 < 2 ^ 32 - 1 → headerCore h ≠ s.cur.core → (here t).settled.advance 4 = .ok x →
      (here t).usc < 1024 →
      ∃ u m, exec i s = .next u ∧ u.evmsgs = t.evmsgs ++ [m] ∧ m.ev = e ∧ m.target = headerCore h ∧ m.tag = (here t).phaseTag ∧
        m.counted = true ∧ m.arrived = none ∧ (here u).evtSeq = (here t).evtSeq + 1 ∧
        (here u).count (here t).phaseTag = (here t).count (here t).phaseTag + 1 ∧ (here u).pcc = x.pcc ∧ SameMemory t u)

/-- R304 and R318: EFAN gives the number of the entries of the neuron's fan-out list that are sent: those that are good and
whose stamp, TIME of the operand plus the entry's delay, is at most 0xFFFF_FFFE. Where an entry that is sent names the own
core, the core's queue must have room: a post that it refuses keeps the context waiting (R309). -/
def Sys2Proof.Safety.EfanResult : Prop :=
  ∀ (d : GReg) (a b : RegCode) (s s1 t : State) (vs : List Reg) (w v : W64) (bank n : Nat) (x : Ctx),
    Starts (.efan (.g d) a b) .closes [a, b] [.g d, a, b] s s1 → takeAll [a, b] s1 = .ok (vs, t) → lows vs = [w, v] →
    NeuronAt t w 0 bank n → v.toNat < 2 ^ 32 → (here t).fan = none → d ≠ 0 →
    let list := t.fanList s.cur.sl ((t.core s.cur.core).bank bank) n
    (here t).usc + list.length ≤ 1024 →
    (t.core s.cur.core).events.length + list.length ≤ 1024 →
    (∀ e ∈ list, ∀ h sl, badEntry e = false → fanHeader v.toNat e = some h → headerCore h = s.cur.core →
      t.bankSlot (t.partOf s.cur.sl) s.cur.core (fieldOf h 16 3) = some sl → t.present (t.partOf s.cur.sl) sl = true) →
    (here t).settled.advance 4 = .ok x →
    ∃ u, exec (.efan (.g d) a b) s = .next u ∧ (here u).pcc = x.pcc ∧
      (here u).reg d = Reg.data (BitVec.ofNat 64 (list.countP (fun e => !badEntry e && decide (v.toNat + fanDelay e ≤ 0xFFFFFFFE)))) ∧
      (∀ r, r ≠ d → (here u).reg r = (here t).reg r) ∧ SameMemory t u

/-- R296, R297, R304, R309, R310, R313 to R315 and R318: EPOSTV, ETICK, EPOST and EFAN. -/
def Obligations.EventForms : Prop :=
  Safety.IntegratorIssue ∧ Safety.EpostResult ∧ Safety.EfanResult

/-! Events: what a step of the hardware, of the firmware or of a host does where it is due. -/
namespace Sys2Proof.Safety

/-- The instructions of a table answer the state that the table gives for them, where no machine check stops the device
(R414). -/
def EventCompletes (form : Instr → State → Option State) : Prop :=
  ∀ (i : Instr) (s t : State), s.mcheck = false → form i s = some t → exec i s = .next t

/-- A wait that ends: a context is READY again, or goes on executing what its leader passes (R338, R343). -/
def woken (s : State) (c : CtxId) : State :=
  match (s.ctx c).status with
  | .waiting _ => s.modCtx c (fun x => { x with status := if x.attached then .following true else .ready })
  | _ => s

/-- A store under way as it goes on (R106, R108, R325). -/
def storeAs (s : State) (r : RStore) (p : StorePhase) : State :=
  { s with stores := s.stores.map (fun q => if q.seq = r.seq then { q with phase := p } else q) }

/-- A store under way is taken at its destination: its context's arrival count there, for its tag, rises by 1 (R106). -/
def taken (s : State) (r : RStore) : State :=
  let k := arrivalKey r.ctx r.tag r.dest
  let n := Sparse.get 0 s.arrivals k + 1
  { s with
    stores := s.stores.map (fun q => if q.seq = r.seq then { q with phase := .arrived n } else q)
    arrivals := Sparse.put s.arrivals k n }

/-- An off-core access of a context as it goes on. -/
def remoteAs (s : State) (c : CtxId) (p : RemotePhase) : State :=
  s.modCtx c (fun x => { x with remote := x.remote.map (fun r => { r with phase := p }) })

/-- A core's own router takes a release of any scope from the core itself (R325). -/
def ownRouter (c : CtxId) (l : Loc) : Bool :=
  match l with
  | .localStore k _ _ _ => decide (k = c.core)
  | _ => false

/-- SMISS of the slot of a context counts the repairs whose answers have come (R326). -/
def repairs (s : State) (c : CtxId) (n : Nat) : State :=
  if n = 0 then s else s.modSlot c.sl (fun q => { q with smiss := q.smiss + BitVec.ofNat 32 n })

/-- Since when a word is refused, with the time of retry replies left out (R189). -/
def refusedSince (now : Nat) (m : RingMsg) : Option Nat :=
  match m.away with
  | some t => m.since.map (fun n => n + (now - t))
  | none => m.since

/-- The network's events (R87, R88, R98 to R101, R106, R108, R127, R138, R139, R187 to R190, R325, R326), where they are due. -/
def networkEvent (i : Instr) (s : State) : Option State :=
  match i with
  | .messengerPass ch =>
    let m := Sparse.get 0 s.messenger ch.val
    some { s.sendFrames ch.val m 4 with messenger := Sparse.put s.messenger ch.val ((m + 1) % 13) }
  | .remoteStoreArrive c dest =>
    match s.nextNarrow c dest, s.nextStore c dest with
    | some r, _ => some { storeAs s r (.missed s.nextSeq) with nextSeq := s.nextSeq + 1 }
    | none, some r =>
      let narrow : Bool := match r.release with
        | some sc => decide (sc.code < r.home.code) && !r.loopback
        | none => false
      let lands : Loc → State := fun l =>
        let u := s.pokeAt (l.plus r.rest.1) r.rest.2
        taken (if r.setTag then u.setTagAt (l.tagKey 0) true else u) r
      if r.phase ≠ .flying ∨ s.crossed r.seq = false ∨ s.olderEvent r.ctx r.dest r.seq = true ∨ narrow = true then none
      else
        match r.target with
        | some t =>
          if s.away r.part t then some (storeAs s r .retry)
          else
            match s.landing t r.part r.loc r.bytes.length with
            | some l => some (lands l)
            | none => some (taken s r)
        | none =>
          match s.mustSnoop r.loc true with
          | some n => some (s.snoop n true)
          | none => some (lands r.loc)
    | none, none => none
  | .remoteAckSend c tag dest =>
    let k := arrivalKey c tag dest
    let n := Sparse.get 0 s.arrivals k
    if n = Sparse.get 0 s.seen k ∨ s.acks.any (fun a => decide (a.ctx = c ∧ a.tag = tag ∧ a.dest = dest ∧ a.count = n)) = true then none
    else some { s with acks := s.acks ++ [⟨dest, c, tag, n⟩] }
  | .remoteAckArrive c tag dest =>
    match s.acks.find? (fun a => decide (a.ctx = c ∧ a.tag = tag ∧ a.dest = dest)) with
    | some a =>
      let k := arrivalKey c tag dest
      let within : BitVec 16 → Bool := fun n => decide ((a.count - n).toNat < 2 ^ 15)
      let done : RStore → Bool := fun r => match r.phase with
        | .arrived n => decide (r.ctx = c ∧ r.tag = tag ∧ r.dest = dest) && within n
        | _ => false
      let u := repairs (s.modCtx c (fun x => x.setCount tag (x.count tag - (a.count - Sparse.get 0 s.seen k).toNat))) c
        (s.stores.countP (fun r => done r && r.repaired))
      some { u with
        acks := s.acks.erase a
        seen := Sparse.put s.seen k a.count
        stores := s.stores.filter (fun r => !done r)
        evmsgs := s.evmsgs.filter (fun e => !(match e.arrived with
          | some n => decide (e.ctx = c ∧ e.tag = tag ∧ e.target.val = dest) && within n
          | none => false)) }
    | none => none
  | .retryResend c dest =>
    match (s.nextStore c dest).filter (fun r => decide (r.phase = .retry)) with
    | some r => some ((storeAs s r .flying).enframe r.ctx.core r.loc r.seq .store r.tag)
    | none =>
      let again : EvMsg → Bool := fun e => decide (e.ctx = c ∧ e.target.val = dest)
      if s.evmsgs.any (fun e => again e && e.retry) then
        let u := (s.evmsgs.filter (fun e => again e && e.retry)).foldl (fun t e =>
          t.enframe c.core (.localStore e.target 0 0 0) e.seq .event e.tag) s
        some { u with evmsgs := u.evmsgs.map (fun (e : EvMsg) => if again e then { e with retry := false } else e) }
      else none
  | .remoteLoadArrive c =>
    match (s.ctx c).remote with
    | some r =>
      let narrow : Bool := match r.scope with
        | some sc => decide (r.op ≠ .load) && decide (sc.code < r.home.code) && !ownRouter c r.loc
        | none => false
      if narrow then
        if s.stripped c r = true then some { remoteAs s c (.missed s.nextSeq) with nextSeq := s.nextSeq + 1 } else none
      else if (r.phase ≠ .sent ∧ r.phase ≠ .stalled) ∨ s.crossed r.seq = false ∨ s.ownStoreDue c r = true then none
      else
        match r.target, s.mustSnoop r.loc (decide (r.op ≠ .load)), r.loc with
        | some t, _, _ =>
          if s.away (s.partOf c.sl) t then some s
          else
            match s.landing t (s.partOf c.sl) r.loc r.size with
            | some l => some (s.performRemote c r l)
            | none => some (s.reply c r (.failed .noSlot))
        | none, some n, _ => some (s.snoop n (decide (r.op ≠ .load)))
        | none, none, .weight d off =>
          if s.refreshing (wsGroup off) then
            if r.phase = .stalled then some s
            else
              some ((remoteAs s c .stalled).modCtx c (fun x =>
                { x with stalls := Sparse.put x.stalls d.val (Sparse.get 0 x.stalls d.val + 1) }))
          else some (s.performRemote c r r.loc)
        | none, none, .expansion _ pa =>
          if s.inWindow pa then some (s.performRemote c r r.loc) else some (s.reply c r (.failed .expansionError))
        | none, none, _ => some (s.performRemote c r r.loc)
    | none => none
  | .remoteReplyArrive c =>
    match (s.ctx c).status, (s.ctx c).remote with
    | .waiting .reply, some r =>
      let back := repairs (woken (s.modCtx c (fun x => { x with remote := x.remote.map (fun q => { q with repaired := false }) })) c) c
        (if r.repaired then 1 else 0)
      if s.crossed r.seq = false then none
      else match r.phase with
        | .replied _ _ _ => some back
        | .failed _ => some back
        | .fpTrap _ => some back
        | _ => none
    | _, _ => none
  | .expansionTimeout c =>
    match (s.ctx c).remote with
    | some r =>
      match r.loc with
      | .expansion _ _ => if r.phase = .sent then some (remoteAs s c (.failed .expansionError)) else none
      | _ => none
    | none => none
  | .wsRefreshWindow g =>
    if s.refreshing g then none
    else some { s with ctxs := s.ctxs.map (fun p => (p.1, match p.2.status with
      | .waiting (.refresh _ h) => if h = g then { p.2 with status := if p.2.attached then .following true else .ready } else p.2
      | _ =>
        match p.2.remote with
        | some r =>
          match r.phase, r.loc with
          | .stalled, .weight _ off => if wsGroup off = g then { p.2 with remote := some { r with phase := .sent } } else p.2
          | _, _ => p.2
        | none => p.2)) }
  | .scopeMissRepair c =>
    let atomic : Option (Remote × Nat) := (s.ctx c).remote.bind (fun r => match r.phase with
      | .missed n => some (r, n)
      | _ => none)
    let store : RStore → Option State := fun r =>
      if s.repairReady c r.home r.seq = false then none
      else
        let u : State := { s with stores := s.stores.map (fun q =>
          if q.seq = r.seq then { q with phase := .flying, release := some r.home, repaired := true } else q) }
        some (u.enframe r.ctx.core r.loc r.seq .store r.tag)
    let access : Remote → Option State := fun r =>
      if s.repairReady c r.home r.seq = false then none
      else some ((s.enframe c.core r.loc r.seq .load (s.ctx c).phaseTag).modCtx c (fun x =>
        { x with remote := x.remote.map (fun q => { q with phase := .sent, scope := some r.home, repaired := true }) }))
    match s.firstMiss c, atomic with
    | some r, some a =>
      if r.missedAt.getD 0 < a.2 ∨ (r.seq < a.1.seq ∧ r.home.code ≤ a.1.home.code) then store r else access a.1
    | some r, none => store r
    | none, some a => access a.1
    | none, none => none
  | .ringRetry c =>
    match (s.ctx c).status with
    | .waiting (.ringRoom addr _) =>
      match ringAddr addr with
      | some a => match s.sendWord c.sl a 0 false (s.ctx c).place with
        | .full => none
        | .retry => some (s.stall c (.ringAway addr))
        | _ => some (woken s c)
      | none => none
    | _ => none
  | .overflowDivert c =>
    match (s.ctx c).status with
    | .waiting (.ringRoom addr since) =>
      let away : Bool := match (ringAddr addr).map (fun a => s.sendWord c.sl a 0 false (s.ctx c).place) with
        | some .retry => true
        | _ => false
      if since + 4096 ≤ s.cycle ∧ away = false then
        some ((woken s c).modCtx c (fun x =>
          { x with sending := some { x.sendingTo addr with since := some since, divert := true, away := none } }))
      else none
    | _ => none
  | .overflowMove c k =>
    match takeFirst (fun e => decide (e.1 = c.ctx ∧ e.2.1 = k)) (s.slot c.sl).portOvf with
    | some (e, rest) =>
      let r := (s.ctx c).ring k
      let u := s.modSlot c.sl (fun q => { q with portOvf := rest })
      if r.bound = false then some (u.modCtx c (fun x => { x with drops := if x.drops = 255 then 255 else x.drops + 1 }))
      else if (r.tail - r.head).toNat + (if r.outAt = s.cycle then r.outN else 0) < 2 ^ r.log.toNat then some (u.ringPut c k e.2.2)
      else none
    | none => none
  | .ringDeliver n =>
    match s.ringmsgs[n]? with
    | some m =>
      match ringAddr m.addr with
      | some a =>
        let since := refusedSince s.cycle m
        let divert : Bool := match since with
          | some t => decide (t + 4096 ≤ s.cycle)
          | none => false
        let gone : State → Bool → Option State := fun u ok =>
          some (({ u with ringmsgs := u.ringmsgs.eraseIdx n } : State).wordEnds m ok)
        if (s.ringmsgs.take n).any (fun q => decide (q.ctx = m.ctx ∧ q.addr = m.addr)) = true ∨ s.crossed m.seq = false then none
        else
          match s.sendWord m.ctx.sl a m.word divert none with
          | .delivered u => gone u true
          | .diverted u => gone u true
          | .discarded u => gone u true
          | .full =>
            if m.since.isSome && m.away.isNone then some s
            else some { s with ringmsgs := s.ringmsgs.set n { m with since := some (since.getD s.cycle), away := none } }
          | .deadlock => gone s false
          | .retry =>
            if m.away.isSome then some s else some { s with ringmsgs := s.ringmsgs.set n { m with away := some s.cycle } }
      | none => none
    | none => none
  | _ => none

/-- The order in which a die sends the frames of a home channel (R99, R101): the requester whose turn comes first, and of each
requester its oldest frame. -/
def FrameOrder : Prop :=
  ∀ (s : State) (ch die : Nat) (f : Frame), s.nextFrame ch die = some f →
    let mine : Frame → Bool := fun g => decide (g.channel = ch ∧ g.source = die)
    let last := Sparse.get 255 s.frameTurn (16 * ch + die)
    (s.frames.filter (fun g => mine g && decide (g.requester = f.requester))).head? = some f ∧
      ∀ g ∈ s.frames, mine g = true → turnsAfter last f.requester ≤ turnsAfter last g.requester

/-- What an access performed at its destination leaves (R127, R139, R146): its reply holds the value that stood there, with
the half that was read first where it tore (R321); memory is as the access leaves it. (The private stores that an access by the
context's own global alias may miss, R70 and R329, and the two images of expansion memory, R89, have their own operations.) -/
def RemotePerformed : Prop :=
  ∀ (s u : State) (c : CtxId) (r : Remote) (l : Loc) (old : Nat) (fl : BitVec 5),
    (s.ctx c).remote = some r → l.inExp = false → r.mayMiss c = false → s.performAt r.op l r.size = .ok (u, old, fl) →
    (∃ q, ((s.performRemote c r l).ctx c).remote = some q ∧
      q.phase = .replied (BitVec.ofNat 128 (r.joined old)) (r.tags && s.tagAt (l.tagKey 0)) fl) ∧
    SameMemory u (s.performRemote c r l)

end Sys2Proof.Safety

/-- R99 to R101, R106, R108, R127, R138, R139, R187 to R190, R325 and R326: the network's events, where they are due; the
order of frames; and what an access leaves at its destination. -/
def Obligations.NetworkEvents : Prop := EventCompletes networkEvent ∧ FrameOrder ∧ RemotePerformed

namespace Sys2Proof.Safety

/-- A flit's beat cannot be read at its receiver, or holds what the table does not name (R111, R112): it is as a lost one. -/
def unread (s : State) (n : Fin 256) (f : Flit) : Prop :=
  let l := s.link n
  (f.kind ≠ 3 ∧ f.mask ≠ l.rxLive) ∨ (∃ w < 16, f.mask.getLsbD w = true ∧ l.rxLit.getLsbD (w / 4) = false) ∨
    6 < (List.range 96).countP (fun k => gather f.mask f.noise / 2 ^ (8 * k) % 256 != 0) ∨ f.reserved ≠ 0 ∨ 7 ≤ f.kind.toNat

/-- A numbered flit arrives (R113): one that cannot be read is as a lost one; else its acknowledgement is taken; it is
accepted where it carries the expected number, which then goes on; one from beyond a gap is answered by one negative
acknowledgement. -/
def received (s : State) (n : Fin 256) (f : Flit) : State × Bool :=
  let u := s.ackUpTo n f.ackseq
  let l := u.link n
  if (s.link n).garbled f then (s, false)
  else if f.seq = l.expect then
    (u.modLink n (fun l =>
      { l with expect := l.expect + 1, nacked := false, rxReplayed := if f.replay then l.rxReplayed + 1 else l.rxReplayed }), true)
  else if (f.seq - l.expect).toNat < 2048 ∧ l.nacked = false then
    ((u.transmit n (bareFlit 4 0 [])).modLink n (fun l => { l with nacked := true }), false)
  else (u, false)

/-- The links' events (R111, R113 to R117, R440 to R443), where they are due. The receiving end's records count the replayed flits that
it has accepted, and its 0x0322 those that lie between the expected number and the marker's too (R442; DEDUCED, assumption log
30). -/
def linkEvent (i : Instr) (s : State) : Option State :=
  match i with
  | .flitDataReceive n f =>
    if (f.kind ≠ 1 ∧ f.kind.toNat < 7) ∨ (s.link n).lost = true then none
    else some (((if (received s n f).2 then (received s n f).1.takeData n f else (received s n f).1)).pump n)
  | .completionFlitReceive n f =>
    if f.kind ≠ 5 ∨ (s.link n).lost = true then none
    else
      let r := received s n f
      some ((if r.2 then r.1.modOps n (fun o => if o.opid = some f.opid then { o with comp := some f.result } else o) else r.1).pump n)
  | .flitNackReceive n f =>
    if f.kind ≠ 4 ∨ (s.link n).garbled f = true ∨ (s.link n).lost = true then none
    else
      let u := s.ackUpTo n f.ackseq
      let l := u.link n
      some ((if l.held = [] ∨ (l.restripe = true ∧ l.first = none) then u
        else if 64 ≤ l.rounds then u.loseLink n
        else u.replayAll n).pump n)
  | .flitAckReceive n f =>
    if f.kind ∉ [0, 2, 6] ∨ (s.link n).garbled f = true ∨ (s.link n).lost = true then none
    else
      let u := s.ackUpTo n f.ackseq
      let l := u.link n
      if f.kind = 2 ∧ l.restripe = true ∧ l.first = none ∧ BitVec.ofNat 16 (numAt f.payload 0 2) = l.live then
        match l.held with
        | [] => some (((u.modLink n (fun l => { l with restripe := false, first := none })).raiseStriped n).pump n)
        | h :: _ => some (((u.modLink n (fun l => { l with first := some h.seq })).replayAll n).pump n)
      else some (u.pump n)
  | .restripeMarkerReceive n f =>
    if f.kind ≠ 3 ∨ (s.link n).garbled f = true ∨ (s.link n).lost = true then none
    else
      let u := s.ackUpTo n f.ackseq
      let m : BitVec 16 := BitVec.ofNat 16 (numAt f.payload 0 2)
      let l := u.link n
      let e := u.linkRec n 0x0322 2 1 (fibreMask n m) (l.rxReplayed + BitVec.ofNat 32 (f.seq - l.expect).toNat) (maskCount m)
      let u := if l.rxLive = m then u else (u.modLink n (fun l => { l with rxLive := m })).toPfs e
      some (u.transmit n (bareFlit 2 0 (bytesLE 2 m.toNat)))
  | .ackFlitTimer n => if (s.link n).lost then none else some ((s.transmit n (bareFlit 2 0 [])).pump n)
  | .replayTimeout n =>
    let l := s.link n
    if l.lost = true then none
    else if l.restripe = true ∧ l.first = none then some (s.transmit n (bareFlit 3 l.nextSeq (bytesLE 2 l.live.toNat)))
    else if l.held = [] ∨ s.timeNs < l.since + 4000 then none
    else if 64 ≤ l.rounds then some (s.loseLink n)
    else some (s.replayAll n)
  | .lossOfLight n ⟨g, false⟩ => some (s.modLink n (fun l => { l with lit := l.lit &&& ~~~((1 : BitVec 4) <<< g.val) }))
  | .lossOfLight n ⟨g, true⟩ => some (s.modLink n (fun l => { l with rxLit := l.rxLit &&& ~~~((1 : BitVec 4) <<< g.val) }))
  | .laserLightReturn n ⟨g, false⟩ => some (s.modLink n (fun l => { l with lit := l.lit ||| ((1 : BitVec 4) <<< g.val) }))
  | .laserLightReturn n ⟨g, true⟩ => some (s.modLink n (fun l => { l with rxLit := l.rxLit ||| ((1 : BitVec 4) <<< g.val) }))
  | .lossDetect n ⟨g, true⟩ =>
    let l := s.link n
    let mask : BitVec 16 := (0xF : BitVec 16) <<< (4 * g.val)
    if l.lost = true ∨ l.rxLit.getLsbD g.val = true ∨ l.rxLive &&& mask = 0 ∨ l.rxTold.getLsbD g.val = true then none
    else
      let e := s.linkRec n 0x0321 2 1 (fibreMask n mask) l.rxReplayed (n.val / 4 * 16 + n.val % 4 * 4 + g.val)
      let u := (s.modLink n (fun l => { l with rxTold := l.rxTold ||| ((1 : BitVec 4) <<< g.val) })).toPfs e
      some (({ u with fresh := u.fresh + 1 } : State).transmit n
        { bareFlit (BitVec.ofNat 8 (Config.freeNat u.fresh)) 0 [] with result := BitVec.ofNat 64 (g.val + 1) })
  | .lossDetect n ⟨g, false⟩ =>
    let l := s.link n
    let mask : BitVec 16 := (0xF : BitVec 16) <<< (4 * g.val)
    if l.lost = true ∨ l.lit.getLsbD g.val = true ∨ l.live &&& mask = 0 then none
    else
      let u := s.raiseLink (s.linkParts n) (s.linkRec n 0x0321 2 0 (fibreMask n mask) l.replayed
        (n.val / 4 * 16 + n.val % 4 * 4 + g.val))
      let u := u.modLink n (fun l => { l with live := (s.link n).live &&& ~~~mask, parts := (l.parts ++ s.linkParts n).dedup })
      if l.live &&& ~~~mask = 0 then some (u.loseLink n)
      else
        some (((u.modLink n (fun l => { l with restripe := true, first := none })).modOps n
          (fun o => if o.sent = true ∧ o.comp.isNone = true then { o with restriped := true } else o)).sendMarker n)
  | .linkRetrain n =>
    let l := s.link n
    if l.held ≠ [] ∨ l.lit ≠ 0xF ∨ l.rxLit ≠ 0xF ∨ (l.lost = false ∧ l.restripe = true) then none
    else
      let u := s.modLink n (fun l =>
        { l with
          live := 0xFFFF, rxLive := 0xFFFF, lost := false, restripe := false, first := none, parts := [], replayed := 0, rounds := 0
          rxTold := 0, rxReplayed := 0, nextSeq := 0, expect := 0, lastAck := 0xFFF, nacked := false })
      let u := if l.live = 0xFFFF then u else u.raiseStriped n
      some (if l.rxLive = 0xFFFF then u else u.toPfs (u.linkRec n 0x0322 2 1 (fibreMask n 0xFFFF) 0 16))
  | _ => none

/-- No flit of a link is lost, doubled or out of order: what a receiver accepts carries one number more than what it accepted
before (R111, R113). -/
def InOrder (s : State) (n : Fin 256) (f : Flit) : Prop :=
  (s.receiveFlit n f).2 = true →
    f.seq = (s.ackUpTo n f.ackseq |>.link n).expect ∧ (((s.receiveFlit n f).1).link n).expect = f.seq + 1

/-- A flit crosses as one beat, striped over the live wavelengths in ascending order: of w of them the j-th carries the 768
/ w bits from 768 / w · j on, and the receiver that reads the same wavelengths has the flit's bits again (R112); a
wavelength that is dark carries none (R114). The flit that leaves names the last number received in order (R113), and its bits are
those of its 96 bytes (R111); the bytes behind a payload shorter than 64 bytes are free (assumption log 1). -/
def Stripes : Prop :=
  (∀ (m : BitVec 16) (bits : Nat), (wavelengths m).length ∈ [4, 8, 12, 16] → bits < 2 ^ 768 →
    let w := (wavelengths m).length
    (stripe m bits).length = w ∧ gather m (stripe m bits) = bits ∧
    ∀ j < w, (stripe m bits)[j]? = some ((wavelengths m).getD j 0, bits / 2 ^ (768 / w * j) % 2 ^ (768 / w))) ∧
  (∀ (s : State) (n : Fin 256) (f : Flit), f.payload.length ≤ 64 → ∃ rest : List Byte, f.payload.length + rest.length = 64 ∧
    let l := s.link n
    let g : Flit := { f with ackseq := l.expect - 1, mask := l.live }
    let bytes := flitBytes g rest
    bytes.length = 96 ∧ bytes.take 64 = f.payload ++ rest ∧ (bytes.drop 64).take 16 = bytesLE 16 (flitHeader g).toNat ∧
    (bytes.drop 80).take 4 = bytesLE 4 (Config.crc32 (bytes.take 80)).toNat ∧ ofBytesLE bytes < 2 ^ 768 ∧
    ((s.transmit n f).link n).outgoing = l.outgoing ++
      [⟨g, (stripe l.live (ofBytesLE bytes)).map (fun p => if l.lit.getLsbD (p.1 / 4) then p else (p.1, 0))⟩])

end Sys2Proof.Safety

/-- R109 and R111 to R117, R440 to R443: the links' events, where they are due; flits are accepted in the order of their
numbers; which flits a receiver cannot read; and how a flit is striped. -/
def Obligations.LinkEvents : Prop :=
  EventCompletes linkEvent ∧ (∀ s n f, InOrder s n f) ∧ (∀ s n f, (s.link n).garbled f = true ↔ unread s n f) ∧ Stripes

namespace Sys2Proof.Safety

/-- A queue whose head is put back or taken out. -/
def behead {α : Type} (o : Option α) : List α → List α
  | _ :: r => o.toList ++ r
  | [] => []

/-- What an operation at the head of a queue leaves behind a number of its steps (R157): it stands in the queue as it now is, or
it is gone and resolved with its word. -/
def afterSteps {α : Type} (head : α → OpHead) (put : State → Option α → State) : EngStep α → State
  | .go t p => put t (some p)
  | .halt t p => put t (some p)
  | .done t p w d => (put t none).resolveOp (head p) true w d

/-- The head copy operation of a core, that many steps later. -/
def copyAfter (s : State) (core : Fin 4608) (o : CopyOp) (n : Nat) : State :=
  afterSteps CopyOp.head (fun t p => t.modCore core (fun k => { k with copyQ := behead p k.copyQ })) (runOp copyStep n s o)
/-- The head vector operation of a core, that many steps later. -/
def vecAfter (s : State) (core : Fin 4608) (o : VecOp) (n : Nat) : State :=
  afterSteps VecOp.head (fun t p => t.modCore core (fun k => { k with vecQ := behead p k.vecQ })) (runOp vecStep n s o)
/-- The head operation of a core's integrator, that many steps later. -/
def intAfter (s : State) (core : Fin 4608) (o : IntOp) (n : Nat) : State :=
  afterSteps IntOp.head (fun t p => t.modCore core (fun k => { k with intQ := behead p k.intQ })) (runOp intStep n s o)
/-- A matrix command of a core, that many steps later: the two commands that a core may have run side by side (R270). -/
def matAfter (core : Fin 4608) (s : State) (o : MatOp) (n : Nat) : State :=
  match (s.core core).matQ.find? (fun p => p.head.issued == o.head.issued) with
  | some p => match runOp matStep n s p with
    | .go t q => t.setMat core q
    | .halt t q => t.setMat core q
    | .done t q w d => t.endMat core q w d
  | none => s

/-- The engines' events (R157, R164, R242, R261, R270, R271, R296, R298, R300, R305, R309, R314, R315), where they are due. -/
def engineEvent (i : Instr) (s : State) : Option State :=
  match i with
  | .engineQueueStart core .copy n => (s.core core).copyQ.head?.map (fun o => copyAfter s core o n)
  | .engineQueueStart core .vector n => (s.core core).vecQ.head?.map (fun o => vecAfter s core o n)
  | .engineQueueStart core .integrator n => (s.core core).intQ.head?.map (fun o => intAfter s core o n)
  | .engineQueueStart core .matrix n => some ((s.core core).matQ.foldl (fun t o => matAfter core t o n) s)
  | .copyResolve core => (s.core core).copyQ.head?.map (fun o => copyAfter s core o o.left)
  | .vectorResolve core => (s.core core).vecQ.head?.map (fun o => vecAfter s core o (128 * (o.out.count + o.a.count) + 8))
  | .matrixResolve core => some ((s.core core).matQ.foldl (fun t o =>
      matAfter core t o ((match o.shape with | some sh => sh.count | none => 0) + 4)) s)
  | .etickStart core => (s.core core).intQ.head?.bind (fun o => match o.kind, o.started with
      | .tick _, false => some (intAfter s core o ((s.core core).events.length + (s.slot o.head.owner.sl).evtOvf.length + 2))
      | _, _ => none)
  | .tickDrainResume core => (s.core core).intQ.head?.bind (fun o => match o.kind, o.started with
      | .tick _, true => if o.pause = some .drain then some (intAfter s core o (o.events.length + 1)) else none
      | _, _ => none)
  | .etickResolve core => (s.core core).intQ.head?.bind (fun o => match o.kind, o.started with
      | .tick _, true => some (intAfter s core o (o.events.length + 3))
      | _, _ => none)
  | .epostvResolve core => (s.core core).intQ.head?.bind (fun o => match o.kind with
      | .postv _ => some (intAfter s core o (o.n - o.k + 4))
      | .tick _ => none)
  | .tileStep n =>
    match s.arbitrate n with
    | some (k, t, o) =>
      let left : Nat := if k = (s.cluster n).arbiter.val ∧ (s.cluster n).credit ≠ 0 then (s.cluster n).credit - 1
        else (s.core o.head.owner.core).mxw.toNat - 1
      some ((t.setMat o.head.owner.core o).modCluster n (fun u => { u with arbiter := Fin.ofNat 8 k, credit := left }))
    | none => none
  | .eventDeliver n =>
    match s.evmsgs[n]? with
    | some m =>
      if m.arrived.isSome = true ∨ m.retry = true ∨ s.crossed m.seq = false then none
      else if m.counted = true ∧ (s.olderEvent m.ctx m.target.val m.seq = true ∨ s.olderStore m.ctx m.target.val m.seq = true) then none
      else
        match s.takeEvent m.part m.target m.ev with
        | none => some { s with evmsgs := s.evmsgs.set n { m with retry := true } }
        | some t =>
          if m.counted then
            let k := arrivalKey m.ctx m.tag m.target.val
            let a := Sparse.get 0 t.arrivals k + 1
            some { t with arrivals := Sparse.put t.arrivals k a, evmsgs := t.evmsgs.set n { m with arrived := some a } }
          else some { t with evmsgs := t.evmsgs.eraseIdx n }
    | none => none
  | _ => none

/-- An operation that resolves leaves its word in the handle slot that still waits for it, RESOLVED, and its place in the
count of its tag; its flags are ORed into FFLAGS (R160, R163, R166, R210). -/
def Resolves (s : State) (o : OpHead) (w : W64) : Prop :=
  let x := s.ctx o.owner
  let y := (s.resolveOp o true w none).ctx o.owner
  y.count o.tag = x.count o.tag - 1 ∧ y.fflags = x.fflags ||| o.flags ∧
    ∀ h : Fin 16,
      let q := x.hslot h
      let r := y.hslot h
      if o.handle = some h ∧ q.state = .pending ∧ q.serial = o.serial then r.state = .resolved ∧ r.result = w ∧ r.serial = q.serial
      else r = q

/-- One element of a copy on this device (R158, R167): the bytes of the source's unit go where the destination's unit lies,
their tags are cleared, and PROGRESS goes on. -/
def CopiesUnit (s : State) (o : CopyOp) : Prop :=
  ∀ (src : Shape) (f g : Option Fmt) (near far : List Piece),
    o.kind = .cpy → o.src = some src → o.fmts = some (f, g) → o.dst.chan = none → src.chan = none → o.pause = none → o.k < o.n →
    o.out = [] → o.ending = none →
    s.cancelAsked o.head = false →
    s.elem o.head true false (unitIs (opUnit o.dst g)) anywhere src (opUnit o.dst g) o.k = .ok near →
    (s.seePieces near).elem o.head true true (unitIs (opUnit o.dst g)) o.place o.dst (opUnit o.dst g) o.k = .ok far →
    copyStep s o = .go ((s.seePieces near).putPieces far (s.getPieces near)) (CopyOp.over { o with k := o.k + 1 })

end Sys2Proof.Safety

/-- R157, R160, R163, R164, R166, R167, R242, R270, R271, R300, R305, R309, R314 and R315: the engines' events, where they are
due; what
an operation that resolves leaves; and one element of a copy. -/
def Obligations.EngineEvents : Prop :=
  EventCompletes engineEvent ∧ (∀ s o w, Resolves s o w) ∧ ∀ s o, CopiesUnit s o

namespace Sys2Proof.Safety

/-- The miss of a page ends for a core (R78 to R80, R82): by an entry that another level of its reach holds, else by the
walk, which fills the TLBs, or ends in a fault. A host page asks the host; a page that is not present has a fault record,
but for an absent FILE page, which the initiator serves; an absent host page is not serviced. -/
def missOver (die : Fin 4) (part : Fin 64) (d : W64) (s : State) (k : Fin 4608) : State :=
  let root := (s.part part).ptroot
  let all : State → WalkResult → State := fun t e => (t.endMiss part d k e).endIncoming part d k e
  match s.tlbFind k part d, s.walk root d with
  | some e, _ => all (s.refill k e) .found
  | none, .ok l => if pteMT l.pte = 5 then all s .service else all (s.tlbFill k part l) .found
  | none, .error .notPresent =>
    let file : Bool := match s.walkEnd d.toNat 4 root.toNat with | some (lvl, _, p) => isAbsentFile p lvl | none => false
    let host : Bool := match s.walkEnd d.toNat 4 root.toNat with | some (_, _, p) => pteL p && pteMT p == 5 | none => false
    if host then all s (.fault .notPresent)
    else
      let t : State := if file = true ∨ k ∉ s.missCores part d ∨ s.faultNoted part d = true then s
        else { s with faults := s.faults ++ [⟨part, d, die⟩] }
      (t.endMiss part d k .service).endIncoming part d k (.fault .notPresent)
  | none, .error r => all s (.fault r)

/-- What the end of a miss leaves a context that waited for the page (R80): it is READY; or it waits for the service; or its
fault is its instruction's trap. Every other context is as before. -/
def MissEnds (s : State) (part : Fin 64) (d : W64) (k : Fin 4608) (e : WalkResult) : Prop :=
  ∀ c : CtxId,
    let x := s.ctx c
    let y := (s.endMiss part d k e).ctx c
    (∀ a w, c.core = k → s.partOf c.sl = part → x.status = .waiting (.walk a w) → samePage d a = true →
      match e with
      | .found => y = { x with status := x.awake }
      | .service => y = { x with status := .waiting (.service a w) }
      | .fault r => y = { x with status := x.awake, refusal := some (a, r) }) ∧
    ((c.core ≠ k ∨ s.partOf c.sl ≠ part ∨ x.walkOf d = false) → y = x)

/-- A step that reads words and writes ranges of HBM, where no host holds their lines; else its snoops (R86). -/
def snooped (s : State) (reads : List Nat) (writes : List (Nat × Nat)) (t : State) : State :=
  match s.heldLine reads writes with
  | some (n, w) => s.snoop n w
  | none => t

/-- Translation's events (R79 to R84, R86, R87, R91 to R97), where they are due. -/
def translationEvent (i : Instr) (s : State) : Option State :=
  match i with
  | .pageWalk die part d =>
    let cores := ((s.missCores part d ++ s.incomingWalks part d).dedup).filter (fun k => dieOf k == die)
    let walks := (s.die die).walks
    let key : Fin 64 × Nat := (part, d.toNat / 4096)
    if cores = [] ∧ key ∉ walks then none
    else
      let far := cores.filter (fun k => (s.tlbFind k part d).isNone)
      let u := (cores.filter (fun k => (s.tlbFind k part d).isSome)).foldl (missOver die part d) s
      if key ∈ walks.take 64 then
        some (snooped u (u.pathOf part d) (u.acWrite part d)
          (far.foldl (missOver die part d) (u.modDie die (fun q => { q with walks := q.walks.filter (fun w => w != key) }))))
      else if far = [] ∨ key ∈ walks then some u
      else some (u.modDie die (fun q => { q with walks := q.walks ++ [key] }))
  | .shootdownComplete n =>
    match s.shoots[n]? with
    | some h =>
      if s.usesRange h.part h.base h.len h.ats then none
      else
        let dropped : State := if h.ats then
            { s with invalDone := (h.part, h.base, h.len) :: s.invalDone, tlb := s.tlb.filter (fun e => !(e.part == h.part && pteMT e.pte == 5 &&
              (h.len == 0 || (decide (e.vbase < h.base.toNat + h.len.toNat) && decide (h.base.toNat < e.vbase + e.size))))) }
          else s.tlbDrop h.part h.base h.len
        let done : State := { dropped with shoots := s.shoots.eraseIdx n }
        let done := if h.frees = [] then done
          else done.modPart h.part (fun p => { p with pool := p.pool.filter (fun q => !h.frees.contains q.1) })
        match h.asker with
        | some f => some (done.answer f 0 0)
        | none => some done
    | none => none
  | .atsInvalidate part d n => some { s with shoots := s.shoots ++ [⟨part, d, n, none, true, []⟩] }
  | .faultService part d frames =>
    if s.waiters part d = 0 ∧ s.faultNoted part d = false then none
    else
      match s.walkEnd d.toNat 4 (s.part part).ptroot.toNat with
      | none => if s.faultNoted part d then some (s.resolvePage part (d.toNat / 4096 * 4096) 4096) else none
      | some (lvl, at_, pte) =>
        if isAbsentFile pte lvl = true then if 0 < s.waiters part d then some (s.serveFile part d (fileIndex pte) frames) else none
        else if s.faultNoted part d = false then none
        else
          let n := servicePage pte lvl
          let base := d.toNat / n * n
          if (s.part part).allows base n = true ∧ base + n ≤ 0x00FFFF0000000000 ∧ ¬ (pteL pte = true ∧ pteMT pte = 5) then
            (s.makePage part d.toNat lvl at_ pte frames).map (fun t =>
              snooped s (s.pathOf part d) ((at_, 8) :: frames.map (fun f => (f, n))) (t.resolvePage part base n))
          else some (s.refuse part d .notPresent)
  | .nvmeReadComplete part idx st data =>
    let e := s.pcEntry part idx
    let d := s.pcDva e
    (s.nvme.find? (fun c => c.part == part && c.index == idx && c.write == false)).bind (fun c =>
      if s.pcState e ≠ 1 then none
      else
        let f := c.frame
        let leaf := s.fileLeaf part d
        let done : State := { s with nvme := s.nvme.erase c }
        let page := (data ++ List.replicate 4096 0).take 4096
        let there := (((done.poke (.hbm f) page).setPcState e 2 0 0).setHbm64 (e + 40) (BitVec.ofNat 64 f)).modPart part
          (fun p => { p with files := p.files ++ [idx] })
        let mapped := match leaf with
          | some a => there.setHbm64 a ((withFrame (there.hbm64 a) f &&& ~~~(acBit ||| diBit)) ||| 1)
          | none => there
        some (snooped s [] ([(f, 4096), (e, 64)] ++ leaf.toList.map (fun a => (a, 8)))
          (if st = 0 then mapped.resolvePage part (d.toNat / 4096 * 4096) 4096
            else ((done.setPcState e 0 1 st.toNat).modPart part (fun p => { p with pool := p.pool.filter (fun q => q.1 != f) })).refuse
              part d .fileReadError)))
  | .writebackComplete part idx =>
    let e := s.pcEntry part idx
    let d := s.pcDva e
    let leaf := s.fileLeaf part d
    if s.pcState e ≠ 3 then none
    else
      let u := { (s.setPcState e 2 0 0).modPart part (fun p => { p with writing := p.writing.filter (fun x => x != d) }) with
        nvme := s.nvme.filter (fun c => !(c.part == part && c.index == idx && c.write)) }
      some (snooped s (s.pathOf part d) ((e, 64) :: leaf.toList.map (fun a => (a, 8))) (match leaf with
        | some a => { u.setHbm64 a (u.hbm64 a &&& ~~~diBit) with
          tlb := u.tlb.map (fun t => if t.pteAt = a then { t with pte := t.pte &&& ~~~diBit } else t) }
        | none => u))
  | .atsTranslationCompletion die part d rd wr =>
    let cores := (s.waitCores part (fun x => x.serviceOf d) (fun p => pausedService p d) ++ s.incomingAsks part d).filter
      (fun k => dieOf k == die)
    let waits := s.waitCores part (fun x => x.serviceOf d) (fun p => pausedService p d)
    match s.walk (s.part part).ptroot d with
    | .ok l =>
      if pteMT l.pte ≠ 5 ∨ cores = [] then none
      else
        let page := d.toNat / 4096 * 4096
        if rd = false then some ((if waits = [] then s else s.askPage part d).answerIncoming part d false .notPresent)
        else
          let pte := if wr then l.pte else l.pte &&& ~~~8
          let filled := cores.foldl (fun t k => t.tlbFill k part { l with pte := pte }) s
          let read := filled.releaseReaders part page 4096
          let u := if s.serviceWrite part d = true ∧ wr = false ∧ pteWR l.pte = true then
              (if read.waitCores part (fun x => x.serviceOf d) (fun p => pausedService p d) = [] then read else read.askPage part d)
            else filled.resolvePage part page 4096
          some (snooped s (s.pathOf part d) (s.acWrite part d) (u.answerIncoming part d wr .permission))
    | .error _ => none
  | .priResponse vf grp code =>
    match Sparse.find? (s.vf vf).groups grp.val with
    | some g =>
      let u := s.modVf vf (fun v => { v with groups := Sparse.erase v.groups grp.val })
      if g.orphaned then some (u.modVf vf (fun v => { v with latePrg := v.latePrg + 1 }))
      else
        match code with
        | .success => some u
        | .invalid => some (u.refuse g.part g.dva .hostDenied)
        | .failure => some ((u.modVf vf (fun v => { v with noPri := true })).refuse g.part g.dva .hostDenied)
    | none => none
  | .prgQuarantineExpire vf grp =>
    match Sparse.find? (s.vf vf).groups grp.val with
    | some g =>
      if g.orphaned = true ∧ g.since + 2000000000 ≤ s.timeNs then
        some (s.modVf vf (fun v => { v with groups := Sparse.erase v.groups grp.val }))
      else none
    | none => none
  | .hostSnoop part line inv =>
    let n := (Loc.host part (line.toNat * 64)).place 0 / 64
    match Sparse.find? s.sideCache n with
    | some _ => some { s with sideCache := if inv then Sparse.erase s.sideCache n else Sparse.put s.sideCache n .shared }
    | none => none
  | .bisnpResponse host line data =>
    match Sparse.find? s.hostLines line.toNat with
    | some h =>
      if host ∉ h.holders then none
      else
        let u := if h.excl then s.poke (.hbm (64 * line.toNat)) (data.take 64) else s
        let left := h.holders.filter (fun x => x != host)
        if h.snooping = some false then some (u.setLine line.toNat { h with excl := false, snooping := none })
        else some (u.setLine line.toNat { holders := left, excl := false, snooping := if left = [] then none else h.snooping })
    | none => none
  | .hostHdmWrite host a data => if s.inHdm host a data.length then some (s.poke (.hbm a.toNat) data) else none
  | .hostHdmRead host a n excl =>
    if s.inHdm host a n then
      let lines := (List.range ((a.toNat % 64 + n + 63) / 64)).map (fun k => a.toNat / 64 + k)
      if let some v := s.evicts lines then some { s.snoop v true with fresh := s.fresh + 1 }
      else some (lines.foldl (fun t k =>
        let h := (Sparse.find? t.hostLines k).getD ⟨[], false, none⟩
        t.setLine k { h with holders := host :: (if excl then [] else h.holders.filter (fun x => x != host)), excl := excl })
        { s with hostRead := s.readBytes (.hbm a.toNat) n, fresh := s.fresh + 1 })
    else none
  | _ => none

/-- A page that the fault service makes lies in frames of the tenant's pool that no partition held, that are in service and
that are zeroed (R83, R413): stated for a page below a template. -/
def MakesPage (s : State) (part : Fin 64) (dva lvl at_ : Nat) (pte : W64) (f : Nat) : Prop :=
  isTemplate pte lvl = true → ∀ t, s.makePage part dva lvl at_ pte [f] = some t →
    (∃ q ∈ (s.part part).ranges, q.1 ≤ f ∧ f + entryBytes lvl ≤ q.1 + q.2) ∧
    (∀ p ∈ s.parts, ∀ q ∈ p.2.pool, f + entryBytes lvl ≤ q.1 ∨ q.1 + q.2 ≤ f) ∧
    (∀ q ∈ s.badFrames, f + entryBytes lvl ≤ q.1 ∨ q.1 + q.2 ≤ f) ∧
    (t.part part).pool = (f, entryBytes lvl) :: (s.part part).pool ∧
    (∀ b, f ≤ b → b < f + entryBytes lvl → (b < at_ ∨ at_ + 8 ≤ b) → t.byteAt b = 0)

end Sys2Proof.Safety

/-- R79 to R84, R86, R87 and R91 to R97: translation's events, where they are due; how a miss ends for those who wait; and
the page that the fault service makes. -/
def Obligations.TranslationEvents : Prop :=
  EventCompletes translationEvent ∧ (∀ s part d k e, MissEnds s part d k e) ∧ ∀ s part dva lvl at_ pte f, MakesPage s part dva lvl at_ pte f

namespace Sys2Proof.Safety

/-- A service answers a context's request: its SYSCALL goes on with a status, and a value where there is one; the answer to
a request whose SYSCALL was abandoned reaches nobody (R408). -/
def answered (s : State) (c : CtxId) (service : Nat) (st : W64) (v : Option Reg) : State :=
  let mine : Machine.Posted → Bool := fun p => p.ctx == c && p.req.service.toNat == service
  if s.posted.any mine then { s with posted := s.posted.eraseP mine }
  else s.modCtx c (fun x =>
    { x with
      status := (match x.status with
        | .waiting _ => if x.attached then .following true else .ready
        | st => st)
      sysreq := x.sysreq.map (fun r => { r with answer := some (st, v) }) })

/-- The services' events (R83, R97, R373 to R375, R408, R422, R438), where they are due: status 0 where the service acts,
and the codes of R375 and R97 where it does not. -/
def serviceEvent (i : Instr) (s : State) : Option State :=
  match i with
  | .domnew c id =>
    (s.asks c 0x40).bind (fun q =>
      let part := q.2
      if 256 ≤ s.idsOf part then some (answered s c 0x40 0x23 none)
      else if (s.domPart 0 id).isSome then none
      else
        let u := s.modDies (fun d => { d with owner := Sparse.put d.owner id.toNat part, live := Sparse.put d.live id.toNat true })
        some (answered u c 0x40 0 (some (mkCap (permSE ||| permUS ||| permG) id (0, 0, 0) 0))))
  | .domgrant c =>
    (s.asks c 0x41).map (fun _ =>
      let m := (s.ctx c).reg 5
      let g := (s.ctx c).reg 6
      if m.tag = 1 ∧ m.otype = 0 ∧ lacks m (permSE ||| permUS) = false ∧ capTop m = capBase m ∧
          s.live (dieOf c.core) m.owner = true ∧ s.domPart (dieOf c.core) m.owner = some (s.partOf c.sl) ∧
          g.tag = 1 ∧ g.otype = 0 ∧ g.owner = (s.ctx c).dom then
        answered s c 0x41 0 (some (withPerms (withOwner g m.owner) (g.perms &&& ~~~(permSE ||| permUS))))
      else answered s c 0x41 0x24 none)
  | .dspage c frames =>
    (s.asks c 0x42).bind (fun q =>
      let d := (q.1.args.headD Reg.zero).lo
      let part := q.2
      let base := (s.slot c.sl).dsbase.toNat
      if d.toNat < base ∨ base + spillBytes ≤ d.toNat then some (answered s c 0x42 0x24 none)
      else
        match s.walkEnd d.toNat 4 (s.part part).ptroot.toNat with
        | none => some (snooped s (s.pathOf part d) [] (answered s c 0x42 0 none))
        | some (lvl, at_, pte) => (s.makePage part d.toNat lvl at_ pte frames).map (fun t =>
            snooped s (s.pathOf part d) ((at_, 8) :: frames.map (fun f => (f, 4096)))
              (answered (t.resolvePage part (d.toNat / 4096 * 4096) 4096) c 0x42 0 none)))
  | .gimport c =>
    (s.asks c 0x43).map (fun q =>
      match s.importOf q.2 (q.1.args.headD Reg.zero).lo with
      | some g => answered s c 0x43 0 (some g)
      | none => answered s c 0x43 0x25 none)
  | .fsync c ok =>
    (s.asks c 0x31).map (fun q =>
      let part := q.2
      let d := (q.1.args.headD Reg.zero).lo
      let n := ((q.1.args.drop 1).headD Reg.zero).lo
      if s.syncing part d n then (if ok then s else answered (s.failSync part d n) c 0x31 stIo none)
      else if s.dirtyFiles part d n = [] then answered s c 0x31 0 none
      else s.startSync part d n)
  | .livenessUpdate die dom =>
    if dom ∈ s.revoking then
      let u := s.modDie die (fun d => { d with live := Sparse.put d.live dom.toNat false })
      some (if allDies.all (fun k => !u.live k dom) = true then { u with revoking := s.revoking.filter (fun d => d != dom) } else u)
    else none
  | .tenantAbort part =>
    if (s.part part).assigned = true ∧ s.firmwareActs = true then
      let dead := s.killDomains part
      let ended := ((dead.part part).tasks.filter (fun t => t.state != .done)).foldl (fun t u => t.killTask part u) dead
      let u := (ended.slotsOfPart part).foldl (fun t sl => if t.nestedSlot sl then t.endSlot sl else t.unbindSlot sl) ended
      let kept := u.dropSaved (fun v => v.slot.bind.part == part && !v.nested)
      some { kept with saved := kept.saved.map (fun v => if v.slot.bind.part = part then v.endOwn else v) }
    else none
  | _ => none

/-- Scheduling's events (R335, R338 to R340, R342, R350, R366, R368, R383, R385, R386, R401, R433), where they are due. -/
def schedulingEvent (i : Instr) (s : State) : Option State :=
  match i with
  | .contextWake c =>
    match (s.ctx c).status with
    | .waiting w =>
      if s.waitMet c w = false then none
      else match w, (s.ctx c).closing with
        | .ending, some (.double cause) => some (s.doubleEnd c cause.toNat)
        | .barrier _, _ => some (s.barrierSweep c.sl)
        | .join _ a, _ => some (s.joinDone c a)
        | _, _ => some (woken s c)
    | _ => none
  | .heldCyclesExpire c =>
    let last := s.cycle + (4096 - (s.ctx c).held)
    let issue := max (s.core c.core).nextIssue (s.ctx c).notBefore
    if (s.ctx c).status = .issuing ∧ last ≤ max s.cycle issue then
      some ((s.modCtx c (fun x => { x with status := .ready, held := 0 })).modCore c.core (fun k =>
        { k with nextIssue := min k.nextIssue last }))
    else none
  | .sliceExpire core =>
    let sl : SlotId := ⟨core, (s.core core).holds⟩
    let last := max s.cycle (s.slot sl).holdFrom + ((s.slot sl).sliceLen - (s.slot sl).used)
    let next := (s.issuer sl).or (s.nextReady sl (s.slot sl).lastRun)
    if s.slotRuns sl = true ∧ next.any (fun c => last ≤ max (max s.cycle (s.core core).nextIssue) (s.ctx c).notBefore) = true then
      let down : State := match s.issuer sl with
        | some c => s.modCtx c (fun x => { x with status := .ready })
        | none => s
      some (match down.nextSlot core sl.slot with
        | some k => (down.modSlot sl (fun q => { q with sliced := k != sl.slot })).giveIssue core k last true
        | none => down)
    else none
  | .drowsy sl =>
    if (s.core sl.core).holds ≠ sl.slot ∧ (s.slot sl).heldAt + 1000 ≤ s.cycle then some (s.modSlot sl (fun q => { q with drowsy := true }))
    else none
  | .belayWake c =>
    match (s.ctx c).watching with
    | some w => if w.monitored = true ∧ w.hit = true then some (s.modCtx c (fun x => { x with status := x.awake })) else none
    | none => none
  | .belayRecheck c =>
    match (s.ctx c).watching with
    | some w =>
      if w.monitored = true ∨ s.cycle < w.readAt + 2048 then none
      else if BitVec.ofNat 128 (s.readNat w.loc w.size) ≠ w.value then some (s.modCtx c (fun x => { x with status := x.awake }))
      else some (s.modCtx c (fun x => { x with status := (match x.status with
        | .belayed v => .belayed { v with readAt := s.cycle }
        | .parked v => .parked { v with readAt := s.cycle }
        | st => st) }))
    | none => none
  | .phaseComplete c n =>
    let d := (s.ctx c).domReg n.val
    if (s.ctx c).live = true ∧ d.valid = true then some (s.phaseSweep (s.partOf c.sl) c.slot d 1) else none
  | .unwindCheck c => s.unwindStep c
  | .frameExpire c j => if (s.ctx c).expired (j.val + 1) then s.unwindStep c else none
  | .cleanupBudgetExpire c =>
    if (s.ctx c).creason ≠ 0 ∧ (s.ctx c).cleanAt + 100000 ≤ (s.ctx c).charged then s.unwindStep c else none
  | _ => none

/-- A revocation is complete only when the domain is dead on every die (R387, R394). -/
def RevokesEverywhere (die : Fin 4) (dom : BitVec 12) (s : State) : Prop :=
  s.mcheck = false → dom ∈ s.revoking → ∀ t, exec (.livenessUpdate die dom) s = .next t →
    t.live die dom = false ∧ (dom ∉ t.revoking → ∀ k, t.live k dom = false)

end Sys2Proof.Safety

/-- R83, R97, R373 to R375, R387, R394, R408, R422 and R438: the services' events, revocation and the abort of a tenant,
where they are due. -/
def Sys2Proof.Safety.ServiceEvents : Prop := EventCompletes serviceEvent ∧ ∀ die dom s, RevokesEverywhere die dom s

/-- R335, R338 to R340, R342, R350, R366, R368, R383, R385, R386, R401 and R433: scheduling's events, where they are due. -/
def Sys2Proof.Safety.SchedulingEvents : Prop := EventCompletes schedulingEvent

/-- The events of services, of the domain stack and of scheduling, where they are due; and a revocation is complete only
when the domain is dead on every die. -/
def Obligations.SlotEvents : Prop :=
  Safety.ServiceEvents ∧ Safety.SchedulingEvents

namespace Sys2Proof.Safety

/-- A task of a partition goes to a state (R362). -/
def taskTo (s : State) (part : Fin 64) (t : Task) (st : TaskState) : State :=
  s.modPart part (fun q => { q with tasks := q.tasks.map (fun u => if u.order = t.order then { u with state := st } else u) })

/-- A task does not run: STATUS 0x8001 with an LREASON (R361). -/
def notRun (s : State) (part : Fin 64) (t : Task) (reason : BitVec 8) : State := s.finishTask part t 0x8001 reason 0

/-- The events of tasks, slots and the clock (R32, R118, R120, R360 to R364, R369 to R372, R413, R422, R423, R436, R439),
where they are due. -/
def taskEvent (i : Instr) (s : State) : Option State :=
  match i with
  | .launchRecordAccept part true =>
    match (s.part part).devQueue with
    | r :: rest =>
      if s.firmwareActs = true ∧ (s.part part).assigned = true ∧ (s.vf (s.part part).vf).teardown = false then
        some ((s.modPart part (fun q => { q with devQueue := rest })).acceptRecord part r)
      else none
    | [] => none
  | .launchRecordAccept part false =>
    let n := (s.part part).vf
    let v := s.vf n
    if s.firmwareActs = true ∧ (s.part part).assigned = true ∧ v.teardown = false ∧ v.head ≠ v.tail then
      let copied := s.modVf n (fun v => { v with
        head := v.head + 1, stale := v.stale.filter (fun w => w.1 / 128 != v.head.toNat % 256) })
      some (({ copied with fresh := s.fresh + 16 } : State).acceptRecord part (s.copyRecord n v.head.toNat))
    else none
  | .taskDependencesMet part task =>
    ((s.part part).task task).bind (fun t =>
      let p := s.part part
      if t.state ≠ .queued ∨ s.firmwareActs = false then none
      else if t.recd.deps.any p.depFailed then some (notRun s part t 3)
      else if t.recd.deps.all p.depMet = true ∧ s.parts.all (fun q => q.2.tasks.all (fun u => !q.2.startable u || t.before u)) = true then
        some (taskTo s part t .placing)
      else none)
  | .taskPlace part task picks =>
    ((s.part part).task task).bind (fun t =>
      if t.state ≠ .placing ∨ s.firmwareActs = false then none
      else if s.tooFew t s.coreGone then some (notRun s part t 4)
      else if picksOk t picks then
        (State.bindPicks part t picks s).map (fun u => u.modPart part (fun q => q.modTask t.order (fun v =>
          { v with state := .loading, slots := picks.map (fun k => k.sl) })))
      else none)
  | .imageLoad part task textAt dataAt stackAt frames =>
    if task = 0 then
      (s.idleSupervisor part).bind (fun sl => (s.imageAt part (s.part part).supImage).bind (fun g =>
        if s.firmwareActs = true ∧ g.fits (s.slot sl).bind = true then
          ({ s with fresh := s.fresh + 4 } : State).loadImageOn part (s.part part).supImage g [sl] s.freeArgs textAt dataAt stackAt frames
        else none))
    else
      ((s.part part).task task).bind (fun t =>
        if t.state ≠ .loading ∨ s.firmwareActs = false ∨
            t.slots.all (fun sl => s.present part sl && !s.copyingWeights part (dieOf sl.core)) = false then none
        else
          match s.imageAt part t.recd.image with
          | none => some (notRun s part t 5)
          | some g =>
            if t.slots.all (fun sl => g.fits (s.slot sl).bind) = false then some (notRun s part t 1)
            else (s.loadImageOn part t.recd.image g t.slots t.recd.args textAt dataAt stackAt frames).map (fun u =>
              taskTo (u.installTask task t.slots) part t .running))
  | .taskDone part task =>
    ((s.part part).task task).bind (fun t =>
      if t.abort = true then (if s.firmwareActs = true then some (s.abortTask part t) else none)
      else if t.state = .running ∧ s.firmwareActs = true ∧ t.slots.all (fun sl => s.slotEnded part sl && !s.nestedSlot sl) = true then
        some (s.finishTask part t 0 0 ((s.taskResult part t).getD 0))
      else none)
  | .slotBind sl b frames => if s.mayBind sl b then s.bindSlot sl b frames else none
  | .slotUnbind sl =>
    if s.slotHeld sl = true ∧ s.firmwareActs = true ∧ s.nestedSlot sl = false then some (s.unbindSlot sl) else none
  | .slotEvict sl =>
    match (s.slot sl).phase with
    | .bound => if s.isVictim sl then some (s.modSlot sl (fun q => { q with phase := .leaving })) else none
    | .leaving =>
      if s.firmwareActs = true ∧ s.mayLeave sl = true then
        let down : State := match s.issuer sl with
          | some c => s.modCtx c (fun x => { x with status := .ready })
          | none => s
        some (down.modSlot sl (fun q => { q with phase := .evicting }))
      else none
    | .evicting => if s.firmwareActs then some (s.evict sl) else none
    | .unbound => none
  | .slotRestore sl n =>
    (s.saved[n]?).bind (fun v =>
      if v.sl = sl ∧ s.mayRestore v = true then some (({ s with saved := s.saved.eraseIdx n } : State).restore v) else none)
  | .clockModeChange solo =>
    if s.firmwareActs = true ∧ (solo = true → s.tenants.length = 1 ∧ s.clock.shared + 1000000 ≤ s.timeNs) ∧ solo ≠ s.clock.solo then
      some { s with clock := { s.clock with solo := solo, mhz := 700 } }
    else none
  | .powerCapClockStep mhz =>
    if s.clock.solo = true ∧ 700 ≤ mhz.val ∧ mhz.val ≤ 820 then some { s with clock := { s.clock with mhz := mhz.val } } else none
  | _ => none

/-- A slot that is bound starts clean (R120, R364): every context is as at reset, and its local store is zero and holds no
tag. -/
def StartsClean (s : State) (sl : SlotId) (b : BindRec) (frames : List Nat) : Prop :=
  ∀ t, s.bindSlot sl b frames = some t →
    (t.slot sl).bind = b ∧ (t.slot sl).phase = .bound ∧ (t.slot sl).lsg = [] ∧ (∀ n : Fin 11, t.ctx ⟨sl.core, sl.slot, n⟩ = Ctx.reset) ∧
    (b.none_ = false → b.mode.toNat ≤ 2 → ∀ k < slotBytes b.mode.toNat,
      t.byteAt ((t.slotLoc sl k).place 0) = 0 ∧ t.tagAt ((t.slotLoc sl k).tagKey 0) = false)

/-- A record of the device after a machine check (R414): the device has stopped, and the dump is the last. -/
def Stopped (s : State) : Prop := s.mcheck = true ∧ s.dump.isSome = true

/-- The events of errors (R102, R131 to R133, R412 to R414, R428, R430, R432), where they are due. DETAIL of a machine check
whose cause the spec does not detail is free (assumption log 1). -/
def errorEvent (i : Instr) (s : State) : Option State :=
  match i with
  | .machineCheck unit detail =>
    let named := (0x10 ≤ unit.toNat ∧ unit.toNat < 0x14) ∨ (0x20 ≤ unit.toNat ∧ unit.toNat < 0x24) ∨
      (0x30 ≤ unit.toNat ∧ unit.toNat < 0x38) ∨ unit.toNat = 0x60
    let port := detail.toNat % 4
    let u : State := if named then s else
      { s with ide := Sparse.put s.ide port { Sparse.get ⟨[], false⟩ s.ide port with stopped := true } }
    some (u.machineCheck unit.toNat detail.toNat)
  | .layChannelFail _ => some (s.takeFresh.checkUnit (Config.freeNat s.fresh % 2 ^ 8))
  | .storageError (.registers sl) lasting uncorr =>
    if lasting = true ∨ uncorr = true then (if (s.slot sl).retired then none else some (s.retireSlot sl))
    else some (s.modDie (dieOf sl.core) (fun x => { x with regErr := x.regErr + 1 }))
  | .storageError (.localBank core _) _ true => some (s.checkUnit (0x10 + (dieOf core).val))
  | .storageError (.localBank core bank) true false =>
    match (s.core core).failed with
    | none => some (((s.modCore core (fun k => { k with failed := some bank })).modDie (dieOf core)
        (fun x => { x with lastErr := x.lastErr + 1 })).toPfs
          (s.evRec 0x0401 2 (0x10 + (dieOf core).val) (core.val + bank.val * 2 ^ 16) (s.core core).transient.toNat))
    | some b => if b = bank then none else some (s.checkUnit (0x10 + (dieOf core).val))
  | .storageError (.localBank core bank) false false =>
    if (s.core core).failed = some bank then none
    else if (s.core core).failed.isSome then some (s.checkUnit (0x10 + (dieOf core).val))
    else some ((s.modCore core (fun k => { k with transient := k.transient + 1 })).modDie (dieOf core)
      (fun x => { x with lsErr := x.lsErr + 1 }))
  | .storageError (.sideArray core) _ true => some (s.checkUnit (0x10 + (dieOf core).val))
  | .storageError (.sideArray core) _ false =>
    some ((s.modCore core (fun k => { k with transient := k.transient + 1 })).modDie (dieOf core) (fun x => { x with lsErr := x.lsErr + 1 }))
  | .storageError (.secded core) lasting uncorr =>
    let d := dieOf core
    if uncorr then some (s.checkUnit (0x10 + d.val))
    else if lasting then some (s.modDie d (fun x => { x with lastErr := x.lastErr + 1 }))
    else some (s.modDie d (fun x => { x with secErr := x.secErr + 1 }))
  | .storageError (.weightStore die g) lasting uncorr =>
    if uncorr then some (s.checkUnit (0x10 + die.val))
    else if lasting = false then some (s.modDie die (fun x => { x with secErr := x.secErr + 1 }))
    else
      let left := Sparse.get 64 (s.die die).spares g.val
      let u := s.modDie die (fun x => { x with lastErr := x.lastErr + 1 })
      if left = 0 then some u
      else some ((u.modDie die (fun x => { x with spares := Sparse.put x.spares g.val (left - 1) })).toPfs
        (u.evRec 0x0403 2 (0x10 + die.val) g.val (left - 1)))
  | .storageError (.sideCache base) lasting uncorr =>
    if uncorr then some (s.checkUnit (0x30 + base.val)) else if lasting then some s.wayError else none
  | .storageError (.hbmFrame base frame part dva fresh) lasting uncorr =>
    if uncorr then some (s.checkUnit (0x30 + base.val))
    else if lasting = true ∧ frame.toNat % 8 = base.val then some (s.frameError base frame.toNat part dva fresh)
    else none
  | .thermalWarning temp =>
    if temp.toNat < 1050 then none
    else if 1150 ≤ temp.toNat then some (s.checkUnit 0x60)
    else if s.thermal then none
    else some (({ s.takeThree with thermal := true } : State).toPfs (s.openRec 0x0601 none temp.toNat))
  | .thermalClear temp => if temp.toNat < 1000 then some { s with thermal := false } else none
  | _ => none

end Sys2Proof.Safety

/-- R32, R118, R120, R360 to R364, R369 to R372, R413, R422, R423, R436 and R439: the events of tasks, slots and the clock,
where they are due; and a slot that is bound starts clean. -/
def Obligations.TaskEvents : Prop := EventCompletes taskEvent ∧ ∀ s sl b frames, StartsClean s sl b frames

/-- R102, R131 to R133, R412 to R414, R428, R430 and R432: the events of errors, where they are due; a machine check stops the
device
and writes the dump. -/
def Obligations.ErrorEvents : Prop := EventCompletes errorEvent ∧ ∀ (s : State) unit detail, Stopped (s.machineCheck unit detail)

namespace Sys2Proof.Safety

/-- A slot of the launch window lies between HEAD and TAIL (R423). -/
def between (q : Vf) (i : Nat) : Bool :=
  decide ((q.tail - q.head).toNat = 256 ∨ (i + 256 - q.head.toNat % 256) % 256 < (q.tail - q.head).toNat)

/-- The word at an offset of a window. -/
def wordOf (l : Sparse Byte) (o : Nat) : W64 :=
  BitVec.ofNat 64 (ofBytesLE ([0, 1, 2, 3, 4, 5, 6, 7].map (fun i => Sparse.get 0 l (o + i))))

/-- A teardown begins (R93, R426, R430): TEARDOWN reads 1 and the page request groups are orphaned; steps 2 to 4 are taken at
once where firmware acts. -/
def begun (s : State) (n : Fin 64) : State :=
  let u := s.modVf n (fun q => { q with
    teardown := true, groups := q.groups.map (fun g => (g.1, { g.2 with orphaned := true, since := s.timeNs })) })
  if s.firmwareActs = true then u.tearDown n else u

/-- TAIL of a VF is written (R417, R423, R424, R426, R429): at its doorbell page, or at the mirror of its PF. -/
def rung (s : State) (n : Fin 64) (tail : BitVec 32) : State :=
  let q := s.vf n
  let room := (tail - q.head).toNat ≤ 256 ∧ (q.tail - q.head).toNat ≤ (tail - q.head).toNat
  if q.teardown then s
  else if q.part.isSome = true ∧ s.fw.boot = .ready ∧ room then s.modVf n (fun q => { q with tail := tail })
  else s.modVf n (fun q => { q with dbErr := q.dbErr + 1 })

/-- What hosts do to a function (R93, R120, R414, R415, R417 to R426), where it is due. DEBUG_WINDOW_READ is stated for the
bytes whose place and content the spec gives; the others are free (assumption log 1), as severity, unit and DETAIL of the
record of a teardown. -/
def hostEvent (i : Instr) (s : State) : Option State :=
  match i with
  | .registerWrite (.pf n) off data => if off % 8 = 0 then some (s.writePf n off data) else none
  | .registerWrite (.vf n) off data =>
    if off % 8 ≠ 0 then none
    else if off < 0x8000 then some (s.modVf n (fun q => { q with
      window := putWord q.window off data
      stale := if between q (off / 128) then (off, wordOf q.window off) :: q.stale else q.stale }))
    else if off = 0x10000 then some (rung s n (data.setWidth 32))
    else if 0x11000 ≤ off ∧ off < 0x11040 then
      some (s.modVf n (fun q => { q with mbox := { q.mbox with req := q.mbox.req.set ((off - 0x11000) / 8) data } }))
    else if off = 0x11080 then some (s.ringMailbox (.vf n) data)
    else if off = 0x13000 then some (s.modVf n (fun q => { q with ring := { q.ring with head := data.extractLsb' 32 32 } }))
    else some s
  | .doorbell n tail => some (rung s n tail)
  | .mstateRead f =>
    let u : State := { s with hostRead := bytesLE 8 (s.mbox f).mstate }
    some (if (s.mbox f).mstate = 2 then u.modMbox f (fun q => { q with mstate := 0 }) else u)
  | .debugWindowRead ld off =>
    let p := s.pf ld
    if 2 ^ 30 ≤ off then none
    else
      match p.dumpsel.toNat with
      | 0 => (s.dumpByte off).map (fun b => { s with hostRead := [b] })
      | 1 => (s.dumpByte (off + 2 ^ 30)).map (fun b => { s with hostRead := [b] })
      | 2 =>
        let q := s.slot p.target
        if p.dbgcore.toNat < 4608 ∧ s.debugged p.target = true then
          match q.drowsy, q.waking with
          | false, _ => some { s with hostRead := [s.liveByte p.target off] }
          | true, none => some (s.setSlot p.target { q with waking := some (s.cycle + 24) })
          | true, some n =>
            if n ≤ s.cycle then
              some { s.setSlot p.target { q with drowsy := false, waking := none, heldAt := s.cycle } with hostRead := [s.liveByte p.target off] }
            else none
        else some { s with hostRead := [0] }
      | _ => some { s with hostRead := [0] }
  | .flr n => if (s.vf n).teardown then none else some (begun s n)
  | .vfEnableClear ld =>
    if (s.pf ld).vfEnable then
      let vs := s.vfsOf ld
      let u := (vs.filter (fun v => !(s.vf v).teardown)).foldl begun s
      some (u.modPf ld (fun p => { p with clearing := !vs.isEmpty, vfEnable := !vs.isEmpty }))
    else none
  | .teardownComplete n =>
    let v := s.vf n
    let quiet : Bool := match v.part with
      | some p => (s.slotsOfPart p).all (fun sl => !s.nestedSlot sl) && s.saved.all (fun w => w.slot.bind.part != p) && s.vacant p
      | none => true
    if v.teardown = false ∨ s.firmwareActs = false then none
    else if v.torn = false then some (s.tearDown n)
    else if quiet = true then
      let clear := match v.part with
        | some p => (s.clearPart p).resetPart p
        | none => s
      let u := clear.modVf n (fun q => { Vf.reset with ld := q.ld, groups := q.groups, latePrg := q.latePrg })
      let w := u.takeFresh.takeThree.toPf v.ld (u.takeFresh.openRec 0x0501 (some n.val) (Config.freeNat u.fresh))
      if (w.pf v.ld).clearing = true ∧ (w.vfsOf v.ld).all (fun q => !(w.vf q).teardown) = true then
        some (w.modPf v.ld (fun p => { p with clearing := false, vfEnable := false }))
      else some w
    else none
  | _ => none

/-- The mailbox's commands (R81, R83, R88, R97, R373, R377, R378, R384, R417, R421, R422), where a function has sent one:
the status words of R421. An argument that the spec gives no status for is answered with a free one (assumption log 1). -/
def mailboxEvent (i : Instr) (s : State) : Option State :=
  let vfAsks (v : Fin 64) (code : Nat) (act : Fin 64 → Mailbox → Option State) : Option State :=
    if s.asked (.vf v) code = false then none
    else match (s.vf v).part with
      | some p => act p (s.vf v).mbox
      | none => some (s.answerFree (.vf v))
  let pfAsks (ld : Fin 16) (code : Nat) (act : Mailbox → Option State) : Option State :=
    if s.asked (.pf ld) code then act (s.pf ld).mbox else none
  let rangeAsks (v : Fin 64) (code : Nat) (act : HostFn → Fin 64 → Mailbox → Option State) : Option State :=
    let pf : HostFn := .pf (s.vf v).ld
    let fn : HostFn :=
      if s.asked (.vf v) code = false ∧ s.asked pf code = true ∧ (s.mbox pf).arg 3 = BitVec.ofNat 64 v.val then pf else .vf v
    if s.asked fn code = false then none
    else match (s.vf v).part with
      | some p => act fn p (s.mbox fn)
      | none => some (s.answerFree fn)
  match i with
  | .regionSet v => vfAsks v 1 (fun p m =>
      if 4096 < (m.arg 2).toNat then some (s.answerFree (.vf v))
      else match s.fetchBytes p (m.arg 1).toNat (16 * (m.arg 2).toNat) with
        | some bs =>
          let rs := regionsOf bs (m.arg 2).toNat
          if rs.all (fun r => r.1.toNat % 4096 == 0 && r.2.toNat % 4096 == 0) then
            some ((s.modPart p (fun q => { q with regions := rs })).answer (.vf v) 0 0)
          else some (s.answerFree (.vf v))
        | none => some (s.answerFree (.vf v)))
  | .shootdown v => rangeAsks v 2 (fun fn p m =>
      if s.shoots.any (fun h => h.asker == some fn) then none
      else some { s with shoots := s.shoots ++ [⟨p, m.arg 1, m.arg 2, some fn, false, []⟩] })
  | .mailboxFsync v ok => rangeAsks v 3 (fun fn p m =>
      if s.syncing p (m.arg 1) (m.arg 2) then
        some (if ok then s else (s.failSync p (m.arg 1) (m.arg 2)).answer fn 0x26 0)
      else if s.dirtyFiles p (m.arg 1) (m.arg 2) = [] then some (s.answer fn 0 0)
      else some (s.startSync p (m.arg 1) (m.arg 2)))
  | .gateExport v => vfAsks v 4 (fun p m =>
      if s.gateAway p (m.arg 1) then none else
      match s.partLoc p (m.arg 1) with
      | none => some (s.answerFree (.vf v))
      | some l =>
        let g := s.readReg l true
        if (m.arg 1).toNat % 16 ≠ 0 ∨ 255 < (m.arg 2).toNat then some (s.answerFree (.vf v))
        else if g.tag ≠ 3 ∨ g.otype ≠ 1 ∨ s.domPart 0 g.owner ≠ some p then some (s.answer (.vf v) 0x24 0)
        else if (s.gatePlace p g.lo).any (fun r => (s.gateRec r true).xport) = false then
          some (s.answer (.vf v) 0x28 0)
        else
          let num : BitVec 8 := (m.arg 2).setWidth 8
          some ((s.modPart p (fun q => { q with exports := ⟨num, g⟩ :: q.exports.filter (fun e => e.number != num) })).answer (.vf v) 0 0))
  | .importAsk v =>
    let ld := (s.vf v).ld
    vfAsks v 5 (fun p m =>
      if (s.part p).asking.isSome = true ∨ 32 ≤ ((s.pf ld).inTail - (s.pf ld).inHead).toNat then none
      else if 63 < (m.arg 1).toNat ∨ 255 < (m.arg 2).toNat then some (s.answerFree (.vf v))
      else
        some ((s.modPart p (fun t => { t with asking := some (Fin.ofNat 64 (m.arg 1).toNat, (m.arg 2).setWidth 8) })).modPf ld (fun t =>
          { t with inbox := Sparse.put t.inbox (t.inTail.toNat % 32) (inboxEntry v m), inTail := t.inTail + 1 })))
  | .vfAssign ld root =>
    if (s.domPart 0 root).isSome then none
    else pfAsks ld 0x100 (fun m =>
      let p : Fin 64 := Fin.ofNat 64 (m.arg 2).toNat
      match s.vfOf ld (m.arg 1).toNat with
      | none => some (s.answerFree (.pf ld))
      | some v =>
        if (s.vf v).part.isSome = true ∨ (s.vf v).teardown = true ∨ 63 < (m.arg 2).toNat ∨ (s.part p).assigned = true then
          some (s.answerFree (.pf ld))
        else
          let u := (s.modVf v (fun q => { q with part := some p, hbmBase := m.arg 7 })).modPart p (fun _ =>
            { Partition.reset with
              assigned := true, vf := v, debug := (m.arg 3).getLsbD 0, root := root, ptroot := m.arg 4, pctb := m.arg 5
              supImage := m.arg 6 })
          some ((u.modDies (fun d =>
            { d with owner := Sparse.put d.owner root.toNat p, live := Sparse.put d.live root.toNat true })).answer (.pf ld) 0 0))
  | .importGrant ld => pfAsks ld 0x101 (fun m =>
      let ex : Fin 64 := Fin.ofNat 64 (m.arg 1).toNat
      let im : Fin 64 := Fin.ofNat 64 (m.arg 3).toNat
      let num : BitVec 8 := (m.arg 2).setWidth 8
      let idx : BitVec 8 := (m.arg 4).setWidth 8
      if 63 < (m.arg 1).toNat ∨ 63 < (m.arg 3).toNat ∨ 255 < (m.arg 2).toNat ∨ 255 < (m.arg 4).toNat then some (s.answerFree (.pf ld))
      else
        let u := s.modPart im (fun q => { q with
          grants := ⟨ex, num, idx⟩ :: q.grants.filter (fun g => g.index != idx)
          asking := if (s.part im).asking = some (ex, num) then none else q.asking })
        let w := if (s.part im).asking = some (ex, num) then u.answer (.vf (u.part im).vf) 0 (idx.setWidth 64) else u
        some (w.answer (.pf ld) 0 0))
  | .importDeny ld => pfAsks ld 0x102 (fun m =>
      let im : Fin 64 := Fin.ofNat 64 (m.arg 3).toNat
      if 63 < (m.arg 3).toNat then some (s.answerFree (.pf ld))
      else
        let u := s.modPart im (fun q => { q with grants := q.grants.filter (fun g => g.index.setWidth 64 != m.arg 4), asking := none })
        let w := if (s.part im).asking.isSome then u.answer (.vf (u.part im).vf) 0x28 0 else u
        some (w.answer (.pf ld) 0 0))
  | .expwin ld => pfAsks ld 0x103 (fun m =>
      if 15 < (m.arg 1).toNat ∨ 3 < (m.arg 4).toNat then some (s.answerFree (.pf ld))
      else some (({ s with windows := Sparse.put s.windows (m.arg 1).toNat ⟨m.arg 2, m.arg 3, Fin.ofNat 4 (m.arg 4).toNat⟩ } : State).answer
        (.pf ld) 0 0))
  | _ => none

/-- A command that is answered leaves status and result in the response, MSTATE 2, and fires vector 2 (R421). -/
def Answers (s : State) (f : HostFn) (st : Nat) (v : W64) : Prop :=
  let t := s.answer f st v
  (t.mbox f).mstate = 2 ∧ ((t.mbox f).resp[0]?) = some (BitVec.ofNat 64 (((s.mbox f).req.headD 0).toNat % 2 ^ 32 + st * 2 ^ 32)) ∧
    ((t.mbox f).resp[1]?) = some v ∧ t.msix = (f, 2) :: s.msix

/-- The firmware's events (R422, R427 to R431), where they are due. Response bytes that the spec does not give are free, as are
severity
and unit of 0x0502 and 0x0503 and the FWSTAT result of an image of another KIND (assumption log 1). -/
def firmwareEvent (i : Instr) (s : State) : Option State :=
  let reply (ld : Fin 16) (may : Bool) (x : Spdm) : State :=
    let u := s.freeReply
    if may then u.modPf ld (fun p => { p with spdm := x }) else u
  match i with
  | .fwUpdate ld =>
    let m := (s.pf ld).mbox
    let img := s.staged ld (min (m.arg 1).toNat (2 ^ 24))
    let made := imageProduces (s.imageSlot (2 + s.fw.active.val))
    if m.mstate ≠ 1 ∨ m.code ≠ 0x104 ∨ s.fw.boot ≠ .ready then none
    else if s.fw.update = .idle then some { s with fw := { s.fw with update := .quiesced ld } }
    else if s.fw.update ≠ .quiesced ld then some (s.answer (.pf ld) 0x27 0)
    else if imageValid img = false then some (({ s with fw := { s.fw with update := .idle, result := 1 } } : State).answer (.pf ld) 0x29 0)
    else if imageKind img ≠ 2 then
      some (({ s.takeFresh with fw := { s.fw with update := .idle, result := BitVec.ofNat 8 (Config.freeNat s.fresh) } } : State).answer (.pf ld) 0x29 0)
    else if imageAccepts img ≤ made ∧ made ≤ imageProduces img then
      let other : Fin 2 := s.fw.active + 1
      let h := s.handoverRec made
      some (({ s.poke (.hbm Config.handoverBase) h.bytes with fw := { s.fw with
        images := Sparse.put s.fw.images (2 + other.val) img
        history := extend s.fw.history (imageDigest img)
        running := imageDigest img
        update := .waitingBeat ld s.timeNs
        handover := some h } } : State).answer (.pf ld) 0 0)
    else some (({ s with fw := { s.fw with update := .idle, result := 2 } } : State).answer (.pf ld) 0x29 0)
  | .heartbeat =>
    match s.fw.update with
    | .waitingBeat _ start =>
      let other : Fin 2 := s.fw.active + 1
      let img := s.imageSlot (2 + other.val)
      if s.timeNs ≤ start + 50000000 then
        some (({ s.takeThree with fw := { s.fw with active := other, update := .idle, result := 0 } } : State).toPfs
          (s.openRec 0x0502 none (imageVersion img)))
      else none
    | _ => none
  | .heartbeatTimeout =>
    match s.fw.update with
    | .waitingBeat _ start =>
      let old := imageDigest (s.imageSlot (2 + s.fw.active.val))
      if start + 50000000 < s.timeNs then
        some (({ s.takeThree with fw := { s.fw with update := .idle, result := 3, history := extend s.fw.history old, running := old } } : State).toPfs
          (s.openRec 0x0503 none 3))
      else none
    | _ => none
  | .perstDeassert =>
    let m := pickSlot (s.imageSlot 0) (s.imageSlot 1)
    let d := pickSlot (s.imageSlot 2) (s.imageSlot 3)
    let v := pickSlot (s.imageSlot 4) (s.imageSlot 5)
    let run := imageDigest (s.imageSlot (2 + d.val))
    some { State.reset with
      mem := s.mem.filter (fun p => !(decide (accBase ≤ p.1) && decide (p.1 < accBase + 4608 * accBytes))), tags := s.tags, badFrames := s.badFrames, agenda := s.agenda, cur := s.cur, fresh := s.fresh
      vfs := s.vfs.map (fun q => (q.1, { Vf.reset with ld := q.2.ld }))
      pfs := s.pfs.map (fun q => (q.1, { Pf.reset with hbmBase := q.2.hbmBase, hbmSize := q.2.hbmSize }))
      fw := { State.reset.fw with
        boot := .training, images := s.fw.images, mgmt := m, active := d, service := v, history := run, running := run } }
  | .bootComplete => if s.fw.boot = .training then some { s with fw := { s.fw with boot := .ready } } else none
  | .getVersion ld => some (reply ld true .version)
  | .getCapabilities ld => some (reply ld (decide ((s.pf ld).spdm = .version)) .caps)
  | .negotiateAlgorithms ld => some (reply ld (decide ((s.pf ld).spdm = .caps)) .algs)
  | .getDigests _ => some s.freeReply
  | .getCertificate _ => some s.freeReply
  | .challenge _ => some s.freeReply
  | .getMeasurements ld =>
    if (s.pf ld).spdm = .algs ∨ (s.pf ld).spdm = .keyed ∨ (s.pf ld).spdm = .session then
      some { s with hostRead := ([1, 2, 3, 4, 5, 6] : List Nat).flatMap (fun k => digestBytes (s.measurement k)) }
    else none
  | .keyExchange ld => some (reply ld (decide ((s.pf ld).spdm = .algs)) .keyed)
  | .finish ld => some (reply ld (decide ((s.pf ld).spdm = .keyed)) .session)
  | .endSession ld => some (reply ld (decide ((s.pf ld).spdm = .session)) .algs)
  | .ideKm ld port =>
    if (s.pf ld).spdm = .session then
      let q := Sparse.get ⟨[], false⟩ s.ide port.val
      let key : BitVec 256 := BitVec.ofNat 256 (Config.freeNat (s.fresh + 1))
      some { s with ide := Sparse.put s.ide port.val { q with keys := Sparse.put q.keys (Config.freeNat s.fresh % 6) key }, fresh := s.fresh + 2 }
    else none
  | _ => none

end Sys2Proof.Safety

/-- R93, R120, R414, R415 and R417 to R426: what hosts do to a function, where it is due. -/
def Sys2Proof.Safety.HostEvents : Prop := EventCompletes hostEvent

/-- R81, R83, R88, R97, R373, R377, R378, R384, R417, R421 and R422: the mailbox's commands, where a function has sent one,
and what an answer leaves. -/
def Sys2Proof.Safety.MailboxEvents : Prop := EventCompletes mailboxEvent ∧ ∀ s f st v, Answers s f st v

/-- What hosts do to a function and ask of it, where it is due; and what an answer leaves. -/
def Obligations.HostForms : Prop :=
  Safety.HostEvents ∧ Safety.MailboxEvents

/-- R422 and R427 to R431: the firmware's events, where they are due. -/
def Obligations.FirmwareEvents : Prop := EventCompletes firmwareEvent

/-! The machine as a whole. -/
namespace Sys2Proof.Safety

/-- The next step is the turn of a context: the agenda names one that may issue, or nothing is due and it issues first
(R339). `u` is the state at its boundary, with no unwind to make (R385). -/
def Comes (s : State) (c : CtxId) (u : State) : Prop :=
  s.mcheck = false ∧ u.unwindStep c = none ∧
    ((∃ rest, s.agenda = .context c :: rest ∧ (({ s with agenda := rest } : State).mayIssue c.core).contains c = true ∧
        u = ({ s with agenda := rest } : State).toIssue c) ∨
      (s.agenda = [] ∧ s.firstEvent s.dueEvents = none ∧ s.firstIssuer = some c ∧ u = s.toIssue c))

/-- What a step makes of what an instruction answers: where it has written a line of HBM that hosts hold, the context waits for
the answers to the snoops instead (R86); else its followers receive it (R343), and the memory-side cache holds the host lines
that it was fetched from (R91). The core issues next a cycle later, or later behind a trap entry (R7, R402); and WAITERS of the
page-cache entries are as they must be (R94). -/
def around (u : State) (c : CtxId) : Host.Outcome State Fault Refusal → Host.Outcome State Fault Refusal
  | .next t => .next (((match u.wroteHeld t with
      | some n => u.stall c (.snoop n true)
      | none =>
        let v := u.passDown t c
        if (u.ctx c).attached = true then v else u.cacheCode c (u.ctx c).pc v).issued c).recountFiles)
  | o => o

/-- What a step of the device answers: where it would write a line of HBM that hosts hold, it sends its snoops only, unless it is
a host's own access (R86). -/
def unheld (s : State) (i : Instr) : Host.Outcome State Fault Refusal → Host.Outcome State Fault Refusal
  | .next t =>
    if hostsOwn i = true then .next t
    else match s.wroteHeld t with
      | some n => .next (s.snoop n true)
      | none => .next t
  | o => o

/-- The words that the spec's examples and encodings give, with what they stand for. -/
def wordTable : List (Nat × Instr) := [
  (0x1671A681, .xor (.g 13) (.g 13) (.g 14)), (0x0038C281, .add (.g 5) (.g 6) (.g 7)), (0x0108A501, .add (.g 10) (.g 5) (.q 1)),
  (0x2C20, .mov (.q 1) 5), (0x0009E293, .movi (.g 5) 0x4F), (0x0EC10C41, .cinc (.g 24) (.g 8) (.g 24)),
  (0x0072462D, .beq (.g 12) (.g 18) 14), (0x181E, .ret), (0x0008A23F, .rep (.g 5) 4 1), (0x0008002B, .phase 1),
  (0x0048062B, .phasea 12 1), (0x0003054D, .start (.g 10) 24 (.g 0)), (0x0401404D, .join (.g 10)), (0x0200004D, .exit),
  (0x0800004D, .yield_), (0x201E, .exitC), (0x081E, .yieldC), (0x0000A055, .gcall 5), (0x001802D7, .srd (.g 5) 3),
  (0x0000A059, .trap (.g 5)), (0x02000059, .syscall), (0x04000059, .eret), (0x06000059, .bkpt),
  (0x00AA8661, .cpy 12 20 21 (.g 0)), (0x000186D3, .hwait (.g 13) 12), (0x0230A079, .epost (.g 5) (.g 6)),
  (0x0600E679, .etick 12 (.g 7)), (0x0A0104F9, .erd (.g 9) (.g 8))]

/-- The value that a special register reads as at reset (the Reset columns of the bit maps: R104, R105, R134, R170, R192,
R209 to R212, R231, R235, R236, R272, R273, R335, R342, R366, R380, R381, R397 to R399). -/
def resetWord (n : Nat) : Option W64 :=
  match n with
  | 0x007 => some 4
  | 0x021 => some 1
  | 0x023 => some 35000
  | _ =>
    if 0x001 ≤ n ∧ n ≤ 0x004 ∨ 0x008 ≤ n ∧ n ≤ 0x014 ∨ 0x016 ≤ n ∧ n ≤ 0x01D ∨ n = 0x020 ∨ n = 0x040 ∨ 0x080 ≤ n ∧ n ≤ 0x0BF ∨
        n = 0x108 ∨ n = 0x109 ∨ n = 0x202 then some 0
    else none

/-- A step of the hardware, the firmware or a host that a machine check stops: all but a host's accesses to registers, its debug
window
and the reset (R414, R415, R429). -/
def stops (i : Instr) : Bool :=
  match i with
  | .registerWrite _ _ _ => false
  | .mstateRead _ => false
  | .debugWindowRead _ _ => false
  | .perstDeassert => false
  | i => !i.encoded

/-- The data forms whose registers are general ones. -/
def dataForm (i : Instr) : Option (List GReg × GReg × (List W64 → W64)) :=
  match (aluForm i).or ((immForm i).or (shortForm i)) with
  | some (rs, .g d, f) =>
    let gs := rs.filterMap (fun r => match r with | .g k => some k | _ => none)
    if gs.length = rs.length then some (gs, d, f) else none
  | _ => none

end Sys2Proof.Safety

/-- R36, R38, R48 and R60: a step runs the instruction that is decoded from the bytes at its context's PC: with the state at
the boundary, what `exec` answers is what the step answers, but for followers, the cycle of the next issue and WAITERS
(R94); a write to a line of HBM that hosts hold waits for the answers to its snoops (R86). A repetition of REP runs the stepped
word of the instruction that its checks kept, or after a trap return of the one that is fetched and checked anew (R407); a
follower runs its leader's word, where its own code capability allows the fetch (R343). A step of the hardware, the firmware or
a host runs as it is named. -/
def Obligations.StepRunsDecoded : Prop :=
  (∀ (s u : State) (c : CtxId) (w n : Nat) (i : Instr),
    Comes s c u → (u.ctx c).attached = false → (u.ctx c).pc.getLsbD 0 = false → (u.ctx c).repc = 0 →
    u.fetch c (u.ctx c).pc = .ok (w, n) → decode w = .ok i →
    step s = around u c (exec i (u.modCtx c (fun x => x.keepSpin i)))) ∧
  (∀ (s u : State) (c : CtxId) (r l w n : Nat) (k : RegCode) (m : BitVec 4) (d : BitVec 13) (i : Instr),
    Comes s c u → (u.ctx c).attached = false → (u.ctx c).pc.getLsbD 0 = false → (u.ctx c).repc ≠ 0 → (u.ctx c).rep = none →
    u.fetch c (u.ctx c).pc = .ok (r, l) → decode r = .ok (.rep k m d) → u.fetch c ((u.ctx c).pc + BitVec.ofNat 64 l) = .ok (w, n) →
    repeatable w = true → maskOk w m.toNat = true →
    (maskFields w m.toNat).all (stepInRange w d.toInt ((u.ctx c).repi.toNat + (u.ctx c).repc.toNat - 1)) = true →
    decode (stepWord w m.toNat d.toInt (u.ctx c).repi.toNat) = .ok i →
    step s = around u c (exec i ((u.modCtx c (fun x => { x with rep := some ⟨w, m, d⟩ })).modCtx c (fun x => x.keepSpin i)))) ∧
  (∀ (s u : State) (c : CtxId) (r : Repeated) (i : Instr),
    Comes s c u → (u.ctx c).attached = false → (u.ctx c).pc.getLsbD 0 = false → (u.ctx c).repc ≠ 0 → (u.ctx c).rep = some r →
    decode (stepWord r.word r.mask.toNat r.step.toInt (u.ctx c).repi.toNat) = .ok i →
    step s = around u c (exec i (u.modCtx c (fun x => x.keepSpin i)))) ∧
  (∀ (s u t : State) (c : CtxId) (p : Passed) (ps : List Passed) (i : Instr),
    Comes s c u → (u.ctx c).attached = true → (u.ctx c).repc = 0 → (u.ctx c).follow = p :: ps → (u.ctx c).pc = p.addr →
    (∃ h, u.codeHalf c p.addr = .ok h) → (p.size = 2 ∨ ∃ h, u.codeHalf c (p.addr + 2) = .ok h) → decode p.word = .ok i → ownFetch i = false → exec i u = .next t →
    step s = around u c (.next (t.modCtx c (fun y => (u.ctx c).afterPassed y p (isUnfollow i))))) ∧
  (∀ (s : State) (i : Instr) (rest : List Turn),
    s.agenda = .event i :: rest → i.encoded = false →
    step s = keepWaiters (unheld { s with agenda := rest } i (exec i { s with agenda := rest })))

/-- R47 and R48: a word that is no instruction raises its trap with the word as TVAL; an odd PC raises ALIGN (R36). -/
def Obligations.StepRefusesWord : Prop :=
  (∀ (s u : State) (c : CtxId) (w n : Nat) (e : Reject),
    Comes s c u → (u.ctx c).attached = false → (u.ctx c).pc.getLsbD 0 = false → (u.ctx c).repc = 0 →
    u.fetch c (u.ctx c).pc = .ok (w, n) → decode w = .error e →
    step s = around u c (.next (u.takeTrap c
      ⟨if e = .illegalOperand then .illegalOperand else .illegalInstruction, BitVec.ofNat 64 w, 0, false⟩))) ∧
  (∀ (s u : State) (c : CtxId),
    Comes s c u → (u.ctx c).attached = false → (u.ctx c).pc.getLsbD 0 = true →
    step s = around u c (.next (u.takeTrap c ⟨.align, (u.ctx c).pc, 0, false⟩)))

/-- R39 to R58: every well-formed instruction with an encoding decodes from its word to itself, with every operand. -/
def Obligations.RoundTrip : Prop :=
  ∀ i : Instr, i.encoded = true → WellFormed i = true → decode (encode i) = .ok i

/-- R36, R39 to R58: a word that decodes is the word of the instruction that it gives: no bit of it is ignored, no two words
of one length mean the same, and what it gives is well formed. -/
def Obligations.DecodeExact : Prop :=
  ∀ (w : Nat) (i : Instr), decode w = .ok i → i.encoded = true ∧ WellFormed i = true ∧ encode i = w % 2 ^ (8 * i.size)

/-- The words of the spec's examples and encodings decode to the instructions that they stand for, and these encode to them. -/
def Obligations.DecodeWords : Prop := ∀ p ∈ wordTable, decode p.1 = .ok p.2 ∧ encode p.2 = p.1

/-- The bit maps' Reset columns: what the special registers read as at reset, on every core, slot and context; no context is
live there (R338), no cycle has passed (R235), and memory is in its canonical form. -/
def Obligations.ResetState : Prop :=
  (∀ (c : CtxId) (n : Nat) (v : W64), resetWord n = some v → State.reset.sreg c n = Reg.data v) ∧
  (∀ c : CtxId, (State.reset.ctx c).status = .free ∧ (State.reset.ctx c).pc = 0) ∧ State.reset.cycle = 0 ∧ Canonical State.reset

/-- The canonical form of memory and tags is an invariant: every step keeps it, from every state that has it. -/
def Obligations.StepKeepsCanonical : Prop := ∀ s t : State, Canonical s → step s = .next t → Canonical t

/-- R414 and R415: after a machine check nothing of the device happens: a step of the hardware, of firmware or of a host's
command changes nothing, no context takes a turn, and the device stands still. -/
def Obligations.StoppedDevice : Prop :=
  (∀ (i : Instr) (s : State), s.mcheck = true → stops i = true → exec i s = .next s) ∧
  (∀ (s : State), s.mcheck = true → (∀ i rest, s.agenda ≠ .event i :: rest) → step s = .fault .deviceStopped)

/-- R171 and R217 to R221: what a data form leaves alone: all memory and every tag, every other context, everything of its
own context but its place in the code and its loop state, and every general register but its destination. A write to g0 is
discarded, so that no register changes. -/
def Obligations.DataFrame : Prop :=
  ∀ (i : Instr) (rs : List GReg) (d : GReg) (f : List W64 → W64) (s v : State),
    dataForm i = some (rs, d, f) → Starts i .closes (rs.map .g) (.g d :: rs.map .g) s s →
    GoesOn i (s.modCtx s.cur (fun x => x.setReg d (Reg.data (f (rs.map (fun r => ((here s).reg r).lo)))))) v →
    exec i s = .next v ∧ SameMemory s v ∧ SameElsewhere s v ∧ SameContext (here s) (here v) ∧ SameRegs (here s) (here v) [d] ∧
      (here v).reg d = if d = 0 then Reg.zero else Reg.data (f (rs.map (fun r => ((here s).reg r).lo)))

/-- R142 to R145: what a load and a store through the private alias leave alone: a load changes no memory, no other context
and no general register but its destination; a store changes no byte but those at its address, no tag but those of its
units, and no general register of any context. -/
def Obligations.AccessFrame : Prop :=
  (∀ (i : Instr) (n : Nat) (o : BitVec 2) (d a : GReg) (off : BitVec 8) (conv : W128 → Bool → Reg → Reg) (s s' v : State) (p : Spot),
    loadForm i = some (n, o, .g d, a, off, conv) → Starts i .closes [] [.g d] s s → (here s).remote = none →
    s.reach s.cur ((here s).reg a) (loadAsk n) (((here s).reg a).lo + off.signExtend 64 * BitVec.ofNat 64 n) = .ok p → p.own = true →
    noteLoad p.loc n (BitVec.ofNat 128 (s.readNat p.loc n)) s = .ok ((), s') →
    GoesOn i (s'.modCtx s.cur (fun x => x.setReg d
      (conv (BitVec.ofNat 128 (s.readNat p.loc n)) (p.tags && s.tagAt (p.loc.tagKey 0)) ((here s).reg a)))) v →
    exec i s = .next v ∧ SameMemory s v ∧ SameElsewhere s v ∧ SameRegs (here s) (here v) [d]) ∧
  (∀ (i : Instr) (n : Nat) (o : BitVec 2) (r a : GReg) (off : BitVec 8) (tagged : Bool) (s u : State) (p : Spot),
    storeForm i = some (n, o, .g r, a, off, tagged) → Starts i .closes [.g r] [.g r] s s → Canonical s →
    s.reach s.cur ((here s).reg a) (storeAsk n) (((here s).reg a).lo + off.signExtend 64 * BitVec.ofNat 64 n) = .ok p → p.own = true →
    (tagged = true → stcTrap ((here s).reg a) ((here s).reg r) p s.cur.sl = none) → Ordered s o →
    GoesOn i (s.keepStore (if tagged = true ∧ ((here s).reg r).tag ≠ 0 then s.pokeReg p.loc ((here s).reg r) true
      else s.poke p.loc (bytesLE n (if tagged = true then ((here s).reg r).bits.toNat else ((here s).reg r).lo.toNat))) p.loc n) u →
    exec i s = .next u ∧
      (∀ b, (∀ k, k < n → b ≠ p.loc.place k) → u.byteAt b = s.byteAt b) ∧
      (∀ b, (∀ k, k < n → b ≠ p.loc.tagKey k) → u.tagAt b = s.tagAt b) ∧
      (∀ (c : CtxId) (k : GReg), (u.ctx c).reg k = (s.ctx c).reg k) ∧
      u = { s with ctxs := u.ctxs, mem := u.mem, tags := u.tags })
end

