-- ==== Sys2Proof/Laws/Sparse.lean ====
section
/-! SUPPORT. Laws/Sparse.lean: reading after writing a sparse list, and that writing keeps its keys in order and its
canonical form. -/
namespace Sys2Proof.Laws
open Sys2Proof

variable {α : Type} {d v w : α} {l : Sparse α} {i j k : Nat}

/-- What was put at a key is read there, whatever the list. -/
@[simp] theorem get_put_self : Sparse.get d (Sparse.put l i v) i = v := by
  induction l with
  | nil => simp [Sparse.put, Sparse.get]
  | cons p r ih =>
    obtain ⟨k, w⟩ := p
    rcases Nat.lt_trichotomy i k with h | h | h
    · simp [Sparse.put, Sparse.get, h, Nat.ne_of_lt h]
    · simp [Sparse.put, Sparse.get, h]
    · simp [Sparse.put, Sparse.get, Nat.ne_of_gt h, Nat.not_lt_of_gt h, ih]

/-- A put leaves every other key as it reads. -/
theorem get_put_ne (h : j ≠ i) : Sparse.get d (Sparse.put l i v) j = Sparse.get d l j := by
  induction l with
  | nil => simp only [Sparse.put, Sparse.get, if_neg h, ite_self]
  | cons p r ih =>
    obtain ⟨k, w⟩ := p
    simp only [Sparse.put]
    split
    · next e => subst e; simp only [Sparse.get, if_neg h]
    · split
      · next hk hlt => simp only [Sparse.get]; repeat' split
                       all_goals first | rfl | omega
      · simp only [Sparse.get, ih]

/-- Reading after a put, at any key. -/
theorem get_put : Sparse.get d (Sparse.put l i v) j = if j = i then v else Sparse.get d l j := by
  split
  · next h => rw [h, get_put_self]
  · next h => exact get_put_ne h

/-- Every key of a list is above `k`. -/
def Above (k : Nat) (l : Sparse α) : Prop := ∀ p ∈ l, k < p.1

theorem sorted_cons {p : Nat × α} : Sparse.sorted (p :: l) = true ↔ Above p.1 l ∧ Sparse.sorted l = true := by
  induction l generalizing p with
  | nil => simp [Sparse.sorted, Above]
  | cons q r ih =>
    obtain ⟨k, v⟩ := p
    obtain ⟨k', v'⟩ := q
    simp only [Sparse.sorted, Bool.and_eq_true, decide_eq_true_eq]
    constructor
    · rintro ⟨h, hs⟩
      refine ⟨?_, hs⟩
      intro q hq
      rcases List.mem_cons.mp hq with rfl | hq
      · exact h
      · exact Nat.lt_trans h ((ih.mp hs).1 q hq)
    · rintro ⟨h, hs⟩
      exact ⟨h (k', v') (List.mem_cons_self ..), hs⟩

/-- Below all its keys a list reads as the default. -/
theorem get_above (h : Above k l) (hj : j ≤ k) : Sparse.get d l j = d := by
  cases l with
  | nil => rfl
  | cons p r =>
    have hp : k < p.1 := h p (List.mem_cons_self ..)
    simp only [Sparse.get]
    rw [if_neg (by omega), if_pos (by omega)]

theorem above_put (h : Above k l) (hi : k < i) : Above k (Sparse.put l i v) := by
  induction l with
  | nil => intro p hp; simp only [Sparse.put, List.mem_singleton] at hp; simpa [hp] using hi
  | cons q r ih =>
    obtain ⟨k', w⟩ := q
    have hr : Above k r := fun p hp => h p (List.mem_cons_of_mem _ hp)
    have hk : k < k' := h (k', w) (List.mem_cons_self ..)
    intro p hp
    simp only [Sparse.put] at hp
    split at hp
    · rcases List.mem_cons.mp hp with rfl | hp
      · exact hk
      · exact hr p hp
    · split at hp
      · rcases List.mem_cons.mp hp with rfl | hp
        · exact hi
        · exact h p hp
      · rcases List.mem_cons.mp hp with rfl | hp
        · exact hk
        · exact ih hr p hp

/-- A put keeps the keys in order. -/
theorem sorted_put (h : Sparse.sorted l = true) : Sparse.sorted (Sparse.put l i v) = true := by
  induction l with
  | nil => rfl
  | cons p r ih =>
    obtain ⟨k, w⟩ := p
    obtain ⟨ha, hs⟩ := sorted_cons.mp h
    simp only [Sparse.put]
    split
    · exact sorted_cons.mpr ⟨ha, hs⟩
    · split
      · next hlt =>
        refine sorted_cons.mpr ⟨?_, h⟩
        intro q hq
        rcases List.mem_cons.mp hq with rfl | hq
        · exact hlt
        · exact Nat.lt_trans hlt (ha q hq)
      · exact sorted_cons.mpr ⟨above_put ha (by simp only; omega), ih hs⟩

theorem mem_erase {p : Nat × α} (h : p ∈ Sparse.erase l i) : p ∈ l := by
  induction l with
  | nil => simp [Sparse.erase] at h
  | cons q r ih =>
    obtain ⟨k, w⟩ := q
    simp only [Sparse.erase] at h
    split at h
    · exact List.mem_cons_of_mem _ h
    · split at h
      · exact h
      · rcases List.mem_cons.mp h with rfl | h
        · exact List.mem_cons_self ..
        · exact List.mem_cons_of_mem _ (ih h)

/-- An erase keeps the keys in order. -/
theorem sorted_erase (h : Sparse.sorted l = true) : Sparse.sorted (Sparse.erase l i) = true := by
  induction l with
  | nil => rfl
  | cons p r ih =>
    obtain ⟨k, w⟩ := p
    obtain ⟨ha, hs⟩ := sorted_cons.mp h
    simp only [Sparse.erase]
    split
    · exact hs
    · split
      · exact h
      · exact sorted_cons.mpr ⟨fun q hq => ha q (mem_erase hq), ih hs⟩

/-- An erased key of an ordered list reads as the default, and every other key as before. -/
theorem get_erase (h : Sparse.sorted l = true) : Sparse.get d (Sparse.erase l i) j = if j = i then d else Sparse.get d l j := by
  induction l with
  | nil => simp [Sparse.erase, Sparse.get]
  | cons p r ih =>
    obtain ⟨k, w⟩ := p
    obtain ⟨ha, hs⟩ := sorted_cons.mp h
    simp only [Sparse.erase]
    split
    · next e =>
      subst e
      split
      · next e => subst e; exact get_above ha (Nat.le_refl _)
      · simp only [Sparse.get]
        rw [if_neg (by assumption)]
        split
        · exact get_above ha (Nat.le_of_lt (by assumption))
        · rfl
    · split
      · next hlt =>
        split
        · next e => subst e; simp only [Sparse.get]; rw [if_neg (by omega), if_pos hlt]
        · rfl
      · next hne hge =>
        simp only [Sparse.get, ih hs]
        split
        · split
          · omega
          · rfl
        · split
          · split <;> rfl
          · rfl

theorem mem_put {p : Nat × α} (h : p ∈ Sparse.put l i v) : p.2 = v ∨ p ∈ l := by
  induction l with
  | nil => simp only [Sparse.put, List.mem_singleton] at h; exact .inl (by rw [h])
  | cons q r ih =>
    obtain ⟨k, w⟩ := q
    simp only [Sparse.put] at h
    split at h
    · rcases List.mem_cons.mp h with rfl | h
      · exact .inl rfl
      · exact .inr (List.mem_cons_of_mem _ h)
    · split at h
      · rcases List.mem_cons.mp h with rfl | h
        · exact .inl rfl
        · exact .inr h
      · rcases List.mem_cons.mp h with rfl | h
        · exact .inr (List.mem_cons_self ..)
        · exact (ih h).imp id (List.mem_cons_of_mem _)

variable [DecidableEq α]

/-- The canonical form, as two facts. -/
theorem canonical_iff : Sparse.canonical d l = true ↔ Sparse.sorted l = true ∧ ∀ p ∈ l, p.2 ≠ d := by
  simp [Sparse.canonical]

/-- A write keeps the canonical form. -/
theorem canonical_write (h : Sparse.canonical d l = true) : Sparse.canonical d (Sparse.write d l i v) = true := by
  obtain ⟨hs, hd⟩ := canonical_iff.mp h
  simp only [Sparse.write]
  split
  · exact canonical_iff.mpr ⟨sorted_erase hs, fun p hp => hd p (mem_erase hp)⟩
  · next hv =>
    refine canonical_iff.mpr ⟨sorted_put hs, fun p hp => ?_⟩
    rcases mem_put hp with e | hp
    · rw [e]; exact hv
    · exact hd p hp

/-- Reading after a write into a canonical list. -/
theorem get_write (h : Sparse.canonical d l = true) :
    Sparse.get d (Sparse.write d l i v) j = if j = i then v else Sparse.get d l j := by
  simp only [Sparse.write]
  split
  · next e => rw [get_erase (canonical_iff.mp h).1, e]
  · exact get_put

/-- Dropping entries keeps the canonical form. -/
theorem canonical_filter (f : Nat × α → Bool) (h : Sparse.canonical d l = true) : Sparse.canonical d (l.filter f) = true := by
  obtain ⟨hs, hd⟩ := canonical_iff.mp h
  refine canonical_iff.mpr ⟨?_, fun p hp => hd p (List.mem_filter.mp hp).1⟩
  clear h hd
  induction l with
  | nil => rfl
  | cons p r ih =>
    obtain ⟨ha, hr⟩ := sorted_cons.mp hs
    rw [List.filter_cons]
    split
    · exact sorted_cons.mpr ⟨fun q hq => ha q (List.mem_filter.mp hq).1, ih hr⟩
    · exact ih hr

end Sys2Proof.Laws
end

