-- ==== Sys2Proof/Laws/State.lean ====
section
/-! SUPPORT. Laws/State.lean: what each update of the state and of a context leaves as it was, field by field and part by
part, and what it makes the part it sets. Each conjunction is one rewrite rule for each field. -/
namespace Sys2Proof.Laws
open Sys2Proof Sys2Proof.Machine

/-! Names of parts differ where their numbers do. -/

theorem ctxKey_inj {a b : CtxId} (h : a.key = b.key) : a = b := by
  obtain ⟨⟨ac, _⟩, ⟨as, _⟩, ⟨ax, _⟩⟩ := a
  obtain ⟨⟨bc, _⟩, ⟨bs, _⟩, ⟨bx, _⟩⟩ := b
  simp only [CtxId.key, slotKey] at h
  simp only [CtxId.mk.injEq, Fin.mk.injEq]
  omega

theorem slotKey_inj {a b : SlotId} (h : a.key = b.key) : a = b := by
  obtain ⟨⟨ac, _⟩, ⟨as, _⟩⟩ := a
  obtain ⟨⟨bc, _⟩, ⟨bs, _⟩⟩ := b
  simp only [SlotId.key, slotKey] at h
  simp only [SlotId.mk.injEq, Fin.mk.injEq]
  omega

/-! Fields of the state. -/

@[simp] theorem setCtx_fields (s : State) (n : CtxId) (x : Ctx) :
    (s.setCtx n x).mem = s.mem ∧ (s.setCtx n x).tags = s.tags ∧ (s.setCtx n x).slots = s.slots ∧
    (s.setCtx n x).saved = s.saved ∧ (s.setCtx n x).cores = s.cores ∧ (s.setCtx n x).clusters = s.clusters ∧
    (s.setCtx n x).dies = s.dies ∧ (s.setCtx n x).tlb = s.tlb ∧ (s.setCtx n x).stores = s.stores ∧
    (s.setCtx n x).acks = s.acks ∧ (s.setCtx n x).evmsgs = s.evmsgs ∧ (s.setCtx n x).ringmsgs = s.ringmsgs ∧
    (s.setCtx n x).frames = s.frames ∧ (s.setCtx n x).messenger = s.messenger ∧ (s.setCtx n x).nextSeq = s.nextSeq ∧
    (s.setCtx n x).arrivals = s.arrivals ∧ (s.setCtx n x).seen = s.seen ∧ (s.setCtx n x).doms = s.doms ∧
    (s.setCtx n x).shoots = s.shoots ∧ (s.setCtx n x).revoking = s.revoking ∧ (s.setCtx n x).faults = s.faults ∧
    (s.setCtx n x).hostLines = s.hostLines ∧ (s.setCtx n x).sideCache = s.sideCache ∧ (s.setCtx n x).links = s.links ∧
    (s.setCtx n x).routes = s.routes ∧ (s.setCtx n x).peers = s.peers ∧ (s.setCtx n x).nextOp = s.nextOp ∧
    (s.setCtx n x).vfs = s.vfs ∧ (s.setCtx n x).pfs = s.pfs ∧ (s.setCtx n x).parts = s.parts ∧
    (s.setCtx n x).windows = s.windows ∧ (s.setCtx n x).fw = s.fw ∧ (s.setCtx n x).clock = s.clock ∧
    (s.setCtx n x).cycle = s.cycle ∧ (s.setCtx n x).timeNs = s.timeNs ∧ (s.setCtx n x).timeRem = s.timeRem ∧
    (s.setCtx n x).mcheck = s.mcheck ∧ (s.setCtx n x).dump = s.dump ∧ (s.setCtx n x).thermal = s.thermal ∧
    (s.setCtx n x).msix = s.msix ∧ (s.setCtx n x).badFrames = s.badFrames ∧ (s.setCtx n x).hostRead = s.hostRead ∧
    (s.setCtx n x).agenda = s.agenda ∧ (s.setCtx n x).cur = s.cur ∧ (s.setCtx n x).fresh = s.fresh ∧
    (s.setCtx n x).imageCaps = s.imageCaps ∧ (s.setCtx n x).frameTurn = s.frameTurn ∧ (s.setCtx n x).posted = s.posted ∧
    (s.setCtx n x).nvme = s.nvme ∧ (s.setCtx n x).counted = s.counted ∧ (s.setCtx n x).expLines = s.expLines ∧
    (s.setCtx n x).invalDone = s.invalDone ∧ (s.setCtx n x).accepted = s.accepted ∧
    (s.setCtx n x).ide = s.ide := by
  and_intros <;> rfl

@[simp] theorem setCtx_parts (s : State) (n : CtxId) (x : Ctx) :
    (∀ l : SlotId, (s.setCtx n x).slot l = s.slot l) ∧ (∀ k : Fin 4608, (s.setCtx n x).core k = s.core k) ∧
    (∀ k : Fin 576, (s.setCtx n x).cluster k = s.cluster k) ∧ (∀ d : Fin 4, (s.setCtx n x).die d = s.die d) ∧
    (∀ v : Fin 64, (s.setCtx n x).vf v = s.vf v) ∧ (∀ f : Fin 16, (s.setCtx n x).pf f = s.pf f) ∧
    (∀ p : Fin 64, (s.setCtx n x).part p = s.part p) ∧ (∀ i : Fin 256, (s.setCtx n x).link i = s.link i) ∧
    (∀ a : Nat, (s.setCtx n x).byteAt a = s.byteAt a) ∧ (∀ a : Nat, (s.setCtx n x).tagAt a = s.tagAt a) := by
  and_intros <;> intros <;> rfl

@[simp] theorem setSlot_fields (s : State) (n : SlotId) (x : Slot) :
    (s.setSlot n x).mem = s.mem ∧ (s.setSlot n x).tags = s.tags ∧ (s.setSlot n x).ctxs = s.ctxs ∧
    (s.setSlot n x).saved = s.saved ∧ (s.setSlot n x).cores = s.cores ∧ (s.setSlot n x).clusters = s.clusters ∧
    (s.setSlot n x).dies = s.dies ∧ (s.setSlot n x).tlb = s.tlb ∧ (s.setSlot n x).stores = s.stores ∧
    (s.setSlot n x).acks = s.acks ∧ (s.setSlot n x).evmsgs = s.evmsgs ∧ (s.setSlot n x).ringmsgs = s.ringmsgs ∧
    (s.setSlot n x).frames = s.frames ∧ (s.setSlot n x).messenger = s.messenger ∧ (s.setSlot n x).nextSeq = s.nextSeq ∧
    (s.setSlot n x).arrivals = s.arrivals ∧ (s.setSlot n x).seen = s.seen ∧ (s.setSlot n x).doms = s.doms ∧
    (s.setSlot n x).shoots = s.shoots ∧ (s.setSlot n x).revoking = s.revoking ∧ (s.setSlot n x).faults = s.faults ∧
    (s.setSlot n x).hostLines = s.hostLines ∧ (s.setSlot n x).sideCache = s.sideCache ∧ (s.setSlot n x).links = s.links ∧
    (s.setSlot n x).routes = s.routes ∧ (s.setSlot n x).peers = s.peers ∧ (s.setSlot n x).nextOp = s.nextOp ∧
    (s.setSlot n x).vfs = s.vfs ∧ (s.setSlot n x).pfs = s.pfs ∧ (s.setSlot n x).parts = s.parts ∧
    (s.setSlot n x).windows = s.windows ∧ (s.setSlot n x).fw = s.fw ∧ (s.setSlot n x).clock = s.clock ∧
    (s.setSlot n x).cycle = s.cycle ∧ (s.setSlot n x).timeNs = s.timeNs ∧ (s.setSlot n x).timeRem = s.timeRem ∧
    (s.setSlot n x).mcheck = s.mcheck ∧ (s.setSlot n x).dump = s.dump ∧ (s.setSlot n x).thermal = s.thermal ∧
    (s.setSlot n x).msix = s.msix ∧ (s.setSlot n x).badFrames = s.badFrames ∧ (s.setSlot n x).hostRead = s.hostRead ∧
    (s.setSlot n x).agenda = s.agenda ∧ (s.setSlot n x).cur = s.cur ∧ (s.setSlot n x).fresh = s.fresh ∧
    (s.setSlot n x).imageCaps = s.imageCaps ∧ (s.setSlot n x).frameTurn = s.frameTurn ∧ (s.setSlot n x).posted = s.posted ∧
    (s.setSlot n x).nvme = s.nvme ∧ (s.setSlot n x).counted = s.counted ∧ (s.setSlot n x).expLines = s.expLines ∧
    (s.setSlot n x).invalDone = s.invalDone ∧ (s.setSlot n x).accepted = s.accepted ∧
    (s.setSlot n x).ide = s.ide := by
  and_intros <;> rfl

@[simp] theorem setSlot_parts (s : State) (n : SlotId) (x : Slot) :
    (∀ c : CtxId, (s.setSlot n x).ctx c = s.ctx c) ∧ (∀ k : Fin 4608, (s.setSlot n x).core k = s.core k) ∧
    (∀ k : Fin 576, (s.setSlot n x).cluster k = s.cluster k) ∧ (∀ d : Fin 4, (s.setSlot n x).die d = s.die d) ∧
    (∀ v : Fin 64, (s.setSlot n x).vf v = s.vf v) ∧ (∀ f : Fin 16, (s.setSlot n x).pf f = s.pf f) ∧
    (∀ p : Fin 64, (s.setSlot n x).part p = s.part p) ∧ (∀ i : Fin 256, (s.setSlot n x).link i = s.link i) ∧
    (∀ a : Nat, (s.setSlot n x).byteAt a = s.byteAt a) ∧ (∀ a : Nat, (s.setSlot n x).tagAt a = s.tagAt a) := by
  and_intros <;> intros <;> rfl

@[simp] theorem setCore_fields (s : State) (n : Fin 4608) (x : Core) :
    (s.setCore n x).mem = s.mem ∧ (s.setCore n x).tags = s.tags ∧ (s.setCore n x).ctxs = s.ctxs ∧
    (s.setCore n x).slots = s.slots ∧ (s.setCore n x).saved = s.saved ∧ (s.setCore n x).clusters = s.clusters ∧
    (s.setCore n x).dies = s.dies ∧ (s.setCore n x).tlb = s.tlb ∧ (s.setCore n x).stores = s.stores ∧
    (s.setCore n x).acks = s.acks ∧ (s.setCore n x).evmsgs = s.evmsgs ∧ (s.setCore n x).ringmsgs = s.ringmsgs ∧
    (s.setCore n x).frames = s.frames ∧ (s.setCore n x).messenger = s.messenger ∧ (s.setCore n x).nextSeq = s.nextSeq ∧
    (s.setCore n x).arrivals = s.arrivals ∧ (s.setCore n x).seen = s.seen ∧ (s.setCore n x).doms = s.doms ∧
    (s.setCore n x).shoots = s.shoots ∧ (s.setCore n x).revoking = s.revoking ∧ (s.setCore n x).faults = s.faults ∧
    (s.setCore n x).hostLines = s.hostLines ∧ (s.setCore n x).sideCache = s.sideCache ∧ (s.setCore n x).links = s.links ∧
    (s.setCore n x).routes = s.routes ∧ (s.setCore n x).peers = s.peers ∧ (s.setCore n x).nextOp = s.nextOp ∧
    (s.setCore n x).vfs = s.vfs ∧ (s.setCore n x).pfs = s.pfs ∧ (s.setCore n x).parts = s.parts ∧
    (s.setCore n x).windows = s.windows ∧ (s.setCore n x).fw = s.fw ∧ (s.setCore n x).clock = s.clock ∧
    (s.setCore n x).cycle = s.cycle ∧ (s.setCore n x).timeNs = s.timeNs ∧ (s.setCore n x).timeRem = s.timeRem ∧
    (s.setCore n x).mcheck = s.mcheck ∧ (s.setCore n x).dump = s.dump ∧ (s.setCore n x).thermal = s.thermal ∧
    (s.setCore n x).msix = s.msix ∧ (s.setCore n x).badFrames = s.badFrames ∧ (s.setCore n x).hostRead = s.hostRead ∧
    (s.setCore n x).agenda = s.agenda ∧ (s.setCore n x).cur = s.cur ∧ (s.setCore n x).fresh = s.fresh ∧
    (s.setCore n x).imageCaps = s.imageCaps ∧ (s.setCore n x).frameTurn = s.frameTurn ∧ (s.setCore n x).posted = s.posted ∧
    (s.setCore n x).nvme = s.nvme ∧ (s.setCore n x).counted = s.counted ∧ (s.setCore n x).expLines = s.expLines ∧
    (s.setCore n x).invalDone = s.invalDone ∧ (s.setCore n x).accepted = s.accepted ∧
    (s.setCore n x).ide = s.ide := by
  and_intros <;> rfl

@[simp] theorem setCore_parts (s : State) (n : Fin 4608) (x : Core) :
    (∀ c : CtxId, (s.setCore n x).ctx c = s.ctx c) ∧ (∀ l : SlotId, (s.setCore n x).slot l = s.slot l) ∧
    (∀ k : Fin 576, (s.setCore n x).cluster k = s.cluster k) ∧ (∀ d : Fin 4, (s.setCore n x).die d = s.die d) ∧
    (∀ v : Fin 64, (s.setCore n x).vf v = s.vf v) ∧ (∀ f : Fin 16, (s.setCore n x).pf f = s.pf f) ∧
    (∀ p : Fin 64, (s.setCore n x).part p = s.part p) ∧ (∀ i : Fin 256, (s.setCore n x).link i = s.link i) ∧
    (∀ a : Nat, (s.setCore n x).byteAt a = s.byteAt a) ∧ (∀ a : Nat, (s.setCore n x).tagAt a = s.tagAt a) := by
  and_intros <;> intros <;> rfl

@[simp] theorem setCluster_fields (s : State) (n : Fin 576) (x : Cluster) :
    (s.setCluster n x).mem = s.mem ∧ (s.setCluster n x).tags = s.tags ∧ (s.setCluster n x).ctxs = s.ctxs ∧
    (s.setCluster n x).slots = s.slots ∧ (s.setCluster n x).saved = s.saved ∧ (s.setCluster n x).cores = s.cores ∧
    (s.setCluster n x).dies = s.dies ∧ (s.setCluster n x).tlb = s.tlb ∧ (s.setCluster n x).stores = s.stores ∧
    (s.setCluster n x).acks = s.acks ∧ (s.setCluster n x).evmsgs = s.evmsgs ∧ (s.setCluster n x).ringmsgs = s.ringmsgs ∧
    (s.setCluster n x).frames = s.frames ∧ (s.setCluster n x).messenger = s.messenger ∧
    (s.setCluster n x).nextSeq = s.nextSeq ∧ (s.setCluster n x).arrivals = s.arrivals ∧ (s.setCluster n x).seen = s.seen ∧
    (s.setCluster n x).doms = s.doms ∧ (s.setCluster n x).shoots = s.shoots ∧ (s.setCluster n x).revoking = s.revoking ∧
    (s.setCluster n x).faults = s.faults ∧ (s.setCluster n x).hostLines = s.hostLines ∧
    (s.setCluster n x).sideCache = s.sideCache ∧ (s.setCluster n x).links = s.links ∧ (s.setCluster n x).routes = s.routes ∧
    (s.setCluster n x).peers = s.peers ∧ (s.setCluster n x).nextOp = s.nextOp ∧ (s.setCluster n x).vfs = s.vfs ∧
    (s.setCluster n x).pfs = s.pfs ∧ (s.setCluster n x).parts = s.parts ∧ (s.setCluster n x).windows = s.windows ∧
    (s.setCluster n x).fw = s.fw ∧ (s.setCluster n x).clock = s.clock ∧ (s.setCluster n x).cycle = s.cycle ∧
    (s.setCluster n x).timeNs = s.timeNs ∧ (s.setCluster n x).timeRem = s.timeRem ∧ (s.setCluster n x).mcheck = s.mcheck ∧
    (s.setCluster n x).dump = s.dump ∧ (s.setCluster n x).thermal = s.thermal ∧ (s.setCluster n x).msix = s.msix ∧
    (s.setCluster n x).badFrames = s.badFrames ∧ (s.setCluster n x).hostRead = s.hostRead ∧
    (s.setCluster n x).agenda = s.agenda ∧ (s.setCluster n x).cur = s.cur ∧ (s.setCluster n x).fresh = s.fresh ∧
    (s.setCluster n x).imageCaps = s.imageCaps ∧ (s.setCluster n x).frameTurn = s.frameTurn ∧
    (s.setCluster n x).posted = s.posted ∧ (s.setCluster n x).nvme = s.nvme ∧ (s.setCluster n x).counted = s.counted ∧
    (s.setCluster n x).expLines = s.expLines ∧ (s.setCluster n x).invalDone = s.invalDone ∧
    (s.setCluster n x).accepted = s.accepted ∧
    (s.setCluster n x).ide = s.ide := by
  and_intros <;> rfl

@[simp] theorem setCluster_parts (s : State) (n : Fin 576) (x : Cluster) :
    (∀ c : CtxId, (s.setCluster n x).ctx c = s.ctx c) ∧ (∀ l : SlotId, (s.setCluster n x).slot l = s.slot l) ∧
    (∀ k : Fin 4608, (s.setCluster n x).core k = s.core k) ∧ (∀ d : Fin 4, (s.setCluster n x).die d = s.die d) ∧
    (∀ v : Fin 64, (s.setCluster n x).vf v = s.vf v) ∧ (∀ f : Fin 16, (s.setCluster n x).pf f = s.pf f) ∧
    (∀ p : Fin 64, (s.setCluster n x).part p = s.part p) ∧ (∀ i : Fin 256, (s.setCluster n x).link i = s.link i) ∧
    (∀ a : Nat, (s.setCluster n x).byteAt a = s.byteAt a) ∧ (∀ a : Nat, (s.setCluster n x).tagAt a = s.tagAt a) := by
  and_intros <;> intros <;> rfl

@[simp] theorem setDie_fields (s : State) (n : Fin 4) (x : Die) :
    (s.setDie n x).mem = s.mem ∧ (s.setDie n x).tags = s.tags ∧ (s.setDie n x).ctxs = s.ctxs ∧
    (s.setDie n x).slots = s.slots ∧ (s.setDie n x).saved = s.saved ∧ (s.setDie n x).cores = s.cores ∧
    (s.setDie n x).clusters = s.clusters ∧ (s.setDie n x).tlb = s.tlb ∧ (s.setDie n x).stores = s.stores ∧
    (s.setDie n x).acks = s.acks ∧ (s.setDie n x).evmsgs = s.evmsgs ∧ (s.setDie n x).ringmsgs = s.ringmsgs ∧
    (s.setDie n x).frames = s.frames ∧ (s.setDie n x).messenger = s.messenger ∧ (s.setDie n x).nextSeq = s.nextSeq ∧
    (s.setDie n x).arrivals = s.arrivals ∧ (s.setDie n x).seen = s.seen ∧ (s.setDie n x).doms = s.doms ∧
    (s.setDie n x).shoots = s.shoots ∧ (s.setDie n x).revoking = s.revoking ∧ (s.setDie n x).faults = s.faults ∧
    (s.setDie n x).hostLines = s.hostLines ∧ (s.setDie n x).sideCache = s.sideCache ∧ (s.setDie n x).links = s.links ∧
    (s.setDie n x).routes = s.routes ∧ (s.setDie n x).peers = s.peers ∧ (s.setDie n x).nextOp = s.nextOp ∧
    (s.setDie n x).vfs = s.vfs ∧ (s.setDie n x).pfs = s.pfs ∧ (s.setDie n x).parts = s.parts ∧
    (s.setDie n x).windows = s.windows ∧ (s.setDie n x).fw = s.fw ∧ (s.setDie n x).clock = s.clock ∧
    (s.setDie n x).cycle = s.cycle ∧ (s.setDie n x).timeNs = s.timeNs ∧ (s.setDie n x).timeRem = s.timeRem ∧
    (s.setDie n x).mcheck = s.mcheck ∧ (s.setDie n x).dump = s.dump ∧ (s.setDie n x).thermal = s.thermal ∧
    (s.setDie n x).msix = s.msix ∧ (s.setDie n x).badFrames = s.badFrames ∧ (s.setDie n x).hostRead = s.hostRead ∧
    (s.setDie n x).agenda = s.agenda ∧ (s.setDie n x).cur = s.cur ∧ (s.setDie n x).fresh = s.fresh ∧
    (s.setDie n x).imageCaps = s.imageCaps ∧ (s.setDie n x).frameTurn = s.frameTurn ∧ (s.setDie n x).posted = s.posted ∧
    (s.setDie n x).nvme = s.nvme ∧ (s.setDie n x).counted = s.counted ∧ (s.setDie n x).expLines = s.expLines ∧
    (s.setDie n x).invalDone = s.invalDone ∧ (s.setDie n x).accepted = s.accepted ∧
    (s.setDie n x).ide = s.ide := by
  and_intros <;> rfl

@[simp] theorem setDie_parts (s : State) (n : Fin 4) (x : Die) :
    (∀ c : CtxId, (s.setDie n x).ctx c = s.ctx c) ∧ (∀ l : SlotId, (s.setDie n x).slot l = s.slot l) ∧
    (∀ k : Fin 4608, (s.setDie n x).core k = s.core k) ∧ (∀ k : Fin 576, (s.setDie n x).cluster k = s.cluster k) ∧
    (∀ v : Fin 64, (s.setDie n x).vf v = s.vf v) ∧ (∀ f : Fin 16, (s.setDie n x).pf f = s.pf f) ∧
    (∀ p : Fin 64, (s.setDie n x).part p = s.part p) ∧ (∀ i : Fin 256, (s.setDie n x).link i = s.link i) ∧
    (∀ a : Nat, (s.setDie n x).byteAt a = s.byteAt a) ∧ (∀ a : Nat, (s.setDie n x).tagAt a = s.tagAt a) := by
  and_intros <;> intros <;> rfl

@[simp] theorem modVf_fields (s : State) (n : Fin 64) (x : Vf → Vf) :
    (s.modVf n x).mem = s.mem ∧ (s.modVf n x).tags = s.tags ∧ (s.modVf n x).ctxs = s.ctxs ∧ (s.modVf n x).slots = s.slots ∧
    (s.modVf n x).saved = s.saved ∧ (s.modVf n x).cores = s.cores ∧ (s.modVf n x).clusters = s.clusters ∧
    (s.modVf n x).dies = s.dies ∧ (s.modVf n x).tlb = s.tlb ∧ (s.modVf n x).stores = s.stores ∧ (s.modVf n x).acks = s.acks ∧
    (s.modVf n x).evmsgs = s.evmsgs ∧ (s.modVf n x).ringmsgs = s.ringmsgs ∧ (s.modVf n x).frames = s.frames ∧
    (s.modVf n x).messenger = s.messenger ∧ (s.modVf n x).nextSeq = s.nextSeq ∧ (s.modVf n x).arrivals = s.arrivals ∧
    (s.modVf n x).seen = s.seen ∧ (s.modVf n x).doms = s.doms ∧ (s.modVf n x).shoots = s.shoots ∧
    (s.modVf n x).revoking = s.revoking ∧ (s.modVf n x).faults = s.faults ∧ (s.modVf n x).hostLines = s.hostLines ∧
    (s.modVf n x).sideCache = s.sideCache ∧ (s.modVf n x).links = s.links ∧ (s.modVf n x).routes = s.routes ∧
    (s.modVf n x).peers = s.peers ∧ (s.modVf n x).nextOp = s.nextOp ∧ (s.modVf n x).pfs = s.pfs ∧
    (s.modVf n x).parts = s.parts ∧ (s.modVf n x).windows = s.windows ∧ (s.modVf n x).fw = s.fw ∧
    (s.modVf n x).clock = s.clock ∧ (s.modVf n x).cycle = s.cycle ∧ (s.modVf n x).timeNs = s.timeNs ∧
    (s.modVf n x).timeRem = s.timeRem ∧ (s.modVf n x).mcheck = s.mcheck ∧ (s.modVf n x).dump = s.dump ∧
    (s.modVf n x).thermal = s.thermal ∧ (s.modVf n x).msix = s.msix ∧ (s.modVf n x).badFrames = s.badFrames ∧
    (s.modVf n x).hostRead = s.hostRead ∧ (s.modVf n x).agenda = s.agenda ∧ (s.modVf n x).cur = s.cur ∧
    (s.modVf n x).fresh = s.fresh ∧ (s.modVf n x).imageCaps = s.imageCaps ∧ (s.modVf n x).frameTurn = s.frameTurn ∧
    (s.modVf n x).posted = s.posted ∧ (s.modVf n x).nvme = s.nvme ∧ (s.modVf n x).counted = s.counted ∧
    (s.modVf n x).expLines = s.expLines ∧ (s.modVf n x).invalDone = s.invalDone ∧ (s.modVf n x).accepted = s.accepted ∧
    (s.modVf n x).ide = s.ide := by
  and_intros <;> rfl

@[simp] theorem modVf_parts (s : State) (n : Fin 64) (x : Vf → Vf) :
    (∀ c : CtxId, (s.modVf n x).ctx c = s.ctx c) ∧ (∀ l : SlotId, (s.modVf n x).slot l = s.slot l) ∧
    (∀ k : Fin 4608, (s.modVf n x).core k = s.core k) ∧ (∀ k : Fin 576, (s.modVf n x).cluster k = s.cluster k) ∧
    (∀ d : Fin 4, (s.modVf n x).die d = s.die d) ∧ (∀ f : Fin 16, (s.modVf n x).pf f = s.pf f) ∧
    (∀ p : Fin 64, (s.modVf n x).part p = s.part p) ∧ (∀ i : Fin 256, (s.modVf n x).link i = s.link i) ∧
    (∀ a : Nat, (s.modVf n x).byteAt a = s.byteAt a) ∧ (∀ a : Nat, (s.modVf n x).tagAt a = s.tagAt a) := by
  and_intros <;> intros <;> rfl

@[simp] theorem modPf_fields (s : State) (n : Fin 16) (x : Pf → Pf) :
    (s.modPf n x).mem = s.mem ∧ (s.modPf n x).tags = s.tags ∧ (s.modPf n x).ctxs = s.ctxs ∧ (s.modPf n x).slots = s.slots ∧
    (s.modPf n x).saved = s.saved ∧ (s.modPf n x).cores = s.cores ∧ (s.modPf n x).clusters = s.clusters ∧
    (s.modPf n x).dies = s.dies ∧ (s.modPf n x).tlb = s.tlb ∧ (s.modPf n x).stores = s.stores ∧ (s.modPf n x).acks = s.acks ∧
    (s.modPf n x).evmsgs = s.evmsgs ∧ (s.modPf n x).ringmsgs = s.ringmsgs ∧ (s.modPf n x).frames = s.frames ∧
    (s.modPf n x).messenger = s.messenger ∧ (s.modPf n x).nextSeq = s.nextSeq ∧ (s.modPf n x).arrivals = s.arrivals ∧
    (s.modPf n x).seen = s.seen ∧ (s.modPf n x).doms = s.doms ∧ (s.modPf n x).shoots = s.shoots ∧
    (s.modPf n x).revoking = s.revoking ∧ (s.modPf n x).faults = s.faults ∧ (s.modPf n x).hostLines = s.hostLines ∧
    (s.modPf n x).sideCache = s.sideCache ∧ (s.modPf n x).links = s.links ∧ (s.modPf n x).routes = s.routes ∧
    (s.modPf n x).peers = s.peers ∧ (s.modPf n x).nextOp = s.nextOp ∧ (s.modPf n x).vfs = s.vfs ∧
    (s.modPf n x).parts = s.parts ∧ (s.modPf n x).windows = s.windows ∧ (s.modPf n x).fw = s.fw ∧
    (s.modPf n x).clock = s.clock ∧ (s.modPf n x).cycle = s.cycle ∧ (s.modPf n x).timeNs = s.timeNs ∧
    (s.modPf n x).timeRem = s.timeRem ∧ (s.modPf n x).mcheck = s.mcheck ∧ (s.modPf n x).dump = s.dump ∧
    (s.modPf n x).thermal = s.thermal ∧ (s.modPf n x).msix = s.msix ∧ (s.modPf n x).badFrames = s.badFrames ∧
    (s.modPf n x).hostRead = s.hostRead ∧ (s.modPf n x).agenda = s.agenda ∧ (s.modPf n x).cur = s.cur ∧
    (s.modPf n x).fresh = s.fresh ∧ (s.modPf n x).imageCaps = s.imageCaps ∧ (s.modPf n x).frameTurn = s.frameTurn ∧
    (s.modPf n x).posted = s.posted ∧ (s.modPf n x).nvme = s.nvme ∧ (s.modPf n x).counted = s.counted ∧
    (s.modPf n x).expLines = s.expLines ∧ (s.modPf n x).invalDone = s.invalDone ∧ (s.modPf n x).accepted = s.accepted ∧
    (s.modPf n x).ide = s.ide := by
  and_intros <;> rfl

@[simp] theorem modPf_parts (s : State) (n : Fin 16) (x : Pf → Pf) :
    (∀ c : CtxId, (s.modPf n x).ctx c = s.ctx c) ∧ (∀ l : SlotId, (s.modPf n x).slot l = s.slot l) ∧
    (∀ k : Fin 4608, (s.modPf n x).core k = s.core k) ∧ (∀ k : Fin 576, (s.modPf n x).cluster k = s.cluster k) ∧
    (∀ d : Fin 4, (s.modPf n x).die d = s.die d) ∧ (∀ v : Fin 64, (s.modPf n x).vf v = s.vf v) ∧
    (∀ p : Fin 64, (s.modPf n x).part p = s.part p) ∧ (∀ i : Fin 256, (s.modPf n x).link i = s.link i) ∧
    (∀ a : Nat, (s.modPf n x).byteAt a = s.byteAt a) ∧ (∀ a : Nat, (s.modPf n x).tagAt a = s.tagAt a) := by
  and_intros <;> intros <;> rfl

@[simp] theorem modPart_fields (s : State) (n : Fin 64) (x : Partition → Partition) :
    (s.modPart n x).mem = s.mem ∧ (s.modPart n x).tags = s.tags ∧ (s.modPart n x).ctxs = s.ctxs ∧
    (s.modPart n x).slots = s.slots ∧ (s.modPart n x).saved = s.saved ∧ (s.modPart n x).cores = s.cores ∧
    (s.modPart n x).clusters = s.clusters ∧ (s.modPart n x).dies = s.dies ∧ (s.modPart n x).tlb = s.tlb ∧
    (s.modPart n x).stores = s.stores ∧ (s.modPart n x).acks = s.acks ∧ (s.modPart n x).evmsgs = s.evmsgs ∧
    (s.modPart n x).ringmsgs = s.ringmsgs ∧ (s.modPart n x).frames = s.frames ∧ (s.modPart n x).messenger = s.messenger ∧
    (s.modPart n x).nextSeq = s.nextSeq ∧ (s.modPart n x).arrivals = s.arrivals ∧ (s.modPart n x).seen = s.seen ∧
    (s.modPart n x).doms = s.doms ∧ (s.modPart n x).shoots = s.shoots ∧ (s.modPart n x).revoking = s.revoking ∧
    (s.modPart n x).faults = s.faults ∧ (s.modPart n x).hostLines = s.hostLines ∧ (s.modPart n x).sideCache = s.sideCache ∧
    (s.modPart n x).links = s.links ∧ (s.modPart n x).routes = s.routes ∧ (s.modPart n x).peers = s.peers ∧
    (s.modPart n x).nextOp = s.nextOp ∧ (s.modPart n x).vfs = s.vfs ∧ (s.modPart n x).pfs = s.pfs ∧
    (s.modPart n x).windows = s.windows ∧ (s.modPart n x).fw = s.fw ∧ (s.modPart n x).clock = s.clock ∧
    (s.modPart n x).cycle = s.cycle ∧ (s.modPart n x).timeNs = s.timeNs ∧ (s.modPart n x).timeRem = s.timeRem ∧
    (s.modPart n x).mcheck = s.mcheck ∧ (s.modPart n x).dump = s.dump ∧ (s.modPart n x).thermal = s.thermal ∧
    (s.modPart n x).msix = s.msix ∧ (s.modPart n x).badFrames = s.badFrames ∧ (s.modPart n x).hostRead = s.hostRead ∧
    (s.modPart n x).agenda = s.agenda ∧ (s.modPart n x).cur = s.cur ∧ (s.modPart n x).fresh = s.fresh ∧
    (s.modPart n x).imageCaps = s.imageCaps ∧ (s.modPart n x).frameTurn = s.frameTurn ∧ (s.modPart n x).posted = s.posted ∧
    (s.modPart n x).nvme = s.nvme ∧ (s.modPart n x).counted = s.counted ∧ (s.modPart n x).expLines = s.expLines ∧
    (s.modPart n x).invalDone = s.invalDone ∧ (s.modPart n x).accepted = s.accepted ∧
    (s.modPart n x).ide = s.ide := by
  and_intros <;> rfl

@[simp] theorem modPart_parts (s : State) (n : Fin 64) (x : Partition → Partition) :
    (∀ c : CtxId, (s.modPart n x).ctx c = s.ctx c) ∧ (∀ l : SlotId, (s.modPart n x).slot l = s.slot l) ∧
    (∀ k : Fin 4608, (s.modPart n x).core k = s.core k) ∧ (∀ k : Fin 576, (s.modPart n x).cluster k = s.cluster k) ∧
    (∀ d : Fin 4, (s.modPart n x).die d = s.die d) ∧ (∀ v : Fin 64, (s.modPart n x).vf v = s.vf v) ∧
    (∀ f : Fin 16, (s.modPart n x).pf f = s.pf f) ∧ (∀ i : Fin 256, (s.modPart n x).link i = s.link i) ∧
    (∀ a : Nat, (s.modPart n x).byteAt a = s.byteAt a) ∧ (∀ a : Nat, (s.modPart n x).tagAt a = s.tagAt a) := by
  and_intros <;> intros <;> rfl

@[simp] theorem modLink_fields (s : State) (n : Fin 256) (x : Link → Link) :
    (s.modLink n x).mem = s.mem ∧ (s.modLink n x).tags = s.tags ∧ (s.modLink n x).ctxs = s.ctxs ∧
    (s.modLink n x).slots = s.slots ∧ (s.modLink n x).saved = s.saved ∧ (s.modLink n x).cores = s.cores ∧
    (s.modLink n x).clusters = s.clusters ∧ (s.modLink n x).dies = s.dies ∧ (s.modLink n x).tlb = s.tlb ∧
    (s.modLink n x).stores = s.stores ∧ (s.modLink n x).acks = s.acks ∧ (s.modLink n x).evmsgs = s.evmsgs ∧
    (s.modLink n x).ringmsgs = s.ringmsgs ∧ (s.modLink n x).frames = s.frames ∧ (s.modLink n x).messenger = s.messenger ∧
    (s.modLink n x).nextSeq = s.nextSeq ∧ (s.modLink n x).arrivals = s.arrivals ∧ (s.modLink n x).seen = s.seen ∧
    (s.modLink n x).doms = s.doms ∧ (s.modLink n x).shoots = s.shoots ∧ (s.modLink n x).revoking = s.revoking ∧
    (s.modLink n x).faults = s.faults ∧ (s.modLink n x).hostLines = s.hostLines ∧ (s.modLink n x).sideCache = s.sideCache ∧
    (s.modLink n x).routes = s.routes ∧ (s.modLink n x).peers = s.peers ∧ (s.modLink n x).nextOp = s.nextOp ∧
    (s.modLink n x).vfs = s.vfs ∧ (s.modLink n x).pfs = s.pfs ∧ (s.modLink n x).parts = s.parts ∧
    (s.modLink n x).windows = s.windows ∧ (s.modLink n x).fw = s.fw ∧ (s.modLink n x).clock = s.clock ∧
    (s.modLink n x).cycle = s.cycle ∧ (s.modLink n x).timeNs = s.timeNs ∧ (s.modLink n x).timeRem = s.timeRem ∧
    (s.modLink n x).mcheck = s.mcheck ∧ (s.modLink n x).dump = s.dump ∧ (s.modLink n x).thermal = s.thermal ∧
    (s.modLink n x).msix = s.msix ∧ (s.modLink n x).badFrames = s.badFrames ∧ (s.modLink n x).hostRead = s.hostRead ∧
    (s.modLink n x).agenda = s.agenda ∧ (s.modLink n x).cur = s.cur ∧ (s.modLink n x).fresh = s.fresh ∧
    (s.modLink n x).imageCaps = s.imageCaps ∧ (s.modLink n x).frameTurn = s.frameTurn ∧ (s.modLink n x).posted = s.posted ∧
    (s.modLink n x).nvme = s.nvme ∧ (s.modLink n x).counted = s.counted ∧ (s.modLink n x).expLines = s.expLines ∧
    (s.modLink n x).invalDone = s.invalDone ∧ (s.modLink n x).accepted = s.accepted ∧
    (s.modLink n x).ide = s.ide := by
  and_intros <;> rfl

@[simp] theorem modLink_parts (s : State) (n : Fin 256) (x : Link → Link) :
    (∀ c : CtxId, (s.modLink n x).ctx c = s.ctx c) ∧ (∀ l : SlotId, (s.modLink n x).slot l = s.slot l) ∧
    (∀ k : Fin 4608, (s.modLink n x).core k = s.core k) ∧ (∀ k : Fin 576, (s.modLink n x).cluster k = s.cluster k) ∧
    (∀ d : Fin 4, (s.modLink n x).die d = s.die d) ∧ (∀ v : Fin 64, (s.modLink n x).vf v = s.vf v) ∧
    (∀ f : Fin 16, (s.modLink n x).pf f = s.pf f) ∧ (∀ p : Fin 64, (s.modLink n x).part p = s.part p) ∧
    (∀ a : Nat, (s.modLink n x).byteAt a = s.byteAt a) ∧ (∀ a : Nat, (s.modLink n x).tagAt a = s.tagAt a) := by
  and_intros <;> intros <;> rfl

@[simp] theorem takeFresh_fields (s : State) :
    (s.takeFresh).mem = s.mem ∧ (s.takeFresh).tags = s.tags ∧ (s.takeFresh).ctxs = s.ctxs ∧ (s.takeFresh).slots = s.slots ∧
    (s.takeFresh).saved = s.saved ∧ (s.takeFresh).cores = s.cores ∧ (s.takeFresh).clusters = s.clusters ∧
    (s.takeFresh).dies = s.dies ∧ (s.takeFresh).tlb = s.tlb ∧ (s.takeFresh).stores = s.stores ∧ (s.takeFresh).acks = s.acks ∧
    (s.takeFresh).evmsgs = s.evmsgs ∧ (s.takeFresh).ringmsgs = s.ringmsgs ∧ (s.takeFresh).frames = s.frames ∧
    (s.takeFresh).messenger = s.messenger ∧ (s.takeFresh).nextSeq = s.nextSeq ∧ (s.takeFresh).arrivals = s.arrivals ∧
    (s.takeFresh).seen = s.seen ∧ (s.takeFresh).doms = s.doms ∧ (s.takeFresh).shoots = s.shoots ∧
    (s.takeFresh).revoking = s.revoking ∧ (s.takeFresh).faults = s.faults ∧ (s.takeFresh).hostLines = s.hostLines ∧
    (s.takeFresh).sideCache = s.sideCache ∧ (s.takeFresh).links = s.links ∧ (s.takeFresh).routes = s.routes ∧
    (s.takeFresh).peers = s.peers ∧ (s.takeFresh).nextOp = s.nextOp ∧ (s.takeFresh).vfs = s.vfs ∧ (s.takeFresh).pfs = s.pfs ∧
    (s.takeFresh).parts = s.parts ∧ (s.takeFresh).windows = s.windows ∧ (s.takeFresh).fw = s.fw ∧
    (s.takeFresh).clock = s.clock ∧ (s.takeFresh).cycle = s.cycle ∧ (s.takeFresh).timeNs = s.timeNs ∧
    (s.takeFresh).timeRem = s.timeRem ∧ (s.takeFresh).mcheck = s.mcheck ∧ (s.takeFresh).dump = s.dump ∧
    (s.takeFresh).thermal = s.thermal ∧ (s.takeFresh).msix = s.msix ∧ (s.takeFresh).badFrames = s.badFrames ∧
    (s.takeFresh).hostRead = s.hostRead ∧ (s.takeFresh).agenda = s.agenda ∧ (s.takeFresh).cur = s.cur ∧
    (s.takeFresh).imageCaps = s.imageCaps ∧ (s.takeFresh).frameTurn = s.frameTurn ∧ (s.takeFresh).posted = s.posted ∧
    (s.takeFresh).nvme = s.nvme ∧ (s.takeFresh).counted = s.counted ∧ (s.takeFresh).expLines = s.expLines ∧
    (s.takeFresh).invalDone = s.invalDone ∧ (s.takeFresh).accepted = s.accepted ∧
    (s.takeFresh).ide = s.ide := by
  and_intros <;> rfl

@[simp] theorem takeFresh_parts (s : State) :
    (∀ c : CtxId, (s.takeFresh).ctx c = s.ctx c) ∧ (∀ l : SlotId, (s.takeFresh).slot l = s.slot l) ∧
    (∀ k : Fin 4608, (s.takeFresh).core k = s.core k) ∧ (∀ k : Fin 576, (s.takeFresh).cluster k = s.cluster k) ∧
    (∀ d : Fin 4, (s.takeFresh).die d = s.die d) ∧ (∀ v : Fin 64, (s.takeFresh).vf v = s.vf v) ∧
    (∀ f : Fin 16, (s.takeFresh).pf f = s.pf f) ∧ (∀ p : Fin 64, (s.takeFresh).part p = s.part p) ∧
    (∀ i : Fin 256, (s.takeFresh).link i = s.link i) ∧ (∀ a : Nat, (s.takeFresh).byteAt a = s.byteAt a) ∧
    (∀ a : Nat, (s.takeFresh).tagAt a = s.tagAt a) := by
  and_intros <;> intros <;> rfl

@[simp] theorem setByteAt_fields (s : State) (n : Nat) (x : Byte) :
    (s.setByteAt n x).tags = s.tags ∧ (s.setByteAt n x).ctxs = s.ctxs ∧ (s.setByteAt n x).slots = s.slots ∧
    (s.setByteAt n x).saved = s.saved ∧ (s.setByteAt n x).cores = s.cores ∧ (s.setByteAt n x).clusters = s.clusters ∧
    (s.setByteAt n x).dies = s.dies ∧ (s.setByteAt n x).tlb = s.tlb ∧ (s.setByteAt n x).stores = s.stores ∧
    (s.setByteAt n x).acks = s.acks ∧ (s.setByteAt n x).evmsgs = s.evmsgs ∧ (s.setByteAt n x).ringmsgs = s.ringmsgs ∧
    (s.setByteAt n x).frames = s.frames ∧ (s.setByteAt n x).messenger = s.messenger ∧ (s.setByteAt n x).nextSeq = s.nextSeq ∧
    (s.setByteAt n x).arrivals = s.arrivals ∧ (s.setByteAt n x).seen = s.seen ∧ (s.setByteAt n x).doms = s.doms ∧
    (s.setByteAt n x).shoots = s.shoots ∧ (s.setByteAt n x).revoking = s.revoking ∧ (s.setByteAt n x).faults = s.faults ∧
    (s.setByteAt n x).hostLines = s.hostLines ∧ (s.setByteAt n x).sideCache = s.sideCache ∧
    (s.setByteAt n x).links = s.links ∧ (s.setByteAt n x).routes = s.routes ∧ (s.setByteAt n x).peers = s.peers ∧
    (s.setByteAt n x).nextOp = s.nextOp ∧ (s.setByteAt n x).vfs = s.vfs ∧ (s.setByteAt n x).pfs = s.pfs ∧
    (s.setByteAt n x).parts = s.parts ∧ (s.setByteAt n x).windows = s.windows ∧ (s.setByteAt n x).fw = s.fw ∧
    (s.setByteAt n x).clock = s.clock ∧ (s.setByteAt n x).cycle = s.cycle ∧ (s.setByteAt n x).timeNs = s.timeNs ∧
    (s.setByteAt n x).timeRem = s.timeRem ∧ (s.setByteAt n x).mcheck = s.mcheck ∧ (s.setByteAt n x).dump = s.dump ∧
    (s.setByteAt n x).thermal = s.thermal ∧ (s.setByteAt n x).msix = s.msix ∧ (s.setByteAt n x).badFrames = s.badFrames ∧
    (s.setByteAt n x).hostRead = s.hostRead ∧ (s.setByteAt n x).agenda = s.agenda ∧ (s.setByteAt n x).cur = s.cur ∧
    (s.setByteAt n x).fresh = s.fresh ∧ (s.setByteAt n x).imageCaps = s.imageCaps ∧
    (s.setByteAt n x).frameTurn = s.frameTurn ∧ (s.setByteAt n x).posted = s.posted ∧ (s.setByteAt n x).nvme = s.nvme ∧
    (s.setByteAt n x).counted = s.counted ∧ (s.setByteAt n x).expLines = s.expLines ∧
    (s.setByteAt n x).invalDone = s.invalDone ∧ (s.setByteAt n x).accepted = s.accepted ∧
    (s.setByteAt n x).ide = s.ide := by
  and_intros <;> rfl

@[simp] theorem setByteAt_parts (s : State) (n : Nat) (x : Byte) :
    (∀ c : CtxId, (s.setByteAt n x).ctx c = s.ctx c) ∧ (∀ l : SlotId, (s.setByteAt n x).slot l = s.slot l) ∧
    (∀ k : Fin 4608, (s.setByteAt n x).core k = s.core k) ∧ (∀ k : Fin 576, (s.setByteAt n x).cluster k = s.cluster k) ∧
    (∀ d : Fin 4, (s.setByteAt n x).die d = s.die d) ∧ (∀ v : Fin 64, (s.setByteAt n x).vf v = s.vf v) ∧
    (∀ f : Fin 16, (s.setByteAt n x).pf f = s.pf f) ∧ (∀ p : Fin 64, (s.setByteAt n x).part p = s.part p) ∧
    (∀ i : Fin 256, (s.setByteAt n x).link i = s.link i) ∧ (∀ a : Nat, (s.setByteAt n x).tagAt a = s.tagAt a) := by
  and_intros <;> intros <;> rfl

@[simp] theorem setTagAt_fields (s : State) (n : Nat) (x : Bool) :
    (s.setTagAt n x).mem = s.mem ∧ (s.setTagAt n x).ctxs = s.ctxs ∧ (s.setTagAt n x).slots = s.slots ∧
    (s.setTagAt n x).saved = s.saved ∧ (s.setTagAt n x).cores = s.cores ∧ (s.setTagAt n x).clusters = s.clusters ∧
    (s.setTagAt n x).dies = s.dies ∧ (s.setTagAt n x).tlb = s.tlb ∧ (s.setTagAt n x).stores = s.stores ∧
    (s.setTagAt n x).acks = s.acks ∧ (s.setTagAt n x).evmsgs = s.evmsgs ∧ (s.setTagAt n x).ringmsgs = s.ringmsgs ∧
    (s.setTagAt n x).frames = s.frames ∧ (s.setTagAt n x).messenger = s.messenger ∧ (s.setTagAt n x).nextSeq = s.nextSeq ∧
    (s.setTagAt n x).arrivals = s.arrivals ∧ (s.setTagAt n x).seen = s.seen ∧ (s.setTagAt n x).doms = s.doms ∧
    (s.setTagAt n x).shoots = s.shoots ∧ (s.setTagAt n x).revoking = s.revoking ∧ (s.setTagAt n x).faults = s.faults ∧
    (s.setTagAt n x).hostLines = s.hostLines ∧ (s.setTagAt n x).sideCache = s.sideCache ∧ (s.setTagAt n x).links = s.links ∧
    (s.setTagAt n x).routes = s.routes ∧ (s.setTagAt n x).peers = s.peers ∧ (s.setTagAt n x).nextOp = s.nextOp ∧
    (s.setTagAt n x).vfs = s.vfs ∧ (s.setTagAt n x).pfs = s.pfs ∧ (s.setTagAt n x).parts = s.parts ∧
    (s.setTagAt n x).windows = s.windows ∧ (s.setTagAt n x).fw = s.fw ∧ (s.setTagAt n x).clock = s.clock ∧
    (s.setTagAt n x).cycle = s.cycle ∧ (s.setTagAt n x).timeNs = s.timeNs ∧ (s.setTagAt n x).timeRem = s.timeRem ∧
    (s.setTagAt n x).mcheck = s.mcheck ∧ (s.setTagAt n x).dump = s.dump ∧ (s.setTagAt n x).thermal = s.thermal ∧
    (s.setTagAt n x).msix = s.msix ∧ (s.setTagAt n x).badFrames = s.badFrames ∧ (s.setTagAt n x).hostRead = s.hostRead ∧
    (s.setTagAt n x).agenda = s.agenda ∧ (s.setTagAt n x).cur = s.cur ∧ (s.setTagAt n x).fresh = s.fresh ∧
    (s.setTagAt n x).imageCaps = s.imageCaps ∧ (s.setTagAt n x).frameTurn = s.frameTurn ∧ (s.setTagAt n x).posted = s.posted ∧
    (s.setTagAt n x).nvme = s.nvme ∧ (s.setTagAt n x).counted = s.counted ∧ (s.setTagAt n x).expLines = s.expLines ∧
    (s.setTagAt n x).invalDone = s.invalDone ∧ (s.setTagAt n x).accepted = s.accepted ∧
    (s.setTagAt n x).ide = s.ide := by
  and_intros <;> rfl

@[simp] theorem setTagAt_parts (s : State) (n : Nat) (x : Bool) :
    (∀ c : CtxId, (s.setTagAt n x).ctx c = s.ctx c) ∧ (∀ l : SlotId, (s.setTagAt n x).slot l = s.slot l) ∧
    (∀ k : Fin 4608, (s.setTagAt n x).core k = s.core k) ∧ (∀ k : Fin 576, (s.setTagAt n x).cluster k = s.cluster k) ∧
    (∀ d : Fin 4, (s.setTagAt n x).die d = s.die d) ∧ (∀ v : Fin 64, (s.setTagAt n x).vf v = s.vf v) ∧
    (∀ f : Fin 16, (s.setTagAt n x).pf f = s.pf f) ∧ (∀ p : Fin 64, (s.setTagAt n x).part p = s.part p) ∧
    (∀ i : Fin 256, (s.setTagAt n x).link i = s.link i) ∧ (∀ a : Nat, (s.setTagAt n x).byteAt a = s.byteAt a) := by
  and_intros <;> intros <;> rfl

/-! What an update makes the part it sets. -/

theorem ctx_setCtx (s : State) (c e : CtxId) (x : Ctx) : (s.setCtx c x).ctx e = if e = c then x else s.ctx e := by
  simp only [State.ctx, State.setCtx, get_put]
  exact if_congr ⟨ctxKey_inj, fun h => h ▸ rfl⟩ rfl rfl
@[simp] theorem ctx_setCtx_self (s : State) (c : CtxId) (x : Ctx) : (s.setCtx c x).ctx c = x := by simp [ctx_setCtx]
theorem ctx_setCtx_ne (s : State) {c e : CtxId} (x : Ctx) (h : e ≠ c) : (s.setCtx c x).ctx e = s.ctx e := by simp [ctx_setCtx, h]
@[simp] theorem ctx_modCtx_self (s : State) (c : CtxId) (f : Ctx → Ctx) : (s.modCtx c f).ctx c = f (s.ctx c) := ctx_setCtx_self ..
theorem ctx_modCtx_ne (s : State) {c e : CtxId} (f : Ctx → Ctx) (h : e ≠ c) : (s.modCtx c f).ctx e = s.ctx e := ctx_setCtx_ne _ _ h

theorem slot_setSlot (s : State) (l e : SlotId) (x : Slot) : (s.setSlot l x).slot e = if e = l then x else s.slot e := by
  simp only [State.slot, State.setSlot, get_put]
  exact if_congr ⟨slotKey_inj, fun h => h ▸ rfl⟩ rfl rfl
@[simp] theorem slot_setSlot_self (s : State) (l : SlotId) (x : Slot) : (s.setSlot l x).slot l = x := by simp [slot_setSlot]
theorem slot_setSlot_ne (s : State) {l e : SlotId} (x : Slot) (h : e ≠ l) : (s.setSlot l x).slot e = s.slot e := by
  simp [slot_setSlot, h]
@[simp] theorem slot_modSlot_self (s : State) (l : SlotId) (f : Slot → Slot) : (s.modSlot l f).slot l = f (s.slot l) :=
  slot_setSlot_self ..

theorem core_setCore (s : State) (k e : Fin 4608) (x : Core) : (s.setCore k x).core e = if e = k then x else s.core e := by
  simp only [State.core, State.setCore, get_put]
  exact if_congr ⟨Fin.eq_of_val_eq, fun h => h ▸ rfl⟩ rfl rfl
@[simp] theorem core_setCore_self (s : State) (k : Fin 4608) (x : Core) : (s.setCore k x).core k = x := by simp [core_setCore]
@[simp] theorem core_modCore_self (s : State) (k : Fin 4608) (f : Core → Core) : (s.modCore k f).core k = f (s.core k) := core_setCore_self ..

theorem cluster_setCluster (s : State) (k e : Fin 576) (x : Cluster) : (s.setCluster k x).cluster e = if e = k then x else s.cluster e := by
  simp only [State.cluster, State.setCluster, get_put]
  exact if_congr ⟨Fin.eq_of_val_eq, fun h => h ▸ rfl⟩ rfl rfl
@[simp] theorem cluster_setCluster_self (s : State) (k : Fin 576) (x : Cluster) : (s.setCluster k x).cluster k = x := by simp [cluster_setCluster]
@[simp] theorem cluster_modCluster_self (s : State) (k : Fin 576) (f : Cluster → Cluster) : (s.modCluster k f).cluster k = f (s.cluster k) := cluster_setCluster_self ..

theorem die_setDie (s : State) (k e : Fin 4) (x : Die) : (s.setDie k x).die e = if e = k then x else s.die e := by
  simp only [State.die, State.setDie, get_put]
  exact if_congr ⟨Fin.eq_of_val_eq, fun h => h ▸ rfl⟩ rfl rfl
@[simp] theorem die_setDie_self (s : State) (k : Fin 4) (x : Die) : (s.setDie k x).die k = x := by simp [die_setDie]
@[simp] theorem die_modDie_self (s : State) (k : Fin 4) (f : Die → Die) : (s.modDie k f).die k = f (s.die k) := die_setDie_self ..

theorem vf_modVf (s : State) (k e : Fin 64) (f : Vf → Vf) :
    (s.modVf k f).vf e = if e = k then f (s.vf k) else s.vf e := by
  simp only [State.vf, State.modVf, get_put]
  exact if_congr ⟨Fin.eq_of_val_eq, fun h => h ▸ rfl⟩ rfl rfl
@[simp] theorem vf_modVf_self (s : State) (k : Fin 64) (f : Vf → Vf) : (s.modVf k f).vf k = f (s.vf k) := by simp [vf_modVf]

theorem pf_modPf (s : State) (k e : Fin 16) (f : Pf → Pf) :
    (s.modPf k f).pf e = if e = k then f (s.pf k) else s.pf e := by
  simp only [State.pf, State.modPf, get_put]
  exact if_congr ⟨Fin.eq_of_val_eq, fun h => h ▸ rfl⟩ rfl rfl
@[simp] theorem pf_modPf_self (s : State) (k : Fin 16) (f : Pf → Pf) : (s.modPf k f).pf k = f (s.pf k) := by simp [pf_modPf]

theorem part_modPart (s : State) (k e : Fin 64) (f : Partition → Partition) :
    (s.modPart k f).part e = if e = k then f (s.part k) else s.part e := by
  simp only [State.part, State.modPart, get_put]
  exact if_congr ⟨Fin.eq_of_val_eq, fun h => h ▸ rfl⟩ rfl rfl
@[simp] theorem part_modPart_self (s : State) (k : Fin 64) (f : Partition → Partition) : (s.modPart k f).part k = f (s.part k) := by simp [part_modPart]

theorem link_modLink (s : State) (k e : Fin 256) (f : Link → Link) :
    (s.modLink k f).link e = if e = k then f (s.link k) else s.link e := by
  simp only [State.link, State.modLink, get_put]
  exact if_congr ⟨Fin.eq_of_val_eq, fun h => h ▸ rfl⟩ rfl rfl
@[simp] theorem link_modLink_self (s : State) (k : Fin 256) (f : Link → Link) : (s.modLink k f).link k = f (s.link k) := by simp [link_modLink]

/-! Fields and parts of a context. -/

@[simp] theorem setReg_fields (x : Ctx) (r : GReg) (v : Reg) :
    (x.setReg r v).status = x.status ∧ (x.setReg r v).q = x.q ∧ (x.setReg r v).rings = x.rings ∧
    (x.setReg r v).ports = x.ports ∧ (x.setReg r v).drops = x.drops ∧ (x.setReg r v).pcc = x.pcc ∧
    (x.setReg r v).frm = x.frm ∧ (x.setReg r v).fflags = x.fflags ∧ (x.setReg r v).srseed = x.srseed ∧
    (x.setReg r v).srseq = x.srseq ∧ (x.setReg r v).dscope = x.dscope ∧ (x.setReg r v).tvec = x.tvec ∧
    (x.setReg r v).tcause = x.tcause ∧ (x.setReg r v).tval = x.tval ∧ (x.setReg r v).tpc = x.tpc ∧
    (x.setReg r v).tstat = x.tstat ∧ (x.setReg r v).tcode = x.tcode ∧ (x.setReg r v).hidden2 = x.hidden2 ∧
    (x.setReg r v).hidden3 = x.hidden3 ∧ (x.setReg r v).loopc = x.loopc ∧ (x.setReg r v).loopb = x.loopb ∧
    (x.setReg r v).loope = x.loope ∧ (x.setReg r v).repc = x.repc ∧ (x.setReg r v).repi = x.repi ∧
    (x.setReg r v).counts = x.counts ∧ (x.setReg r v).dsel = x.dsel ∧ (x.setReg r v).htrapEn = x.htrapEn ∧
    (x.setReg r v).hslots = x.hslots ∧ (x.setReg r v).hserial = x.hserial ∧ (x.setReg r v).dm = x.dm ∧
    (x.setReg r v).belays = x.belays ∧ (x.setReg r v).spin = x.spin ∧ (x.setReg r v).bights = x.bights ∧
    (x.setReg r v).resident = x.resident ∧ (x.setReg r v).dom = x.dom ∧ (x.setReg r v).creason = x.creason ∧
    (x.setReg r v).cdepth = x.cdepth ∧ (x.setReg r v).serial = x.serial ∧ (x.setReg r v).charged = x.charged ∧
    (x.setReg r v).cleanAt = x.cleanAt ∧ (x.setReg r v).evtSeq = x.evtSeq ∧ (x.setReg r v).stalls = x.stalls ∧
    (x.setReg r v).remote = x.remote ∧ (x.setReg r v).sysreq = x.sysreq ∧ (x.setReg r v).revoke = x.revoke ∧
    (x.setReg r v).sending = x.sending ∧ (x.setReg r v).fan = x.fan ∧ (x.setReg r v).attached = x.attached ∧
    (x.setReg r v).follow = x.follow ∧ (x.setReg r v).ibuf = x.ibuf ∧ (x.setReg r v).held = x.held ∧
    (x.setReg r v).refusal = x.refusal ∧ (x.setReg r v).closing = x.closing ∧ (x.setReg r v).stale = x.stale ∧
    (x.setReg r v).rep = x.rep ∧ (x.setReg r v).notBefore = x.notBefore ∧ (x.setReg r v).pending = x.pending ∧
    (x.setReg r v).reading = x.reading ∧ (x.setReg r v).kept = x.kept ∧ (x.setReg r v).lag = x.lag ∧
    (x.setReg r v).poison = x.poison ∧
    (x.setReg r v).badRead = x.badRead ∧ (x.setReg r v).place = x.place ∧ (x.setReg r v).orAt = x.orAt ∧ (x.setReg r v).orFl = x.orFl ∧
    (x.setReg r v).orOld = x.orOld ∧ (x.setReg r v).exited = x.exited ∧ (x.setReg r v).accHold = x.accHold := by
  unfold Ctx.setReg
  split <;> and_intros <;> rfl

@[simp] theorem setReg_parts (x : Ctx) (r : GReg) (v : Reg) :
    (∀ j : Fin 8, (x.setReg r v).queue j = x.queue j) ∧ (∀ j : Fin 4, (x.setReg r v).ring j = x.ring j) ∧
    (∀ j : Fin 4, (x.setReg r v).port j = x.port j) ∧ (∀ j : Fin 16, (x.setReg r v).hslot j = x.hslot j) ∧
    (∀ j : Nat, (x.setReg r v).domReg j = x.domReg j) ∧ (∀ j : Fin 4, (x.setReg r v).count j = x.count j) := by
  unfold Ctx.setReg
  split <;> and_intros <;> intros <;> rfl

@[simp] theorem setQueue_fields (x : Ctx) (i : Fin 8) (v : QueueReg) :
    (x.setQueue i v).status = x.status ∧ (x.setQueue i v).g = x.g ∧ (x.setQueue i v).rings = x.rings ∧
    (x.setQueue i v).ports = x.ports ∧ (x.setQueue i v).drops = x.drops ∧ (x.setQueue i v).pcc = x.pcc ∧
    (x.setQueue i v).frm = x.frm ∧ (x.setQueue i v).fflags = x.fflags ∧ (x.setQueue i v).srseed = x.srseed ∧
    (x.setQueue i v).srseq = x.srseq ∧ (x.setQueue i v).dscope = x.dscope ∧ (x.setQueue i v).tvec = x.tvec ∧
    (x.setQueue i v).tcause = x.tcause ∧ (x.setQueue i v).tval = x.tval ∧ (x.setQueue i v).tpc = x.tpc ∧
    (x.setQueue i v).tstat = x.tstat ∧ (x.setQueue i v).tcode = x.tcode ∧ (x.setQueue i v).hidden2 = x.hidden2 ∧
    (x.setQueue i v).hidden3 = x.hidden3 ∧ (x.setQueue i v).loopc = x.loopc ∧ (x.setQueue i v).loopb = x.loopb ∧
    (x.setQueue i v).loope = x.loope ∧ (x.setQueue i v).repc = x.repc ∧ (x.setQueue i v).repi = x.repi ∧
    (x.setQueue i v).counts = x.counts ∧ (x.setQueue i v).dsel = x.dsel ∧ (x.setQueue i v).htrapEn = x.htrapEn ∧
    (x.setQueue i v).hslots = x.hslots ∧ (x.setQueue i v).hserial = x.hserial ∧ (x.setQueue i v).dm = x.dm ∧
    (x.setQueue i v).belays = x.belays ∧ (x.setQueue i v).spin = x.spin ∧ (x.setQueue i v).bights = x.bights ∧
    (x.setQueue i v).resident = x.resident ∧ (x.setQueue i v).dom = x.dom ∧ (x.setQueue i v).creason = x.creason ∧
    (x.setQueue i v).cdepth = x.cdepth ∧ (x.setQueue i v).serial = x.serial ∧ (x.setQueue i v).charged = x.charged ∧
    (x.setQueue i v).cleanAt = x.cleanAt ∧ (x.setQueue i v).evtSeq = x.evtSeq ∧ (x.setQueue i v).stalls = x.stalls ∧
    (x.setQueue i v).remote = x.remote ∧ (x.setQueue i v).sysreq = x.sysreq ∧ (x.setQueue i v).revoke = x.revoke ∧
    (x.setQueue i v).sending = x.sending ∧ (x.setQueue i v).fan = x.fan ∧ (x.setQueue i v).attached = x.attached ∧
    (x.setQueue i v).follow = x.follow ∧ (x.setQueue i v).ibuf = x.ibuf ∧ (x.setQueue i v).held = x.held ∧
    (x.setQueue i v).refusal = x.refusal ∧ (x.setQueue i v).closing = x.closing ∧ (x.setQueue i v).stale = x.stale ∧
    (x.setQueue i v).rep = x.rep ∧ (x.setQueue i v).notBefore = x.notBefore ∧ (x.setQueue i v).pending = x.pending ∧
    (x.setQueue i v).reading = x.reading ∧ (x.setQueue i v).kept = x.kept ∧ (x.setQueue i v).lag = x.lag ∧
    (x.setQueue i v).poison = x.poison ∧
    (x.setQueue i v).badRead = x.badRead ∧ (x.setQueue i v).place = x.place ∧ (x.setQueue i v).orAt = x.orAt ∧ (x.setQueue i v).orFl = x.orFl ∧
    (x.setQueue i v).orOld = x.orOld ∧ (x.setQueue i v).exited = x.exited ∧ (x.setQueue i v).accHold = x.accHold := by
  and_intros <;> rfl

@[simp] theorem setQueue_parts (x : Ctx) (i : Fin 8) (v : QueueReg) :
    (∀ j : GReg, (x.setQueue i v).reg j = x.reg j) ∧ (∀ j : Fin 4, (x.setQueue i v).ring j = x.ring j) ∧
    (∀ j : Fin 4, (x.setQueue i v).port j = x.port j) ∧ (∀ j : Fin 16, (x.setQueue i v).hslot j = x.hslot j) ∧
    (∀ j : Nat, (x.setQueue i v).domReg j = x.domReg j) ∧ (∀ j : Fin 4, (x.setQueue i v).count j = x.count j) := by
  and_intros <;> intros <;> rfl

@[simp] theorem setRing_fields (x : Ctx) (k : Fin 4) (v : Ring) :
    (x.setRing k v).status = x.status ∧ (x.setRing k v).g = x.g ∧ (x.setRing k v).q = x.q ∧ (x.setRing k v).ports = x.ports ∧
    (x.setRing k v).drops = x.drops ∧ (x.setRing k v).pcc = x.pcc ∧ (x.setRing k v).frm = x.frm ∧
    (x.setRing k v).fflags = x.fflags ∧ (x.setRing k v).srseed = x.srseed ∧ (x.setRing k v).srseq = x.srseq ∧
    (x.setRing k v).dscope = x.dscope ∧ (x.setRing k v).tvec = x.tvec ∧ (x.setRing k v).tcause = x.tcause ∧
    (x.setRing k v).tval = x.tval ∧ (x.setRing k v).tpc = x.tpc ∧ (x.setRing k v).tstat = x.tstat ∧
    (x.setRing k v).tcode = x.tcode ∧ (x.setRing k v).hidden2 = x.hidden2 ∧ (x.setRing k v).hidden3 = x.hidden3 ∧
    (x.setRing k v).loopc = x.loopc ∧ (x.setRing k v).loopb = x.loopb ∧ (x.setRing k v).loope = x.loope ∧
    (x.setRing k v).repc = x.repc ∧ (x.setRing k v).repi = x.repi ∧ (x.setRing k v).counts = x.counts ∧
    (x.setRing k v).dsel = x.dsel ∧ (x.setRing k v).htrapEn = x.htrapEn ∧ (x.setRing k v).hslots = x.hslots ∧
    (x.setRing k v).hserial = x.hserial ∧ (x.setRing k v).dm = x.dm ∧ (x.setRing k v).belays = x.belays ∧
    (x.setRing k v).spin = x.spin ∧ (x.setRing k v).bights = x.bights ∧ (x.setRing k v).resident = x.resident ∧
    (x.setRing k v).dom = x.dom ∧ (x.setRing k v).creason = x.creason ∧ (x.setRing k v).cdepth = x.cdepth ∧
    (x.setRing k v).serial = x.serial ∧ (x.setRing k v).charged = x.charged ∧ (x.setRing k v).cleanAt = x.cleanAt ∧
    (x.setRing k v).evtSeq = x.evtSeq ∧ (x.setRing k v).stalls = x.stalls ∧ (x.setRing k v).remote = x.remote ∧
    (x.setRing k v).sysreq = x.sysreq ∧ (x.setRing k v).revoke = x.revoke ∧ (x.setRing k v).sending = x.sending ∧
    (x.setRing k v).fan = x.fan ∧ (x.setRing k v).attached = x.attached ∧ (x.setRing k v).follow = x.follow ∧
    (x.setRing k v).ibuf = x.ibuf ∧ (x.setRing k v).held = x.held ∧ (x.setRing k v).refusal = x.refusal ∧
    (x.setRing k v).closing = x.closing ∧ (x.setRing k v).stale = x.stale ∧ (x.setRing k v).rep = x.rep ∧
    (x.setRing k v).notBefore = x.notBefore ∧ (x.setRing k v).pending = x.pending ∧ (x.setRing k v).reading = x.reading ∧
    (x.setRing k v).kept = x.kept ∧ (x.setRing k v).lag = x.lag ∧ (x.setRing k v).poison = x.poison ∧
    (x.setRing k v).badRead = x.badRead ∧ (x.setRing k v).place = x.place ∧ (x.setRing k v).orAt = x.orAt ∧ (x.setRing k v).orFl = x.orFl ∧
    (x.setRing k v).orOld = x.orOld ∧ (x.setRing k v).exited = x.exited ∧ (x.setRing k v).accHold = x.accHold := by
  and_intros <;> rfl

@[simp] theorem setRing_parts (x : Ctx) (k : Fin 4) (v : Ring) :
    (∀ j : GReg, (x.setRing k v).reg j = x.reg j) ∧ (∀ j : Fin 8, (x.setRing k v).queue j = x.queue j) ∧
    (∀ j : Fin 4, (x.setRing k v).port j = x.port j) ∧ (∀ j : Fin 16, (x.setRing k v).hslot j = x.hslot j) ∧
    (∀ j : Nat, (x.setRing k v).domReg j = x.domReg j) ∧ (∀ j : Fin 4, (x.setRing k v).count j = x.count j) := by
  and_intros <;> intros <;> rfl

@[simp] theorem setPort_fields (x : Ctx) (m : Fin 4) (v : Port) :
    (x.setPort m v).status = x.status ∧ (x.setPort m v).g = x.g ∧ (x.setPort m v).q = x.q ∧ (x.setPort m v).rings = x.rings ∧
    (x.setPort m v).drops = x.drops ∧ (x.setPort m v).pcc = x.pcc ∧ (x.setPort m v).frm = x.frm ∧
    (x.setPort m v).fflags = x.fflags ∧ (x.setPort m v).srseed = x.srseed ∧ (x.setPort m v).srseq = x.srseq ∧
    (x.setPort m v).dscope = x.dscope ∧ (x.setPort m v).tvec = x.tvec ∧ (x.setPort m v).tcause = x.tcause ∧
    (x.setPort m v).tval = x.tval ∧ (x.setPort m v).tpc = x.tpc ∧ (x.setPort m v).tstat = x.tstat ∧
    (x.setPort m v).tcode = x.tcode ∧ (x.setPort m v).hidden2 = x.hidden2 ∧ (x.setPort m v).hidden3 = x.hidden3 ∧
    (x.setPort m v).loopc = x.loopc ∧ (x.setPort m v).loopb = x.loopb ∧ (x.setPort m v).loope = x.loope ∧
    (x.setPort m v).repc = x.repc ∧ (x.setPort m v).repi = x.repi ∧ (x.setPort m v).counts = x.counts ∧
    (x.setPort m v).dsel = x.dsel ∧ (x.setPort m v).htrapEn = x.htrapEn ∧ (x.setPort m v).hslots = x.hslots ∧
    (x.setPort m v).hserial = x.hserial ∧ (x.setPort m v).dm = x.dm ∧ (x.setPort m v).belays = x.belays ∧
    (x.setPort m v).spin = x.spin ∧ (x.setPort m v).bights = x.bights ∧ (x.setPort m v).resident = x.resident ∧
    (x.setPort m v).dom = x.dom ∧ (x.setPort m v).creason = x.creason ∧ (x.setPort m v).cdepth = x.cdepth ∧
    (x.setPort m v).serial = x.serial ∧ (x.setPort m v).charged = x.charged ∧ (x.setPort m v).cleanAt = x.cleanAt ∧
    (x.setPort m v).evtSeq = x.evtSeq ∧ (x.setPort m v).stalls = x.stalls ∧ (x.setPort m v).remote = x.remote ∧
    (x.setPort m v).sysreq = x.sysreq ∧ (x.setPort m v).revoke = x.revoke ∧ (x.setPort m v).sending = x.sending ∧
    (x.setPort m v).fan = x.fan ∧ (x.setPort m v).attached = x.attached ∧ (x.setPort m v).follow = x.follow ∧
    (x.setPort m v).ibuf = x.ibuf ∧ (x.setPort m v).held = x.held ∧ (x.setPort m v).refusal = x.refusal ∧
    (x.setPort m v).closing = x.closing ∧ (x.setPort m v).stale = x.stale ∧ (x.setPort m v).rep = x.rep ∧
    (x.setPort m v).notBefore = x.notBefore ∧ (x.setPort m v).pending = x.pending ∧ (x.setPort m v).reading = x.reading ∧
    (x.setPort m v).kept = x.kept ∧ (x.setPort m v).lag = x.lag ∧ (x.setPort m v).poison = x.poison ∧
    (x.setPort m v).badRead = x.badRead ∧ (x.setPort m v).place = x.place ∧ (x.setPort m v).orAt = x.orAt ∧ (x.setPort m v).orFl = x.orFl ∧
    (x.setPort m v).orOld = x.orOld ∧ (x.setPort m v).exited = x.exited ∧ (x.setPort m v).accHold = x.accHold := by
  and_intros <;> rfl

@[simp] theorem setPort_parts (x : Ctx) (m : Fin 4) (v : Port) :
    (∀ j : GReg, (x.setPort m v).reg j = x.reg j) ∧ (∀ j : Fin 8, (x.setPort m v).queue j = x.queue j) ∧
    (∀ j : Fin 4, (x.setPort m v).ring j = x.ring j) ∧ (∀ j : Fin 16, (x.setPort m v).hslot j = x.hslot j) ∧
    (∀ j : Nat, (x.setPort m v).domReg j = x.domReg j) ∧ (∀ j : Fin 4, (x.setPort m v).count j = x.count j) := by
  and_intros <;> intros <;> rfl

@[simp] theorem setHslot_fields (x : Ctx) (h : Fin 16) (v : HSlot) :
    (x.setHslot h v).status = x.status ∧ (x.setHslot h v).g = x.g ∧ (x.setHslot h v).q = x.q ∧
    (x.setHslot h v).rings = x.rings ∧ (x.setHslot h v).ports = x.ports ∧ (x.setHslot h v).drops = x.drops ∧
    (x.setHslot h v).pcc = x.pcc ∧ (x.setHslot h v).frm = x.frm ∧ (x.setHslot h v).fflags = x.fflags ∧
    (x.setHslot h v).srseed = x.srseed ∧ (x.setHslot h v).srseq = x.srseq ∧ (x.setHslot h v).dscope = x.dscope ∧
    (x.setHslot h v).tvec = x.tvec ∧ (x.setHslot h v).tcause = x.tcause ∧ (x.setHslot h v).tval = x.tval ∧
    (x.setHslot h v).tpc = x.tpc ∧ (x.setHslot h v).tstat = x.tstat ∧ (x.setHslot h v).tcode = x.tcode ∧
    (x.setHslot h v).hidden2 = x.hidden2 ∧ (x.setHslot h v).hidden3 = x.hidden3 ∧ (x.setHslot h v).loopc = x.loopc ∧
    (x.setHslot h v).loopb = x.loopb ∧ (x.setHslot h v).loope = x.loope ∧ (x.setHslot h v).repc = x.repc ∧
    (x.setHslot h v).repi = x.repi ∧ (x.setHslot h v).counts = x.counts ∧ (x.setHslot h v).dsel = x.dsel ∧
    (x.setHslot h v).htrapEn = x.htrapEn ∧ (x.setHslot h v).hserial = x.hserial ∧ (x.setHslot h v).dm = x.dm ∧
    (x.setHslot h v).belays = x.belays ∧ (x.setHslot h v).spin = x.spin ∧ (x.setHslot h v).bights = x.bights ∧
    (x.setHslot h v).resident = x.resident ∧ (x.setHslot h v).dom = x.dom ∧ (x.setHslot h v).creason = x.creason ∧
    (x.setHslot h v).cdepth = x.cdepth ∧ (x.setHslot h v).serial = x.serial ∧ (x.setHslot h v).charged = x.charged ∧
    (x.setHslot h v).cleanAt = x.cleanAt ∧ (x.setHslot h v).evtSeq = x.evtSeq ∧ (x.setHslot h v).stalls = x.stalls ∧
    (x.setHslot h v).remote = x.remote ∧ (x.setHslot h v).sysreq = x.sysreq ∧ (x.setHslot h v).revoke = x.revoke ∧
    (x.setHslot h v).sending = x.sending ∧ (x.setHslot h v).fan = x.fan ∧ (x.setHslot h v).attached = x.attached ∧
    (x.setHslot h v).follow = x.follow ∧ (x.setHslot h v).ibuf = x.ibuf ∧ (x.setHslot h v).held = x.held ∧
    (x.setHslot h v).refusal = x.refusal ∧ (x.setHslot h v).closing = x.closing ∧ (x.setHslot h v).stale = x.stale ∧
    (x.setHslot h v).rep = x.rep ∧ (x.setHslot h v).notBefore = x.notBefore ∧ (x.setHslot h v).pending = x.pending ∧
    (x.setHslot h v).reading = x.reading ∧ (x.setHslot h v).kept = x.kept ∧ (x.setHslot h v).lag = x.lag ∧
    (x.setHslot h v).poison = x.poison ∧
    (x.setHslot h v).badRead = x.badRead ∧ (x.setHslot h v).place = x.place ∧ (x.setHslot h v).orAt = x.orAt ∧ (x.setHslot h v).orFl = x.orFl ∧
    (x.setHslot h v).orOld = x.orOld ∧ (x.setHslot h v).exited = x.exited ∧ (x.setHslot h v).accHold = x.accHold := by
  and_intros <;> rfl

@[simp] theorem setHslot_parts (x : Ctx) (h : Fin 16) (v : HSlot) :
    (∀ j : GReg, (x.setHslot h v).reg j = x.reg j) ∧ (∀ j : Fin 8, (x.setHslot h v).queue j = x.queue j) ∧
    (∀ j : Fin 4, (x.setHslot h v).ring j = x.ring j) ∧ (∀ j : Fin 4, (x.setHslot h v).port j = x.port j) ∧
    (∀ j : Nat, (x.setHslot h v).domReg j = x.domReg j) ∧ (∀ j : Fin 4, (x.setHslot h v).count j = x.count j) := by
  and_intros <;> intros <;> rfl

@[simp] theorem setDomReg_fields (x : Ctx) (n : Nat) (v : DomReg) :
    (x.setDomReg n v).status = x.status ∧ (x.setDomReg n v).g = x.g ∧ (x.setDomReg n v).q = x.q ∧
    (x.setDomReg n v).rings = x.rings ∧ (x.setDomReg n v).ports = x.ports ∧ (x.setDomReg n v).drops = x.drops ∧
    (x.setDomReg n v).pcc = x.pcc ∧ (x.setDomReg n v).frm = x.frm ∧ (x.setDomReg n v).fflags = x.fflags ∧
    (x.setDomReg n v).srseed = x.srseed ∧ (x.setDomReg n v).srseq = x.srseq ∧ (x.setDomReg n v).dscope = x.dscope ∧
    (x.setDomReg n v).tvec = x.tvec ∧ (x.setDomReg n v).tcause = x.tcause ∧ (x.setDomReg n v).tval = x.tval ∧
    (x.setDomReg n v).tpc = x.tpc ∧ (x.setDomReg n v).tstat = x.tstat ∧ (x.setDomReg n v).tcode = x.tcode ∧
    (x.setDomReg n v).hidden2 = x.hidden2 ∧ (x.setDomReg n v).hidden3 = x.hidden3 ∧ (x.setDomReg n v).loopc = x.loopc ∧
    (x.setDomReg n v).loopb = x.loopb ∧ (x.setDomReg n v).loope = x.loope ∧ (x.setDomReg n v).repc = x.repc ∧
    (x.setDomReg n v).repi = x.repi ∧ (x.setDomReg n v).counts = x.counts ∧ (x.setDomReg n v).dsel = x.dsel ∧
    (x.setDomReg n v).htrapEn = x.htrapEn ∧ (x.setDomReg n v).hslots = x.hslots ∧ (x.setDomReg n v).hserial = x.hserial ∧
    (x.setDomReg n v).belays = x.belays ∧ (x.setDomReg n v).spin = x.spin ∧ (x.setDomReg n v).bights = x.bights ∧
    (x.setDomReg n v).resident = x.resident ∧ (x.setDomReg n v).dom = x.dom ∧ (x.setDomReg n v).creason = x.creason ∧
    (x.setDomReg n v).cdepth = x.cdepth ∧ (x.setDomReg n v).serial = x.serial ∧ (x.setDomReg n v).charged = x.charged ∧
    (x.setDomReg n v).cleanAt = x.cleanAt ∧ (x.setDomReg n v).evtSeq = x.evtSeq ∧ (x.setDomReg n v).stalls = x.stalls ∧
    (x.setDomReg n v).remote = x.remote ∧ (x.setDomReg n v).sysreq = x.sysreq ∧ (x.setDomReg n v).revoke = x.revoke ∧
    (x.setDomReg n v).sending = x.sending ∧ (x.setDomReg n v).fan = x.fan ∧ (x.setDomReg n v).attached = x.attached ∧
    (x.setDomReg n v).follow = x.follow ∧ (x.setDomReg n v).ibuf = x.ibuf ∧ (x.setDomReg n v).held = x.held ∧
    (x.setDomReg n v).refusal = x.refusal ∧ (x.setDomReg n v).closing = x.closing ∧ (x.setDomReg n v).stale = x.stale ∧
    (x.setDomReg n v).rep = x.rep ∧ (x.setDomReg n v).notBefore = x.notBefore ∧ (x.setDomReg n v).pending = x.pending ∧
    (x.setDomReg n v).reading = x.reading ∧ (x.setDomReg n v).kept = x.kept ∧ (x.setDomReg n v).lag = x.lag ∧
    (x.setDomReg n v).poison = x.poison ∧
    (x.setDomReg n v).badRead = x.badRead ∧ (x.setDomReg n v).place = x.place ∧ (x.setDomReg n v).orAt = x.orAt ∧ (x.setDomReg n v).orFl = x.orFl ∧
    (x.setDomReg n v).orOld = x.orOld ∧ (x.setDomReg n v).exited = x.exited ∧ (x.setDomReg n v).accHold = x.accHold := by
  and_intros <;> rfl

@[simp] theorem setDomReg_parts (x : Ctx) (n : Nat) (v : DomReg) :
    (∀ j : GReg, (x.setDomReg n v).reg j = x.reg j) ∧ (∀ j : Fin 8, (x.setDomReg n v).queue j = x.queue j) ∧
    (∀ j : Fin 4, (x.setDomReg n v).ring j = x.ring j) ∧ (∀ j : Fin 4, (x.setDomReg n v).port j = x.port j) ∧
    (∀ j : Fin 16, (x.setDomReg n v).hslot j = x.hslot j) ∧ (∀ j : Fin 4, (x.setDomReg n v).count j = x.count j) := by
  and_intros <;> intros <;> rfl

@[simp] theorem setCount_fields (x : Ctx) (t : Fin 4) (n : Nat) :
    (x.setCount t n).status = x.status ∧ (x.setCount t n).g = x.g ∧ (x.setCount t n).q = x.q ∧
    (x.setCount t n).rings = x.rings ∧ (x.setCount t n).ports = x.ports ∧ (x.setCount t n).drops = x.drops ∧
    (x.setCount t n).pcc = x.pcc ∧ (x.setCount t n).frm = x.frm ∧ (x.setCount t n).fflags = x.fflags ∧
    (x.setCount t n).srseed = x.srseed ∧ (x.setCount t n).srseq = x.srseq ∧ (x.setCount t n).dscope = x.dscope ∧
    (x.setCount t n).tvec = x.tvec ∧ (x.setCount t n).tcause = x.tcause ∧ (x.setCount t n).tval = x.tval ∧
    (x.setCount t n).tpc = x.tpc ∧ (x.setCount t n).tstat = x.tstat ∧ (x.setCount t n).tcode = x.tcode ∧
    (x.setCount t n).hidden2 = x.hidden2 ∧ (x.setCount t n).hidden3 = x.hidden3 ∧ (x.setCount t n).loopc = x.loopc ∧
    (x.setCount t n).loopb = x.loopb ∧ (x.setCount t n).loope = x.loope ∧ (x.setCount t n).repc = x.repc ∧
    (x.setCount t n).repi = x.repi ∧ (x.setCount t n).dsel = x.dsel ∧ (x.setCount t n).htrapEn = x.htrapEn ∧
    (x.setCount t n).hslots = x.hslots ∧ (x.setCount t n).hserial = x.hserial ∧ (x.setCount t n).dm = x.dm ∧
    (x.setCount t n).belays = x.belays ∧ (x.setCount t n).spin = x.spin ∧ (x.setCount t n).bights = x.bights ∧
    (x.setCount t n).resident = x.resident ∧ (x.setCount t n).dom = x.dom ∧ (x.setCount t n).creason = x.creason ∧
    (x.setCount t n).cdepth = x.cdepth ∧ (x.setCount t n).serial = x.serial ∧ (x.setCount t n).charged = x.charged ∧
    (x.setCount t n).cleanAt = x.cleanAt ∧ (x.setCount t n).evtSeq = x.evtSeq ∧ (x.setCount t n).stalls = x.stalls ∧
    (x.setCount t n).remote = x.remote ∧ (x.setCount t n).sysreq = x.sysreq ∧ (x.setCount t n).revoke = x.revoke ∧
    (x.setCount t n).sending = x.sending ∧ (x.setCount t n).fan = x.fan ∧ (x.setCount t n).attached = x.attached ∧
    (x.setCount t n).follow = x.follow ∧ (x.setCount t n).ibuf = x.ibuf ∧ (x.setCount t n).held = x.held ∧
    (x.setCount t n).refusal = x.refusal ∧ (x.setCount t n).closing = x.closing ∧ (x.setCount t n).stale = x.stale ∧
    (x.setCount t n).rep = x.rep ∧ (x.setCount t n).notBefore = x.notBefore ∧ (x.setCount t n).pending = x.pending ∧
    (x.setCount t n).reading = x.reading ∧ (x.setCount t n).kept = x.kept ∧ (x.setCount t n).lag = x.lag ∧
    (x.setCount t n).poison = x.poison ∧
    (x.setCount t n).badRead = x.badRead ∧ (x.setCount t n).place = x.place ∧ (x.setCount t n).orAt = x.orAt ∧ (x.setCount t n).orFl = x.orFl ∧
    (x.setCount t n).orOld = x.orOld ∧ (x.setCount t n).exited = x.exited ∧ (x.setCount t n).accHold = x.accHold := by
  and_intros <;> rfl

@[simp] theorem setCount_parts (x : Ctx) (t : Fin 4) (n : Nat) :
    (∀ j : GReg, (x.setCount t n).reg j = x.reg j) ∧ (∀ j : Fin 8, (x.setCount t n).queue j = x.queue j) ∧
    (∀ j : Fin 4, (x.setCount t n).ring j = x.ring j) ∧ (∀ j : Fin 4, (x.setCount t n).port j = x.port j) ∧
    (∀ j : Fin 16, (x.setCount t n).hslot j = x.hslot j) ∧ (∀ j : Nat, (x.setCount t n).domReg j = x.domReg j) := by
  and_intros <;> intros <;> rfl

@[simp] theorem setPc_fields (x : Ctx) (p : W64) :
    (x.setPc p).status = x.status ∧ (x.setPc p).g = x.g ∧ (x.setPc p).q = x.q ∧ (x.setPc p).rings = x.rings ∧
    (x.setPc p).ports = x.ports ∧ (x.setPc p).drops = x.drops ∧ (x.setPc p).frm = x.frm ∧ (x.setPc p).fflags = x.fflags ∧
    (x.setPc p).srseed = x.srseed ∧ (x.setPc p).srseq = x.srseq ∧ (x.setPc p).dscope = x.dscope ∧ (x.setPc p).tvec = x.tvec ∧
    (x.setPc p).tcause = x.tcause ∧ (x.setPc p).tval = x.tval ∧ (x.setPc p).tpc = x.tpc ∧ (x.setPc p).tstat = x.tstat ∧
    (x.setPc p).tcode = x.tcode ∧ (x.setPc p).hidden2 = x.hidden2 ∧ (x.setPc p).hidden3 = x.hidden3 ∧
    (x.setPc p).loopc = x.loopc ∧ (x.setPc p).loopb = x.loopb ∧ (x.setPc p).loope = x.loope ∧ (x.setPc p).repc = x.repc ∧
    (x.setPc p).repi = x.repi ∧ (x.setPc p).counts = x.counts ∧ (x.setPc p).dsel = x.dsel ∧ (x.setPc p).htrapEn = x.htrapEn ∧
    (x.setPc p).hslots = x.hslots ∧ (x.setPc p).hserial = x.hserial ∧ (x.setPc p).dm = x.dm ∧ (x.setPc p).belays = x.belays ∧
    (x.setPc p).spin = x.spin ∧ (x.setPc p).bights = x.bights ∧ (x.setPc p).resident = x.resident ∧ (x.setPc p).dom = x.dom ∧
    (x.setPc p).creason = x.creason ∧ (x.setPc p).cdepth = x.cdepth ∧ (x.setPc p).serial = x.serial ∧
    (x.setPc p).charged = x.charged ∧ (x.setPc p).cleanAt = x.cleanAt ∧ (x.setPc p).evtSeq = x.evtSeq ∧
    (x.setPc p).stalls = x.stalls ∧ (x.setPc p).remote = x.remote ∧ (x.setPc p).sysreq = x.sysreq ∧
    (x.setPc p).revoke = x.revoke ∧ (x.setPc p).sending = x.sending ∧ (x.setPc p).fan = x.fan ∧
    (x.setPc p).attached = x.attached ∧ (x.setPc p).follow = x.follow ∧ (x.setPc p).ibuf = x.ibuf ∧
    (x.setPc p).held = x.held ∧ (x.setPc p).refusal = x.refusal ∧ (x.setPc p).closing = x.closing ∧
    (x.setPc p).stale = x.stale ∧ (x.setPc p).rep = x.rep ∧ (x.setPc p).notBefore = x.notBefore ∧
    (x.setPc p).pending = x.pending ∧ (x.setPc p).reading = x.reading ∧ (x.setPc p).kept = x.kept ∧ (x.setPc p).lag = x.lag ∧
    (x.setPc p).poison = x.poison ∧
    (x.setPc p).badRead = x.badRead ∧ (x.setPc p).place = x.place ∧ (x.setPc p).orAt = x.orAt ∧ (x.setPc p).orFl = x.orFl ∧
    (x.setPc p).orOld = x.orOld ∧ (x.setPc p).exited = x.exited ∧ (x.setPc p).accHold = x.accHold := by
  and_intros <;> rfl

@[simp] theorem setPc_parts (x : Ctx) (p : W64) :
    (∀ j : GReg, (x.setPc p).reg j = x.reg j) ∧ (∀ j : Fin 8, (x.setPc p).queue j = x.queue j) ∧
    (∀ j : Fin 4, (x.setPc p).ring j = x.ring j) ∧ (∀ j : Fin 4, (x.setPc p).port j = x.port j) ∧
    (∀ j : Fin 16, (x.setPc p).hslot j = x.hslot j) ∧ (∀ j : Nat, (x.setPc p).domReg j = x.domReg j) ∧
    (∀ j : Fin 4, (x.setPc p).count j = x.count j) := by
  and_intros <;> intros <;> rfl

theorem reg_setReg (x : Ctx) (r e : GReg) (v : Reg) :
    (x.setReg r v).reg e = if e = r then (if r = 0 then Reg.zero else v) else x.reg e := by
  unfold Ctx.setReg
  by_cases hr : r = 0
  · simp only [hr, if_true]
    split
    · next h => subst h; simp [Ctx.reg]
    · rfl
  · simp only [Ctx.reg, if_neg hr, get_put, Fin.val_inj]
    by_cases he : e = r
    · simp [he, hr]
    · simp [he]
@[simp] theorem reg_zero (x : Ctx) : x.reg 0 = Reg.zero := rfl

theorem queue_setQueue (x : Ctx) (k e : Fin 8) (v : QueueReg) : (x.setQueue k v).queue e = if e = k then v else x.queue e := by
  simp only [Ctx.queue, Ctx.setQueue, get_put, Fin.val_inj]
@[simp] theorem queue_setQueue_self (x : Ctx) (k : Fin 8) (v : QueueReg) : (x.setQueue k v).queue k = v := by simp [queue_setQueue]

theorem ring_setRing (x : Ctx) (k e : Fin 4) (v : Ring) : (x.setRing k v).ring e = if e = k then v else x.ring e := by
  simp only [Ctx.ring, Ctx.setRing, get_put, Fin.val_inj]
@[simp] theorem ring_setRing_self (x : Ctx) (k : Fin 4) (v : Ring) : (x.setRing k v).ring k = v := by simp [ring_setRing]

theorem port_setPort (x : Ctx) (k e : Fin 4) (v : Port) : (x.setPort k v).port e = if e = k then v else x.port e := by
  simp only [Ctx.port, Ctx.setPort, get_put, Fin.val_inj]
@[simp] theorem port_setPort_self (x : Ctx) (k : Fin 4) (v : Port) : (x.setPort k v).port k = v := by simp [port_setPort]

theorem hslot_setHslot (x : Ctx) (k e : Fin 16) (v : HSlot) : (x.setHslot k v).hslot e = if e = k then v else x.hslot e := by
  simp only [Ctx.hslot, Ctx.setHslot, get_put, Fin.val_inj]
@[simp] theorem hslot_setHslot_self (x : Ctx) (k : Fin 16) (v : HSlot) : (x.setHslot k v).hslot k = v := by simp [hslot_setHslot]

theorem count_setCount (x : Ctx) (k e : Fin 4) (v : Nat) : (x.setCount k v).count e = if e = k then v else x.count e := by
  simp only [Ctx.count, Ctx.setCount, get_put, Fin.val_inj]
@[simp] theorem count_setCount_self (x : Ctx) (k : Fin 4) (v : Nat) : (x.setCount k v).count k = v := by simp [count_setCount]

theorem domReg_setDomReg (x : Ctx) (k e : Nat) (v : DomReg) : (x.setDomReg k v).domReg e = if e = k then v else x.domReg e := by
  simp only [Ctx.domReg, Ctx.setDomReg, get_put]
@[simp] theorem domReg_setDomReg_self (x : Ctx) (k : Nat) (v : DomReg) : (x.setDomReg k v).domReg k = v := by simp [domReg_setDomReg]

/-- What is left of a context when its instruction is complete. -/
@[simp] theorem settled_fields (x : Ctx) :
    (x.settled).status = x.status ∧ (x.settled).g = x.g ∧ (x.settled).q = x.q ∧ (x.settled).rings = x.rings ∧
    (x.settled).ports = x.ports ∧ (x.settled).drops = x.drops ∧ (x.settled).pcc = x.pcc ∧ (x.settled).frm = x.frm ∧
    (x.settled).fflags = x.fflags ∧ (x.settled).srseed = x.srseed ∧ (x.settled).srseq = x.srseq ∧
    (x.settled).dscope = x.dscope ∧ (x.settled).tvec = x.tvec ∧ (x.settled).tcause = x.tcause ∧ (x.settled).tval = x.tval ∧
    (x.settled).tpc = x.tpc ∧ (x.settled).tstat = x.tstat ∧ (x.settled).tcode = x.tcode ∧ (x.settled).hidden2 = x.hidden2 ∧
    (x.settled).hidden3 = x.hidden3 ∧ (x.settled).loopc = x.loopc ∧ (x.settled).loopb = x.loopb ∧
    (x.settled).loope = x.loope ∧ (x.settled).repc = x.repc ∧ (x.settled).repi = x.repi ∧ (x.settled).counts = x.counts ∧
    (x.settled).dsel = x.dsel ∧ (x.settled).htrapEn = x.htrapEn ∧ (x.settled).hslots = x.hslots ∧
    (x.settled).hserial = x.hserial ∧ (x.settled).dm = x.dm ∧ (x.settled).belays = x.belays ∧ (x.settled).spin = x.spin ∧
    (x.settled).bights = x.bights ∧ (x.settled).resident = x.resident ∧ (x.settled).dom = x.dom ∧
    (x.settled).creason = x.creason ∧ (x.settled).cdepth = x.cdepth ∧ (x.settled).serial = x.serial ∧
    (x.settled).charged = x.charged ∧ (x.settled).cleanAt = x.cleanAt ∧ (x.settled).evtSeq = x.evtSeq ∧
    (x.settled).stalls = x.stalls ∧ (x.settled).attached = x.attached ∧ (x.settled).follow = x.follow ∧
    (x.settled).ibuf = x.ibuf ∧ (x.settled).held = x.held ∧ (x.settled).closing = x.closing ∧ (x.settled).stale = x.stale ∧
    (x.settled).rep = x.rep ∧ (x.settled).notBefore = x.notBefore ∧ (x.settled).pending = x.pending ∧
    (x.settled).kept = x.kept ∧ (x.settled).lag = x.lag ∧ (x.settled).poison = x.poison ∧ (x.settled).badRead = x.badRead ∧
    (x.settled).orAt = x.orAt ∧ (x.settled).orFl = x.orFl ∧ (x.settled).orOld = x.orOld ∧ (x.settled).exited = x.exited ∧
    (x.settled).accHold = x.accHold ∧
    (x.settled).refusal = none ∧ (x.settled).sending = none ∧ (x.settled).fan = none ∧ (x.settled).remote = none ∧
    (x.settled).sysreq = none ∧ (x.settled).revoke = false ∧ (x.settled).reading = none ∧
    (x.settled).place = none := by
  and_intros <;> rfl

@[simp] theorem settled_parts (x : Ctx) :
    (∀ j : GReg, x.settled.reg j = x.reg j) ∧ (∀ j : Fin 8, x.settled.queue j = x.queue j) ∧
    (∀ j : Fin 4, x.settled.ring j = x.ring j) ∧ (∀ j : Fin 4, x.settled.port j = x.port j) ∧
    (∀ j : Fin 16, x.settled.hslot j = x.hslot j) ∧ (∀ j : Nat, x.settled.domReg j = x.domReg j) ∧
    (∀ j : Fin 4, x.settled.count j = x.count j) := by
  and_intros <;> intros <;> rfl

end Sys2Proof.Laws
end

