-- ==== Sys2Proof/Laws/Memory.lean ====
section
/-! SUPPORT. Laws/Memory.lean: reading after writing one byte or one tag, what the operations over memory leave alone, and
that each of them keeps the canonical form of memory and tags. -/
namespace Sys2Proof.Laws
open Sys2Proof Sys2Proof.Machine Sys2Proof.Safety

/-- An operation that touches neither memory nor tags keeps the canonical form. -/
theorem canonical_of_same {s t : State} (hm : t.mem = s.mem) (ht : t.tags = s.tags) (h : Canonical s) : Canonical t := by
  unfold Canonical
  rw [hm, ht]
  exact h

/-- Folding an operation that keeps the canonical form keeps it. -/
theorem canonical_foldl {α : Type} {f : State → α → State} (hf : ∀ s a, Canonical s → Canonical (f s a)) (l : List α) {s : State}
    (h : Canonical s) : Canonical (l.foldl f s) := by
  induction l generalizing s with
  | nil => exact h
  | cons a r ih => exact ih (hf s a h)

/-- Reset memory is canonical. -/
theorem canonical_reset : Canonical State.reset := ⟨rfl, rfl⟩

/-! One byte, one tag. -/

theorem byteAt_setByteAt {s : State} (h : Canonical s) (p q : Nat) (b : Byte) :
    (s.setByteAt p b).byteAt q = if q = p then b else s.byteAt q := get_write h.1

theorem tagAt_setTagAt {s : State} (h : Canonical s) (k j : Nat) (t : Bool) :
    (s.setTagAt k t).tagAt j = if j = k then t else s.tagAt j := get_write h.2

theorem canonical_setByteAt {s : State} (h : Canonical s) (p : Nat) (b : Byte) : Canonical (s.setByteAt p b) :=
  ⟨canonical_write h.1, h.2⟩

theorem canonical_setTagAt {s : State} (h : Canonical s) (k : Nat) (t : Bool) : Canonical (s.setTagAt k t) :=
  ⟨h.1, canonical_write h.2⟩

/-- Dropping ranges of memory and of tags. -/
theorem canonical_drop {s t : State} {a b c d : Nat} (hm : t.mem = dropRange s.mem a b)
    (ht : t.tags = dropRange s.tags c d) (h : Canonical s) : Canonical t := by
  unfold Canonical
  rw [hm, ht]
  exact ⟨canonical_filter _ h.1, canonical_filter _ h.2⟩

/-- Dropping a range of memory only. -/
theorem canonical_dropMem {s t : State} {a b : Nat} (hm : t.mem = dropRange s.mem a b) (ht : t.tags = s.tags)
    (h : Canonical s) : Canonical t := by
  unfold Canonical
  rw [hm, ht]
  exact ⟨canonical_filter _ h.1, h.2⟩

/-- An unlisted range reads as unlisted, and every other place as before. -/
theorem get_dropRange {α : Type} {d : α} {l : Sparse α} {a b j : Nat} (h : Sparse.sorted l = true) :
    Sparse.get d (dropRange l a b) j = if a ≤ j ∧ j < b then d else Sparse.get d l j := by
  have key : ∀ l : Sparse α, Sparse.sorted l = true →
      Sparse.get d (dropRange l a b) j = if a ≤ j ∧ j < b then d else Sparse.get d l j := by
    intro l
    induction l with
    | nil => intro _; simp [dropRange, Sparse.get]
    | cons p r ih =>
      intro hs
      obtain ⟨k, w⟩ := p
      obtain ⟨ha, hr⟩ := sorted_cons.mp hs
      have hf : Above k (dropRange r a b) := fun q hq => ha q (List.mem_filter.mp hq).1
      simp only [dropRange, List.filter_cons] at hf ih ⊢
      by_cases hk : a ≤ k ∧ k < b
      · rw [if_neg (by simp [hk]), ih hr]
        simp only [Sparse.get]
        by_cases hj : j = k
        · subst hj; simp [hk]
        · by_cases hlt : j < k
          · simp only [if_neg hj, if_pos hlt, get_above ha (Nat.le_of_lt hlt)]
          · simp only [if_neg hj, if_neg hlt]
      · rw [if_pos (by simp only [Bool.not_eq_eq_eq_not, Bool.not_true, Bool.and_eq_false_iff, decide_eq_false_iff_not]; omega)]
        simp only [Sparse.get]
        by_cases hj : j = k
        · subst hj; simp [hk]
        · by_cases hlt : j < k
          · simp only [if_neg hj, if_pos hlt, ite_self]
          · simp only [if_neg hj, if_neg hlt, ih hr]
  exact key l h

/-! Bytes at a location. -/

/-- Writing bytes changes memory and tags only. -/
theorem writeBytes_eq (s : State) (l : Loc) (bs : List Byte) :
    s.writeBytes l bs = { s with mem := (s.writeBytes l bs).mem, tags := (s.writeBytes l bs).tags } := by
  induction bs generalizing s l with
  | nil => rfl
  | cons b r ih =>
    simp only [State.writeBytes]
    rw [ih]
    rfl

/-- Writing bytes keeps the canonical form. -/
theorem canonical_writeBytes {s : State} (h : Canonical s) (l : Loc) (bs : List Byte) : Canonical (s.writeBytes l bs) := by
  induction bs generalizing s l with
  | nil => exact h
  | cons b r ih => exact ih (canonical_setTagAt (canonical_setByteAt h ..) ..) _

/-- Zeroing bytes changes memory and tags only. -/
theorem zeroBytes_eq (s : State) (l : Loc) (n : Nat) :
    s.zeroBytes l n = { s with mem := (s.zeroBytes l n).mem, tags := (s.zeroBytes l n).tags } := by
  induction n generalizing s l with
  | zero => rfl
  | succ n ih =>
    simp only [State.zeroBytes]
    rw [ih]
    rfl

theorem canonical_scribble {s : State} (h : Canonical s) (l : Loc) (n : Nat) : Canonical (s.scribble l n) :=
  canonical_of_same (s := s.writeBytes _ _) rfl rfl (canonical_writeBytes h ..)

theorem canonical_zeroBytes {s : State} (h : Canonical s) (l : Loc) (n : Nat) : Canonical (s.zeroBytes l n) := by
  induction n generalizing s l with
  | zero => exact h
  | succ n ih => exact ih (canonical_setTagAt (canonical_setByteAt h ..) ..) _

theorem canonical_setHbm64 {s : State} (h : Canonical s) (pa : Nat) (x : W64) : Canonical (s.setHbm64 pa x) :=
  canonical_writeBytes h _ _

/-- The parts of the state that a write of bytes does not change. -/
@[simp] theorem writeBytes_parts (s : State) (l : Loc) (bs : List Byte) :
    (∀ c, (s.writeBytes l bs).ctx c = s.ctx c) ∧ (∀ t, (s.writeBytes l bs).slot t = s.slot t) ∧
    (∀ k, (s.writeBytes l bs).core k = s.core k) ∧ (∀ k, (s.writeBytes l bs).cluster k = s.cluster k) ∧
    (∀ d, (s.writeBytes l bs).die d = s.die d) ∧ (∀ v, (s.writeBytes l bs).vf v = s.vf v) ∧
    (∀ f, (s.writeBytes l bs).pf f = s.pf f) ∧ (∀ p, (s.writeBytes l bs).part p = s.part p) ∧
    (∀ i, (s.writeBytes l bs).link i = s.link i) ∧ (s.writeBytes l bs).cur = s.cur := by
  rw [writeBytes_eq]
  and_intros <;> intros <;> rfl

/-! Writes that the monitors see. -/

theorem notice_mem (s : State) (l : Loc) (n : Nat) : (s.notice l n).mem = s.mem ∧ (s.notice l n).tags = s.tags := by
  unfold State.notice
  split <;> exact ⟨rfl, rfl⟩

theorem canonical_notice {s : State} (h : Canonical s) (l : Loc) (n : Nat) : Canonical (s.notice l n) :=
  canonical_of_same (notice_mem ..).1 (notice_mem ..).2 h

theorem canonical_poke {s : State} (h : Canonical s) (l : Loc) (bs : List Byte) : Canonical (s.poke l bs) :=
  canonical_notice (canonical_writeBytes h ..) ..

theorem canonical_pokeReg {s : State} (h : Canonical s) (l : Loc) (r : Reg) (t : Bool) : Canonical (s.pokeReg l r t) :=
  canonical_setTagAt (canonical_poke h ..) ..

/-! The other operations that write memory or tags. -/

theorem canonical_accWrite {s : State} (h : Canonical s) (core : Fin 4608) (off : Nat) (bs : List Byte) :
    Canonical (s.accWrite core off bs) := by
  induction bs generalizing s off with
  | nil => exact h
  | cons b r ih => exact ih (canonical_setByteAt h ..) _

theorem canonical_clearAcc {s : State} (h : Canonical s) (core : Fin 4608) : Canonical (s.clearAcc core) :=
  canonical_dropMem rfl rfl h

theorem canonical_scrub {s : State} (h : Canonical s) (core : Fin 4608) (lslot mode : Nat) :
    Canonical (s.scrub core lslot mode) := canonical_drop rfl rfl h

theorem canonical_takeFrame {s : State} (h : Canonical s) (part : Fin 64) (f n : Nat) : Canonical (s.takeFrame part f n) :=
  canonical_drop rfl rfl h

theorem canonical_copyUnits {s : State} (h : Canonical s) (src dst : Loc) (n : Nat) : Canonical (s.copyUnits src dst n) := by
  induction n generalizing s src dst with
  | zero => exact h
  | succ n ih => exact ih (canonical_setTagAt (canonical_writeBytes h ..) ..) _ _

theorem canonical_moveHbm {s : State} (h : Canonical s) (a b n : Nat) : Canonical (s.moveHbm a b n) := by
  have fold : ∀ (ts : Sparse Bool) (t : State), Canonical t →
      Canonical (ts.foldl (fun u p => u.setTagAt (p.1 - a + b) p.2) t) := by
    intro ts
    induction ts with
    | nil => exact fun _ ht => ht
    | cons p r ih => exact fun t ht => ih _ (canonical_setTagAt ht ..)
  refine fold _ _ (canonical_writeBytes ?_ ..)
  exact canonical_drop rfl rfl h

theorem canonical_buildPage {s t : State} (h : Canonical s) {leaf : Nat → W64} {dva n at_ : Nat} {fs : List Nat}
    (hb : s.buildPage leaf dva n at_ fs = some t) : Canonical t := by
  induction n generalizing s at_ fs with
  | zero =>
    match fs with
    | [f] => simp only [State.buildPage, Option.some.injEq] at hb; exact hb ▸ canonical_setHbm64 h ..
    | [] => simp [State.buildPage] at hb
    | f :: g :: r => simp [State.buildPage] at hb
  | succ n ih =>
    match fs with
    | [] => simp [State.buildPage] at hb
    | f :: r => exact ih (canonical_setHbm64 h ..) hb

theorem canonical_unmapPages (part : Fin 64) (ds : List Nat) {s : State} (h : Canonical s) : Canonical (s.unmapPages part ds).1 := by
  induction ds generalizing s with
  | nil => exact h
  | cons d r ih =>
    unfold State.unmapPages
    split
    · split
      · exact ih (canonical_setHbm64 h ..)
      · exact ih h
    · exact ih h

theorem tlbInsert_mem (s : State) (e : TlbEntry) : (s.tlbInsert e).mem = s.mem ∧ (s.tlbInsert e).tags = s.tags := by
  unfold State.tlbInsert
  dsimp only
  split
  · exact ⟨rfl, rfl⟩
  · split <;> exact ⟨rfl, rfl⟩

theorem canonical_tlbInsert {s : State} (h : Canonical s) (e : TlbEntry) : Canonical (s.tlbInsert e) :=
  canonical_of_same (tlbInsert_mem ..).1 (tlbInsert_mem ..).2 h

theorem canonical_tlbFill {s : State} (h : Canonical s) (core : Fin 4608) (part : Fin 64) (l : Leaf) :
    Canonical (s.tlbFill core part l) :=
  canonical_tlbInsert (canonical_tlbInsert (canonical_tlbInsert (canonical_setHbm64 h ..) _) _) _

theorem canonical_markDirty {s : State} (h : Canonical s) (x : Xl) : Canonical (s.markDirty x) := by
  unfold State.markDirty
  split
  · exact h
  · exact canonical_of_same (s := s.setHbm64 _ _) rfl rfl (canonical_setHbm64 h ..)

theorem canonical_setPcState {s : State} (h : Canonical s) (e st err nv : Nat) : Canonical (s.setPcState e st err nv) :=
  canonical_writeBytes h ..

theorem cacheLine_mem (s : State) (n : Nat) (w : Bool) : (s.cacheLine n w).mem = s.mem ∧ (s.cacheLine n w).tags = s.tags := by
  unfold State.cacheLine
  split
  · exact ⟨rfl, rfl⟩
  · split <;> exact ⟨rfl, rfl⟩

theorem cacheHost_mem (s : State) (l : Loc) (n : Nat) (w : Bool) :
    (s.cacheHost l n w).mem = s.mem ∧ (s.cacheHost l n w).tags = s.tags := by
  unfold State.cacheHost
  split
  · generalize List.range _ = is
    induction is generalizing s with
    | nil => exact ⟨rfl, rfl⟩
    | cons i is ih => exact ⟨(ih _).1.trans (cacheLine_mem ..).1, (ih _).2.trans (cacheLine_mem ..).2⟩
  · exact ⟨rfl, rfl⟩

theorem canonical_cacheHost {s : State} (h : Canonical s) (l : Loc) (n : Nat) (w : Bool) : Canonical (s.cacheHost l n w) :=
  canonical_of_same (cacheHost_mem ..).1 (cacheHost_mem ..).2 h

theorem canonical_touchExp {s : State} (h : Canonical s) (l : Loc) (n : Nat) (w : Bool) : Canonical (s.touchExp l n w) := by
  unfold State.touchExp
  split
  · exact canonical_foldl (fun t i ht => by split <;> exact ht) _ h
  · exact h

theorem canonical_swapExp {s : State} (h : Canonical s) (l : Loc) (n : Nat) : Canonical (s.swapExp l n) := by
  unfold State.swapExp
  split
  · refine canonical_foldl (fun t i ht => ?_) _ h
    dsimp only
    split
    · exact canonical_of_same (s := t.writeBytes _ _) rfl rfl (canonical_writeBytes ht ..)
    · exact ht
  · exact h

theorem canonical_dropExp {s : State} (h : Canonical s) (i : Nat) : Canonical (s.dropExp i) := by
  unfold State.dropExp
  split
  · dsimp only
    split
    · exact h
    · exact canonical_of_same (s := s.writeBytes _ _) rfl rfl (canonical_writeBytes h ..)
  · exact h

theorem canonical_pokeAt {s : State} (h : Canonical s) (l : Loc) (bs : List Byte) : Canonical (s.pokeAt l bs) :=
  canonical_of_same (cacheHost_mem ..).1 (cacheHost_mem ..).2
    (canonical_swapExp (canonical_poke (canonical_swapExp (canonical_touchExp h ..) ..) ..) ..)

theorem canonical_countArrival {s : State} (h : Canonical s) (r : RStore) : Canonical (s.countArrival r) := h

theorem canonical_landStore {s : State} (h : Canonical s) (r : RStore) (l : Loc) : Canonical (s.landStore r l) := by
  refine canonical_countArrival ?_ r
  split
  · exact canonical_setTagAt (canonical_pokeAt h ..) ..
  · exact canonical_pokeAt h ..

end Sys2Proof.Laws
end

