-- ==== Sys2Proof/Laws/Run.lean ====
section
/-! SUPPORT. Laws/Run.lean: what `operate` answers once an instruction starts: a body that completes goes on in sequence, a body
that stops traps or waits; and the same of the integer forms. -/
namespace Sys2Proof.Laws
open Sys2Proof Sys2Proof.Machine Sys2Proof.Safety

/-- What `Starts` says of the first check of `operate`. -/
theorem starts_unfrozen {i : Instr} {e : AtEnd} {reads names : List RegCode} {s s1 : State} (h : Starts i e reads names s s1) :
    ¬ (decide ((s.ctx s.cur).depth > 0) && names.any RegCode.special) = true := by
  rcases h.unfrozen with h | h <;> simp [h]

/-- An instruction that starts and whose checks and body succeed does what `finish` says. -/
theorem operate_finish {i : Instr} {e : AtEnd} {reads names : List RegCode} {pre : M Unit} {body : M Machine.Flow}
    {s s1 u : State} {f : Machine.Flow} (hp : pre s = .ok ((), s)) (h : Starts i e reads names s s1) (hb : body s1 = .ok (f, u)) :
    operate i e reads names pre body s = .next (finish i.size s1 u f) := by
  simp only [operate, operateUndo, if_neg (starts_unfrozen h), h.loop, h.queues, h.ports, hp, hb]

/-- An instruction that starts and completes in sequence goes on. -/
theorem operate_next {i : Instr} {e : AtEnd} {reads names : List RegCode} {pre : M Unit} {body : M Machine.Flow}
    {s s1 u v : State} (hp : pre s = .ok ((), s)) (h : Starts i e reads names s s1) (hb : body s1 = .ok (.next, u))
    (hg : GoesOn i u v) : operate i e reads names pre body s = .next v := by
  obtain ⟨x, hx, rfl⟩ := hg
  rw [operate_finish hp h hb]
  simp only [finish, hx]

/-- An instruction that starts and whose body traps takes that trap. -/
theorem operate_trap {i : Instr} {e : AtEnd} {reads names : List RegCode} {pre : M Unit} {body : M Machine.Flow}
    {s s1 : State} {t : TrapInfo} (hp : pre s = .ok ((), s)) (h : Starts i e reads names s s1)
    (hb : body s1 = .error (.trap t)) : operate i e reads names pre body s = .next (s1.takeTrap s.cur t) := by
  simp only [operate, operateUndo, if_neg (starts_unfrozen h), h.loop, h.queues, h.ports, hp, hb, Bool.false_eq_true, if_false]

/-- An instruction that starts and whose body waits changes nothing but what the wait itself notes. -/
theorem operate_wait {i : Instr} {e : AtEnd} {reads names : List RegCode} {pre : M Unit} {body : M Machine.Flow}
    {s s1 : State} {w : Wait} (hp : pre s = .ok ((), s)) (h : Starts i e reads names s s1)
    (hb : body s1 = .error (.wait w)) : operate i e reads names pre body s = .next (s.stall s.cur w) := by
  simp only [operate, operateUndo, if_neg (starts_unfrozen h), h.loop, h.queues, h.ports, hp, hb]

/-- As `operate_next`, for an instruction with nothing to check first. -/
theorem run_next {i : Instr} {reads names : List RegCode} {body : M Machine.Flow} {s s1 u v : State}
    (h : Starts i .closes reads names s s1) (hb : body s1 = .ok (.next, u)) (hg : GoesOn i u v) :
    run i reads names body s = .next v :=
  operate_next rfl h hb hg

/-- As `operate_trap`, for an instruction with nothing to check first. -/
theorem run_trap {i : Instr} {reads names : List RegCode} {body : M Machine.Flow} {s s1 : State} {t : TrapInfo}
    (h : Starts i .closes reads names s s1) (hb : body s1 = .error (.trap t)) :
    run i reads names body s = .next (s1.takeTrap s.cur t) :=
  operate_trap rfl h hb

/-- An instruction that reads nothing starts in the state it finds. -/
theorem starts_self {i : Instr} {e : AtEnd} {names : List RegCode} {s s1 : State} (h : Starts i e [] names s s1) : s1 = s := by
  have h4 := h.ports
  simp only [State.receive] at h4
  injection h4 with h4
  exact h4.symm

/-- Reading one operand after another, from the values read. -/
theorem takeAll_cons {r : RegCode} {rs : List RegCode} {s u : State} {vs : List Reg} (h : takeAll (r :: rs) s = .ok (vs, u)) :
    ∃ v t ws, read r s = .ok (v, t) ∧ takeAll rs t = .ok (ws, u) ∧ vs = v :: ws := by
  simp only [takeAll, bind, StateT.bind, Except.bind, pure, StateT.pure, Except.pure] at h
  revert h
  cases read r s with
  | error e => intro h; cases h
  | ok p =>
    dsimp only
    cases hq : takeAll rs p.2 with
    | error e => intro h; cases h
    | ok q =>
      dsimp only
      intro h
      injection h with h
      injection h with h1 h2
      exact ⟨p.1, p.2, q.1, rfl, by rw [hq, ← h2], h1.symm⟩

/-- Reading no operand. -/
theorem takeAll_nil {s u : State} {vs : List Reg} (h : takeAll [] s = .ok (vs, u)) : vs = [] ∧ u = s := by
  simp only [takeAll, pure, StateT.pure, Except.pure] at h
  injection h with h
  injection h with h1 h2
  exact ⟨h1.symm, h2.symm⟩

/-- `readData` is the low half of `read`. -/
theorem readData_ok {r : RegCode} {s t : State} {v : Reg} (h : read r s = .ok (v, t)) : readData r s = .ok (v.lo, t) := by
  simp only [readData, bind, StateT.bind, Except.bind, pure, StateT.pure, Except.pure, h]

/-- The form d := f(a). -/
theorem alu2_next {i : Instr} {d a : RegCode} {g : W64 → W64} {s s1 t u v : State} {vs : List Reg}
    (h : Starts i .closes [a] [d, a] s s1) (hr : takeAll [a] s1 = .ok (vs, t))
    (hw : write (Instr.word i) d (Reg.data (one g (lows vs))) t = .ok ((), u)) (hg : GoesOn i u v) : alu2 i d a g s = .next v := by
  obtain ⟨x, s2, ws1, h1, hr1, rfl⟩ := takeAll_cons hr
  obtain ⟨rfl, rfl⟩ := takeAll_nil hr1
  refine run_next h ?_ hg
  simp only [lows, List.map, one] at hw
  simp only [bind, StateT.bind, Except.bind, pure, StateT.pure, Except.pure, readData_ok h1, writeData, hw]

/-- The form d := f(a, b). -/
theorem alu3_next {i : Instr} {d a b : RegCode} {g : W64 → W64 → W64} {s s1 t u v : State} {vs : List Reg}
    (h : Starts i .closes [a, b] [d, a, b] s s1) (hr : takeAll [a, b] s1 = .ok (vs, t))
    (hw : write (Instr.word i) d (Reg.data (two g (lows vs))) t = .ok ((), u)) (hg : GoesOn i u v) :
    alu3 i d a b g s = .next v := by
  obtain ⟨x, s2, ws1, h1, hr1, rfl⟩ := takeAll_cons hr
  obtain ⟨y, s3, ws2, h2, hr2, rfl⟩ := takeAll_cons hr1
  obtain ⟨rfl, rfl⟩ := takeAll_nil hr2
  refine run_next h ?_ hg
  simp only [lows, List.map, two] at hw
  simp only [bind, StateT.bind, Except.bind, pure, StateT.pure, Except.pure, readData_ok h1, readData_ok h2, writeData, hw]

/-- The form d := f(a, b, d). -/
theorem alu4_next {i : Instr} {d a b : RegCode} {g : W64 → W64 → W64 → W64} {s s1 t u v : State} {vs : List Reg}
    (h : Starts i .closes [a, b, d] [d, a, b, d] s s1) (hr : takeAll [a, b, d] s1 = .ok (vs, t))
    (hw : write (Instr.word i) d (Reg.data (three g (lows vs))) t = .ok ((), u)) (hg : GoesOn i u v) :
    alu4 i d a b g s = .next v := by
  obtain ⟨x, s2, ws1, h1, hr1, rfl⟩ := takeAll_cons hr
  obtain ⟨y, s3, ws2, h2, hr2, rfl⟩ := takeAll_cons hr1
  obtain ⟨z, s4, ws3, h3, hr3, rfl⟩ := takeAll_cons hr2
  obtain ⟨rfl, rfl⟩ := takeAll_nil hr3
  have h' : Starts i .closes [a, b, d] [d, a, b] s s1 := by
    refine ⟨?_, h.loop, h.queues, h.ports⟩
    rcases h.unfrozen with h | h
    · exact .inl h
    · right
      simp at h ⊢
      simp [h]
  refine run_next h' ?_ hg
  simp only [lows, List.map, three] at hw
  simp only [bind, StateT.bind, Except.bind, pure, StateT.pure, Except.pure, readData_ok h1, readData_ok h2, readData_ok h3,
    writeData, hw]

/-- The form d := a value. -/
theorem alu1_next {i : Instr} {d : RegCode} {x : W64} {s s1 u v : State} (h : Starts i .closes [] [d] s s1)
    (hw : write (Instr.word i) d (Reg.data x) s1 = .ok ((), u)) (hg : GoesOn i u v) : alu1 i d x s = .next v := by
  refine run_next h ?_ hg
  simp only [bind, StateT.bind, Except.bind, pure, StateT.pure, Except.pure, writeData, hw]

end Sys2Proof.Laws
end

