-- ==== Sys2Proof/Laws/Ops.lean ====
section
/-! SUPPORT. Laws/Ops.lean: what the shared operations of instructions do: reading and writing register operands, sends, what an
advance leaves alone, and that taking a trap and finishing an instruction keep memory in its canonical form. -/
namespace Sys2Proof.Laws
open Sys2Proof Sys2Proof.Machine Sys2Proof.Safety

theorem canonical_setCtx {s : State} (h : Canonical s) (c : CtxId) (x : Ctx) : Canonical (s.setCtx c x) := h
theorem canonical_modCtx {s : State} (h : Canonical s) (c : CtxId) (f : Ctx → Ctx) : Canonical (s.modCtx c f) := h
theorem canonical_modCore {s : State} (h : Canonical s) (k : Fin 4608) (f : Core → Core) : Canonical (s.modCore k f) := h
theorem canonical_modSlot {s : State} (h : Canonical s) (l : SlotId) (f : Slot → Slot) : Canonical (s.modSlot l f) := h
theorem canonical_modPart {s : State} (h : Canonical s) (p : Fin 64) (f : Partition → Partition) : Canonical (s.modPart p f) := h

/-! Pieces of an instruction. -/

/-- A piece of an instruction that keeps memory in its canonical form where it succeeds. -/
def Keeps {α : Type} (m : M α) : Prop := ∀ s a t, Canonical s → m s = .ok (a, t) → Canonical t

theorem keeps_pure {α : Type} (a : α) : Keeps (pure a : M α) := by
  intro s b t h e
  cases e
  exact h

theorem keeps_bind {α β : Type} {m : M α} {f : α → M β} (hm : Keeps m) (hf : ∀ a, Keeps (f a)) : Keeps (m >>= f) := by
  intro s b t h e
  cases hx : m s with
  | error x =>
    have he : (m >>= f) s = .error x := by simp only [bind, StateT.bind, hx, Except.bind]
    rw [he] at e
    cases e
  | ok p =>
    have he : (m >>= f) s = f p.1 p.2 := by simp only [bind, StateT.bind, hx, Except.bind]
    rw [he] at e
    exact hf p.1 p.2 b t (hm s p.1 p.2 h hx) e

theorem keeps_raise {α : Type} (c : Cause) (v : W64) : Keeps (raise c v : M α) := by
  intro s a t _ e
  cases e

theorem keeps_pause {α : Type} (w : Wait) : Keeps (pause w : M α) := by
  intro s a t _ e
  cases e

theorem keeps_me : Keeps me := by
  intro s a t h e
  cases e
  exact h

theorem keeps_who : Keeps who := by
  intro s a t h e
  cases e
  exact h

theorem keeps_edit (f : Ctx → Ctx) : Keeps (edit f) := by
  intro s a t h e
  cases e
  exact h

theorem keeps_need (r : Reach) : Keeps (need r) := by
  intro s a t h e
  cases r <;> simp only [need] at e <;> cases e
  exact h

/-- Reading an operand takes it from its queue or latch, and changes nothing else. -/
theorem read_spec {r : RegCode} {s t : State} {v : Reg} (e : Machine.read r s = .ok (v, t)) :
    t.mem = s.mem ∧ t.tags = s.tags ∧ t.cur = s.cur ∧ (∀ c, c ≠ s.cur → t.ctx c = s.ctx c) ∧
      here t = { here s with q := (here t).q, ports := (here t).ports } := by
  cases r with
  | g n =>
    simp only [Machine.read] at e
    cases e
    exact ⟨rfl, rfl, rfl, fun _ _ => rfl, rfl⟩
  | q n =>
    simp only [Machine.read] at e
    split at e <;> cases e
    refine ⟨rfl, rfl, rfl, fun c hc => ctx_setCtx_ne _ _ hc, ?_⟩
    simp only [here, setCtx_fields, ctx_setCtx_self]
    rfl
  | p m =>
    simp only [Machine.read] at e
    split at e <;> cases e
    refine ⟨rfl, rfl, rfl, fun c hc => ctx_setCtx_ne _ _ hc, ?_⟩
    simp only [here, setCtx_fields, ctx_setCtx_self]
    rfl

theorem keeps_read (r : RegCode) : Keeps (Machine.read r) :=
  fun _ _ _ h e => canonical_of_same (read_spec e).1 (read_spec e).2.1 h

theorem keeps_readData (r : RegCode) : Keeps (readData r) := keeps_bind (keeps_read r) (fun _ => keeps_pure _)

theorem keeps_takeAll (rs : List RegCode) : Keeps (takeAll rs) := by
  induction rs with
  | nil => exact keeps_pure _
  | cons r rs ih => exact keeps_bind (keeps_read r) (fun _ => keeps_bind ih (fun _ => keeps_pure _))

/-! Sends. -/

theorem canonical_ringPut {s : State} (h : Canonical s) (d : CtxId) (k : Fin 4) (w : W64) : Canonical (s.ringPut d k w) :=
  canonical_of_same (s := s.poke _ _) rfl rfl (canonical_poke h ..)

theorem canonical_setSlot {s : State} (h : Canonical s) (l : SlotId) (x : Slot) : Canonical (s.setSlot l x) := h

theorem canonical_toOverflow {s : State} (h : Canonical s) (l : SlotId) (e : Fin 11 × Fin 4 × W64) :
    Canonical (s.toOverflow l e) := by
  unfold State.toOverflow
  exact canonical_setSlot (canonical_scribble h ..) ..

theorem canonical_countSend {s : State} (h : Canonical s) (c : CtxId) (k : Nat) : Canonical (s.countSend c k) := h

/-- The state that a send leaves, where it leaves one. -/
def sentState : Sent → Option State
  | .delivered s => some s
  | .diverted s => some s
  | .discarded s => some s
  | _ => none

theorem canonical_sendWord {s t : State} (h : Canonical s) {l : SlotId} {a : RingAddr} {w : W64} {d : Bool} {p : Option SlotId}
    (e : sentState (s.sendWord l a w d p) = some t) : Canonical t := by
  unfold State.sendWord at e
  split at e
  · cases e; exact h
  · dsimp only at e
    split at e
    · cases e
    · split at e
      · cases e; exact h
      · split at e
        · split at e <;> cases e
          exact canonical_toOverflow h ..
        · split at e <;> cases e
          exact canonical_ringPut h ..

theorem keeps_sendTo (iw addr w : W64) : Keeps (sendTo iw addr w) := by
  intro s a t h e
  unfold sendTo at e
  split at e
  · cases e
  · dsimp only at e
    split at e
    · cases e
    · split at e
      · cases e
      · split at e
        · cases e
        · split at e
          · cases e
          · split at e
            · next hs => cases e; exact canonical_countSend (canonical_sendWord h (by rw [hs]; rfl)) ..
            · next hs => cases e; exact canonical_countSend (canonical_sendWord h (by rw [hs]; rfl)) ..
            · next hs => cases e; exact canonical_countSend (canonical_sendWord h (by rw [hs]; rfl)) ..
            · cases e
            · split at e <;> cases e
            · cases e

/-- Writing an operand: a general register or a queue of the context, or a word that is sent through a port. -/
theorem keeps_write (w : W64) (r : RegCode) (v : Reg) : Keeps (write w r v) := by
  intro s a t h e
  cases r with
  | g n =>
    simp only [write] at e
    cases e
    exact h
  | q n =>
    simp only [write] at e
    split at e <;> cases e
    exact h
  | p m =>
    simp only [write] at e
    split at e
    · cases e
    · split at e
      · cases e
      · split at e <;> cases e
        next hs => exact keeps_sendTo _ _ _ s _ _ h hs

theorem keeps_writeData (w : W64) (r : RegCode) (v : W64) : Keeps (writeData w r v) := keeps_write w r (Reg.data v)

/-- Writing a general register changes that register alone. -/
theorem write_g (w : W64) (n : GReg) (v : Reg) (s : State) :
    write w (.g n) v s = .ok ((), s.modCtx s.cur (fun x => x.setReg n v)) := rfl

/-! Before the body. -/

/-- Receiving into the latches changes the rings and ports of the context, and nothing else. -/
theorem receive_spec {c : CtxId} {w : W64} {rs : List RegCode} {seen : List (Fin 4)} {s t : State}
    (e : s.receive c w rs seen = .ok t) :
    t.mem = s.mem ∧ t.tags = s.tags ∧ t.cur = s.cur ∧ (∀ d, d ≠ c → t.ctx d = s.ctx d) ∧
      t.ctx c = { s.ctx c with rings := (t.ctx c).rings, ports := (t.ctx c).ports } := by
  induction rs generalizing s seen with
  | nil =>
    simp only [State.receive] at e
    cases e
    exact ⟨rfl, rfl, rfl, fun _ _ => rfl, rfl⟩
  | cons r rs ih =>
    cases r with
    | g n => exact ih e
    | q n => exact ih e
    | p m =>
      simp only [State.receive] at e
      split at e
      · cases e
      · split at e
        · cases e
        · split at e
          · exact ih e
          · split at e
            · cases e
            · obtain ⟨hm, ht, hc, ho, hx⟩ := ih e
              refine ⟨hm, ht, hc, fun d hd => (ho d hd).trans (ctx_setCtx_ne _ _ hd), ?_⟩
              rw [hx, ctx_setCtx_self]
              rfl

theorem canonical_receive {c : CtxId} {w : W64} {rs : List RegCode} {seen : List (Fin 4)} {s t : State} (h : Canonical s)
    (e : s.receive c w rs seen = .ok t) : Canonical t := canonical_of_same (receive_spec e).1 (receive_spec e).2.1 h

/-! Where an instruction that completes leaves its context. -/

/-- An advance changes the place in the code and the loop and repeat state, and nothing else. -/
theorem advance_spec {x y : Ctx} {n : Nat} (e : x.advance n = .ok y) :
    y = { x with pcc := y.pcc, loopc := y.loopc, repc := y.repc, repi := y.repi, rep := y.rep } := by
  have close : ∀ {z y : Ctx} {a b : W64}, z.closeLoop a b = .ok y → y = { z with pcc := y.pcc, loopc := y.loopc } := by
    intro z y a b e
    unfold Ctx.closeLoop at e
    split at e
    · split at e
      · cases e; rfl
      · split at e
        · cases e
        · split at e <;> cases e
          rfl
    · cases e; rfl
  unfold Ctx.advance at e
  split at e
  · rw [close e]
  · split at e
    · rw [close e]
    · cases e; rfl

/-! Traps. -/

theorem canonical_freezeOps {s : State} (h : Canonical s) (c : CtxId) : Canonical (s.freezeOps c) := by
  unfold State.freezeOps
  split <;> exact h

theorem canonical_enterSup {s t : State} {c : CtxId} {i : TrapInfo} (h : Canonical s) (e : s.enterSup c i = some t) :
    Canonical t := by
  unfold State.enterSup at e
  dsimp only at e
  split at e
  · cases e
  · split at e <;> cases e
    exact canonical_freezeOps h c

theorem toVf_mem (s : State) (n : Fin 64) (r : EvRec) : (s.toVf n r).mem = s.mem ∧ (s.toVf n r).tags = s.tags := by
  unfold State.toVf
  split <;> exact ⟨rfl, rfl⟩

theorem canonical_toPart {s : State} (h : Canonical s) (p : Fin 64) (r : EvRec) : Canonical (s.toPart p r) := by
  unfold State.toPart
  split
  · exact canonical_of_same (toVf_mem ..).1 (toVf_mem ..).2 h
  · exact h

theorem canonical_resolveHandle {s : State} (h : Canonical s) (c : CtxId) (n : Fin 16) (k : BitVec 16) (w : W64)
    (d : Option W64) : Canonical (s.resolveHandle c n k w d) := by
  unfold State.resolveHandle
  dsimp only
  split <;> exact h

theorem canonical_killHandles {s : State} (h : Canonical s) (c : CtxId) : Canonical (s.killHandles c) := by
  refine canonical_foldl (fun t n ht => ?_) _ h
  dsimp only
  split
  · exact canonical_resolveHandle ht ..
  · exact ht

theorem canonical_unmapService {s : State} (h : Canonical s) (p : Fin 64) (l : SlotId) : Canonical (s.unmapService p l) := by
  have hp := canonical_unmapPages p (servicePages l) h
  unfold State.unmapService
  dsimp only
  split
  · exact h
  · exact hp

theorem canonical_markShared {s : State} (h : Canonical s) : Canonical s.markShared := by
  unfold State.markShared
  split <;> exact h

theorem canonical_dropped {s : State} (h : Canonical s) (l : SlotId) : Canonical ((s.dropOps l).dropTraffic l) := h

theorem canonical_clearSlot {s : State} (h : Canonical s) (l : SlotId) : Canonical (s.clearSlot l) := by
  unfold State.clearSlot
  have h1 : Canonical ((ctxsOf l).foldl (fun t c => (t.killHandles c).modCtx c (fun x => { x.ended with counts := [] })) s) :=
    canonical_foldl (fun t c ht => canonical_modCtx (canonical_killHandles ht c) ..) _ h
  revert h1
  generalize (ctxsOf l).foldl (fun t c => (t.killHandles c).modCtx c (fun x => { x.ended with counts := [] })) s = u
  intro h1
  dsimp only
  split
  · exact canonical_modCore (canonical_clearAcc (canonical_dropped h1 l) _) ..
  · exact canonical_modCore (canonical_dropped h1 l) ..

theorem canonical_unbindSlot {s : State} (h : Canonical s) (l : SlotId) : Canonical (s.unbindSlot l) := by
  have h1 := canonical_clearSlot (canonical_unmapService (canonical_markShared h) (s.partOf l) l) l
  unfold State.unbindSlot
  exact canonical_modSlot h1 ..

theorem canonical_dropSaved {s : State} (h : Canonical s) (gone : Saved → Bool) : Canonical (s.dropSaved gone) := by
  unfold State.dropSaved
  refine canonical_foldl (fun t v ht => ?_) _ h
  exact canonical_of_same (s := t) rfl rfl ht

theorem canonical_giveUp {s : State} (h : Canonical s) (p : Fin 64) (k : W64) (l : SlotId) :
    Canonical (State.giveUp p k s l) := by
  unfold State.giveUp
  split
  · exact canonical_unbindSlot h l
  · exact canonical_dropSaved (canonical_unmapService (canonical_markShared h) ..) _

theorem canonical_complete {s : State} (h : Canonical s) (p : Fin 64) (a w : W64) : Canonical (s.complete p a w) := by
  unfold State.complete
  split
  · exact h
  · split
    · dsimp only
      split
      · exact canonical_of_same (s := s.writeBytes _ _) rfl rfl (canonical_writeBytes h ..)
      · exact canonical_writeBytes h ..
    · exact h

theorem canonical_finishTask {s : State} (h : Canonical s) (p : Fin 64) (t : Task) (a : BitVec 16) (b : BitVec 8)
    (r : BitVec 32) : Canonical (s.finishTask p t a b r) := by
  unfold State.finishTask
  exact canonical_complete (canonical_modPart (canonical_foldl (fun _ _ ht => canonical_giveUp ht ..) _ h) ..) ..

theorem canonical_abortTask {s : State} (h : Canonical s) (p : Fin 64) (t : Task) : Canonical (s.abortTask p t) := by
  unfold State.abortTask
  split
  · exact canonical_modPart h ..
  · split
    · split
      · exact canonical_finishTask h ..
      · exact canonical_finishTask (s := s.takeFresh) h ..
    · exact canonical_finishTask h ..

theorem canonical_doubleEnd {s : State} (h : Canonical s) (c : CtxId) (k : Nat) : Canonical (s.doubleEnd c k) := by
  have h1 : Canonical ((s.modCtx c Ctx.ended).doubleEvent c k) := canonical_toPart (s := s.modCtx c Ctx.ended) h ..
  unfold State.doubleEnd
  dsimp only
  split
  · split
    · exact canonical_abortTask h1 ..
    · exact h1
  · exact h1

theorem canonical_cancelLoose {s : State} (h : Canonical s) (c : CtxId) (f : OpHead → Bool) : Canonical (s.cancelLoose c f) := by
  unfold State.cancelLoose
  dsimp only
  split
  · exact h
  · exact canonical_modCore h ..

theorem canonical_abandon {s : State} (h : Canonical s) (c : CtxId) : Canonical (s.abandon c) := by
  unfold State.abandon
  split
  · dsimp only
    split <;> exact h
  · exact h

theorem canonical_forsake {s : State} (h : Canonical s) (c : CtxId) : Canonical (s.forsake c) :=
  canonical_abandon (canonical_modCtx h ..) c

theorem canonical_dropFlying {s : State} (h : Canonical s) (gone : CtxId → Bool) : Canonical (s.dropFlying gone) := h

theorem canonical_snoop {s : State} (h : Canonical s) (n : Nat) (w : Bool) : Canonical (s.snoop n w) := h

theorem canonical_joinMiss {s : State} (h : Canonical s) (k : Fin 4608) (p : Fin 64) (d : W64) : Canonical (s.joinMiss k p d) := by
  unfold State.joinMiss
  dsimp only
  split <;> exact h

theorem canonical_joinWalk {s : State} (h : Canonical s) (c : CtxId) (d : W64) : Canonical (s.joinWalk c d) :=
  canonical_joinMiss h ..

theorem canonical_dropOpsOf {s : State} (h : Canonical s) (k : Fin 4608) (gone : CtxId → Bool) : Canonical (s.dropOpsOf k gone) := h

theorem canonical_doubleTrap {s : State} (h : Canonical s) (c : CtxId) (k : Cause) : Canonical (s.doubleTrap c k) := by
  unfold State.doubleTrap
  dsimp only
  split
  · exact canonical_cancelLoose (canonical_setCtx h ..) ..
  · exact canonical_doubleEnd h ..

theorem canonical_spillTrap {s : State} (h : Canonical s) (c : CtxId) (d : W64) : Canonical (s.spillTrap c d) := by
  have ha := canonical_forsake h c
  unfold State.spillTrap
  dsimp only
  split
  · next e => exact canonical_enterSup ha e
  · exact canonical_modCtx ha ..

/-! The domain stack. -/

theorem canonical_homeAt {s t : State} {c : CtxId} {d : W64} {w : Bool} {l : Loc} (h : Canonical s)
    (e : s.homeAt c d w = some (t, l)) : Canonical t := by
  unfold State.homeAt at e
  dsimp only at e
  split at e
  · cases e
  · split at e
    · split at e <;> cases e
      exact canonical_setHbm64 h ..
    · cases e

theorem canonical_fill {s t : State} {c : CtxId} (h : Canonical s) (e : s.fill c = some t) : Canonical t := by
  unfold State.fill at e
  dsimp only at e
  split at e
  · cases e; exact h
  · split at e
    · cases e; exact h
    · split at e
      · next hh =>
        cases e
        exact canonical_modCtx (canonical_homeAt h hh) ..
      · cases e

theorem canonical_spill {s t : State} {c : CtxId} (h : Canonical s) (e : s.spill c = some t) : Canonical t := by
  unfold State.spill at e
  dsimp only at e
  split at e
  · cases e; exact h
  · split at e
    · next u l hh =>
      have hu := canonical_poke (canonical_homeAt h hh) l
      rw [← Option.some.inj e]
      exact canonical_modCtx (hu _) ..
    · cases e

/-- The state of an unwind check that has one of its own keeps the canonical form. -/
def KeepsUnwound : Unwound → Prop
  | .quiet => True
  | .moved t => Canonical t
  | .waits t _ => Canonical t
  | .spill t _ => Canonical t

theorem keeps_tryPop {s : State} (h : Canonical s) (c : CtxId) (a b : W64) (m : Closing) : KeepsUnwound (s.tryPop c a b m) := by
  have hx := fun x : Ctx => canonical_cancelLoose (canonical_setCtx h c x) c (fun o => o.depth == (s.ctx c).depth)
  unfold State.tryPop
  dsimp only
  split
  · exact hx _
  · split
    · exact canonical_snoop (hx _) ..
    · split
      · exact hx _
      · next e => exact canonical_modCtx (canonical_abandon (canonical_fill (hx _) e) c) ..

theorem keeps_enterCleanup {s : State} (h : Canonical s) {c : CtxId} {a b : Nat} {u : Unwound}
    (e : s.enterCleanup c a b = some u) : KeepsUnwound u := by
  unfold State.enterCleanup at e
  dsimp only at e
  split at e
  · cases e; exact canonical_snoop h ..
  · split at e
    · cases e; exact h
    · next hf =>
      have ht := canonical_fill h hf
      split at e
      · cases e
      · split at e
        · cases e
          simp only [KeepsUnwound]
          split
          · exact canonical_snoop ht ..
          · exact canonical_joinWalk ht ..
          · exact ht
        · cases e
        · split at e <;> cases e
          exact canonical_modCtx (canonical_abandon ht c) ..

theorem canonical_endCtx {s : State} (h : Canonical s) (c : CtxId) : Canonical (s.endCtx c) := by
  unfold State.endCtx
  exact canonical_dropFlying (canonical_modCtx (canonical_dropOpsOf (canonical_killHandles (canonical_abandon h c) c) ..) ..) _

theorem keeps_unwindFrom {s : State} (h : Canonical s) (c : CtxId) (a : W64) (n : Nat) :
    KeepsUnwound (s.unwindFrom c a n) := by
  induction n generalizing s with
  | zero => exact h
  | succ n ih =>
    have hp := keeps_tryPop h c a ((s.ctx c).cdepth.setWidth 64) (.unwind a)
    simp only [State.unwindFrom]
    split
    · next t e =>
      rw [e] at hp
      split
      · exact ih (s := t.modCtx c _) hp
      · split
        · exact canonical_endCtx hp c
        · split <;> exact hp
    · exact hp

theorem keeps_unwindLoop (c : CtxId) (n : Nat) {s : State} (h : Canonical s) (b : Bool) :
    KeepsUnwound (State.unwindLoop c n s b) := by
  induction n generalizing s b with
  | zero => exact h
  | succ n ih =>
    have stop : KeepsUnwound (if b = true then .moved s else .quiet) := by
      split
      · exact h
      · trivial
    have again : ∀ u : Unwound, KeepsUnwound u → KeepsUnwound (match u with
        | .moved t => State.unwindLoop c n t true
        | u => u) := by
      intro u hu
      cases u with
      | moved t => exact ih hu true
      | quiet => exact hu
      | waits t w => exact hu
      | spill t d => exact hu
    simp only [State.unwindLoop]
    split
    · exact stop
    · split
      · exact again _ (keeps_tryPop h ..)
      · exact again _ (keeps_unwindFrom h ..)
      · exact stop
      · split
        · exact again _ (keeps_tryPop h ..)
        · split
          · split
            · exact again _ (keeps_unwindFrom h ..)
            · exact stop
          · split
            · split
              · next e =>
                split at e
                · exact keeps_enterCleanup h e
                · exact keeps_enterCleanup h e
              · exact keeps_unwindFrom h ..
            · split
              · split
                · next e => exact keeps_enterCleanup h e
                · exact keeps_unwindFrom h ..
              · exact stop

theorem keeps_unwind {s : State} (h : Canonical s) (c : CtxId) : KeepsUnwound (s.unwind c) := keeps_unwindLoop c 40 h false

theorem canonical_settle {s : State} (h : Canonical s) (c : CtxId) {u : Unwound} (hu : KeepsUnwound u) :
    Canonical (s.settle c u) := by
  cases u with
  | quiet => exact h
  | moved t => exact hu
  | waits t w => exact hu
  | spill t d => exact canonical_spillTrap hu ..

theorem canonical_popTrap {s : State} (h : Canonical s) (c : CtxId) : Canonical (s.popTrap c) :=
  canonical_settle h c (keeps_tryPop h ..)

/-- Taking a trap keeps memory in its canonical form. -/
theorem canonical_takeTrap {s : State} (h : Canonical s) (c : CtxId) (i : TrapInfo) : Canonical (s.takeTrap c i) := by
  unfold State.takeTrap
  dsimp only
  have h0 : Canonical ((s.forsake c).modCtx c (fun y => { y with pending := none })) := canonical_modCtx (canonical_forsake h c) ..
  revert h0
  generalize (s.forsake c).modCtx c (fun y => { y with pending := none }) = u
  intro hu
  have none_ : Canonical (u.deliverNone c i) := by
    unfold State.deliverNone
    split
    · exact canonical_popTrap hu c
    · exact canonical_doubleTrap hu ..
  split
  · split
    · exact canonical_endCtx hu c
    · exact canonical_settle hu c (keeps_unwind hu c)
  · split
    · exact canonical_settle hu c (keeps_unwindFrom hu ..)
    · split
      · split
        · exact canonical_popTrap hu c
        · exact canonical_doubleTrap hu ..
      · split
        · split
          · next e => exact canonical_enterSup hu e
          · exact none_
        · unfold State.deliverTvec
          dsimp only
          split
          · exact canonical_freezeOps hu c
          · split
            · exact canonical_popTrap hu c
            · exact canonical_doubleTrap hu ..

/-! An instruction as a whole. -/

theorem canonical_enframe {s : State} (h : Canonical s) (k : Fin 4608) (l : Loc) (n : Nat) (o : FrameOp) (g : Fin 4) :
    Canonical (s.enframe k l n o g) := by
  unfold State.enframe
  split <;> exact h

theorem canonical_bump {s : State} (h : Canonical s) : Canonical s.bump := h

theorem canonical_sendFrame {s : State} (h : Canonical s) (c : CtxId) (a : W64) : Canonical (s.sendFrame c a) := by
  unfold State.sendFrame
  dsimp only
  split
  · exact canonical_bump (canonical_enframe (canonical_modCtx h ..) ..)
  · exact h

theorem canonical_waitOn {s : State} (h : Canonical s) (c : CtxId) (w : Wait) : Canonical (s.waitOn c w) := h

theorem canonical_stall {s : State} (h : Canonical s) (c : CtxId) (w : Wait) : Canonical (s.stall c w) := by
  cases w with
  | frame a => exact canonical_waitOn (canonical_sendFrame h c a) ..
  | walk d r => exact canonical_waitOn (canonical_joinWalk h c d) ..
  | queueRoom e => exact canonical_waitOn (canonical_modCore h ..) ..
  | _ => exact h

theorem canonical_costs {s : State} (h : Canonical s) (n : Nat) : Canonical (s.costs n) := h

theorem canonical_trapNext {s : State} (h : Canonical s) (c : CtxId) (e : TrapInfo) : Canonical (s.trapNext c e) := by
  have hu := keeps_unwind h c
  unfold State.trapNext
  dsimp only
  split
  · exact canonical_takeTrap h ..
  · split
    · exact canonical_takeTrap h ..
    · next t q =>
      have ht : Canonical t := by rw [q] at hu; exact hu
      split
      · exact canonical_takeTrap ht ..
      · exact ht
    · next t w q =>
      have ht : Canonical t := by rw [q] at hu; exact hu
      exact canonical_modCtx (canonical_waitOn ht ..) ..
    · next t d q =>
      have ht : Canonical t := by rw [q] at hu; exact hu
      exact canonical_modCtx (canonical_spillTrap ht ..) ..

theorem canonical_finish {s t : State} (hs : Canonical s) (ht : Canonical t) (n : Nat) (f : Machine.Flow) :
    Canonical (finish n s t f) := by
  cases f with
  | next =>
    simp only [finish]
    split
    · exact ht
    · exact canonical_takeTrap hs ..
  | goto p =>
    simp only [finish]
    exact canonical_costs (canonical_setCtx ht ..) ..
  | done => exact canonical_modCtx ht ..
  | trapAfter e =>
    simp only [finish]
    split
    · exact canonical_takeTrap hs ..
    · exact canonical_trapNext (canonical_setCtx ht ..) ..
  | hold w =>
    simp only [finish]
    exact canonical_stall (canonical_modCtx ht ..) ..
  | park w => exact canonical_modCtx ht ..

/-- An instruction whose check and body keep memory in its canonical form keeps it, whatever becomes of it. -/
theorem canonical_operateUndo {u : Cause → Bool} {i : Instr} {e : AtEnd} {reads names : List RegCode} {pre : M Unit}
    {body : M Machine.Flow} (hp : Keeps pre) (hb : Keeps body) {s t : State} (h : Canonical s)
    (ht : operateUndo u i e reads names pre body s = .next t) : Canonical t := by
  unfold operateUndo at ht
  simp only [Host.Outcome.next.injEq] at ht
  rw [← ht]
  split
  · exact canonical_takeTrap h ..
  · split
    · exact canonical_takeTrap h ..
    · split
      · exact canonical_takeTrap h ..
      · exact canonical_stall h ..
      · next hq =>
        have h1 := hp _ _ _ h hq
        split
        · exact canonical_takeTrap h1 ..
        · split
          · exact canonical_takeTrap h1 ..
          · exact canonical_stall h1 ..
          · next hr =>
            have h2 := canonical_receive h1 hr
            split
            · split
              · exact canonical_takeTrap h1 ..
              · exact canonical_takeTrap h2 ..
            · exact canonical_stall h1 ..
            · next hf => exact canonical_finish h2 (hb _ _ _ h2 hf) ..

theorem canonical_operate {i : Instr} {e : AtEnd} {reads names : List RegCode} {pre : M Unit} {body : M Machine.Flow}
    (hp : Keeps pre) (hb : Keeps body) {s t : State} (h : Canonical s) (ht : operate i e reads names pre body s = .next t) :
    Canonical t := canonical_operateUndo hp hb h ht

theorem canonical_run {i : Instr} {reads names : List RegCode} {body : M Machine.Flow} (hb : Keeps body) {s t : State}
    (h : Canonical s) (ht : run i reads names body s = .next t) : Canonical t := canonical_operate (keeps_pure _) hb h ht

end Sys2Proof.Laws
end

