-- ==== Sys2Proof/Tests/Slice0.lean ====
section
/-! SUPPORT. Tests/Slice0.lean: the model's own tests: well-formedness, decoding, one step of some instructions, and a
witness for the hypotheses of each statement. Expected values are those of the spec's examples and rules. -/
namespace Sys2Proof.Tests
open Sys2Proof Sys2Proof.Machine Sys2Proof.Safety

set_option Elab.async false

/-! Small states. -/

/-- The machine at reset with a changed context 0. -/
def with0 (f : Ctx → Ctx) : State := State.reset.modCtx ⟨0, 0, 0⟩ f
/-- The first context of the first core, with the whole local store, about to run a word. -/
def ready (w : Nat) : State := State.reset.place 32 w
/-- The same, with a changed context 0. -/
def ready0 (f : Ctx → Ctx) : State := (ready 0).modCtx ⟨0, 0, 0⟩ f
/-- A capability over everything, with every permission, in the domain of `ready`. -/
def wide : Reg := placeCode
/-- The state that a step answers. -/
def after (o : Host.Outcome State Fault Refusal) : State := match o with
  | .next t => t
  | _ => State.reset
/-- A general register of context 0 behind an outcome. -/
def regOf (o : Host.Outcome State Fault Refusal) (r : GReg) : Nat := (((after o).ctx ⟨0, 0, 0⟩).reg r).lo.toNat

/-- A frame of the domain stack, of a call out of the code at 0. -/
def frame0 : Bight :=
  { ret := placeCode, regs := savedRegs.map (fun _ => Reg.zero), gate := Reg.zero, tvec := Reg.zero, caller := 1, callee := 1,
    foreign := false, nest := true, deadline := BitVec.allOnes 64, frm := 0, fflags := 0, dscope := 4, htrap := false, inh := false,
    suph := false, srseed := 0, srseq := 0, loopc := 0, loopb := 0, loope := 0, serial := 0 }

/-- The state that an operation leaves. -/
def okS {α : Type} (m : Except Stop (α × State)) : State := match m with
  | .ok (_, t) => t
  | .error _ => State.reset
/-- Its value. -/
def okV {α : Type} (d : α) (m : Except Stop (α × State)) : α := match m with
  | .ok (a, _) => a
  | .error _ => d
/-- Whether it has succeeded. -/
def isOk {α β : Type} (m : Except α β) : Bool := match m with
  | .ok _ => true
  | .error _ => false
theorem ok_of {α : Type} (d : α) {m : Except Stop (α × State)} (h : isOk m = true) : m = .ok (okV d m, okS m) := by
  cases m with
  | ok p => rfl
  | error e => simp [isOk] at h
theorem ok_unit {m : Except Stop (Unit × State)} (h : isOk m = true) : m = .ok ((), okS m) := ok_of () h
theorem goes_on {i : Instr} {u : State} (h : isOk ((here u).settled.advance i.size) = true) : ∃ v, GoesOn i u v := by
  unfold GoesOn
  cases hx : (here u).settled.advance i.size with
  | ok x => exact ⟨_, x, hx, rfl⟩
  | error e => simp [isOk, hx] at h
/-- A location, where an access reaches one. -/
def spotOf (r : Reach) : Spot := match r with
  | .ok p => p
  | _ => ⟨.hbm 0, false, none, none, false⟩
/-- The page at DVA 2^32 is mapped for partition 0, with an entry that the core holds (R74, R78). -/
def paged (pte : W64) (s : State) : State := { s with tlb := [⟨.micro 0, 0, 0x100000000, 4096, pte, 0x2000⟩] }

/-! Witnesses: for each statement with hypotheses, values that meet all of them. -/

/-- The hypotheses of `DataCompletes`. -/
def DataMeets (form : Instr → Option (List RegCode × RegCode × (List W64 → W64))) (i : Instr) (s : State) : Prop :=
  ∃ (rs : List RegCode) (d : RegCode) (f : List W64 → W64) (s1 t u v : State) (vs : List Reg),
    form i = some (rs, d, f) ∧ Starts i .closes rs (d :: rs) s s1 ∧ takeAll rs s1 = .ok (vs, t) ∧
    write (Instr.word i) d (Reg.data (f (lows vs))) t = .ok ((), u) ∧ GoesOn i u v

theorem witness_ScalarResult :
    DataMeets aluForm (.add (.g 5) (.g 6) (.g 7)) State.reset ∧ DataMeets aluForm (.clz (.g 5) (.g 6)) State.reset ∧
    DataMeets aluForm (.sel (.g 5) (.g 6) (.g 7)) State.reset ∧ DataMeets immForm (.addi (.g 0) (.g 6) 1) State.reset ∧
    DataMeets immForm (.movi (.g 5) 0x4F) State.reset ∧ DataMeets shortForm (.addC (.g 5) 6) State.reset := by
  refine ⟨?_, ?_, ?_, ?_, ?_, ?_⟩ <;>
    exact ⟨_, _, _, _, _, _, _, _, rfl, ⟨Or.inl rfl, rfl, rfl, rfl⟩, rfl, rfl, _, rfl, rfl⟩

theorem witness_DivisionIdentity : ∃ x y : W64, y ≠ 0 ∧ ¬ (x.toInt = -2 ^ 63 ∧ y.toInt = -1) := ⟨7, 2, by decide, by decide⟩

/-- A queue of depth 2 that holds one word, and a bound port with a word in its latch. -/
def queued : State := with0 (fun x => { x with q := [(1, ⟨2, [5]⟩)], ports := [(2, { x.port 2 with latch := [9] })] })
/-- A queue of depth 1 that is full. -/
def fullQueue : State := with0 (fun x => { x with q := [(1, ⟨1, [5]⟩)] })

theorem witness_OperandAccess :
    ((here queued).queue 1).items = 5 :: [] ∧ ((here queued).queue 1).items.length < ((here queued).queue 1).depth ∧
    ((here queued).port 2).latch = 9 :: [] := ⟨rfl, by decide, rfl⟩

theorem witness_OperandTraps :
    ((here queued).depth = 0 ∧ (here queued).loopTrap (Instr.word (.add (.g 1) (.q 1) (.q 1))) .closes = none ∧
      (here queued).shortQueue [.q 1, .q 1] = some 1) ∧
    ((here fullQueue).queue 1).depth ≤ ((here fullQueue).queue 1).items.length ∧
    (∃ (i : Instr) (rs : List RegCode) (d : RegCode) (f : List W64 → W64) (s : State),
      (aluForm i = some (rs, d, f) ∨ immForm i = some (rs, d, f)) ∧ 0 < (here s).depth ∧ (d :: rs).any RegCode.special = true) :=
  ⟨⟨rfl, rfl, rfl⟩, by decide, .add (.q 1) (.g 2) (.g 3), _, _, _, with0 (fun x => { x with bights := [frame0] }), Or.inl rfl,
    by decide, rfl⟩

/-- The hypotheses of a floating-point instruction, up to its flags. -/
def FloatMeets (i : Instr) (s : State) (traps : Bool) : Prop :=
  ∃ (rs : List RegCode) (d : RegCode) (eff : Nat → Nat) (f : Nat → Nat → List W64 → W64 × BitVec 5) (s1 t : State) (vs : List Reg),
    fpForm i = some (rs, d, eff, f) ∧ Starts i .closes rs (d :: rs) s s1 ∧ takeAll rs s1 = .ok (vs, t) ∧
    decide ((f (eff (here t).mode) (here t).draw (lows vs)).2 &&& (here t).frm.extractLsb' 6 5 = 0) = !traps ∧
    (traps = false → ∃ u v, write (Instr.word i) d (Reg.data (f (eff (here t).mode) (here t).draw (lows vs)).1)
      (Raised t (eff (here t).mode) (f (eff (here t).mode) (here t).draw (lows vs)).2) = .ok ((), u) ∧ GoesOn i u v)

theorem witness_FloatForms :
    FloatMeets (.fadd .d (.g 5) (.g 6) (.g 7)) State.reset false ∧
    FloatMeets (.fdiv .d (.g 5) (.g 0) (.g 0)) (with0 (fun x => { x with frm := 0x400 })) true :=
  ⟨⟨_, _, _, _, _, _, _, rfl, ⟨Or.inl rfl, rfl, rfl, rfl⟩, rfl, by decide +kernel, fun _ => ⟨_, _, rfl, _, rfl, rfl⟩⟩,
    ⟨_, _, _, _, _, _, _, rfl, ⟨Or.inl rfl, rfl, rfl, rfl⟩, rfl, by decide +kernel, fun h => absurd h (by decide)⟩⟩

/-- Context 0 with a capability in g6 and 16 in g7. -/
def capped : State := with0 (fun x => (x.setReg 6 wide).setReg 7 (Reg.data 16))

theorem witness_CapabilityForms :
    (∃ (i : Instr) (rs : List RegCode) (d : RegCode) (f : Ctx → List Reg → Option Reg) (s1 t u v : State) (vs : List Reg) (r : Reg),
      capForm i = some (rs, d, f) ∧ Starts i .closes rs (d :: rs) capped s1 ∧ takeAll rs s1 = .ok (vs, t) ∧ f (here t) vs = some r ∧
      write (Instr.word i) d r t = .ok ((), u) ∧ GoesOn i u v) ∧
    (∃ (i : Instr) (rs : List RegCode) (d : RegCode) (f : Ctx → List Reg → Option Reg) (s1 t : State) (vs : List Reg),
      capForm i = some (rs, d, f) ∧ Starts i .closes rs (d :: rs) capped s1 ∧ takeAll rs s1 = .ok (vs, t) ∧ f (here t) vs = none) ∧
    (∃ (s s1 t : State) (r v : Reg),
      Starts (.cinc (.g 5) (.g 6) (.g 7)) .closes [.g 6, .g 7] [.g 5, .g 6, .g 7] s s1 ∧
      takeAll [.g 6, .g 7] s1 = .ok ([r, v], t) ∧ r.tag = 3) :=
  ⟨⟨.cinc (.g 5) (.g 6) (.g 7), _, _, _, _, _, _, _, _, _, rfl, ⟨Or.inl rfl, rfl, rfl, rfl⟩, rfl, rfl, rfl, _, rfl, rfl⟩,
    ⟨.cgetb (.g 5) (.g 7), _, _, _, _, _, _, rfl, ⟨Or.inl rfl, rfl, rfl, rfl⟩, rfl, rfl⟩,
    ⟨with0 (fun x => x.setReg 6 (withOtype wide 3 3)), _, _, _, _, ⟨Or.inl rfl, rfl, rfl, rfl⟩, rfl, by decide +kernel⟩⟩

theorem witness_CapabilityMonotonic :
    ∃ (i : Instr) (rs : List RegCode) (d : RegCode) (f : Ctx → List Reg → Option Reg) (x : Ctx) (vs : List Reg) (r : Reg),
      capForm i = some (rs, d, f) ∧ f x vs = some r ∧ (r.tag = 1 ∨ r.tag = 3) :=
  ⟨.candp (.g 5) (.g 6) (.g 7), _, _, _, Ctx.reset, [wide, Reg.data 16], withPerms wide 16, rfl, by decide +kernel, Or.inl (by decide +kernel)⟩

theorem witness_BoundsExact : ∃ (base top : Nat) (e : Nat × Nat × Nat) (n : W64),
    base ≤ top ∧ base < 2 ^ 64 ∧ top ≤ 2 ^ 64 ∧ encodeBounds base top = some e ∧
    (e.1 = 63 ∨ (n.toNat + 2 ^ 64 - base + 4096 * 2 ^ e.1) % 2 ^ 64 < 32768 * 2 ^ e.1) :=
  ⟨0, 2 ^ 64, (63, 0, 0), 0, by decide, by decide, by decide, by decide +kernel, Or.inl rfl⟩

/-- Context 0 with the cursor of a capability over everything in g6, and 9 in g7. -/
def near (n : W64) : State := ready0 (fun x => (x.setReg 6 (wide.withCursor n)).setReg 7 (Reg.data 9))
/-- Where an access of 8 bytes through g6 goes. -/
def spot (s : State) (a : Ask) : Reach := s.reach s.cur ((here s).reg 6) a ((here s).reg 6).lo

theorem witness_AccessChecks :
    (∃ cap : Reg, (cap.tag = 1 ∨ cap.tag = 3) ∧ cap.otype = 0 ∧ checkCap (fun _ => true) cap 0xFFF 0 16 = none) ∧
    firstFail ((near 0).live 0) false (Reg.data 5) 5 8 [permL] = some .capTag ∧
    (firstFail ((near 0).live 0) false wide 4 8 [permL] = none ∧ (4 : W64).toNat % 8 ≠ 0) ∧
    (firstFail ((near 0).live 0) false wide 8 8 [permL] = none ∧ (8 : W64).toNat < ((near 0).slot ⟨0, 0⟩).bind.size ∧
      8 + 8 ≤ ((near 0).slot ⟨0, 0⟩).bind.size ∧ (near 0).granuleBad ⟨0, 0⟩ 8 8 = false) ∧
    (∃ a : Ask, firstFail ((near 0).live 0) false wide (BitVec.ofNat 64 (((near 0).slot ⟨0, 0⟩).bind.size - 16)) a.size a.perms = none ∧
      ((near 0).slot ⟨0, 0⟩).bind.size < ((near 0).slot ⟨0, 0⟩).bind.size - 16 + a.size ∧
      (((near 0).slot ⟨0, 0⟩).bind.size - 16) % a.align = 0) :=
  ⟨⟨wide, Or.inl (by decide +kernel), by decide +kernel, by decide +kernel⟩, by decide +kernel, by decide +kernel,
    by decide +kernel, ⟨⟨[permL], .read, false, 32, 16, false⟩, by decide +kernel, by decide +kernel, by decide +kernel⟩⟩

theorem witness_MemoryLaws :
    (∃ mode l l' w w' : Nat, mode ≤ 2 ∧ l < 2 ^ mode ∧ l' < 2 ^ mode ∧ w < 37 * slotRows mode ∧ w' < 37 * slotRows mode ∧
      bankOf w = bankOf w' ∧ rowOf l mode w = rowOf l' mode w') ∧
    Canonical (near 0) ∧ (Loc.hbm 64).place 0 ≠ (Loc.hbm 64).place 1 :=
  ⟨⟨2, 3, 3, 36, 36, by decide, by decide, by decide, by decide, by decide, rfl, rfl⟩, ⟨by decide +kernel, by decide +kernel⟩,
    by decide⟩

/-- The hypotheses of a load (LoadResult). -/
def LoadMeets (i : Instr) (s : State) : Prop :=
  ∃ (n : Nat) (o : BitVec 2) (d : RegCode) (a : GReg) (off : BitVec 8) (conv : W128 → Bool → Reg → Reg) (s' u v : State) (p : Spot),
    loadForm i = some (n, o, d, a, off, conv) ∧ Starts i .closes [] [d] s s ∧ (here s).remote = none ∧
    s.reach s.cur ((here s).reg a) (loadAsk n) (((here s).reg a).lo + off.signExtend 64 * BitVec.ofNat 64 n) = .ok p ∧ p.own = true ∧
    noteLoad p.loc n (BitVec.ofNat 128 (s.readNat p.loc n)) s = .ok ((), s') ∧
    write (Instr.word i) d
      (conv (BitVec.ofNat 128 (s.readNat p.loc n)) (p.tags && s.tagAt (p.loc.tagKey 0)) ((here s).reg a)) s' = .ok ((), u) ∧
    GoesOn i u v

theorem witness_LoadResult : LoadMeets (.ld .b 0 (.g 5) 6 0) (near 0x1000) ∧ LoadMeets (.ldc 0 (.g 5) 6 1) (near 0x1000) ∧
    LoadMeets (.ldDC (.g 5) 6) (near 0x1000) := by
  refine ⟨?_, ?_, ?_⟩
  · exact ⟨1, _, _, _, _, _, _, _, _, ⟨.localStore 0 0 0 0x1000, true, none, none, true⟩, rfl, ⟨Or.inl rfl, rfl, rfl, rfl⟩, rfl,
      by decide +kernel, rfl, rfl, rfl, _, rfl, rfl⟩
  · exact ⟨16, _, _, _, _, _, _, _, _, ⟨.localStore 0 0 0 0x1010, true, none, none, true⟩, rfl, ⟨Or.inl rfl, rfl, rfl, rfl⟩, rfl,
      by decide +kernel, rfl, rfl, rfl, _, rfl, rfl⟩
  · exact ⟨8, _, _, _, _, _, _, _, _, ⟨.localStore 0 0 0 0x1000, true, none, none, true⟩, rfl, ⟨Or.inl rfl, rfl, rfl, rfl⟩, rfl,
      by decide +kernel, rfl, rfl, rfl, _, rfl, rfl⟩

/-- No order to wait for. -/
theorem ordered_none (s : State) : Ordered s 0 := fun sc h => absurd (show (none : Option Scope) = some sc from h) (by simp)

/-- The hypotheses of a store (StoreResult). -/
def StoreMeets (i : Instr) (s : State) : Prop :=
  ∃ (n : Nat) (o : BitVec 2) (r : RegCode) (a : GReg) (off : BitVec 8) (tagged : Bool) (s1 t u : State) (p : Spot) (q : Reg),
    storeForm i = some (n, o, r, a, off, tagged) ∧ Starts i .closes [r] [r] s s1 ∧
    s.reach s.cur ((here s).reg a) (storeAsk n) (((here s).reg a).lo + off.signExtend 64 * BitVec.ofNat 64 n) = .ok p ∧
    s1.reach s1.cur ((here s1).reg a) (storeAsk n) (((here s1).reg a).lo + off.signExtend 64 * BitVec.ofNat 64 n) = .ok p ∧
    p.own = true ∧ read r s1 = .ok (q, t) ∧ (tagged = true → stcTrap ((here s1).reg a) q p s1.cur.sl = none) ∧ Ordered t o ∧
    (here s1).ordScope o = (here t).ordScope o ∧
    GoesOn i (t.keepStore (if tagged = true ∧ q.tag ≠ 0 then t.pokeReg p.loc q true
      else t.poke p.loc (bytesLE n (if tagged = true then q.bits.toNat else q.lo.toNat))) p.loc n) u

/-- Context 0 with g6 as a place to store to and g7 as the register to store. -/
def storing (a v : Reg) : State := ready0 (fun x => (x.setReg 6 a).setReg 7 v)

/-- The hypotheses of a refusal of STC. -/
def StcMeets (e : Cause) (s : State) : Prop :=
  ∃ (s1 t : State) (p : Spot) (q : Reg), Starts (.stc 0 (.g 7) 6 0) .closes [.g 7] [.g 7] s s1 ∧
    s.reach s.cur ((here s).reg 6) (storeAsk 16) (((here s).reg 6).lo + (0 : BitVec 8).signExtend 64 * 16) = .ok p ∧
    s1.reach s1.cur ((here s1).reg 6) (storeAsk 16) (((here s1).reg 6).lo + (0 : BitVec 8).signExtend 64 * 16) = .ok p ∧
    read (.g 7) s1 = .ok (q, t) ∧
    (e = .capTag ∧ q.tag = 2 ∨ e = .capPerm ∧ (q.tag = 1 ∨ q.tag = 3) ∧
      (lacks ((here s1).reg 6) permSC = true ∨ p.tags = false ∨ p.shared s1.cur.sl = true ∧ lacks q permG = true))

/-- A byte of the local store that the contexts of `ready` see, through the private alias and through the global one. -/
def own (n : Nat) : Spot := ⟨.localStore 0 0 0 n, true, none, none, true⟩
def global (n : Nat) : Spot := ⟨.localStore 0 0 0 n, true, none, some ⟨0, 0⟩, false⟩

theorem witness_StoreForms :
    StoreMeets (.st .b 0 (.g 7) 6 1) (near 0x1000) ∧ StoreMeets (.stc 0 (.g 7) 6 0) (near 0x1000) ∧
    StoreMeets (.stc 0 (.g 6) 6 0) (near 0x1000) ∧ StoreMeets (.stDC (.g 7) 6) (near 0x1000) ∧
    StcMeets .capTag (storing (wide.withCursor 0x1000) ⟨0, 2⟩) ∧
    StcMeets .capPerm (storing (withPerms (wide.withCursor 0x1000) (permL ||| permS)) wide) ∧
    StcMeets .capPerm (paged 0x1000F (storing (wide.withCursor 0x100000000) wide)) ∧
    StcMeets .capPerm (paged 0x1002F (storing (wide.withCursor 0x100000000) (withPerms wide permL))) := by
  refine ⟨?_, ?_, ?_, ?_, ?_, ?_, ?_, ?_⟩
  · exact ⟨1, _, _, _, _, _, _, _, _, own 0x1001, _, rfl, ⟨Or.inl rfl, rfl, rfl, rfl⟩, by decide +kernel, by decide +kernel, rfl, rfl,
      fun h => absurd h (by decide), ordered_none _, rfl, _, rfl, rfl⟩
  · exact ⟨16, _, _, _, _, _, _, _, _, own 0x1000, _, rfl, ⟨Or.inl rfl, rfl, rfl, rfl⟩, by decide +kernel, by decide +kernel, rfl, rfl,
      fun _ => by decide +kernel, ordered_none _, rfl, _, rfl, rfl⟩
  · exact ⟨16, _, _, _, _, _, _, _, _, own 0x1000, _, rfl, ⟨Or.inl rfl, rfl, rfl, rfl⟩, by decide +kernel, by decide +kernel, rfl, rfl,
      fun _ => by decide +kernel, ordered_none _, rfl, _, rfl, rfl⟩
  · exact ⟨8, _, _, _, _, _, _, _, _, own 0x1000, _, rfl, ⟨Or.inl rfl, rfl, rfl, rfl⟩, by decide +kernel, by decide +kernel, rfl, rfl,
      fun h => absurd h (by decide), ordered_none _, rfl, _, rfl, rfl⟩
  · exact ⟨_, _, own 0x1000, _, ⟨Or.inl rfl, rfl, rfl, rfl⟩, by decide +kernel, by decide +kernel, rfl, Or.inl ⟨rfl, by decide +kernel⟩⟩
  · exact ⟨_, _, own 0x1000, _, ⟨Or.inl rfl, rfl, rfl, rfl⟩, by decide +kernel, by decide +kernel, rfl,
      Or.inr ⟨rfl, Or.inl (by decide +kernel), Or.inl (by decide +kernel)⟩⟩
  · exact ⟨_, _, ⟨.hbm 0x10000, false, some ⟨0, .hbm 0x10000, ⟨0, 0⟩, false, 0x1000F, 0x2000, 0x100000000, 4096⟩, none, false⟩, _,
      ⟨Or.inl rfl, rfl, rfl, rfl⟩, by decide +kernel, by decide +kernel, rfl,
      Or.inr ⟨rfl, Or.inl (by decide +kernel), Or.inr (Or.inl rfl)⟩⟩
  · exact ⟨_, _, ⟨.hbm 0x10000, true, some ⟨0, .hbm 0x10000, ⟨0, 0⟩, true, 0x1002F, 0x2000, 0x100000000, 4096⟩, none, false⟩, _,
      ⟨Or.inl rfl, rfl, rfl, rfl⟩, by decide +kernel, by decide +kernel, rfl,
      Or.inr ⟨rfl, Or.inl (by decide +kernel), Or.inr (Or.inr ⟨rfl, by decide +kernel⟩)⟩⟩

/-- The hypotheses of an AMO or CAS (AtomicResult). -/
def AtomicMeets (i : Instr) (s : State) : Prop :=
  ∃ (rs : List RegCode) (w8 : Bool) (o : BitVec 2) (d : RegCode) (a : GReg) (f : Ctx → List W64 → RemoteOp)
    (s1 t m u v : State) (vs : List Reg) (p : Spot) (old : Nat) (fl : BitVec 5),
    atomicForm i = some (rs, w8, o, d, a, f) ∧ Starts i .closes rs (d :: rs) s s1 ∧ takeAll rs s1 = .ok (vs, t) ∧
    (here t).remote = none ∧ t.reach t.cur ((here t).reg a) (amoAsk (if w8 then 8 else 4)) ((here t).reg a).lo = .ok p ∧
    p.own = true ∧ Ordered t o ∧ t.performAt (f (here t) (lows vs)) p.loc (if w8 then 8 else 4) = .ok (m, old, fl) ∧
    fl &&& (here ((t.keepStore m p.loc (if w8 then 8 else 4)).costs 4)).frm.extractLsb' 6 5 = 0 ∧
    write (Instr.word i) d (Reg.data (oldValue i w8 old))
      (if isFadd i = true then Raised ((t.keepStore m p.loc (if w8 then 8 else 4)).costs 4) (here t).mode fl
        else (t.keepStore m p.loc (if w8 then 8 else 4)).costs 4) = .ok ((), u) ∧ GoesOn i u v

theorem witness_AtomicForms : AtomicMeets (.amoadd true 0 (.g 5) (.g 7) 6) (near 0x1000) ∧
    AtomicMeets (.amofadd false 0 (.g 5) (.g 7) 6) (near 0x1000) ∧ AtomicMeets (.cas false 0 (.g 5) (.g 7) 6) (near 0x1000) := by
  refine ⟨?_, ?_, ?_⟩
  · exact ⟨_, true, _, _, _, _, _, _, _, _, _, _, own 0x1000, _, _, rfl, ⟨Or.inl rfl, rfl, rfl, rfl⟩, rfl, rfl, by decide +kernel, rfl,
      ordered_none _, rfl, by decide +kernel, rfl, _, rfl, rfl⟩
  · exact ⟨_, false, _, _, _, _, _, _, _, _, _, _, own 0x1000, _, _, rfl, ⟨Or.inl rfl, rfl, rfl, rfl⟩, rfl, rfl, by decide +kernel, rfl,
      ordered_none _, rfl, by decide +kernel, rfl, _, rfl, rfl⟩
  · exact ⟨_, false, _, _, _, _, _, _, _, _, _, _, own 0x1000, _, _, rfl, ⟨Or.inl rfl, rfl, rfl, rfl⟩, rfl, rfl, by decide +kernel, rfl,
      ordered_none _, rfl, by decide +kernel, rfl, _, rfl, rfl⟩

/-- The hypotheses of a store that leaves the core. -/
def RemoteStoreMeets (i : Instr) (s : State) (p : Spot) : Prop :=
  ∃ (n : Nat) (o : BitVec 2) (r : RegCode) (a : GReg) (off : BitVec 8) (tagged : Bool) (s1 t : State) (q : Reg) (x : Ctx),
    storeForm i = some (n, o, r, a, off, tagged) ∧ Starts i .closes [r] [r] s s1 ∧
    s.reach s.cur ((here s).reg a) (storeAsk n) (((here s).reg a).lo + off.signExtend 64 * BitVec.ofNat 64 n) = .ok p ∧
    s1.reach s1.cur ((here s1).reg a) (storeAsk n) (((here s1).reg a).lo + off.signExtend 64 * BitVec.ofNat 64 n) = .ok p ∧
    p.own = false ∧ read r s1 = .ok (q, t) ∧ (tagged = true → stcTrap ((here s1).reg a) q p s1.cur.sl = none) ∧ Ordered t o ∧
    (here s1).ordScope o = (here t).ordScope o ∧ (here t).usc < 1024 ∧ (here t).settled.advance i.size = .ok x

/-- The hypotheses of an AMO or CAS that leaves the core. -/
def RemoteAtomicMeets (i : Instr) (s : State) (p : Spot) : Prop :=
  ∃ (rs : List RegCode) (w8 : Bool) (o : BitVec 2) (d : RegCode) (a : GReg) (f : Ctx → List W64 → RemoteOp) (s1 t m : State)
    (vs : List Reg), atomicForm i = some (rs, w8, o, d, a, f) ∧ Starts i .closes rs (d :: rs) s s1 ∧ takeAll rs s1 = .ok (vs, t) ∧
    (here t).remote = none ∧ t.reach t.cur ((here t).reg a) (amoAsk (if w8 then 8 else 4)) ((here t).reg a).lo = .ok p ∧
    p.own = false ∧ Ordered t o ∧ mayWrite (Instr.word i) d t = .ok ((), t) ∧ keepPlace (Instr.word i) d t = .ok ((), m)

/-- The page at 2^32, in HBM, where no leaf is dirty yet. -/
def page32 (tags : Bool) (pte : W64) : Spot :=
  ⟨.hbm 0x10000, tags, some ⟨0, .hbm 0x10000, ⟨0, 0⟩, tags, pte, 0x2000, 0x100000000, 4096⟩, none, false⟩

theorem witness_OffCoreForms :
    (∃ (i : Instr) (n : Nat) (o : BitVec 2) (d : RegCode) (a : GReg) (off : BitVec 8) (conv : W128 → Bool → Reg → Reg)
      (s : State) (p : Spot), loadForm i = some (n, o, d, a, off, conv) ∧ Starts i .closes [] [d] s s ∧ (here s).remote = none ∧
      s.reach s.cur ((here s).reg a) (loadAsk n) (((here s).reg a).lo + off.signExtend 64 * BitVec.ofNat 64 n) = .ok p ∧
      p.own = false ∧ mayWrite (Instr.word i) d s = .ok ((), s)) ∧
    RemoteAtomicMeets (.amoadd true 0 (.g 5) (.g 7) 6) (near 0x0100000000001000) (global 0x1000) ∧
    RemoteAtomicMeets (.cas false 0 (.g 5) (.g 7) 6) (paged 0x1000F (near 0x100000000)) (page32 false 0x1000F) ∧
    RemoteStoreMeets (.st .d 0 (.g 7) 6 0) (near 0x0100000000001000) (global 0x1000) ∧
    RemoteStoreMeets (.stc 0 (.g 7) 6 0) (storing (wide.withCursor 0x0100000000001000) wide) (global 0x1000) ∧
    RemoteStoreMeets (.st .d 0 (.g 7) 6 0) (paged 0x1000F (near 0x100000000)) (page32 false 0x1000F) ∧
    RemoteStoreMeets (.stc 0 (.g 7) 6 0) (paged 0x1002F (storing (wide.withCursor 0x100000000) wide)) (page32 true 0x1002F) := by
  refine ⟨⟨.ld .d 0 (.g 5) 6 0, 8, _, _, _, _, _, near 0x0100000000001000, global 0x1000, rfl, ⟨Or.inl rfl, rfl, rfl, rfl⟩, rfl,
      by decide +kernel, rfl, rfl⟩, ?_, ?_, ?_, ?_, ?_, ?_⟩
  · exact ⟨_, true, _, _, _, _, _, _, _, _, rfl, ⟨Or.inl rfl, rfl, rfl, rfl⟩, rfl, rfl, by decide +kernel, rfl, ordered_none _, rfl, rfl⟩
  · exact ⟨_, false, _, _, _, _, _, _, _, _, rfl, ⟨Or.inl rfl, rfl, rfl, rfl⟩, rfl, rfl, by decide +kernel, rfl, ordered_none _, rfl, rfl⟩
  · exact ⟨8, _, _, _, _, _, _, _, _, _, rfl, ⟨Or.inl rfl, rfl, rfl, rfl⟩, by decide +kernel, by decide +kernel, rfl, rfl,
      fun h => absurd h (by decide), ordered_none _, rfl, by decide +kernel, rfl⟩
  · exact ⟨16, _, _, _, _, _, _, _, _, _, rfl, ⟨Or.inl rfl, rfl, rfl, rfl⟩, by decide +kernel, by decide +kernel, rfl, rfl,
      fun _ => by decide +kernel, ordered_none _, rfl, by decide +kernel, rfl⟩
  · exact ⟨8, _, _, _, _, _, _, _, _, _, rfl, ⟨Or.inl rfl, rfl, rfl, rfl⟩, by decide +kernel, by decide +kernel, rfl, rfl,
      fun h => absurd h (by decide), ordered_none _, rfl, by decide +kernel, rfl⟩
  · exact ⟨16, _, _, _, _, _, _, _, _, _, rfl, ⟨Or.inl rfl, rfl, rfl, rfl⟩, by decide +kernel, by decide +kernel, rfl, rfl,
      fun _ => by decide +kernel, ordered_none _, rfl, by decide +kernel, rfl⟩

/-- Context 0 in code of 16 bytes. -/
def shortCode (s : State) : State := s.modCtx ⟨0, 0, 0⟩ (fun x => { x with pcc := withBounds placeCode (0, 0, 16) })
/-- Context 0 with two data registers, g6 and g7. -/
def twoRegs (a b : W64) : State := ready0 (fun x => (x.setReg 6 (Reg.data a)).setReg 7 (Reg.data b))

theorem witness_BranchResult :
    (∃ (i : Instr) (rs : List RegCode) (test : List W64 → Bool) (off : W64) (s s1 t : State) (vs : List Reg),
      branchForm i = some (rs, test, off) ∧ Starts i .transfer rs rs s s1 ∧ takeAll rs s1 = .ok (vs, t) ∧
      test (lows vs) = true ∧ representable (here t).pcc ((here t).pc + off) = true) ∧
    (∃ (i : Instr) (rs : List RegCode) (test : List W64 → Bool) (off : W64) (s s1 t : State) (vs : List Reg),
      branchForm i = some (rs, test, off) ∧ Starts i .transfer rs rs s s1 ∧ takeAll rs s1 = .ok (vs, t) ∧
      test (lows vs) = true ∧ representable (here t).pcc ((here t).pc + off) = false) ∧
    (∃ (i : Instr) (rs : List RegCode) (test : List W64 → Bool) (off : W64) (s s1 t : State) (vs : List Reg) (x : Ctx),
      branchForm i = some (rs, test, off) ∧ Starts i .transfer rs rs s s1 ∧ takeAll rs s1 = .ok (vs, t) ∧
      test (lows vs) = false ∧ (here t).settled.advance i.size = .ok x) :=
  ⟨⟨.blt (.g 6) (.g 7) 8, _, _, _, twoRegs 1 2, _, _, _, rfl, ⟨Or.inl rfl, rfl, rfl, rfl⟩, rfl, by decide +kernel,
      by decide +kernel⟩,
    ⟨.bne (.g 6) (.g 7) (-3000), _, _, _, shortCode (twoRegs 1 2), _, _, _, rfl,
      ⟨Or.inl rfl, rfl, rfl, rfl⟩, rfl, by decide +kernel, by decide +kernel⟩,
    ⟨.beq (.g 6) (.g 7) 8, _, _, _, twoRegs 1 2, _, _, _, _, rfl, ⟨Or.inl rfl, rfl, rfl, rfl⟩, rfl, by decide +kernel, rfl⟩⟩

/-- The hypotheses of a trap of JALR g5, g6, 0. -/
def JalrMeets (e : Cause) (s : State) : Prop :=
  ∃ (s1 t : State) (r : Reg), Starts (.jalr (.g 5) (.g 6) 0) .transfer [.g 6] [.g 5, .g 6] s s1 ∧ read (.g 6) s1 = .ok (r, t) ∧
    JumpCause r (here t).pcc (r.lo + (0 : BitVec 13).signExtend 64) e
/-- The hypotheses of a trap of RET. -/
def RetMeets (e : Cause) (s : State) : Prop :=
  ∃ s1 : State, Starts .ret .transfer [] [] s s1 ∧ JumpCause ((here s).reg 1) (here s).pcc ((here s).reg 1).lo e
/-- Context 0 with a register in g1. -/
def one (r : Reg) : State := ready0 (fun x => x.setReg 1 r)
/-- Context 0 with a register in g6. -/
def six (r : Reg) : State := ready0 (fun x => x.setReg 6 r)

theorem witness_JumpForms :
    (∃ (s s1 w : State), Starts (.jal (.g 1) 4) .transfer [] [.g 1] s s1 ∧ representable (here s).pcc ((here s).pc + 8) = true ∧
      write (Instr.word (.jal (.g 1) 4)) (.g 1) ((here s).pcc.withCursor ((here s).pc + 4)) s = .ok ((), w)) ∧
    (∃ (s s1 t w : State) (r : Reg), Starts (.jalr (.g 1) (.g 6) 4) .transfer [.g 6] [.g 1, .g 6] s s1 ∧ read (.g 6) s1 = .ok (r, t) ∧
      (r.tag = 1 ∧ lacks r permX = false) ∧ representable r (r.lo + 4) = true ∧ (r.lo + 4).toNat % 2 = 0 ∧
      write (Instr.word (.jalr (.g 1) (.g 6) 4)) (.g 1) ((here t).pcc.withCursor ((here t).pc + 4)) t = .ok ((), w)) ∧
    (∃ s s1 : State, Starts .ret .transfer [] [] s s1 ∧ ((here s).reg 1).tag = 0 ∧
      representable (here s).pcc ((here s).reg 1).lo = true ∧ ((here s).reg 1).lo.toNat % 2 = 0) ∧
    (∃ s s1 : State, Starts (.jal (.g 1) (-200000)) .transfer [] [.g 1] s s1 ∧
      representable (here s).pcc ((here s).pc + 2 * (-200000 : BitVec 19).signExtend 64) = false) ∧
    JalrMeets .capTag (six ⟨0, 2⟩) ∧ JalrMeets .capSealed (six (withOtype wide 3 3)) ∧ JalrMeets .capPerm (six (withPerms wide permL)) ∧
    JalrMeets .capBounds (shortCode (six (Reg.data 0x100000))) ∧ JalrMeets .align (six (wide.withCursor 7)) ∧
    RetMeets .capTag (one ⟨0, 2⟩) ∧ RetMeets .capSealed (one (withOtype wide 3 3)) ∧ RetMeets .capPerm (one (withPerms wide permL)) ∧
    RetMeets .capBounds (shortCode (one (Reg.data 0x100000))) ∧ RetMeets .align (one (Reg.data 7)) := by
  unfold JalrMeets RetMeets JumpCause
  refine ⟨⟨ready 0, _, _, ⟨Or.inl rfl, rfl, rfl, rfl⟩, by decide +kernel, rfl⟩,
    ⟨six wide, _, _, _, _, ⟨Or.inl rfl, rfl, rfl, rfl⟩, rfl, by decide +kernel, by decide +kernel, by decide +kernel, rfl⟩,
    ⟨ready 0, _, ⟨Or.inl rfl, rfl, rfl, rfl⟩, by decide +kernel, by decide +kernel, by decide +kernel⟩,
    ⟨shortCode (ready 0), _, ⟨Or.inl rfl, rfl, rfl, rfl⟩, by decide +kernel⟩, ?_, ?_, ?_, ?_, ?_, ?_, ?_, ?_, ?_, ?_⟩
  iterate 5 exact ⟨_, _, _, ⟨Or.inl rfl, rfl, rfl, rfl⟩, rfl, by decide +kernel⟩
  all_goals exact ⟨_, ⟨Or.inl rfl, rfl, rfl, rfl⟩, by decide +kernel⟩

/-- A loop under way. -/
def looping (n : Nat) : State := (twoRegs 3 0).modCtx ⟨0, 0, 0⟩ (fun x => { x with loopc := BitVec.ofNat 64 n, loopb := 4, loope := 8 })

theorem witness_LoopForms :
    (∃ (a : RegCode) (half : BitVec 11) (s s1 t : State) (n : W64), Starts (.loop a half) .closes [a] [a] s s1 ∧
      readData a s1 = .ok (n, t) ∧ (here t).loopc ≠ 0) ∧
    (∃ (a : RegCode) (half : BitVec 11) (s s1 t : State) (n : W64), Starts (.loop a half) .closes [a] [a] s s1 ∧
      readData a s1 = .ok (n, t) ∧ (here t).loopc = 0 ∧ n ≠ 0) ∧
    (∃ (a : RegCode) (half : BitVec 11) (s s1 t : State) (n : W64) (h : Nat), Starts (.loop a half) .closes [a] [a] s s1 ∧
      readData a s1 = .ok (n, t) ∧ (here t).loopc = 0 ∧ n = 0 ∧ t.fetchHalf t.cur ((here t).pc + 2 * half.setWidth 64) = .ok h) ∧
    (∃ (a : RegCode) (s s1 t : State) (h : Nat) (y : Ctx), Starts (.rep a 4 1) .transfer [a] [a] s s1 ∧
      readData a s1 = .ok (0, t) ∧ t.fetchHalf t.cur ((here t).pc + 4) = .ok h ∧
      (here t).closeLoop ((here t).pc + 4) ((here t).pc + 4 + if h % 2 = 0 then 2 else 4) = .ok y) ∧
    (∃ (a : RegCode) (s s1 t : State) (n : W64) (h g : Nat), Starts (.rep a 4 1) .transfer [a] [a] s s1 ∧
      readData a s1 = .ok (n, t) ∧ t.fetchHalf t.cur ((here t).pc + 4) = .ok h ∧ n ≠ 0 ∧
      (h % 2 = 1 → t.fetchHalf t.cur ((here t).pc + 4 + 2) = .ok g) ∧
      repeatable (h + (if h % 2 = 0 then 0 else g) * 2 ^ 16) = true ∧
      maskOk (h + (if h % 2 = 0 then 0 else g) * 2 ^ 16) 4 = true ∧ n.toNat ≤ 65535 ∧
      (∀ f ∈ maskFields (h + (if h % 2 = 0 then 0 else g) * 2 ^ 16) 4,
        fld (h + (if h % 2 = 0 then 0 else g) * 2 ^ 16) f.1 f.2 ≤ 31 ∧
        0 ≤ (fld (h + (if h % 2 = 0 then 0 else g) * 2 ^ 16) f.1 f.2 : Int) + (n.toNat - 1 : Int) * (1 : BitVec 13).toInt ∧
        (fld (h + (if h % 2 = 0 then 0 else g) * 2 ^ 16) f.1 f.2 : Int) + (n.toNat - 1 : Int) * (1 : BitVec 13).toInt ≤ 31)) ∧
    (∃ (x y z u v : Ctx), 1 < x.repc.toNat ∧ (y.repc = 0 ∧ (y.loopc = 0 ∨ y.pc ≠ y.loope)) ∧
      (z.repc = 0 ∧ z.loopc = 1 ∧ z.pc = z.loope) ∧
      (u.repc = 0 ∧ 1 < u.loopc.toNat ∧ u.pc = u.loope ∧ u.loopb.toNat % 2 = 0 ∧ representable u.pcc u.loopb = true) ∧
      (v.repc = 1 ∧ (v.loopc = 0 ∨ v.pc + 4 ≠ v.loope))) := by
  refine ⟨⟨.g 6, 4, looping 2, _, _, _, ⟨Or.inl rfl, rfl, rfl, rfl⟩, rfl, by decide +kernel⟩,
    ⟨.g 6, 4, looping 0, _, _, _, ⟨Or.inl rfl, rfl, rfl, rfl⟩, rfl, by decide +kernel⟩,
    ⟨.g 7, 4, looping 0, _, _, _, 0, ⟨Or.inl rfl, rfl, rfl, rfl⟩, rfl, by decide +kernel, by decide +kernel, by decide +kernel⟩,
    ⟨.g 7, looping 0, _, _, 0, _, ⟨Or.inl rfl, rfl, rfl, rfl⟩, rfl, by decide +kernel, rfl⟩,
    ⟨.g 6, (looping 0).poke (.localStore 0 0 0 4) [0x81, 0xC2, 0x38, 0x00], _, _, _, 0xC281, 0x38,
      ⟨Or.inl rfl, rfl, rfl, rfl⟩, rfl, by decide +kernel, by decide +kernel, fun _ => by decide +kernel, by decide +kernel,
      by decide +kernel, by decide +kernel, by decide +kernel⟩,
    ⟨{ Ctx.reset with repc := 2 }, Ctx.reset, { Ctx.reset with loopc := 1 }, here (ready 0) |> (fun x => { x with loopc := 2 }),
      { Ctx.reset with repc := 1 }, by decide +kernel⟩⟩

/-- Ring 0 of context 0, with 8 entries, of which some are taken, and g6 and g7. -/
def ringed (tail : BitVec 32) (a b : Reg) : State :=
  ready0 (fun x => ((x.setRing 0 ⟨true, 0, tail, 3, 0x100, 0, 0, 0, 0⟩).setReg 6 a).setReg 7 b)

/-- Context 0 with a capability over 64 bytes in g6, for ring 1. -/
def binding : State := ready0 (fun x => (x.setReg 6 (withBounds (wide.withCursor 0x1000) (0, 0x1000, 64))).setReg 7 (Reg.data 1))

theorem witness_RingForms :
    (∃ (d : RegCode) (r : W64) (y : Ctx) (s s1 u v : State), queueForm (.qcfg d 6) s = some (some d, r, y) ∧
      Starts (.qcfg d 6) .closes [] (.q 0 :: [d]) s s1 ∧
      write (Instr.word (.qcfg d 6)) d (Reg.data r) (s.setCtx s.cur y) = .ok ((), u) ∧ GoesOn (.qcfg d 6) u v) ∧
    (∃ (d : RegCode) (r : W64) (y : Ctx) (s s1 u v : State), queueForm (.rbind d 6 7) s = some (some d, r, y) ∧
      Starts (.rbind d 6 7) .closes [] (.q 0 :: [d]) s s1 ∧
      write (Instr.word (.rbind d 6 7)) d (Reg.data r) (s.setCtx s.cur y) = .ok ((), u) ∧ GoesOn (.rbind d 6 7) u v) ∧
    (∃ (r : W64) (y : Ctx) (s s1 v : State), queueForm (.pbind 1 6 7) s = some (none, r, y) ∧
      Starts (.pbind 1 6 7) .closes [] [.q 0] s s1 ∧ GoesOn (.pbind 1 6 7) (s.setCtx s.cur y) v) ∧
    (∃ (d : RegCode) (r : W64) (y : Ctx) (s s1 u v : State), queueForm (.recv d 6 0) s = some (some d, r, y) ∧
      Starts (.recv d 6 0) .closes [] (.q 0 :: [d]) s s1 ∧
      write (Instr.word (.recv d 6 0)) d (Reg.data r) (s.setCtx s.cur y) = .ok ((), u) ∧ GoesOn (.recv d 6 0) u v) ∧
    (∃ (i : Instr) (s : State), ringRefused i (here s) = true ∧ (here s).depth = 0 ∧ (here s).loopTrap (Instr.word i) .closes = none) ∧
    (∃ (d : RegCode) (s : State), (here s).depth = 0 ∧ (here s).loopTrap (Instr.word (.recv d 6 0)) .closes = none ∧
      ((here s).ring 0).bound = true ∧ ((here s).ring 0).tail = ((here s).reg 6).lo.setWidth 32) := by
  refine ⟨⟨.g 5, _, _, twoRegs 0x0204 0, _, _, _, rfl, ⟨Or.inl rfl, rfl, rfl, rfl⟩, rfl, _, rfl, rfl⟩,
    ⟨.g 5, 0, (here binding).setRing 1 ⟨true, 0, 0, 3, 0x1000, 0, 0, 0, 0⟩, binding, _, _, _, by decide +kernel, ⟨Or.inl rfl, rfl, rfl, rfl⟩, rfl, _, rfl, rfl⟩,
    ⟨_, _, ringed 0 (Reg.data 0) (Reg.data 0), _, _, rfl, ⟨Or.inl rfl, rfl, rfl, rfl⟩, _, rfl, rfl⟩,
    ⟨.g 5, _, _, ringed 1 (Reg.data 0) (Reg.data 0), _, _, _, rfl, ⟨Or.inl rfl, rfl, rfl, rfl⟩, rfl, _, rfl, rfl⟩,
    ⟨.rpoll (.g 5) 6, twoRegs 0 0, by decide +kernel⟩, ⟨.g 5, ringed 1 (Reg.data 1) (Reg.data 0), by decide +kernel⟩⟩

/-- The hypotheses of SEND. -/
def SendMeets (n : Nat) (s : State) : Prop :=
  ∃ (s1 t m u v : State) (w : W64) (r : RingAddr),
    Starts (.send (.g 5) 6 (.g 7)) .closes [.g 7] [.g 5, .g 7] s s1 ∧ readData (.g 7) s1 = .ok (w, t) ∧
    ringAddr ((here s1).reg 6).lo = some r ∧ (here t).counted < 1024 ∧ t.storesTo s.cur r.core.val = false ∧
    t.postsTo s.cur r.core.val = false ∧ t.arrived s.cur r (((here t).sendingTo ((here s1).reg 6).lo).back t.cycle) = true ∧
    (((here t).sendingTo ((here s1).reg 6).lo).back t.cycle).divert = false ∧
    (n = 0 ∧ t.sendWord s.cur.sl r w false (here t).place = .delivered m ∨
      n = 1 ∧ t.sendWord s.cur.sl r w false (here t).place = .diverted m ∨
      n = 2 ∧ t.sendWord s.cur.sl r w false (here t).place = .discarded m) ∧
    write (Instr.word (.send (.g 5) 6 (.g 7))) (.g 5) (Reg.data (BitVec.ofNat 64 n)) (m.countSend s.cur r.core.val) = .ok ((), u) ∧
    GoesOn (.send (.g 5) 6 (.g 7)) u v

/-- A word of ring 0 waits in the overflow ring. -/
def overflowing : State := (ringed 8 (Reg.data 0) (Reg.data 3)).modSlot ⟨0, 0⟩ (fun q => { q with portOvf := [(0, 0, 9)] })

/-- The hypotheses of a SEND that completes, with its result. -/
def SendMayTake (n : Nat) (s : State) : Prop :=
  (here s).loopTrap (Instr.word (.send (.g 5) 6 (.g 7))) .closes = none ∧ ringAddr ((here s).reg 6).lo = some ⟨0, 0, 0⟩ ∧
    (here s).counted < 1024 ∧ s.storesTo s.cur 0 = false ∧ s.postsTo s.cur 0 = false ∧
    s.arrived s.cur ⟨0, 0, 0⟩ (((here s).sendingTo ((here s).reg 6).lo).back s.cycle) = true ∧
    RingTakes s s.cur.sl ⟨0, 0, 0⟩ (((here s).sendingTo ((here s).reg 6).lo).back s.cycle).divert n ∧
    ∃ x, (here s).settled.advance 4 = .ok x

/-- A word of ring 0 has waited 4,096 cycles. -/
def lateWord : State := (ringed 8 (Reg.data 0) (Reg.data 3)).modCtx ⟨0, 0, 0⟩ (fun x => { x with sending := some ⟨0, some 0, true, none, none⟩ })

theorem witness_SendForms :
    SendMeets 0 (ringed 1 (Reg.data 0) (Reg.data 3)) ∧ SendMeets 1 overflowing ∧ SendMeets 2 (ready 0) ∧
    SendMayTake 0 (ringed 1 (Reg.data 0) (Reg.data 3)) ∧ SendMayTake 1 overflowing ∧ SendMayTake 1 lateWord ∧ SendMayTake 2 (ready 0) ∧
    (∃ (s : State) (a : RingAddr), s.tenantSlot (s.partOf ⟨0, 0⟩) a.core 0 = none) ∧
    (∃ (s : State) (t : SlotId), s.tenantSlot (s.partOf ⟨0, 0⟩) 0 0 = some t ∧ s.present (s.partOf ⟨0, 0⟩) t = true ∧
      ((s.ctx ⟨t.core, t.slot, 0⟩).ring 0).bound = false) ∧
    (∃ (s : State) (t : SlotId), s.tenantSlot (s.partOf ⟨0, 0⟩) 0 0 = some t ∧ s.present (s.partOf ⟨0, 0⟩) t = true ∧ Canonical s ∧
      ((s.ctx ⟨t.core, t.slot, 0⟩).ring 0).bound = true ∧ (s.slot t).ovfFor 0 0 = [] ∧
      (s.slot t).portOvf.length + s.keptPlaces t < 4096 ∧
      (((s.ctx ⟨t.core, t.slot, 0⟩).ring 0).tail - ((s.ctx ⟨t.core, t.slot, 0⟩).ring 0).head).toNat +
        (if ((s.ctx ⟨t.core, t.slot, 0⟩).ring 0).outAt = s.cycle then ((s.ctx ⟨t.core, t.slot, 0⟩).ring 0).outN else 0) <
        2 ^ ((s.ctx ⟨t.core, t.slot, 0⟩).ring 0).log.toNat) ∧
    (∃ (s : State) (t : SlotId), s.tenantSlot (s.partOf ⟨0, 0⟩) 0 0 = some t ∧ s.present (s.partOf ⟨0, 0⟩) t = true ∧
      ((s.ctx ⟨t.core, t.slot, 0⟩).ring 0).bound = true ∧ (s.slot t).ovfFor 0 0 = [] ∧
      2 ^ ((s.ctx ⟨t.core, t.slot, 0⟩).ring 0).log.toNat ≤
        (((s.ctx ⟨t.core, t.slot, 0⟩).ring 0).tail - ((s.ctx ⟨t.core, t.slot, 0⟩).ring 0).head).toNat +
          (if ((s.ctx ⟨t.core, t.slot, 0⟩).ring 0).outAt = s.cycle then ((s.ctx ⟨t.core, t.slot, 0⟩).ring 0).outN else 0)) ∧
    (∃ (s : State) (t : SlotId), s.tenantSlot (s.partOf ⟨0, 0⟩) 0 0 = some t ∧ s.present (s.partOf ⟨0, 0⟩) t = true ∧
      ((s.ctx ⟨t.core, t.slot, 0⟩).ring 0).bound = true ∧ 4096 ≤ (s.slot t).portOvf.length ∧ (none : Option SlotId) ≠ some t) := by
  refine ⟨⟨_, _, _, _, _, _, ⟨0, 0, 0⟩, ⟨Or.inl rfl, rfl, rfl, rfl⟩, rfl, by decide +kernel, by decide +kernel, rfl, rfl, by decide +kernel,
      rfl, Or.inl ⟨rfl, rfl⟩, rfl, _, rfl, rfl⟩,
    ⟨_, _, _, _, _, _, ⟨0, 0, 0⟩, ⟨Or.inl rfl, rfl, rfl, rfl⟩, rfl, by decide +kernel, by decide +kernel, rfl, rfl, by decide +kernel, rfl,
      Or.inr (Or.inl ⟨rfl, rfl⟩), rfl, _, rfl, rfl⟩,
    ⟨_, _, _, _, _, _, ⟨0, 0, 0⟩, ⟨Or.inl rfl, rfl, rfl, rfl⟩, rfl, by decide +kernel, by decide +kernel, rfl, rfl, by decide +kernel, rfl,
      Or.inr (Or.inr ⟨rfl, rfl⟩), rfl, _, rfl, rfl⟩,
    ⟨rfl, by decide +kernel, by decide +kernel, rfl, rfl, by decide +kernel, Or.inr ⟨⟨0, 0⟩, by decide +kernel⟩, _, rfl⟩,
    ⟨rfl, by decide +kernel, by decide +kernel, rfl, rfl, by decide +kernel, Or.inr ⟨⟨0, 0⟩, by decide +kernel⟩, _, rfl⟩,
    ⟨rfl, by decide +kernel, by decide +kernel, rfl, rfl, by decide +kernel, Or.inr ⟨⟨0, 0⟩, by decide +kernel⟩, _, rfl⟩,
    ⟨rfl, by decide +kernel, by decide +kernel, rfl, rfl, by decide +kernel, Or.inr ⟨⟨0, 0⟩, by decide +kernel⟩, _, rfl⟩,
    ⟨ready 0, ⟨5, 0, 0⟩, by decide +kernel⟩, ⟨ready 0, ⟨0, 0⟩, by decide +kernel⟩,
    ⟨ringed 1 (Reg.data 0) (Reg.data 3), ⟨0, 0⟩, by decide +kernel, by decide +kernel, ⟨by decide +kernel, by decide +kernel⟩, by decide +kernel⟩,
    ⟨ringed 8 (Reg.data 0) (Reg.data 3), ⟨0, 0⟩, by decide +kernel⟩,
    ⟨(ringed 8 (Reg.data 0) (Reg.data 3)).modSlot ⟨0, 0⟩ (fun q => { q with portOvf := List.replicate 4096 (0, 0, 9) }), ⟨0, 0⟩, ?_⟩⟩
  exact ⟨by decide +kernel, by decide +kernel, by decide +kernel, (List.length_replicate).ge, by decide⟩

/-- Context 0 with a handle of its slot 3 in g6. -/
def held (q : HSlot) : State := ready0 (fun x => (x.setHslot 3 { q with dom := 1 }).setReg 6 (handleReg ⟨0, 0, 0⟩ 3 q.serial))
/-- A handle slot in a state, with a result. -/
def hs (st : HState) (r : W64) : HSlot := ⟨st, 7, r, false, 1, 0, 0, none, true⟩

theorem witness_HandleForms :
    (∃ (s s1 u v : State), Starts (.hwait (.g 5) 6) .closes [] [.g 5] s s1 ∧ Names s ((here s).reg 6) ⟨0, 0, 0⟩ 3 ∧
      ((s.ctx ⟨0, 0, 0⟩).hslot 3).state ≠ .pending ∧
      write (Instr.word (.hwait (.g 5) 6)) (.g 5) (Reg.data ((s.ctx ⟨0, 0, 0⟩).hslot 3).result) (s.modCtx ⟨0, 0, 0⟩ (fun x =>
        x.setHslot 3 { (s.ctx ⟨0, 0, 0⟩).hslot 3 with state := .consumed })) = .ok ((), u) ∧
      ((s.ctx ⟨0, 0, 0⟩).hslot 3).denied = none ∧ (here u).htrapEn = false ∧ GoesOn (.hwait (.g 5) 6) u v) ∧
    (∃ (s s1 u : State) (x : Ctx), Starts (.htest (.g 5) 6) .closes [] [.g 5] s s1 ∧ Names s ((here s).reg 6) ⟨0, 0, 0⟩ 3 ∧
      write (Instr.word (.htest (.g 5) 6)) (.g 5) (Reg.data ((s.ctx ⟨0, 0, 0⟩).hslot 3).result) (s.modCtx ⟨0, 0, 0⟩ (fun x =>
        x.setHslot 3 { (s.ctx ⟨0, 0, 0⟩).hslot 3 with state := .consumed })) = .ok ((), u) ∧
      (here u).settled.advance 4 = .ok x ∧ (here u).depth = 0 ∧ ((s.ctx ⟨0, 0, 0⟩).hslot 3).denied = none ∧ (here u).htrapEn = true ∧
      ((s.ctx ⟨0, 0, 0⟩).hslot 3).result.getLsbD 15 = true) ∧
    (∃ (s : State) (dva : W64), Names s ((here s).reg 6) ⟨0, 0, 0⟩ 3 ∧ ((s.ctx ⟨0, 0, 0⟩).hslot 3).denied = some dva) ∧
    (∃ (s s1 u v : State), (here u).htrapEn = false ∧ Starts (.htest (.g 5) 6) .closes [] [.g 5] s s1 ∧
      lookHandle ((here s).reg 6) s = .ok (none, s) ∧
      write (Instr.word (.htest (.g 5) 6)) (.g 5) (Reg.data 0x8003) s = .ok ((), u) ∧ GoesOn (.htest (.g 5) 6) u v) ∧
    (∃ (s u v : State), Starts (.htest (.g 5) 6) .closes [] [.g 5] s s ∧ Names s ((here s).reg 6) ⟨0, 0, 0⟩ 3 ∧
      ((s.ctx ⟨0, 0, 0⟩).hslot 3).state = .pending ∧
      write (Instr.word (.htest (.g 5) 6)) (.g 5) (Reg.data (BitVec.allOnes 64)) s = .ok ((), u) ∧ GoesOn (.htest (.g 5) 6) u v) ∧
    (∃ (s u v : State), Starts (.hcancel (.g 5) 6) .closes [] [.g 5] s s ∧ Names s ((here s).reg 6) ⟨0, 0, 0⟩ 3 ∧
      write (Instr.word (.hcancel (.g 5) 6)) (.g 5) (Reg.data 1) (s.modCtx ⟨0, 0, 0⟩ (fun x => x.setHslot 3
        { (s.ctx ⟨0, 0, 0⟩).hslot 3 with cancel := true })) = .ok ((), u) ∧ GoesOn (.hcancel (.g 5) 6) u v) := by
  refine ⟨⟨held (hs .resolved 5), _, _, _, ⟨Or.inl rfl, rfl, rfl, rfl⟩, ?_, by decide +kernel, rfl, rfl, rfl, _, rfl, rfl⟩,
    ⟨(held (hs .resolved 0x8000)).modCtx ⟨0, 0, 0⟩ (fun x => { x with htrapEn := true }), _, _, _, ⟨Or.inl rfl, rfl, rfl, rfl⟩, ?_,
      rfl, rfl, rfl, rfl, by decide +kernel, by decide +kernel⟩,
    ⟨held { hs .resolved 0 with denied := some 8 }, 8, ?_, by decide +kernel⟩,
    ⟨held (hs .free 0), _, _, _, rfl, ⟨Or.inl rfl, rfl, rfl, rfl⟩, rfl, rfl, _, rfl, rfl⟩,
    ⟨held (hs .pending 0), _, _, ⟨Or.inl rfl, rfl, rfl, rfl⟩, ?_, by decide +kernel, rfl, _, rfl, rfl⟩,
    ⟨held (hs .pending 0), _, _, ⟨Or.inl rfl, rfl, rfl, rfl⟩, ?_, rfl, _, rfl, rfl⟩⟩ <;>
    exact ⟨by decide +kernel, by decide +kernel, by decide +kernel, by decide +kernel, by decide +kernel, by decide +kernel⟩

/-- A context with all handle slots in a state. -/
def hslotsAll (f : Fin 16 → HSlot) : Ctx := (List.finRange 16).foldl (fun x h => x.setHslot h (f h)) Ctx.reset

theorem witness_HandleAllocation :
    ((hslotsAll (fun h => hs (if h = 4 then .free else .pending) 0)).hslot 4).state = .free ∧
    (∀ k < (4 : Fin 16), ((hslotsAll (fun h => hs (if h = 4 then .free else .pending) 0)).hslot k).state ≠ .free) ∧
    ((∀ k, ((hslotsAll (fun h => hs (if h = 4 then .consumed else .pending) 0)).hslot k).state ≠ .free) ∧
      ((hslotsAll (fun h => hs (if h = 4 then .consumed else .pending) 0)).hslot 4).state = .consumed ∧
      ∀ k < (4 : Fin 16), ((hslotsAll (fun h => hs (if h = 4 then .consumed else .pending) 0)).hslot k).state ≠ .consumed) ∧
    ((∀ k, ((hslotsAll (fun h => { hs .resolved 0 with order := 16 - h.val })).hslot k).state ≠ .free ∧
        ((hslotsAll (fun h => { hs .resolved 0 with order := 16 - h.val })).hslot k).state ≠ .consumed) ∧
      (hslotsAll (fun h => { hs .resolved 0 with order := 16 - h.val })).depth = 0 ∧
      ∀ k, k ≠ 15 → ((hslotsAll (fun h => { hs .resolved 0 with order := 16 - h.val })).hslot 15).order <
        ((hslotsAll (fun h => { hs .resolved 0 with order := 16 - h.val })).hslot k).order) ∧
    ((∀ k, ((hslotsAll (fun _ => hs .pending 0)).hslot k).state = .pending) ∧ (hslotsAll (fun _ => hs .pending 0)).depth = 0) := by
  decide +kernel

/-- A domain of the core, whose only member is context 0. -/
def coreDom : DomReg := ⟨true, 5, 0, 1, [0], 0, 0⟩
/-- Context 0 with a domain in DM0, and g6 and g7. -/
def domed : State := ready0 (fun x => ((x.setDomReg 0 coreDom).setReg 6 (wide.withCursor 0x1000)).setReg 7 (Reg.data 0))
/-- The same, where the record of such a domain stands at 0x1000. -/
def domRecord : State := domed.poke (.localStore 0 0 0 0x1000) [0x10, 0, 0, 0, 0, 0, 5, 0]

/-- Context 0, the only member of its domain, has arrived at phase 0 by a PHASEA, with handle slot 3. -/
def arrived : State :=
  { domed.modCtx ⟨0, 0, 0⟩ (fun x => (x.setDomReg 0 { coreDom with phase := 1 }).setHslot 3 (hs .pending 0)) with
    doms := [⟨0, 5, 0, 1, [0], 0, [(⟨0, 0, 0⟩, 3, 7, 0)], 0, [⟨0, 0, 0⟩]⟩] }

theorem witness_OrderForms :
    (∃ (s v : State), Starts (.fence .dev 0xF true true true) .closes [] [] s s ∧ s.pendingIn s.cur .dev = false ∧
      s.pendingLoop s.cur = false ∧ (here s).usc = 0 ∧ s.opsOf s.cur = false ∧ GoesOn (.fence .dev 0xF true true true) s v) ∧
    (∃ s : State, Starts (.fence .dev 0xF true true true) .closes [] [] s s ∧ (here s).usc ≠ 0) ∧
    (∃ s : State, Starts (.phase 0) .closes [] [] s s ∧ ((here s).domReg 0).valid = true ∧ (here s).depth = 0 ∧
      s.domNext (s.partOf s.cur.sl) ((here s).domReg 0) = ((here s).domReg 0).phase) ∧
    (∃ (s v : State), Starts (.phasea 5 0) .closes [] [] s s ∧ ((here s).domReg 0).valid = true ∧ (here s).depth = 0 ∧
      (here s).pickSlot = .ok 0 ∧ s.domNext (s.partOf s.cur.sl) ((here s).domReg 0) = ((here s).domReg 0).phase ∧
      GoesOn (.phasea 5 0) s v) ∧
    (domed.liveMembers 0 0 coreDom ≠ [] ∧ 0 = domed.domNext 0 coreDom ∧ ∀ c ∈ domed.liveMembers 0 0 coreDom,
      ¬ ∃ e, (domed.ctx c).dmFor coreDom = some e ∧ (e.phase - 0).toNat ≠ 0) ∧
    (0 = arrived.domNext 0 coreDom ∧ coreDom.valid = true ∧ (∃ y ∈ arrived.doms, y.isFor 0 coreDom = true) ∧
      (∃ c ∈ arrived.liveMembers 0 0 coreDom, (arrived.ctx c).arrivedAt coreDom 0 = true) ∧ arrived.phaseMet 0 0 coreDom 0 = true) ∧
    (arrived.slotHeld ⟨0, 0⟩ = true ∧ arrived.partOf ⟨0, 0⟩ = 0 ∧ ((arrived.ctx ⟨0, 0, 0⟩).hslot 3).state = .pending ∧
      (∃ y ∈ arrived.doms, y.isFor 0 coreDom = true ∧
        ((⟨0, 0, 0⟩ : CtxId), (3 : Fin 16), ((arrived.ctx ⟨0, 0, 0⟩).hslot 3).serial, (0 : BitVec 32)) ∈ y.handles) ∧
      ∀ k ∈ arrived.liveMembers 0 0 coreDom, (arrived.ctx k).status = .issuing) ∧
    (∃ (s s1 t u v : State), Starts (.dmset (.g 5) 0 (.g 7)) .closes [.g 7] [.g 5, .g 7] s s1 ∧
      readData (.g 7) s1 = .ok (BitVec.ofNat 64 (0 : Fin 6).val, t) ∧ (here s1).depth = 0 ∧ ((here s1).domReg 0).valid = true ∧
      t.domNext (t.partOf s.cur.sl) ((here s1).domReg 0) = ((here s1).domReg 0).phase ∧
      write (Instr.word (.dmset (.g 5) 0 (.g 7))) (.g 5) (Reg.data 0) (t.installDom s.cur 0 DomReg.none) = .ok ((), u) ∧
      GoesOn (.dmset (.g 5) 0 (.g 7)) u v) ∧
    (∃ (t : State) (new : DomReg), readDomain ((here domRecord).reg 6) domRecord = .ok (new, t) ∧ new.cmask = 1) ∧
    (∃ (s s1 t u v : State), Starts (.dmget (.g 5) (.g 7)) .closes [.g 7] [.g 5, .g 7] s s1 ∧
      readData (.g 7) s1 = .ok (BitVec.ofNat 64 (0 : Fin 6).val, t) ∧ ((here t).domReg 0).valid = true ∧ (here t).depth = 0 ∧
      write (Instr.word (.dmget (.g 5) (.g 7))) (.g 5) (Reg.data 1) t = .ok ((), u) ∧ GoesOn (.dmget (.g 5) (.g 7)) u v) := by
  refine ⟨⟨ready 0, _, ⟨Or.inl rfl, rfl, rfl, rfl⟩, by decide +kernel, by decide +kernel, by decide +kernel, by decide +kernel, _, rfl, rfl⟩,
    ⟨ready0 (fun x => x.setCount 0 2), ⟨Or.inl rfl, rfl, rfl, rfl⟩, by decide +kernel⟩,
    ⟨domed, ⟨Or.inl rfl, rfl, rfl, rfl⟩, by decide +kernel, rfl, by decide +kernel⟩,
    ⟨domed, _, ⟨Or.inl rfl, rfl, rfl, rfl⟩, by decide +kernel, rfl, by decide +kernel, by decide +kernel, _, rfl, rfl⟩,
    ⟨by decide +kernel, by decide +kernel, ?_⟩, by decide +kernel, by decide +kernel,
    ⟨domed, _, _, _, _, ⟨Or.inl rfl, rfl, rfl, rfl⟩, rfl, rfl, by decide +kernel, by decide +kernel, rfl, _, rfl, rfl⟩,
    ⟨domRecord, coreDom, by decide +kernel, rfl⟩,
    ⟨domed, _, _, _, _, ⟨Or.inl rfl, rfl, rfl, rfl⟩, rfl, by decide +kernel, rfl, rfl, _, rfl, rfl⟩⟩
  have h : ∀ c ∈ domed.liveMembers 0 0 coreDom, (domed.ctx c).dmFor coreDom = some coreDom := by decide +kernel
  rintro c hc ⟨e, he, hn⟩
  obtain rfl := Option.some.inj ((h c hc).symm.trans he)
  exact hn rfl

/-- Context 0 with an entry in g6 and an argument in g7. -/
def starting : State := ready0 (fun x => (x.setReg 6 (wide.withCursor 0x100)).setReg 7 (Reg.data 9))
/-- All helpers are live. -/
def crowded : State := (List.finRange 11).foldl (fun s k => s.modCtx ⟨0, 0, k⟩ (fun x => { x with status := .ready })) starting

theorem witness_StartResult :
    (∃ (s1 t u v : State) (arg : Reg), Starts (.start (.g 5) 6 (.g 7)) .closes [.g 7] [.g 5, .g 7] crowded s1 ∧
      read (.g 7) s1 = .ok (arg, t) ∧ crowded.cur.ctx = 0 ∧ (here s1).depth = 0 ∧ ((here s1).reg 6).tag = 1 ∧
      lacks ((here s1).reg 6) permX = false ∧ ((here s1).reg 6).lo.toNat % 2 = 0 ∧ t.releaseBlocked crowded.cur .core = false ∧
      t.freeHelper crowded.cur.sl = none ∧
      write (Instr.word (.start (.g 5) 6 (.g 7))) (.g 5) (Reg.data (BitVec.allOnes 64)) t = .ok ((), u) ∧
      GoesOn (.start (.g 5) 6 (.g 7)) u v) ∧
    (∃ (s1 t u v : State) (arg : Reg), Starts (.start (.g 5) 6 (.g 7)) .closes [.g 7] [.g 5, .g 7] starting s1 ∧
      read (.g 7) s1 = .ok (arg, t) ∧ starting.cur.ctx = 0 ∧ (here s1).depth = 0 ∧ ((here s1).reg 6).tag = 1 ∧
      lacks ((here s1).reg 6) permX = false ∧ ((here s1).reg 6).lo.toNat % 2 = 0 ∧ t.releaseBlocked starting.cur .core = false ∧
      t.freeHelper starting.cur.sl = some 1 ∧
      write (Instr.word (.start (.g 5) 6 (.g 7))) (.g 5) (Reg.data 1) ((((t.joinersOf ⟨0, 0, 1⟩).dropImage ⟨0, 0, 1⟩).modCtx ⟨0, 0, 1⟩
        (fun x => x.started (here t) 1 ((here s1).reg 6) arg)).joinDoms ⟨0, 0, 1⟩) = .ok ((), u) ∧ GoesOn (.start (.g 5) 6 (.g 7)) u v) :=
  ⟨⟨_, _, _, _, _, ⟨Or.inl rfl, rfl, rfl, rfl⟩, rfl, rfl, rfl, by decide +kernel, by decide +kernel, by decide +kernel, by decide +kernel,
      by decide +kernel, rfl, _, rfl, rfl⟩,
    ⟨_, _, _, _, _, ⟨Or.inl rfl, rfl, rfl, rfl⟩, rfl, rfl, rfl, by decide +kernel, by decide +kernel, by decide +kernel, by decide +kernel,
      by decide +kernel, rfl, _, rfl, rfl⟩⟩

/-- Two cores of one cluster run one tenant; the turn is that of the second core. -/
def pair : State :=
  let s := (ready 0).modSlot ⟨1, 0⟩ (fun q => { q with phase := .bound, bind := placeBind })
  { s.setCtx ⟨1, 0, 0⟩ (s.ctx ⟨0, 0, 0⟩) with cur := ⟨1, 0, 0⟩ }

theorem witness_ContextForms :
    (∃ s : State, isExit .exitC = true ∧ Starts .exitC .closes [] [] s s ∧ (here s).depth = 0 ∧ s.helpersLive s.cur.sl = false ∧
      s.fenceBlocked s.cur .sys true true true false = false) ∧
    (∃ (k : Fin 11) (s s1 t v : State), Starts (.join (.g 7)) .closes [.g 7] [.g 7] s s1 ∧
      readData (.g 7) s1 = .ok (BitVec.ofNat 64 k.val, t) ∧ k ≠ 0 ∧ k ≠ s.cur.ctx ∧
      (t.ctx ⟨s.cur.core, s.cur.slot, k⟩).status = .free ∧ GoesOn (.join (.g 7)) t v) ∧
    (∃ (k : Fin 11) (s s1 t : State), Starts (.join (.g 7)) .closes [.g 7] [.g 7] s s1 ∧
      readData (.g 7) s1 = .ok (BitVec.ofNat 64 k.val, t) ∧ k ≠ 0 ∧ k ≠ s.cur.ctx ∧
      (t.ctx ⟨s.cur.core, s.cur.slot, k⟩).status ≠ .free) ∧
    (∃ (m : BitVec 11) (s s1 t : State), Starts (.barc (.g 7)) .closes [.g 7] [.g 7] s s1 ∧
      readData (.g 7) s1 = .ok (m.setWidth 64, t) ∧ m.getLsbD s.cur.ctx.val = true ∧ t.releaseBlocked s.cur .core = false) ∧
    (∃ (f : Ctx → Ctx) (s v : State), idleForm .yieldC = some f ∧ Starts .yieldC .closes [] [] s s ∧
      GoesOn .yieldC (s.modCtx s.cur f) v) ∧
    (∃ (s u v : State), Starts (.helpers (.g 5)) .closes [] [.g 5] s s ∧
      write (Instr.word (.helpers (.g 5))) (.g 5) (Reg.data 1) s = .ok ((), u) ∧ GoesOn (.helpers (.g 5)) u v) ∧
    (∃ (s v : State), Starts .follow .closes [] [] s s ∧ s.cur.ctx = 0 ∧ (here s).depth = 0 ∧ s.cur.core.val % 8 ≠ 0 ∧
      (here s).attached = false ∧ (s.leaderOf s.cur).isSome = true ∧
      GoesOn .follow (s.modCtx s.cur (fun x => { x with status := .following false })) v) ∧
    (∃ (s : State) (y : Ctx), Starts .follow .closes [] [] s s ∧ s.cur.ctx = 0 ∧ (here s).depth = 0 ∧ s.cur.core.val % 8 = 0 ∧
      (here s).advance 4 = .ok y ∧ s.waitingFollowers s.cur = [⟨1, 0, 0⟩]) ∧
    (∃ (s s1 t : State) (e : W64) (p : Spot), Starts (.park (.g 5) 6 (.g 7)) .closes [.g 7] [.g 5, .g 7] s s1 ∧
      readData (.g 7) s1 = .ok (e, t) ∧ (here t).remote = none ∧
      t.reach s.cur ((here s1).reg 6) (loadAsk 8) ((here s1).reg 6).lo = .ok p ∧ p.own = true ∧
      BitVec.ofNat 64 (t.readNat p.loc 8) ≠ e) ∧
    (∃ (s s1 t : State) (e : W64) (p : Spot), Starts (.park (.g 5) 6 (.g 0)) .closes [.g 0] [.g 5, .g 0] s s1 ∧
      readData (.g 0) s1 = .ok (e, t) ∧ (here t).remote = none ∧
      t.reach s.cur ((here s1).reg 6) (loadAsk 8) ((here s1).reg 6).lo = .ok p ∧ p.own = true ∧
      BitVec.ofNat 64 (t.readNat p.loc 8) = e) := by
  refine ⟨⟨ready 0, rfl, ⟨Or.inl rfl, rfl, rfl, rfl⟩, by decide +kernel⟩,
    ⟨3, twoRegs 0 3, _, _, _, ⟨Or.inl rfl, rfl, rfl, rfl⟩, rfl, by decide, by decide +kernel, by decide +kernel, _, rfl, rfl⟩,
    ⟨3, (twoRegs 0 3).modCtx ⟨0, 0, 3⟩ (fun x => { x with status := .ready }), _, _, ⟨Or.inl rfl, rfl, rfl, rfl⟩, rfl, by decide,
      by decide +kernel, by decide +kernel⟩,
    ⟨1, twoRegs 0 1, _, _, ⟨Or.inl rfl, rfl, rfl, rfl⟩, rfl, by decide +kernel, by decide +kernel⟩,
    ⟨_, ready 0, _, rfl, ⟨Or.inl rfl, rfl, rfl, rfl⟩, _, rfl, rfl⟩,
    ⟨ready 0, _, _, ⟨Or.inl rfl, rfl, rfl, rfl⟩, rfl, _, rfl, rfl⟩,
    ⟨pair, _, ⟨Or.inl rfl, rfl, rfl, rfl⟩, by decide +kernel, by decide +kernel, by decide +kernel, by decide +kernel, by decide +kernel, _,
      rfl, rfl⟩,
    ⟨{ pair.modCtx ⟨1, 0, 0⟩ (fun x => { x with status := .following false }) with cur := ⟨0, 0, 0⟩ }, _, ⟨Or.inl rfl, rfl, rfl, rfl⟩,
      rfl, rfl, rfl, rfl, by decide +kernel⟩,
    ⟨near 0x1000, _, _, _, own 0x1000, ⟨Or.inl rfl, rfl, rfl, rfl⟩, rfl, rfl, by decide +kernel, rfl, by decide +kernel⟩,
    ⟨near 0x1000, _, _, _, own 0x1000, ⟨Or.inl rfl, rfl, rfl, rfl⟩, rfl, rfl, by decide +kernel, rfl, by decide +kernel⟩⟩

/-- Every hank of cluster 0 is granted to partition 0, hank 0 is as given, and g6 and g7 hold a register and 0. -/
def hanked (k : Hank) (r : Reg) : State :=
  (ready0 (fun x => (x.setReg 6 r).setReg 7 (Reg.data 0))).modCluster 0 (fun c => { c.setHank 0 k with hkgrant := 0x80808080 })
/-- A hank of 3 by 2 by 1 by 1 elements, in tiles of 2 by 2 by 1 by 1. -/
def smallHank : Hank := ⟨.armed, [3, 2, 1, 1], [2, 2, 1, 1], 1, []⟩
/-- The record of such a hank at 0x1000, or one whose tile has a 0. -/
def hankRecord (z : Nat) : State :=
  (hanked Hank.idle (wide.withCursor 0x1000)).poke (.localStore 0 0 0 0x1000)
    (bytesLE 2 3 ++ bytesLE 2 2 ++ bytesLE 2 1 ++ bytesLE 2 1 ++ bytesLE 2 z ++ bytesLE 2 2 ++ bytesLE 2 1 ++ bytesLE 2 1)

theorem witness_HankForms :
    (∃ (s s1 t v : State), Starts (.fetcht 8 (.g 7)) .closes [.g 7] [.g 7] s s1 ∧
      readData (.g 7) s1 = .ok (BitVec.ofNat 64 (0 : Fin 4).val, t) ∧
      grants (t.cluster 0).hkgrant 0 (t.partOf s.cur.sl) = true ∧ ((t.cluster 0).hank 0).state ≠ .idle ∧
      GoesOn (.fetcht 8 (.g 7)) ((t.setCluster 0 ((t.cluster 0).setHank 0 ((t.cluster 0).hank 0).serve.2)).modCtx s.cur (fun x =>
        x.takeTile 8 ((t.cluster 0).hank 0).serve.1)) v) ∧
    (∃ (s s1 t : State), Starts (.fetcht 8 (.g 7)) .closes [.g 7] [.g 7] s s1 ∧
      readData (.g 7) s1 = .ok (BitVec.ofNat 64 (0 : Fin 4).val, t) ∧
      grants (t.cluster 0).hkgrant 0 (t.partOf s.cur.sl) = true ∧ ((t.cluster 0).hank 0).state = .idle) ∧
    (∃ (s s1 t u v : State), Starts (.tdcfg (.g 5) 0 (.g 7)) .closes [.g 7] [.g 5, .g 7] s s1 ∧
      readData (.g 7) s1 = .ok (BitVec.ofNat 64 (0 : Fin 4).val, t) ∧
      grants (t.cluster 0).hkgrant 0 (t.partOf s.cur.sl) = true ∧ t.releaseBlocked s.cur .clu = false ∧
      write (Instr.word (.tdcfg (.g 5) 0 (.g 7))) (.g 5) (Reg.data 0)
        (t.modCluster 0 (fun c => c.setHank 0 { Hank.idle with waiters := (c.hank 0).waiters })) = .ok ((), u) ∧
      GoesOn (.tdcfg (.g 5) 0 (.g 7)) u v) ∧
    (∀ z, z = 0 ∨ z = 2 → ∃ (s1 t : State) (p : Spot), Starts (.tdcfg (.g 5) 6 (.g 7)) .closes [.g 7] [.g 5, .g 7] (hankRecord z) s1 ∧
      readData (.g 7) s1 = .ok (BitVec.ofNat 64 (0 : Fin 4).val, t) ∧
      t.reachRecord (hankRecord z).cur ((here s1).reg 6) (loadAsk 16) ((here s1).reg 6).lo = .ok p ∧
      t.readNat (p.loc.plus 8) 2 = z ∧
      ∃ u v, write (Instr.word (.tdcfg (.g 5) 6 (.g 7))) (.g 5) (Reg.data (if z = 0 then 1 else 0))
        (if z = 0 then t.cacheHost p.loc 16 false else ((t.cacheHost p.loc 16 false).modCluster 0 (fun c => c.setHank 0
          ⟨.armed, [3, 2, 1, 1], [2, 2, 1, 1], 0, ((t.cluster 0).hank 0).left⟩)).serveHank 0 0 ((t.cluster 0).hank 0).waiters) =
            .ok ((), u) ∧ GoesOn (.tdcfg (.g 5) 6 (.g 7)) u v) ∧
    (∃ (s s1 t u v : State) (x : W64), Starts (.tdstat (.g 5) (.g 7)) .closes [.g 7] [.g 5, .g 7] s s1 ∧
      readData (.g 7) s1 = .ok (x, t) ∧ grants (t.cluster 0).hkgrant 0 (t.partOf s.cur.sl) = true ∧
      write (Instr.word (.tdstat (.g 5) (.g 7))) (.g 5) (Reg.data 0x10000000001) t = .ok ((), u) ∧
      GoesOn (.tdstat (.g 5) (.g 7)) u v) ∧ smallHank.total = 2 := by
  refine ⟨⟨hanked smallHank Reg.zero, _, _, _, ⟨Or.inl rfl, rfl, rfl, rfl⟩, rfl, by decide +kernel, by decide +kernel, _, rfl, rfl⟩,
    ⟨hanked Hank.idle Reg.zero, _, _, ⟨Or.inl rfl, rfl, rfl, rfl⟩, rfl, by decide +kernel, by decide +kernel⟩,
    ⟨hanked smallHank Reg.zero, _, _, _, _, ⟨Or.inl rfl, rfl, rfl, rfl⟩, rfl, by decide +kernel, by decide +kernel, rfl, _, rfl, rfl⟩,
    ?_,
    ⟨hanked smallHank Reg.zero, _, _, _, _, _, ⟨Or.inl rfl, rfl, rfl, rfl⟩, rfl, by decide +kernel, rfl, _, rfl, rfl⟩, by decide +kernel⟩
  rintro z (rfl | rfl)
  · exact ⟨_, _, own 0x1000, ⟨Or.inl rfl, rfl, rfl, rfl⟩, rfl, by decide +kernel, by decide +kernel, _, _, rfl, _, rfl, rfl⟩
  · exact ⟨_, _, own 0x1000, ⟨Or.inl rfl, rfl, rfl, rfl⟩, rfl, by decide +kernel, by decide +kernel, _, _, rfl, _, rfl, rfl⟩

/-- A gate capability of the record at 0x1000. -/
def gateCap : Reg := withOtype (wide.withCursor 0x1000) 1 3
/-- A gate record at 0x1000, with a number of arguments, in domain 1, and a register in g6. -/
def gated (args : Nat) (r : Reg) : State :=
  ((((six r).pokeReg (.localStore 0 0 0 0x1000) (wide.withCursor 0x200) true).pokeReg (.localStore 0 0 0 0x1010) wide true).pokeReg
    (.localStore 0 0 0 0x1020) wide true).poke (.localStore 0 0 0 0x1030)
      (bytesLE 4 0x100 ++ bytesLE 4 0xFFFFFFFF ++ bytesLE 4 0 ++ [BitVec.ofNat 8 args, 1, 0, 0])

theorem enters : MayEnter (gated 2 gateCap) ((here (gated 2 gateCap)).reg 6) (own 0x1000) :=
  ⟨by decide +kernel, by decide +kernel, Or.inl (by decide +kernel), by decide +kernel, by decide +kernel, by decide +kernel,
    fun h => absurd (show (gated 2 gateCap).domPart _ _ = some _ by decide +kernel) h⟩

/-- The same, behind the reading of the record. -/
def gatedRead (args : Nat) : State := (gated args gateCap).modCtx ⟨0, 0, 0⟩ (fun x => { x with reading := some x.pc })

theorem enters_read : MayEnter (gatedRead 2) ((here (gatedRead 2)).reg 6) (own 0x1000) :=
  ⟨by decide +kernel, by decide +kernel, Or.inl (by decide +kernel), by decide +kernel, by decide +kernel, by decide +kernel,
    fun h => absurd (show (gatedRead 2).domPart _ _ = some _ by decide +kernel) h⟩

/-- The hypotheses of a trap of GCALL through g6. -/
def GcallMeets (e : Cause) (s : State) : Prop :=
  Starts (.gcall 6) .transfer [] [] s s ∧
  let gc := (here s).reg 6
  let x := here s
  let live := s.live (dieOf s.cur.core) gc.owner
  (e = .capTag ∧ gc.tag ≠ 3 ∨
    e = .gateInvalid ∧ gc.tag = 3 ∧ gc.otype ≠ 1 ∨
    e = .capDomainDead ∧ gc.tag = 3 ∧ gc.otype = 1 ∧ live = false ∨
    e = .gateInvalid ∧ gc.tag = 3 ∧ gc.otype = 1 ∧ live = true ∧
      (x.creason ≠ 0 ∧ 0 < x.depth ∨ ∃ b, x.bights.head? = some b ∧ b.nest = false) ∨
    e = .gateDepth ∧ gc.tag = 3 ∧ gc.otype = 1 ∧ live = true ∧ x.creason = 0 ∧ x.depth = 16 ∧
      (∃ b, x.bights.head? = some b ∧ b.nest = true) ∨
    e = .gateInvalid ∧ ∃ p, ¬ MayEnter s gc p ∧ gc.tag = 3 ∧ gc.otype = 1 ∧ live = true ∧ x.depth = 0 ∧ x.reading = some x.pc ∧
      s.reachRecord s.cur gc gateAsk gc.lo = .ok p)

theorem witness_GateCallForms :
    (Starts (.gcall 6) .transfer [] [] (gated 2 gateCap) (gated 2 gateCap) ∧
      MayEnter (gated 2 gateCap) ((here (gated 2 gateCap)).reg 6) (own 0x1000) ∧ (here (gated 2 gateCap)).resident < 4 ∧
      (here (gated 2 gateCap)).reading ≠ some (here (gated 2 gateCap)).pc) ∧
    (Starts (.gcall 6) .transfer [] [] (gatedRead 2) (gatedRead 2) ∧
      MayEnter (gatedRead 2) ((here (gatedRead 2)).reg 6) (own 0x1000) ∧ (here (gatedRead 2)).resident < 4 ∧
      (here (gatedRead 2)).reading = some (here (gatedRead 2)).pc) ∧
    GcallMeets .capTag (six wide) ∧ GcallMeets .gateInvalid (six (withOtype wide 3 3)) ∧
    GcallMeets .capDomainDead (six (withOwner gateCap 2)) ∧
    GcallMeets .gateInvalid ((six gateCap).modCtx ⟨0, 0, 0⟩ (fun x => { x with bights := [{ frame0 with nest := false }] })) ∧
    GcallMeets .gateDepth ((six gateCap).modCtx ⟨0, 0, 0⟩ (fun x => { x with bights := List.replicate 16 frame0 })) ∧
    GcallMeets .gateInvalid (gatedRead 0) := by
  refine ⟨⟨⟨Or.inl rfl, rfl, rfl, rfl⟩, enters, by decide +kernel⟩,
    ⟨⟨Or.inl rfl, rfl, rfl, rfl⟩, enters_read, by decide +kernel⟩, ⟨⟨Or.inl rfl, rfl, rfl, rfl⟩, Or.inl (by decide +kernel)⟩,
    ⟨⟨Or.inl rfl, rfl, rfl, rfl⟩, Or.inr (Or.inl (by decide +kernel))⟩,
    ⟨⟨Or.inl rfl, rfl, rfl, rfl⟩, Or.inr (Or.inr (Or.inl (by decide +kernel)))⟩,
    ⟨⟨Or.inr rfl, by decide +kernel, rfl, rfl⟩, Or.inr (Or.inr (Or.inr (Or.inl ⟨rfl, by decide +kernel, by decide +kernel, by decide +kernel,
      Or.inr ⟨_, by rfl, rfl⟩⟩)))⟩,
    ⟨⟨Or.inr rfl, by decide +kernel, rfl, rfl⟩, Or.inr (Or.inr (Or.inr (Or.inr (Or.inl ⟨rfl, by decide +kernel, by decide +kernel,
      by decide +kernel, by decide +kernel, by decide +kernel, _, by rfl, rfl⟩))))⟩,
    ⟨⟨Or.inl rfl, rfl, rfl, rfl⟩, Or.inr (Or.inr (Or.inr (Or.inr (Or.inr ⟨rfl, own 0x1000, fun h => ?_, by decide +kernel,
      by decide +kernel, by decide +kernel, by decide +kernel, by decide +kernel, by decide +kernel⟩))))⟩⟩
  exact absurd h.good (by decide +kernel)

/-- A return capability of the frame of depth 1. -/
def retCap : Reg := withOtype (wide.withCursor 1) 2 3
/-- Context 0 in a callee, with a register in g6 and a reason of cleanup. -/
def called (r : Reg) (reason : BitVec 3) : State :=
  (six r).modCtx ⟨0, 0, 0⟩ (fun x => { x with bights := [frame0], resident := 1, creason := reason })

theorem witness_GateReturn :
    (∃ (s1 t : State) (vs : List Reg), Starts (.grets 6 (.g 7)) .transfer [.g 7] [.g 7] (called retCap 0) s1 ∧
      takeAll [.g 7] s1 = .ok (vs, t) ∧ (here t).bights = [frame0] ∧ frame0.regs.length = savedRegs.length ∧ 0 < (here t).resident ∧
      (here t).creason = 0 ∧ t.busyAt (called retCap 0).cur (here t).depth = false ∧ ((here s1).reg 6).tag = 3 ∧ ((here s1).reg 6).otype = 2 ∧
      ((here s1).reg 6).owner = (here t).dom ∧ ((here s1).reg 6).lo.extractLsb' 16 48 = frame0.serial ∧
      (((here s1).reg 6).lo.extractLsb' 0 5).toNat = (here t).depth) ∧
    (Starts .gclean .transfer [] [] (called Reg.zero 3) (called Reg.zero 3) ∧ (here (called Reg.zero 3)).bights = [frame0] ∧
      0 < (here (called Reg.zero 3)).resident ∧ (here (called Reg.zero 3)).creason ≠ 0 ∧
      (called Reg.zero 3).busyAt (called Reg.zero 3).cur (here (called Reg.zero 3)).depth = false ∧
      (called Reg.zero 3).live 0 ((here (called Reg.zero 3)).domAt ((here (called Reg.zero 3)).depth - 1)) = true) :=
  ⟨⟨called retCap 0, _, _, ⟨Or.inr rfl, by decide +kernel, rfl, rfl⟩, rfl, by decide +kernel⟩,
    ⟨Or.inr rfl, by decide +kernel, rfl, rfl⟩, by decide +kernel⟩

/-- A manager capability of domain 1. -/
def manager : Reg := managerCap 1

theorem witness_GateAdministration :
    (∃ u v : State, Starts (.dstat (.g 5) 6) .closes [] [.g 5] (six manager) (six manager) ∧
      write (Instr.word (.dstat (.g 5) 6)) (.g 5) (Reg.data 0x101) (six manager) = .ok ((), u) ∧ GoesOn (.dstat (.g 5) 6) u v ∧
      ((here (six manager)).reg 6).tag = 1 ∧ ((here (six manager)).reg 6).owner = 1) ∧
    (∃ (s u v : State), Starts (.drevoke (.g 5) 6) .closes [] [.g 5] s s ∧ (here s).revoke = false ∧
      (((here s).reg 6).tag = 1 ∧ lacks ((here s).reg 6) (permSE ||| permUS) = false ∧
        capTop ((here s).reg 6) = capBase ((here s).reg 6)) ∧ s.live 0 ((here s).reg 6).owner = false ∧
      write (Instr.word (.drevoke (.g 5) 6)) (.g 5) (Reg.data 1) s = .ok ((), u) ∧ GoesOn (.drevoke (.g 5) 6) u v) ∧
    (∃ s : State, Starts (.drevoke (.g 5) 6) .closes [] [.g 5] s s ∧ (here s).revoke = false ∧
      (((here s).reg 6).tag = 1 ∧ lacks ((here s).reg 6) (permSE ||| permUS) = false ∧
        capTop ((here s).reg 6) = capBase ((here s).reg 6)) ∧ s.live 0 ((here s).reg 6).owner = true ∧
      s.fenceBlocked s.cur .dev true false false false = false) ∧
    (∃ (s u v : State), Starts (.drevoke (.g 5) 6) .closes [] [.g 5] s s ∧ (here s).revoke = true ∧
      (∀ i, s.live i ((here s).reg 6).owner = false) ∧
      write (Instr.word (.drevoke (.g 5) 6)) (.g 5) (Reg.data 0) s = .ok ((), u) ∧
      GoesOn (.drevoke (.g 5) 6) (u.modCtx u.cur (fun x => { x with revoke := false })) v) ∧
    (∃ (s : State) (p : Spot) (e : Nat × Nat × Nat), Starts (.gmake (.g 5) 6 7) .closes [] [.g 5] s s ∧
      ((here s).reg 6).tag = 1 ∧ lacks ((here s).reg 6) (permSE ||| permUS) = false ∧
      capTop ((here s).reg 6) = capBase ((here s).reg 6) ∧ s.live 0 ((here s).reg 6).owner = true ∧ ((here s).reg 7).tag = 1 ∧
      checkCap (s.live 0) ((here s).reg 7) (permL ||| permLC) ((here s).reg 7).lo 64 = none ∧ ((here s).reg 7).lo.toNat % 64 = 0 ∧
      ((here s).reg 7).owner = ((here s).reg 6).owner ∧
      s.reachRecord s.cur ((here s).reg 7) (recordAsk 64) ((here s).reg 7).lo = .ok p ∧ p.tags = true ∧
      (s.gateRec p.loc p.tags).ok ((here s).reg 6).owner = true ∧
      encodeBounds ((here s).reg 7).lo.toNat (((here s).reg 7).lo.toNat + 64) = some e) := by
  refine ⟨⟨_, _, ⟨Or.inl rfl, rfl, rfl, rfl⟩, rfl, ⟨_, rfl, rfl⟩, by decide +kernel⟩,
    ⟨six (managerCap 2), _, _, ⟨Or.inl rfl, rfl, rfl, rfl⟩, rfl, by decide +kernel, by decide +kernel, rfl, _, rfl, rfl⟩,
    ⟨six manager, ⟨Or.inl rfl, rfl, rfl, rfl⟩, by decide +kernel⟩,
    ⟨(six (managerCap 2)).modCtx ⟨0, 0, 0⟩ (fun x => { x with revoke := true }), _, _, ⟨Or.inl rfl, rfl, rfl, rfl⟩, rfl, by decide +kernel, rfl,
      _, rfl, rfl⟩,
    ⟨(gated 2 manager).modCtx ⟨0, 0, 0⟩ (fun x => x.setReg 7 (wide.withCursor 0x1000)), own 0x1000, (0, 0x1000, 64),
      ⟨Or.inl rfl, rfl, rfl, rfl⟩, by decide +kernel⟩⟩

/-- A supervisor's slot. -/
def supervised (f : Ctx → Ctx) : State := (ready0 f).modSlot ⟨0, 0⟩ (fun q => { q with bind := { q.bind with supv := true } })

theorem witness_SregForms :
    (∃ (s s1 u v : State), Starts (.srd (.g 5) 0x003) .closes [] [.g 5] s s1 ∧ s.isSup s.cur = false ∧ taskReads 0x003 ∧
      Granule s 0x003 ∧ write (Instr.word (.srd (.g 5) 0x003)) (.g 5) (s.sreg s.cur 0x003) s = .ok ((), u) ∧ GoesOn (.srd (.g 5) 0x003) u v) ∧
    (∃ (s s1 u v : State), Starts (.srd (.g 6) 0x00C) .closes [] [.g 6] s s1 ∧ s.isSup s.cur = true ∧ supReads 0x00C ∧
      Granule s 0x00C ∧ write (Instr.word (.srd (.g 6) 0x00C)) (.g 6) (s.sreg s.cur 0x00C) s = .ok ((), u) ∧
      GoesOn (.srd (.g 6) 0x00C) (u.modCtx u.cur (fun x => x.setReg (6 + 1) ⟨(here s).tstat.high, 0⟩)) v) ∧
    (∃ (s s1 t m u v : State) (r : Reg), Starts (.swr (.g 5) 0x080 (.g 7)) .closes [.g 7] [.g 5, .g 7] s s1 ∧ s.isSup s.cur = false ∧
      taskWrites 0x080 ∧ Granule s 0x080 ∧ read (.g 7) s1 = .ok (r, t) ∧
      sregWrite (Instr.word (.swr (.g 5) 0x080 (.g 7))) s.cur 0x080 r t = .ok ((), m) ∧
      write (Instr.word (.swr (.g 5) 0x080 (.g 7))) (.g 5) (Reg.data (t.sreg s.cur 0x080).lo) m = .ok ((), u) ∧
      GoesOn (.swr (.g 5) 0x080 (.g 7)) u v) ∧
    (∃ (s : State), Starts (.swr (.g 0) 0x00C (.g 6)) .closes [.g 6] [.g 0, .g 6] s s ∧
      (((here s).reg 6).bits.extractLsb' 32 16 : BitVec 16).toNat + (((here s).reg 6).bits.extractLsb' 48 16 : BitVec 16).toNat ≤ 65535) := by
  refine ⟨⟨twoRegs 0 1, _, _, _, ⟨Or.inl rfl, rfl, rfl, rfl⟩, by decide +kernel, by unfold taskReads; omega,
      fun h => absurd h (by decide), rfl, _, rfl, rfl⟩,
    ⟨supervised id, _, _, _, ⟨Or.inl rfl, rfl, rfl, rfl⟩, by decide +kernel, Or.inl (by unfold taskReads; omega),
      fun h => absurd h (by decide), rfl, _, rfl, rfl⟩,
    ⟨twoRegs 0 1, _, _, _, _, _, _, ⟨Or.inl rfl, rfl, rfl, rfl⟩, by decide +kernel, by unfold taskWrites; omega,
      fun _ _ => by decide +kernel, rfl, rfl, rfl, _, rfl, rfl⟩,
    ⟨twoRegs 0x00010002_00000000 5, ⟨Or.inl rfl, rfl, rfl, rfl⟩, by decide +kernel⟩⟩

theorem witness_SwrReadsBack : ∀ n, n = 0x004 ∨ n = 0x008 ∨ n = 0x013 ∨ n = 0x020 ∨ n = 0x023 ∨ n = 0x0BF ∨ n = 0x203 →
    (supWrites n ∨ n = 0x200 ∨ n = 0x201 ∨ 0x203 ≤ n ∧ n ≤ 0x205) ∧ ∃ t, sregWrite 0 ⟨0, 0, 0⟩ n (if n = 0x008 then wide else Reg.data 35000) (ready 0) = .ok ((), t) := by
  rintro n (rfl | rfl | rfl | rfl | rfl | rfl | rfl) <;>
    exact ⟨by unfold supWrites taskWrites; omega, _, ok_unit (by decide +kernel)⟩

theorem witness_SregPrivilege :
    (∃ s : State, (here s).depth = 0 ∧ (here s).loopTrap (Instr.word (.srd (.g 5) 0x100)) .closes = none ∧ s.isSup s.cur = false ∧
      ¬ taskReads 0x100) ∧
    (∃ s : State, (here s).depth = 0 ∧ (here s).loopTrap (Instr.word (.srd (.g 5) 0x200)) .closes = none ∧ s.isSup s.cur = true ∧
      ¬ supReads 0x200) ∧
    (∃ s : State, (here s).depth = 0 ∧ (here s).loopTrap (Instr.word (.srd (.g 5) 0x0BF)) .closes = none ∧ ¬ Granule s 0x0BF) ∧
    (∃ s : State, (here s).depth = 0 ∧ (here s).loopTrap (Instr.word (.swr (.g 5) 0x001 (.g 6))) .closes = none ∧
      s.isSup s.cur = false ∧ ¬ taskWrites 0x001) :=
  ⟨⟨ready 0, by decide +kernel, by decide +kernel, by decide +kernel, by unfold taskReads; omega⟩,
    ⟨supervised id, by decide +kernel, by decide +kernel, by decide +kernel, by unfold supReads taskReads; omega⟩,
    ⟨State.reset, by decide +kernel, by decide +kernel, fun h => absurd (h (by decide) (by decide)) (by decide +kernel)⟩,
    ⟨ready 0, by decide +kernel, by decide +kernel, by decide +kernel, by unfold taskWrites; omega⟩⟩

/-- A supervisor of partition 0: SVEC and SSP hold capabilities, and the page of the supervisor stack of context 0 is
mapped: the tables of R73 stand at 0x3000, 0x4000 and 0x5000. -/
def supReady : State :=
  let s := (ready 0).modDies (fun d => { d with svec := [(0, wide)], ssp := [(0, wide)] })
  let s := s.modSlot ⟨0, 0⟩ (fun q => { q with bind := { q.bind with ptroot := 0x3000 } })
  ((s.setHbm64 (0x3000 + 8 * 255) 0x4001).setHbm64 (0x4000 + 8 * 510) 0x5001).setHbm64 0x5000 0x2F

theorem deliverable (s : State) (h : (s.live 0 ((here s).domAt (here s).depth) && (here s).creason == 0 && !(here s).tstat.inh) = true)
    (hc : s.cur = ⟨0, 0, 0⟩) : Deliverable s ⟨0, 0, 0⟩ := by
  simp only [Bool.and_eq_true, beq_iff_eq, Bool.not_eq_true', here, hc] at h
  exact ⟨h.1.1, h.1.2, h.2⟩

theorem witness_SupervisorEntry : Deliverable supReady ⟨0, 0, 0⟩ ∧ forSupervisor .accNotOwned ∧
    (Sparse.get Reg.zero (supReady.die 0).svec 0).tag = 1 ∧ (Sparse.get Reg.zero (supReady.die 0).ssp 0).tag = 1 ∧
    capBase (Sparse.get Reg.zero (supReady.die 0).ssp 0) ≤ 0x00FFFF0000001000 ∧
    0x00FFFF0000001000 + 4096 ≤ capTop (Sparse.get Reg.zero (supReady.die 0).ssp 0) ∧
    (∃ l, supReady.walk (supReady.slot ⟨0, 0⟩).bind.ptroot 0x00FFFF0000001000 = .ok l) ∧
    ∃ e, encodeBounds 0x00FFFF0000001000 (0x00FFFF0000001000 + 4096) = some e :=
  ⟨deliverable _ (by decide +kernel) rfl, Or.inl rfl, by decide +kernel, by decide +kernel, by decide +kernel, by decide +kernel,
    ⟨⟨0x2F, 0x5000, 0x00FFFF0000000000, 2 ^ 30⟩, by decide +kernel⟩, ⟨(0, 0x1000, 4096), by decide +kernel⟩⟩

/-- A context with a trap vector. -/
def vectored : State := ready0 (fun x => { x with tvec := wide })

theorem witness_TrapDelivery :
    (Deliverable vectored ⟨0, 0, 0⟩ ∧ ¬ forSupervisor .align ∧ (here vectored).tvec.tag = 1) ∧
    (∃ s : State, s.live 0 ((here s).domAt (here s).depth) = true ∧ (here s).creason = 0 ∧ (here s).tstat.inh = true ∧
      (here s).bights = [frame0] ∧ 0 < (here s).resident ∧ s.busyAt s.cur (here s).depth = false) ∧
    (∃ s : State, s.live 0 ((here s).domAt (here s).depth) = true ∧ (here s).creason = 0 ∧ (here s).tstat.inh = false ∧
      (here s).tvec.tag ≠ 1 ∧ (here s).depth = 0 ∧ s.busy s.cur = false ∧ (s.svec s.cur).tag ≠ 1) ∧
    (∃ s : State, s.live 0 ((s.ctx ⟨0, 0, 1⟩).domAt (s.ctx ⟨0, 0, 1⟩).depth) = true ∧ (s.ctx ⟨0, 0, 1⟩).creason = 0 ∧
      (s.ctx ⟨0, 0, 1⟩).tstat.inh = true ∧ (s.ctx ⟨0, 0, 1⟩).depth = 0 ∧ s.busy ⟨0, 0, 1⟩ = false) ∧
    (∃ s : State, s.live 0 ((here s).domAt (here s).depth) = true ∧ (here s).creason = 0 ∧ (here s).tstat.inh = true ∧
      (here s).depth = 0 ∧ s.busy s.cur = true) :=
  ⟨⟨deliverable _ (by decide +kernel) rfl, by unfold forSupervisor; decide, by decide +kernel⟩,
    ⟨(called Reg.zero 0).modCtx ⟨0, 0, 0⟩ (fun x => { x with tstat := { x.tstat with inh := true } }), by decide +kernel⟩,
    ⟨ready 0, by decide +kernel⟩,
    ⟨(ready 0).modCtx ⟨0, 0, 1⟩ (fun x => { x with dom := 1, tstat := { x.tstat with inh := true } }), by decide +kernel⟩,
    ⟨(held (hs .pending 0)).modCtx ⟨0, 0, 0⟩ (fun x => { x with tstat := { x.tstat with inh := true } }), by decide +kernel⟩⟩

/-- A context in a handler, entered from 0x40. -/
def handling : State := ready0 (fun x => { x with tpc := 0x40, tcode := wide, tstat := { x.tstat with inh := true } })

theorem witness_TrapForms :
    (∃ (s1 t : State) (v : W64) (x : Ctx), Starts (.trap (.g 7)) .closes [.g 7] [.g 7] (twoRegs 0 3) s1 ∧
      readData (.g 7) s1 = .ok (v, t) ∧ (here t).settled.advance 4 = .ok x ∧
      (x.depth = 0 ∨ (t.setCtx (twoRegs 0 3).cur x).unwind (twoRegs 0 3).cur = .quiet)) ∧
    (∃ x, Starts .bkpt .closes [] [] (ready 0) (ready 0) ∧ (here (ready 0)).settled.advance 4 = .ok x ∧
      (x.depth = 0 ∨ ((ready 0).setCtx (ready 0).cur x).unwind (ready 0).cur = .quiet)) ∧
    (Starts .eret .transfer [] [] handling handling ∧ (here handling).tstat.inh = true ∧ (here handling).tpc.toNat % 2 = 0 ∧
      representable (here handling).tcode (here handling).tpc = true) ∧
    (Starts .eret .transfer [] [] (ready 0) (ready 0) ∧ (here (ready 0)).tstat.inh = false) :=
  ⟨⟨_, _, _, _, ⟨Or.inl rfl, rfl, rfl, rfl⟩, rfl, rfl, Or.inl rfl⟩, ⟨_, ⟨Or.inl rfl, rfl, rfl, rfl⟩, rfl, Or.inl rfl⟩,
    ⟨⟨Or.inl rfl, rfl, rfl, rfl⟩, by decide +kernel⟩, ⟨Or.inl rfl, rfl, rfl, rfl⟩, rfl⟩

/-- Context 0 asks a service. -/
def calling (n : W64) (q : Option SysReq) : State := ready0 (fun x => { x.setReg 4 (Reg.data n) with sysreq := q })
/-- Its request, answered. -/
def askedOf (n : BitVec 16) (a : Option (W64 × Option Reg)) : SysReq := ⟨n, [Reg.zero, Reg.zero, Reg.zero, Reg.zero, Reg.zero, Reg.zero], [], a⟩

theorem witness_ServiceForms :
    (∃ (s s1 t u v : State) (r : Reg), Starts (.wswin (.g 5) (.g 7)) .closes [.g 7] [.g 5, .g 7] s s1 ∧ read (.g 7) s1 = .ok (r, t) ∧
      r.tag = 0 ∧ t.clock.mhz ≤ 100000 ∧
      (((if ((t.timeNs : Int) % 64000 - 8000 * (r.lo.toNat % 8 : Nat)) % 64000 < 1600 then
          -(1600 - ((t.timeNs : Int) % 64000 - 8000 * (r.lo.toNat % 8 : Nat)) % 64000)
        else 64000 - ((t.timeNs : Int) % 64000 - 8000 * (r.lo.toNat % 8 : Nat)) % 64000) * t.clock.mhz : Int)).tdiv 1000 =
          (5600 : W64).toInt ∧
      write (Instr.word (.wswin (.g 5) (.g 7))) (.g 5) (Reg.data 5600) t = .ok ((), u) ∧ GoesOn (.wswin (.g 5) (.g 7)) u v) ∧
    (∃ (s : State) (p : Spot) (x : Xl), s.reach s.cur (wide.withCursor 0x100000000) (loadAsk 1) 0x100000000 = .ok p ∧ p.xl = some x ∧
      x.mt = 1 ∧ p.loc = .weight 0 0x10000) ∧
    (∃ (s s1 t u v : State) (w : W64), Starts (.wsstat (.g 5) (.g 7)) .closes [.g 7] [.g 5, .g 7] s s1 ∧ readData (.g 7) s1 = .ok (w, t) ∧
      write (Instr.word (.wsstat (.g 5) (.g 7))) (.g 5) (Reg.data 0) t = .ok ((), u) ∧ GoesOn (.wsstat (.g 5) (.g 7)) u v) ∧
    (∃ (s v : State) (r : SysReq), Starts .syscall .closes [] [] s s ∧ (here s).sysreq = some r ∧ r.answer = some (0, none) ∧
      r.staged = [] ∧ GoesOn .syscall (s.modCtx s.cur (fun y => y.setReg 4 (Reg.data 0))) v) ∧
    (∃ s : State, Starts .syscall .closes [] [] s s ∧ (here s).sysreq = none ∧ s.releaseBlocked s.cur .sys = false ∧
      (∀ i : GReg, 5 ≤ i.val → i.val ≤ 10 → s.mustStage s.cur.sl ((here s).reg i) = false) ∧
      isService ((here s).reg 4).lo.toNat = true) ∧
    (∃ s : State, Starts .syscall .closes [] [] s s ∧ (here s).sysreq = none ∧ s.releaseBlocked s.cur .sys = false ∧
      (∀ i : GReg, 5 ≤ i.val → i.val ≤ 10 → s.mustStage s.cur.sl ((here s).reg i) = false) ∧
      isService ((here s).reg 4).lo.toNat = false) ∧
    (∃ (s u v : State) (p : Spot), Starts (.launch (.g 5) 6) .closes [] [.g 5] s s ∧
      s.reachRecord s.cur ((here s).reg 6) ⟨[permL], .read, false, 128, 128, false⟩ ((here s).reg 6).lo = .ok p ∧
      s.releaseBlocked s.cur .dev = false ∧ 64 ≤ (s.part 0).devQueue.length ∧
      write (Instr.word (.launch (.g 5) 6)) (.g 5) (Reg.data 1) (s.cacheHost p.loc 128 false) = .ok ((), u) ∧
      GoesOn (.launch (.g 5) 6) u v) ∧
    (∃ (s u v : State) (p : Spot), Starts (.launch (.g 5) 6) .closes [] [.g 5] s s ∧
      s.reachRecord s.cur ((here s).reg 6) ⟨[permL], .read, false, 128, 128, false⟩ ((here s).reg 6).lo = .ok p ∧
      s.releaseBlocked s.cur .dev = false ∧ ¬ 64 ≤ (s.part 0).devQueue.length ∧
      write (Instr.word (.launch (.g 5) 6)) (.g 5) (Reg.data 0) ((s.cacheHost p.loc 128 false).modPart 0 (fun q =>
        { q with devQueue := q.devQueue ++ [s.readBytes p.loc 128] })) = .ok ((), u) ∧ GoesOn (.launch (.g 5) 6) u v) := by
  refine ⟨⟨twoRegs 0 1, _, _, _, _, _, ⟨Or.inl rfl, rfl, rfl, rfl⟩, rfl, by decide +kernel, by decide +kernel, by decide +kernel, rfl, _,
      rfl, rfl⟩,
    ⟨paged 0x1020F (ready 0), ⟨.weight 0 0x10000, false, some ⟨1, .weight 0 0x10000, ⟨0, 0⟩, false, 0x1020F, 0x2000, 0x100000000, 4096⟩,
      none, false⟩, _, by decide +kernel, rfl, rfl, rfl⟩,
    ⟨twoRegs 0 1, _, _, _, _, _, ⟨Or.inl rfl, rfl, rfl, rfl⟩, rfl, rfl, _, rfl, rfl⟩,
    ⟨calling 0x40 (some (askedOf 0x40 (some (0, none)))), _, askedOf 0x40 (some (0, none)), ⟨Or.inl rfl, rfl, rfl, rfl⟩, rfl, rfl, rfl,
      _, rfl, rfl⟩,
    ⟨calling 0x40 none, ⟨Or.inl rfl, rfl, rfl, rfl⟩, rfl, by decide +kernel, by decide +kernel, by decide +kernel⟩,
    ⟨calling 0x999 none, ⟨Or.inl rfl, rfl, rfl, rfl⟩, rfl, by decide +kernel, by decide +kernel, by decide +kernel⟩,
    ⟨(near 0x1000).modPart 0 (fun q => { q with devQueue := List.replicate 64 [] }), _, _, own 0x1000, ⟨Or.inl rfl, rfl, rfl, rfl⟩,
      by decide +kernel, by decide +kernel, by decide +kernel, rfl, _, rfl, rfl⟩,
    ⟨near 0x1000, _, _, own 0x1000, ⟨Or.inl rfl, rfl, rfl, rfl⟩, by decide +kernel, by decide +kernel, by decide +kernel, rfl, _, rfl, rfl⟩⟩

/-- A shape record at 0x1000: four units from 0x8000 on. -/
def shp : Shape := ⟨wide.withCursor 0x8000, [4, 1, 1, 1], [1, 0, 0, 0], 1, 0, none, 0x1000, 0⟩
/-- Context 0 with the address of that record in g6, g7, g10 and g11, and a word in g8; a chain of one step, Y from A,
stands at 0x1100, which g9 names. -/
def shaped (w : W64) : State :=
  let s := ready0 (fun x => (((((x.setReg 6 (wide.withCursor 0x1000)).setReg 7 (wide.withCursor 0x1000)).setReg 8 (Reg.data w)).setReg 10
    (wide.withCursor 0x1000)).setReg 11 (wide.withCursor 0x1000)).setReg 9 (wide.withCursor 0x1100))
  let s := (s.pokeReg (.localStore 0 0 0 0x1000) (wide.withCursor 0x8000) true).poke (.localStore 0 0 0 0x1010)
    (bytesLE 2 4 ++ bytesLE 2 1 ++ bytesLE 2 1 ++ bytesLE 2 1 ++ bytesLE 4 1 ++ bytesLE 4 0 ++ bytesLE 4 0 ++ bytesLE 4 0 ++ bytesLE 4 8)
  s.poke (.localStore 0 0 0 0x1100) (bytesLE 4 1 ++ bytesLE 4 0x38000)

theorem can_issue {s : State} {e : EngineKind}
    (h : (decide ((s.core s.cur.core).queued e < 2) && !s.earlier s.cur e && decide ((here s).usc < 1024) &&
      !s.releaseBlocked s.cur (if (here s).dscope.toNat < 5 then .dev else .sys)) = true)
    (hp : (here s).pickSlot = .ok 0) : CanIssue s e true (some 0) := by
  simp only [Bool.and_eq_true, Bool.not_eq_true', decide_eq_true_eq] at h
  exact ⟨h.1.1.1, h.1.1.2, fun _ => h.1.2, h.2, fun k hk => by rw [← Option.some.inj hk]; exact hp⟩

/-- An options word for CPYB in domain register 0. -/
def broadcast : State := (shaped 0).modCtx ⟨0, 0, 0⟩ (fun x => x.setDomReg 0 coreDom)

theorem witness_CopyIssue :
    (∃ (s1 t : State) (x : Ctx), copyForm (.cpy 5 6 7 (.g 8)) = some (5, 6, 7, .g 8) ∧
      Starts (.cpy 5 6 7 (.g 8)) .closes [.g 8] [.g 8] (shaped 0) s1 ∧ readShape 6 s1 = .ok (shp, s1) ∧ readShape 7 s1 = .ok (shp, s1) ∧
      readData (.g 8) s1 = .ok (0, t) ∧ CopyOptions (.cpy 5 6 7 (.g 8)) t 0 .cpy ∧ CanIssue t .copy true (some 0) ∧
      (here t).settled.advance 4 = .ok x) ∧
    CopyOptions (.cpyr 5 6 7 (.g 8)) (shaped 0) 0 .cpyr ∧
    CopyOptions (.cpyr 5 6 7 (.g 8)) (shaped 0) 0x100300000000 (.cpyrX 3 ((shaped 0).routeFor 3 0) (shaped 0).nextOp) ∧
    CopyOptions (.cpyb 5 6 7 (.g 8)) broadcast 0 (.cpyb coreDom) ∧
    (∃ (s1 t : State) (x : Ctx), Starts (.cfill 5 6 (.g 8)) .closes [.g 8] [.g 8] (shaped 7) s1 ∧ readShape 6 s1 = .ok (shp, s1) ∧
      readData (.g 8) s1 = .ok (7, t) ∧ CanIssue t .copy true (some 0) ∧ (here t).settled.advance 4 = .ok x) :=
  ⟨⟨_, _, _, rfl, ⟨Or.inl rfl, rfl, rfl, rfl⟩, by decide +kernel, by decide +kernel, rfl, ⟨by decide, by decide, rfl⟩,
      can_issue (by decide +kernel) (by decide +kernel), rfl⟩,
    ⟨by decide, by decide, Or.inl ⟨by decide, by decide, rfl⟩⟩, ⟨by decide, by decide, Or.inr ⟨by decide, by decide +kernel⟩⟩,
    ⟨by decide, by decide, by decide, by decide +kernel, by decide +kernel, by decide +kernel⟩,
    ⟨_, _, _, ⟨Or.inl rfl, rfl, rfl, rfl⟩, by decide +kernel, rfl, can_issue (by decide +kernel) (by decide +kernel), rfl⟩⟩

theorem witness_VectorIssue :
    (∃ x, Starts (.vmap 5 6 10 1) .closes [] [] (shaped 0) (shaped 0) ∧ eopArity 1 = some 2 ∧ CanIssue (shaped 0) .vector true (some 0) ∧
      shapesAt [6, 7, 10] (shaped 0) = .ok ([shp, shp, shp], shaped 0) ∧ Agree (shaped 0) true shp [shp, shp] ∧ (here (shaped 0)).settled.advance 4 = .ok x) ∧
    (∃ (s1 t : State) (x : Ctx), Starts (.vmapBs 5 6 (.g 8) 1) .closes [.g 8] [.g 8] (shaped 1) s1 ∧
      shapesAt [6, 7] s1 = .ok ([shp, shp], s1) ∧ readData (.g 8) s1 = .ok (1, t) ∧ (1 : W64).toNat ≤ 1 ∧ CanIssue t .vector true (some 0) ∧
      Agree t true shp [shp] ∧ (here t).settled.advance 4 = .ok x) ∧
    (∃ (s : State) (one : Shape), Starts (.vred 5 6 1) .closes [] [] s s ∧ vecShape 6 s = .ok (one, s) ∧ vecShape 7 s = .ok (one, s) ∧
      MayCount s true one 1 ∧ CanIssue s .vector true (some 0)) ∧
    (∃ (s : State) (none_ : Shape), Starts (.vred 5 6 0x2D) .closes [] [] s s ∧ vecShape 6 s = .ok (none_, s) ∧ none_.count = 0 ∧
      MayCount s false none_ 0) ∧
    (threeForm (.vgath 5 6 10) = some (5, 6, 10, .gather, true) ∧ Starts (.vgath 5 6 10) .closes [] [] (shaped 0) (shaped 0) ∧
      shapesAt [6, 7, 10] (shaped 0) = .ok ([shp, shp, shp], shaped 0) ∧ CanIssue (shaped 0) .vector true (some 0) ∧
      Agree (shaped 0) true shp [shp]) ∧
    (Starts (.vchain 5 6 0 9) .closes [] [] (shaped 0) (shaped 0) ∧
      shapesAt [6, 7] (shaped 0) = .ok ([shp, shp], shaped 0) ∧ Agree (shaped 0) true shp [shp] ∧
      readChain 9 false (shaped 0) = .ok (⟨1, [0x38000]⟩, shaped 0) ∧
      ((usedOps (([0x38000] : List (BitVec 32)).map stepOf)).contains 1 = false ∧
        (usedOps (([0x38000] : List (BitVec 32)).map stepOf)).contains 2 = false)) := by
  refine ⟨⟨_, ⟨Or.inl rfl, rfl, rfl, rfl⟩, by decide +kernel, can_issue (by decide +kernel) (by decide +kernel), by decide +kernel,
      ⟨4, by unfold MayCount; decide +kernel⟩, rfl⟩,
    ⟨_, _, _, ⟨Or.inl rfl, rfl, rfl, rfl⟩, by decide +kernel, rfl, by decide,
      can_issue (by decide +kernel) (by decide +kernel), ⟨4, by unfold MayCount; decide +kernel⟩, rfl⟩,
    ⟨(shaped 0).poke (.localStore 0 0 0 0x1010) (bytesLE 2 1), { shp with ext := [1, 1, 1, 1] }, ⟨Or.inl rfl, rfl, rfl, rfl⟩,
      by decide +kernel, by decide +kernel, by unfold MayCount; decide +kernel, can_issue (by decide +kernel) (by decide +kernel)⟩,
    ⟨(shaped 0).poke (.localStore 0 0 0 0x1010) (bytesLE 2 0), { shp with ext := [0, 1, 1, 1] }, ⟨Or.inl rfl, rfl, rfl, rfl⟩,
      by decide +kernel, by decide, by unfold MayCount; decide +kernel⟩,
    ⟨rfl, ⟨Or.inl rfl, rfl, rfl, rfl⟩, by decide +kernel, can_issue (by decide +kernel) (by decide +kernel),
      ⟨4, by unfold MayCount; decide +kernel⟩⟩,
    ⟨⟨Or.inl rfl, rfl, rfl, rfl⟩, by decide +kernel, ⟨4, by unfold MayCount; decide +kernel⟩, by decide +kernel, by decide +kernel⟩⟩

/-- Context 0 owns the accumulator set of its core. -/
def owned (w : W64) : State := (shaped w).modCore 0 (fun k => { k with accown := ⟨false, false, false, false, false, true, 0, 0⟩ })

theorem owns : Owns (owned 0) := ⟨by decide +kernel, by decide +kernel⟩

theorem witness_MatrixIssue : Owns (owned 0) ∧ Owns (owned 0x800) ∧
    (∃ (s1 t : State) (vs : List Reg) (x : Ctx), mmaForm (.mma 5 6 (.g 8) (.g 8)) = some (false, 5, 6, .g 8, .g 8) ∧
      Starts (.mma 5 6 (.g 8) (.g 8)) .closes [.g 8, .g 8] [.g 8, .g 8] (owned 0) s1 ∧ takeAll [.g 8, .g 8] s1 = .ok (vs, t) ∧
      lows vs = [0, 0] ∧ matShape 6 t = .ok (shp, t) ∧ 1 ≤ shp.rows ∧ shp.rows ≤ 32 ∧ rowOf t false shp ≤ 8192 ∧
      CanIssue t .matrix true (handleOf 5 0) ∧ (here t).settled.advance 4 = .ok x) ∧
    (∃ (s1 t : State), Starts (.mldb 5 6 (.g 8)) .closes [.g 8] [.g 8] (owned 0) s1 ∧ readData (.g 8) s1 = .ok (0, t) ∧
      matShape 6 t = .ok (shp, t) ∧ shp.e0 * groupOf (t.issueFmt ⟨0, 0, 0⟩ false shp) ≤ 32 * (wordKb 0 + 1) ∧ shp.rows ≤ 32 * (wordNt 0 + 1) ∧
      CanIssue t .matrix true (handleOf 5 0)) ∧
    (∃ (s1 t : State), Starts (.mzero 5 (.g 8)) .closes [.g 8] [.g 8] (owned 0) s1 ∧ readData (.g 8) s1 = .ok (0, t) ∧
      CanIssue t .matrix true (handleOf 5 0)) ∧
    (∃ (s1 t : State), storeTileForm (.msta 5 6 (.g 8)) = some (false, 5, 6, .g 8) ∧
      Starts (.msta 5 6 (.g 8)) .closes [.g 8] [.g 8] (owned 0) s1 ∧ readData (.g 8) s1 = .ok (0, t) ∧ storeWordBad false 0 = false ∧
      CanIssue t .matrix true (handleOf 5 0) ∧ matShape 6 t = .ok (shp, t) ∧ rowOf t true shp ≤ maxCols (wordTile 0)) ∧
    (∃ (s1 t : State), Starts (.mlda 5 6 (.g 8)) .closes [.g 8] [.g 8] (owned 0x800) s1 ∧ readData (.g 8) s1 = .ok (0x800, t) ∧
      storeWordBad true 0x800 = false ∧ fieldOf 0x800 11 1 = 1 ∧ ((here t).reg 6).lo.toNat % 64 = 0 ∧
      checkCap (t.live 0) ((here t).reg 6) (permL ||| permS ||| permE) ((here t).reg 6).lo imageBytes = none) :=
  ⟨owns, ⟨by decide +kernel, by decide +kernel⟩,
    ⟨_, _, _, _, rfl, ⟨Or.inl rfl, rfl, rfl, rfl⟩, rfl, rfl, by decide +kernel, by decide, by decide, by decide +kernel,
      can_issue (by decide +kernel) (by decide +kernel), rfl⟩,
    ⟨_, _, ⟨Or.inl rfl, rfl, rfl, rfl⟩, rfl, by decide +kernel, by decide +kernel, by decide,
      can_issue (by decide +kernel) (by decide +kernel)⟩,
    ⟨_, _, ⟨Or.inl rfl, rfl, rfl, rfl⟩, rfl, can_issue (by decide +kernel) (by decide +kernel)⟩,
    ⟨_, _, rfl, ⟨Or.inl rfl, rfl, rfl, rfl⟩, rfl, by decide, can_issue (by decide +kernel) (by decide +kernel), by decide +kernel,
      by decide +kernel⟩,
    ⟨_, _, ⟨Or.inl rfl, rfl, rfl, rfl⟩, rfl, by decide, by decide, by decide +kernel, by decide +kernel⟩⟩

/-- A fault record, of the command that handle slot 3 stood for, and that handle in g6. -/
def faulted (same : Bool) : State :=
  ((owned 0).modCore 0 (fun k => { k with accFault := some ⟨(handleReg ⟨0, 0, 0⟩ 3 (if same then 7 else 8)).bits.setWidth 39, 1, false, 0, 0,
    shp⟩ })).modCtx ⟨0, 0, 0⟩ (fun x => (x.setHslot 3 (hs .resolved 0)).setReg 6 (handleReg ⟨0, 0, 0⟩ 3 7))

theorem witness_MatrixOwner :
    (∃ u v : State, Starts (.mown (.g 5)) .closes [] [.g 5] (owned 0) (owned 0) ∧ Owns (owned 0) ∧
      write (Instr.word (.mown (.g 5))) (.g 5) (Reg.data ((owned 0).core 0).accown.word) (owned 0) = .ok ((), u) ∧
      GoesOn (.mown (.g 5)) u v) ∧
    (∃ (u v : State), Starts (.mfree (.g 5)) .closes [] [.g 5] (owned 0) (owned 0) ∧ (owned 0).accHeld ⟨0, 0, 0⟩ = false ∧
      ((owned 0).core 0).matQ = [] ∧
      write (Instr.word (.mfree (.g 5))) (.g 5) (Reg.data 0) (((owned 0).clearAcc 0).dropImage ⟨0, 0, 0⟩) = .ok ((), u) ∧
      GoesOn (.mfree (.g 5)) u v) ∧
    (∃ (s u v : State), Starts (.mfree (.g 5)) .closes [] [.g 5] s s ∧ s.accHeld s.cur = false ∧
      (s.core s.cur.core).accown.names s.cur = false ∧ write (Instr.word (.mfree (.g 5))) (.g 5) (Reg.data 1) s = .ok ((), u) ∧
      GoesOn (.mfree (.g 5)) u v) ∧
    (∃ (s1 t : State) (x : Ctx), Starts (.msync 5 (.g 8)) .closes [.g 8] [.g 8] (owned 1) s1 ∧ (owned 1).accHeld ⟨0, 0, 0⟩ = false ∧
      ((owned 1).core 0).accown.names ⟨0, 0, 0⟩ = true ∧ readData (.g 8) s1 = .ok (1, t) ∧ (t.core 0).syncs = [] ∧
      (here t).settled.advance 4 = .ok x ∧ (here t).pickSlot = .ok 0) ∧
    (∃ (s : State) (r : Option (CtxId × Fin 16)) (x : Ctx) (f : FaultRec), Starts (.mresume 5 6) .closes [] [] s s ∧ Owns s ∧
      ((here s).reg 6).tag = 2 ∧ lookHandle ((here s).reg 6) s = .ok (r, s) ∧ (here s).settled.advance 4 = .ok x ∧
      (s.core 0).accFault = some f ∧ f.handle = ((here s).reg 6).bits.setWidth 39 ∧ CanIssue s .matrix true (handleOf 5 0)) ∧
    (∃ (s : State) (r : Option (CtxId × Fin 16)) (x : Ctx), Starts (.mresume 5 6) .closes [] [] s s ∧ Owns s ∧
      ((here s).reg 6).tag = 2 ∧ lookHandle ((here s).reg 6) s = .ok (r, s) ∧ (here s).settled.advance 4 = .ok x ∧
      ∀ f, (s.core 0).accFault = some f → f.handle ≠ ((here s).reg 6).bits.setWidth 39) := by
  refine ⟨⟨_, _, ⟨Or.inl rfl, rfl, rfl, rfl⟩, owns, rfl, _, rfl, rfl⟩,
    ⟨_, _, ⟨Or.inl rfl, rfl, rfl, rfl⟩, by rfl, by rfl, rfl, _, rfl, rfl⟩,
    ⟨shaped 0, _, _, ⟨Or.inl rfl, rfl, rfl, rfl⟩, by rfl, by decide +kernel, rfl, _, rfl, rfl⟩,
    ⟨_, _, _, ⟨Or.inl rfl, rfl, rfl, rfl⟩, by rfl, by rfl, rfl, by rfl, rfl, by decide +kernel⟩,
    ⟨(faulted true).modCtx ⟨0, 0, 0⟩ (fun x => x.setHslot 3 { hs .resolved 0 with dom := 1 }), some (⟨0, 0, 0⟩, 3), _, _,
      ⟨Or.inl rfl, rfl, rfl, rfl⟩, ⟨by rfl, by rfl⟩, by decide +kernel, rfl, rfl, by rfl, by decide +kernel,
      can_issue (by decide +kernel) (by decide +kernel)⟩,
    ⟨(faulted false).modCtx ⟨0, 0, 0⟩ (fun x => x.setHslot 3 { hs .resolved 0 with dom := 1 }), some (⟨0, 0, 0⟩, 3), _,
      ⟨Or.inl rfl, rfl, rfl, rfl⟩, ⟨by rfl, by rfl⟩, by decide +kernel, rfl, rfl, fun f hf => ?_⟩⟩
  have h := Option.some.inj ((show some _ = some f from hf))
  subst h
  decide +kernel

/-- Context 0 with words in g6 and g7; its slot holds bank 1 of its core, which is at tick 3. -/
def banked (a b : W64) : State := (twoRegs a b).modSlot ⟨0, 0⟩ (fun q => { q with time := 3 })

theorem held_bank {s : State} {v : W64} {n : Nat} (h : (v.toNat == n && decide (n < 8) && (s.slot s.cur.sl).bind.banks.getLsbD n) = true) :
    HeldBank s v n := by
  simp only [Bool.and_eq_true, beq_iff_eq, decide_eq_true_eq] at h
  exact ⟨h.1.1, h.1.2, h.2⟩

theorem witness_BankForms :
    (∃ (s s1 t : State) (p : Spot), Starts (.ecfg 6 (.g 7)) .closes [.g 7] [.g 7] s s1 ∧
      s1.reachRecord s.cur ((here s1).reg 6) ⟨[permL], .read, false, 64, 64, false⟩ ((here s1).reg 6).lo = .ok p ∧
      readData (.g 7) (s1.cacheHost p.loc 64 false) = .ok (1, t) ∧ HeldBank t 1 1 ∧ t.noTickOf s.cur.sl = true ∧
      bankBad (t.readBytes p.loc 64) (bankOf64 (t.readBytes p.loc 64) (t.slot s.cur.sl).time) (t.slot s.cur.sl).bind.size = false) ∧
    (∃ (s s1 t u v : State) (vs : List Reg), Starts (.edrain (.g 5) (.g 6) (.g 7)) .closes [.g 6, .g 7] [.g 5, .g 6, .g 7] s s1 ∧
      takeAll [.g 6, .g 7] s1 = .ok (vs, t) ∧ lows vs = [1, 4] ∧ HeldBank t 1 1 ∧
      write (Instr.word (.edrain (.g 5) (.g 6) (.g 7))) (.g 5) (Reg.data 0) t = .ok ((), u) ∧
      GoesOn (.edrain (.g 5) (.g 6) (.g 7)) u v) ∧
    (∀ w : W64, w = 0x105 ∨ w = 0x1105 ∨ w = 0x2000 ∨ w = 0x3100 → ∃ (s1 t : State) (sel bank n : Nat),
      Starts (.erd (.g 5) (.g 6)) .closes [.g 6] [.g 5, .g 6] (banked w 0) s1 ∧ readData (.g 6) s1 = .ok (w, t) ∧
      NeuronAt t w sel bank n ∧ t.noTickOf ⟨0, 0⟩ = true) ∧
    (∃ (s1 t : State) (vs : List Reg), Starts (.ewr (.g 5) (.g 6) (.g 7)) .closes [.g 6, .g 7] [.g 5, .g 6, .g 7] (banked 0x105 9) s1 ∧
      takeAll [.g 6, .g 7] s1 = .ok (vs, t) ∧ lows vs = [0x105, 9] ∧ t.noTickOf ⟨0, 0⟩ = true ∧ NeuronAt t 0x105 0 1 5) ∧
    (∃ (s1 t : State) (vs : List Reg), Starts (.ewr (.g 5) (.g 6) (.g 7)) .closes [.g 6, .g 7] [.g 5, .g 6, .g 7] (banked 0x1105 2) s1 ∧
      takeAll [.g 6, .g 7] s1 = .ok (vs, t) ∧ lows vs = [0x1105, 2] ∧ t.noTickOf ⟨0, 0⟩ = true ∧ NeuronAt t 0x1105 1 1 5 ∧
      fieldOf 2 48 15 = 0 ∧ fieldOf 2 0 32 ≤ (t.slot ⟨0, 0⟩).time.toNat) := by
  refine ⟨⟨ready0 (fun x => (x.setReg 6 (wide.withCursor 0x1000)).setReg 7 (Reg.data 1)), _, _, own 0x1000, ⟨Or.inl rfl, rfl, rfl, rfl⟩,
      by decide +kernel, rfl, held_bank (by decide +kernel), by decide +kernel, by decide +kernel⟩,
    ⟨banked 1 4, _, _, _, _, _, ⟨Or.inl rfl, rfl, rfl, rfl⟩, rfl, rfl, held_bank (by decide +kernel), rfl, _, rfl, rfl⟩, ?_,
    ⟨_, _, _, ⟨Or.inl rfl, rfl, rfl, rfl⟩, rfl, rfl, by decide +kernel, by unfold NeuronAt; decide +kernel⟩,
    ⟨_, _, _, ⟨Or.inl rfl, rfl, rfl, rfl⟩, rfl, rfl, by decide +kernel, by unfold NeuronAt; decide +kernel, by decide, by decide +kernel⟩⟩
  rintro w (rfl | rfl | rfl | rfl)
  · exact ⟨_, _, 0, 1, 5, ⟨Or.inl rfl, rfl, rfl, rfl⟩, rfl, by unfold NeuronAt; decide +kernel, by decide +kernel⟩
  · exact ⟨_, _, 1, 1, 5, ⟨Or.inl rfl, rfl, rfl, rfl⟩, rfl, by unfold NeuronAt; decide +kernel, by decide +kernel⟩
  · exact ⟨_, _, 2, 0, 0, ⟨Or.inl rfl, rfl, rfl, rfl⟩, rfl, by unfold NeuronAt; decide +kernel, by decide +kernel⟩
  · exact ⟨_, _, 3, 1, 0, ⟨Or.inl rfl, rfl, rfl, rfl⟩, rfl, by unfold NeuronAt; decide +kernel, by decide +kernel⟩

/-- The hypotheses of EPOST g6, g7. -/
def PostMeets (s : State) (h p : W64) (t : State) : Prop :=
  ∃ (s1 : State) (vs : List Reg), Starts (.epost (.g 6) (.g 7)) .closes [.g 6, .g 7] [.g 6, .g 7] s s1 ∧
    takeAll [.g 6, .g 7] s1 = .ok (vs, t) ∧ lows vs = [h, p]
/-- Context 0's slot is being evicted. -/
def leavingSlot (s : State) : State := s.modSlot ⟨0, 0⟩ (fun q => { q with phase := .evicting })
/-- Bank 1 has a fan-out list, of one entry for neuron 5. -/
def fanned : State :=
  (((banked 0x105 3).setBank 0 1 { ((banked 0 0).core 0).bank 1 with fobase := 0x2000, fonum := 1 }).poke (.localStore 0 0 0 0x200A)
    (bytesLE 2 1)).poke (.localStore 0 0 0 0x2200) (bytesLE 8 0x50001)

theorem witness_EventForms :
    (∃ x, Starts (.epostv 5 6) .closes [] [] (shaped 0) (shaped 0) ∧ readShape 6 (shaped 0) = .ok (shp, shaped 0) ∧
      CanIssue (shaped 0) .integrator true (some 0) ∧ (here (shaped 0)).settled.advance 4 = .ok x) ∧
    (∃ (s1 t : State) (x : Ctx), Starts (.etick 5 (.g 7)) .closes [.g 7] [.g 7] (banked 0 3) s1 ∧ readData (.g 7) s1 = .ok (3, t) ∧
      (here t).settled.advance 4 = .ok x ∧ t.noTickOf ⟨0, 0⟩ = true ∧ (t.slot ⟨0, 0⟩).time = 3 ∧
      CanIssue t .integrator true (some 0)) ∧
    (∃ (s1 t : State), Starts (.etick 5 (.g 7)) .closes [.g 7] [.g 7] (banked 0 4) s1 ∧ readData (.g 7) s1 = .ok (4, t) ∧
      (t.slot ⟨0, 0⟩).time = 3) ∧
    (∃ t, PostMeets (banked 0x1 0) 0x1 0 t ∧ fieldOf 0x1 0 8 ≠ 0) ∧
    (∃ t, PostMeets (banked 0xFFFFFFFF00000000 0) 0xFFFFFFFF00000000 0 t ∧ ¬ (fieldOf 0xFFFFFFFF00000000 0 8 ≠ 0 ∨
      143 < fieldOf 0xFFFFFFFF00000000 22 8) ∧ fieldOf 0xFFFFFFFF00000000 32 32 = 2 ^ 32 - 1) ∧
    (∃ t x, PostMeets (banked 0x500010000 8) 0x500010000 8 t ∧ fieldOf 0x500010000 32 32 < 2 ^ 32 - 1 ∧
      headerCore 0x500010000 = 0 ∧ (here t).settled.advance 4 = .ok x ∧ t.bankSlot 0 0 1 = some ⟨0, 0⟩ ∧ t.present 0 ⟨0, 0⟩ = true ∧
      (t.slot ⟨0, 0⟩).time.toNat ≤ fieldOf 0x500010000 32 32 ∧ (t.core 0).events.length < 1024) ∧
    (∃ t x, PostMeets (leavingSlot (banked 0x500010000 8)) 0x500010000 8 t ∧ fieldOf 0x500010000 32 32 < 2 ^ 32 - 1 ∧
      headerCore 0x500010000 = 0 ∧ (here t).settled.advance 4 = .ok x ∧ t.bankSlot 0 0 1 = some ⟨0, 0⟩ ∧ t.present 0 ⟨0, 0⟩ = false) ∧
    (∃ t x, PostMeets (banked 0x500090000 8) 0x500090000 8 t ∧ headerCore 0x500090000 ≠ 0 ∧ (here t).settled.advance 4 = .ok x ∧
      (here t).usc < 1024) ∧
    (∃ (s1 t : State) (vs : List Reg) (x : Ctx), Starts (.efan (.g 5) (.g 6) (.g 7)) .closes [.g 6, .g 7] [.g 5, .g 6, .g 7] fanned s1 ∧
      takeAll [.g 6, .g 7] s1 = .ok (vs, t) ∧ lows vs = [0x105, 3] ∧ NeuronAt t 0x105 0 1 5 ∧ (here t).fan = none ∧
      t.fanList ⟨0, 0⟩ ((t.core 0).bank 1) 5 = [0x50001] ∧ (t.core 0).events.length + 1 ≤ 1024 ∧ (here t).usc + 1 ≤ 1024 ∧
      (∃ h, badEntry 0x50001 = false ∧ fanHeader 3 0x50001 = some h) ∧
      (∀ sl, t.bankSlot 0 0 0 = some sl → t.present 0 sl = true) ∧ (here t).settled.advance 4 = .ok x) := by
  refine ⟨⟨_, ⟨Or.inl rfl, rfl, rfl, rfl⟩, by decide +kernel, can_issue (by decide +kernel) (by decide +kernel), rfl⟩,
    ⟨_, _, _, ⟨Or.inl rfl, rfl, rfl, rfl⟩, rfl, rfl, by decide +kernel, by decide +kernel,
      can_issue (by decide +kernel) (by decide +kernel)⟩,
    ⟨_, _, ⟨Or.inl rfl, rfl, rfl, rfl⟩, rfl, by decide +kernel⟩,
    ⟨_, ⟨_, _, ⟨Or.inl rfl, rfl, rfl, rfl⟩, rfl, rfl⟩, by decide⟩,
    ⟨_, ⟨_, _, ⟨Or.inl rfl, rfl, rfl, rfl⟩, rfl, rfl⟩, by decide, by decide⟩,
    ⟨_, _, ⟨_, _, ⟨Or.inl rfl, rfl, rfl, rfl⟩, rfl, rfl⟩, by decide, by decide, rfl, by decide +kernel⟩,
    ⟨_, _, ⟨_, _, ⟨Or.inl rfl, rfl, rfl, rfl⟩, rfl, rfl⟩, by decide, by decide, rfl, by decide +kernel⟩,
    ⟨_, _, ⟨_, _, ⟨Or.inl rfl, rfl, rfl, rfl⟩, rfl, rfl⟩, by decide, rfl, by decide +kernel⟩,
    ⟨_, _, _, _, ⟨Or.inl rfl, rfl, rfl, rfl⟩, rfl, rfl, by unfold NeuronAt; decide +kernel, rfl, by decide +kernel, by decide +kernel,
      by decide +kernel, ⟨_, by decide +kernel, rfl⟩, by decide +kernel, rfl⟩⟩

/-! Witnesses of the events: an instruction and a state in which it is due. -/

/-- Every event of a list is due. -/
def AllDue (form : Instr → State → Option State) (l : List (Instr × State)) : Bool :=
  l.all (fun p => (form p.1 p.2).isSome && !p.2.mcheck)

/-- A store to HBM on its way. -/
def flying (p : StorePhase) : RStore :=
  ⟨5, ⟨0, 0, 0⟩, 0, 4608, .dev, .hbm 0x8000, none, 0, 0x100000000, [1, 2], false, none, false, false, none, false, none, p⟩
/-- A load of a place of HBM, or of another kind, under way. -/
def asking (p : RemotePhase) (l : Loc) : State :=
  ready0 (fun x => { x with
    status := .waiting .reply
    remote := some ⟨p, 5, .ld .d 0 (.g 5) 6 0, .load, l, false, none, 0x100000000, 8, .dev, none, false, none, false, none⟩ })
/-- A context that waits for something. -/
def waiting (w : Wait) : State := ready0 (fun x => { x with status := .waiting w })

theorem witness_NetworkEvents : AllDue networkEvent [
    (.messengerPass 3, ready 0), (.remoteStoreArrive ⟨0, 0, 0⟩ 4608, { ready 0 with stores := [flying .flying] }),
    (.remoteStoreArrive ⟨0, 0, 0⟩ 4608, { ready 0 with stores := [{ flying .flying with release := some .core }] }),
    (.remoteAckSend ⟨0, 0, 0⟩ 0 4608, { ready 0 with arrivals := [(arrivalKey ⟨0, 0, 0⟩ 0 4608, 1)] }),
    (.remoteAckArrive ⟨0, 0, 0⟩ 0 4608, { ready 0 with acks := [⟨4608, ⟨0, 0, 0⟩, 0, 1⟩] }),
    (.retryResend ⟨0, 0, 0⟩ 4608, { ready 0 with stores := [flying .retry] }),
    (.remoteLoadArrive ⟨0, 0, 0⟩, asking .sent (.hbm 0x8000)), (.remoteLoadArrive ⟨0, 0, 0⟩, asking .sent (.weight 0 0)),
    (.remoteReplyArrive ⟨0, 0, 0⟩, asking (.replied 7 false 0) (.hbm 0x8000)),
    (.expansionTimeout ⟨0, 0, 0⟩, asking .sent (.expansion none 0)), (.wsRefreshWindow 3, ready 0),
    (.scopeMissRepair ⟨0, 0, 0⟩, { ready 0 with stores := [flying (.missed 9)] }),
    (.ringRetry ⟨0, 0, 0⟩, (waiting (.ringRoom 0 0)).modCtx ⟨0, 0, 0⟩ (fun x => x.setRing 0 ⟨true, 0, 1, 3, 0x100, 0, 0, 0, 0⟩)),
    (.overflowDivert ⟨0, 0, 0⟩, { waiting (.ringRoom 0 0) with cycle := 4096 }),
    (.overflowMove ⟨0, 0, 0⟩ 0, (ringed 1 Reg.zero Reg.zero).modSlot ⟨0, 0⟩ (fun q => { q with portOvf := [(0, 0, 9)] })),
    (.ringDeliver 0, { ringed 1 Reg.zero Reg.zero with ringmsgs := [⟨0, 0, 9, ⟨0, 0, 0⟩, 0, none, none⟩] })] = true ∧
    (∃ f, ({ ready 0 with frames := [⟨3, 0, 5, 1, 0, 4608, .store, 0⟩, ⟨3, 0, 2, 2, 0, 4608, .load, 0⟩] } : State).nextFrame 3 0 = some f) ∧
    (Loc.hbm 0x8000).inExp = false ∧ ((here (asking .sent (.hbm 0x8000))).remote.any (fun r => r.target.isNone && r.op == .load && !r.mayMiss ⟨0, 0, 0⟩)) = true ∧
    isOk ((asking .sent (.hbm 0x8000)).performAt .load (.hbm 0x8000) 8) = true := by
  refine ⟨by decide +kernel, ⟨_, rfl⟩, by decide +kernel⟩

/-- A flit of a kind and a number, striped over all wavelengths. -/
def flit (kind : BitVec 8) (seq : BitVec 12) : Flit := { bareFlit kind seq [] with mask := 0xFFFF }

theorem witness_LinkEvents : AllDue linkEvent [
    (.flitDataReceive 0 { flit 1 0 with reserved := 1 }, ready 0), (.completionFlitReceive 0 (flit 5 0), ready 0),
    (.flitNackReceive 0 (flit 4 0), ready 0), (.flitAckReceive 0 (flit 2 0), ready 0),
    (.restripeMarkerReceive 0 (bareFlit 3 0 (bytesLE 2 0xFFF0)), ready 0), (.ackFlitTimer 0, ready 0),
    (.replayTimeout 0, { (ready 0).modLink 0 (fun l => { l with held := [flit 1 0] }) with timeNs := 4000 }), (.lossOfLight 0 ⟨2, false⟩, ready 0),
    (.lossOfLight 0 ⟨2, true⟩, ready 0), (.laserLightReturn 0 ⟨2, false⟩, ready 0),
    (.lossDetect 0 ⟨2, true⟩, (ready 0).modLink 0 (fun l => { l with rxLit := 0xB })), (.lossDetect 0 ⟨2, false⟩, (ready 0).modLink 0 (fun l => { l with lit := 0xB })),
    (.linkRetrain 0, ready 0), (.linkRetrain 0, (ready 0).modLink 0 (fun l => { l with rxLive := 0xFFF0 }))] = true ∧
    ((ready 0).receiveFlit 0 (flit 1 0)).2 = true ∧ (wavelengths 0xFF0F).length = 12 ∧ (flit 1 0).payload.length ≤ 64 := by decide +kernel

/-- What an operation keeps of its issue by context 0, with handle slot 0. -/
def head0 : OpHead := ⟨⟨0, 0, 0⟩, some 0, 7, 0, 0, 0, 0, 0, false, 0, 1, [], false, []⟩
/-- A copy, a fill of four units, a matrix command, and two operations of the integrator. -/
def copy0 : CopyOp := ⟨head0, .cpy, shp, some { shp with data := wide.withCursor 0x9000 }, 0, 4, some (some ⟨0, 0⟩, some ⟨0, 0⟩), false, none, [],
  0, 0, none, none, false, false, 0, [], false, []⟩
def vec0 : VecOp := ⟨head0, .map 0 none, shp, shp, none, none, 0, 0, false, [], [], 0, [], none, 0, none, none⟩
def mat0 : MatOp := ⟨head0, .mzero 0, none, 0, false, 0, 0, 0, 0, none, [], false, false, 0, none⟩
def int0 (k : IntKind) (started : Bool) (p : Option Pause) : IntOp := ⟨head0, k, started, [], 0, 0, none, none, p⟩
/-- Their queues, in a core whose context 0 waits for them. -/
def working (f : Core → Core) : State :=
  (shaped 0).modCtx ⟨0, 0, 0⟩ (fun x => (x.setHslot 0 { hs .pending 0 with dom := 1 }).setCount 0 1) |>.modCore 0 f

/-- A matrix command that takes tile steps. -/
def stepping : State :=
  ((owned 0).modCore 0 (fun k => { k with matQ := [{ mat0 with kind := .mma false 0 0, shape := some shp, started := true, fmt := some ⟨1, 0⟩ }] })).modCluster
    0 (fun u => { u with wbgrant0 := 0x80, panels := [⟨0, 1, ⟨1, 0⟩, 1, 1, false, 0, []⟩] })

/-- An event on its way from core 1 to core 0. -/
def evmsg : EvMsg := ⟨⟨0x500010000, 0, 1, 0⟩, 0, 0, ⟨1, 0, 0⟩, 0, none, 3, false, false, none⟩

theorem witness_EngineEvents : AllDue engineEvent [
    (.engineQueueStart 0 .copy 1, working (fun k => { k with copyQ := [copy0] })),
    (.engineQueueStart 0 .vector 1, working (fun k => { k with vecQ := [vec0] })),
    (.engineQueueStart 0 .matrix 1, working (fun k => { k with matQ := [mat0] })),
    (.engineQueueStart 0 .integrator 1, working (fun k => { k with intQ := [int0 (.tick 0) false none] })),
    (.copyResolve 0, working (fun k => { k with copyQ := [copy0] })),
    (.vectorResolve 0, working (fun k => { k with vecQ := [vec0] })), (.matrixResolve 0, working (fun k => { k with matQ := [mat0] })),
    (.etickStart 0, working (fun k => { k with intQ := [int0 (.tick 0) false none] })),
    (.tickDrainResume 0, working (fun k => { k with intQ := [int0 (.tick 0) true (some .drain)] })),
    (.etickResolve 0, working (fun k => { k with intQ := [int0 (.tick 0) true none] })),
    (.epostvResolve 0, working (fun k => { k with intQ := [int0 (.postv shp) true none] })),
    (.eventDeliver 0, { ready 0 with evmsgs := [evmsg] })] = true ∧
    (∃ near far : List Piece, copy0.k < copy0.n ∧ copy0.out = [] ∧ copy0.ending = none ∧ (working id).cancelAsked head0 = false ∧
      (working id).elem head0 true false (unitIs (opUnit shp (some ⟨0, 0⟩))) anywhere { shp with data := wide.withCursor 0x9000 }
        (opUnit shp (some ⟨0, 0⟩)) 0 = .ok near ∧
      ((working id).seePieces near).elem head0 true true (unitIs (opUnit shp (some ⟨0, 0⟩))) copy0.place shp
        (opUnit shp (some ⟨0, 0⟩)) 0 = .ok far) := by
  refine ⟨by decide +kernel, _, _, by decide, rfl, rfl, by decide +kernel, rfl, rfl⟩

theorem witness_TileStep : (stepping.arbitrate 0).isSome = true := by decide +kernel

/-- Partition 0 has a page table at 0x3000, in which 2^32 is a page with an entry. -/
def tabled (pte : W64) (s : State) : State :=
  (((s.modPart 0 (fun p => { p with assigned := true, ptroot := 0x3000, pctb := 0x40000 })).setHbm64 0x3000 0x4001).setHbm64 0x4000
    0x5001).setHbm64 0x5020 pte
/-- An entry of the page cache of partition 0, in a state. -/
def cached (st : Nat) : State := (tabled 0 (ready 0)).setPcState 0x40000 st 0 0
/-- Host 0 reaches some of HBM. -/
def windowed : State := (ready 0).modPf 0 (fun p => { p with hbmBase := 0, hbmSize := 0x10000 })
/-- A template for the page at 2^32, and a pool. -/
def pooled : State := (tabled 0x2 (ready 0)).modPart 0 (fun p => { p with ranges := [(0x100000, 0x10000)] })
/-- The initiator reads it. -/
def reading0 : State := { cached 1 with nvme := [⟨0, 0, false, 0, 0, 0, 0x9000, 0⟩] }
/-- A page request group of function 0. -/
def grouped (orphaned : Bool) : State := (ready 0).modVf 0 (fun v => { v with groups := [(3, ⟨0x100000000, 0, orphaned, 0⟩)] })

theorem witness_TranslationEvents : AllDue translationEvent [
    (.pageWalk 0 0 0x100000000, waiting (.walk 0x100000000 false)),
    (.shootdownComplete 0, { ready 0 with shoots := [⟨0, 0, 0, none, false, []⟩] }), (.atsInvalidate 0 0x100000000 4096, ready 0),
    (.faultService 0 0x100000000 [], { tabled 0 (waiting (.service 0x100000000 false)) with faults := [⟨0, 0x100000000, 0⟩] }),
    (.nvmeReadComplete 0 0 0 [], reading0), (.nvmeReadComplete 0 0 1 [], reading0), (.writebackComplete 0 0, cached 3),
    (.atsTranslationCompletion 0 0 0x100000000 true true, tabled 0xA0F (waiting (.service 0x100000000 false))),
    (.priResponse 0 3 .failure, grouped false), (.prgQuarantineExpire 0 3, { grouped true with timeNs := 2000000000 }),
    (.hostSnoop 0 0 true, { ready 0 with sideCache := [((Loc.host 0 0).place 0 / 64, .shared)] }),
    (.bisnpResponse 0 9 [], { ready 0 with hostLines := [(9, ⟨[0], true, some true⟩)] }),
    (.hostHdmWrite 0 0x1000 [1], windowed)] = true ∧ windowed.inHdm 0 0x1000 8 = true ∧
    (∃ c, (waiting (.walk 0x100000000 false)).ctx c = here (waiting (.walk 0x100000000 false)) ∧ c.core = 0) ∧
    isTemplate 0x2 0 = true ∧ (pooled.makePage 0 0x100000000 0 0x5020 0x2 [0x100000]).isSome = true := by
  refine ⟨by decide +kernel, by decide +kernel, ⟨⟨0, 0, 0⟩, rfl, rfl⟩, by decide +kernel⟩

/-- Context 0 waits for the answer of a service. -/
def serving (n : BitVec 16) : State := (calling 0 (some (askedOf n none))).modCtx ⟨0, 0, 0⟩ (fun x => { x with status := .waiting .syscall })

theorem witness_SlotEvents : AllDue serviceEvent [
    (.domnew ⟨0, 0, 0⟩ 5, serving 0x40), (.domgrant ⟨0, 0, 0⟩, serving 0x41), (.dspage ⟨0, 0, 0⟩ [], (tabled 0 (serving 0x42)).setHbm64 0x5000 0x2F),
    (.gimport ⟨0, 0, 0⟩, serving 0x43), (.fsync ⟨0, 0, 0⟩ true, serving 0x31),
    (.livenessUpdate 0 5, { ready 0 with revoking := [5] }), (.tenantAbort 0, { tabled 0 (ready 0) with fw := { State.reset.fw with boot := .ready } })] = true ∧
    (serving 0x40).idsOf 0 < 256 ∧ (5 : BitVec 12) ∈ ({ ready 0 with revoking := [5] } : State).revoking ∧
    AllDue schedulingEvent [
    (.contextWake ⟨0, 0, 0⟩, waiting .uscZero), (.contextWake ⟨0, 0, 0⟩, waiting (.join 1 (.g 5))), (.heldCyclesExpire ⟨0, 0, 0⟩, ready0 (fun x => { x with held := 4096 })),
    (.sliceExpire 0, (ready 0).modSlot ⟨0, 0⟩ (fun q => { q with used := q.sliceLen })),
    (.drowsy ⟨0, 1⟩, { ready 0 with cycle := 1000 }),
    (.belayWake ⟨0, 0, 0⟩, ready0 (fun x => { x with status := .belayed ⟨.hbm 0, 0, 8, true, true, 0⟩ })),
    (.belayRecheck ⟨0, 0, 0⟩, { ready0 (fun x => { x with status := .parked ⟨.hbm 0, 1, 8, false, false, 0⟩ }) with cycle := 2048 }),
    (.phaseComplete ⟨0, 0, 0⟩ 0, domed),
    (.unwindCheck ⟨0, 0, 0⟩, (called Reg.zero 0).modCtx ⟨0, 0, 0⟩ (fun x => { x with bights := [{ frame0 with callee := 9 }] })),
    (.frameExpire ⟨0, 0, 0⟩ 0, (called Reg.zero 0).modCtx ⟨0, 0, 0⟩ (fun x => { x with bights := [{ frame0 with deadline := 5 }], charged := 6 })),
    (.cleanupBudgetExpire ⟨0, 0, 0⟩, (called Reg.zero 1).modCtx ⟨0, 0, 0⟩ (fun x => { x with charged := 100000 }))] = true := by decide +kernel

/-- A launch record of one core, and a task of it. -/
def rec0 (n : Nat) : LaunchRec := ⟨9, 0x100000000, [0, 0, 0, 0], n, 0, 0, 0, 0, [], 0, true⟩
def task0 (n : Nat) (st : TaskState) (l : List SlotId) : Task := ⟨rec0 n, st, 0, 0, 0, l, 1, false⟩
/-- The firmware is up, and partition 0 has a task. -/
def firm (l : List Task) (s : State) : State :=
  (({ s with fw := { s.fw with boot := .ready } } : State).modPart 0 (fun p =>
    { p with assigned := true, ptroot := 0x3000, tasks := l, ranges := [(0x100000, 0x1000000)] }))
/-- Frames that no partition holds. -/
def frames0 : List Nat := (List.range 40).map (fun i => 0x100000 + 4096 * i)
/-- The bind record that `firm` allows. -/
def bind0 : BindRec := { placeBind with slice := 35000, ptroot := 0x3000, taskid := 9, save := 0x4000000 }

theorem witness_TaskEvents : AllDue taskEvent [
    (.launchRecordAccept 0 true, (firm [] State.reset).modPart 0 (fun p => { p with devQueue := [[]] })),
    (.launchRecordAccept 0 false, (firm [] State.reset).modVf 0 (fun v => { v with tail := 1 })),
    (.taskDependencesMet 0 9, firm [task0 1 .queued []] State.reset),
    (.taskPlace 0 9 [], firm [task0 4609 .placing []] State.reset),
    (.taskPlace 0 9 [⟨⟨0, 0⟩, some 0, 0x4000000, 0, frames0⟩], firm [task0 1 .placing []] State.reset),
    (.imageLoad 0 9 0 0 [] [], firm [task0 1 .loading []] State.reset),
    (.taskDone 0 9, firm [task0 1 .running [⟨0, 0⟩]] ((ready 0).modCtx ⟨0, 0, 0⟩ (fun x => { x with status := .free }))),
    (.slotBind ⟨0, 0⟩ bind0 frames0, firm [] State.reset), (.slotUnbind ⟨0, 0⟩, firm [] (ready 0)),
    (.slotEvict ⟨0, 0⟩, firm [task0 4608 .placing []] (ready 0)),
    (.slotEvict ⟨0, 0⟩, firm [] ((ready 0).modSlot ⟨0, 0⟩ (fun q => { q with phase := .leaving }))),
    (.slotEvict ⟨0, 0⟩, firm [] ((ready 0).modSlot ⟨0, 0⟩ (fun q => { q with phase := .evicting }))),
    (.slotRestore ⟨0, 0⟩ 0, { firm [] State.reset with saved := [⟨⟨0, 0⟩, { Slot.reset with bind := bind0 }, [], [], [], [], [], [], [], []⟩] }),
    (.clockModeChange true, { firm [] (ready 0) with timeNs := 1000000 }),
    (.powerCapClockStep 750, { ready 0 with clock := ⟨true, 700, 0⟩ })] = true ∧
    ((firm [] State.reset).bindSlot ⟨0, 0⟩ bind0 frames0).isSome = true := by decide +kernel

/-- A trap that unwinds, or that aborts the task of context 0 (R361, R385, R386, R401). -/
theorem witness_TrapUnwound :
    (∃ s : State, (here s).depth = 0 ∧ s.live 0 ((here s).domAt 0) = false) ∧
    (∃ (s : State) (b : Bight), (here s).bights = [b] ∧ b.regs.length = savedRegs.length ∧ 0 < (here s).resident ∧
      s.busyAt s.cur (here s).depth = false ∧ s.live 0 ((here s).domAt (here s).depth) = false ∧
      (∀ j < (here s).depth, s.live 0 ((here s).domAt j) = true ∧ (here s).expired j = false) ∧ (here s).closing = none) ∧
    (∃ (s : State) (b : Bight), (here s).bights = [b] ∧ b.regs.length = savedRegs.length ∧ 0 < (here s).resident ∧
      s.busyAt s.cur (here s).depth = false ∧ s.live 0 ((here s).domAt (here s).depth) = true ∧
      s.live 0 ((here s).domAt ((here s).depth - 1)) = true ∧ (here s).creason ≠ 0) ∧
    (∃ s : State, s.live 0 ((here s).domAt (here s).depth) = true ∧ (here s).creason = 0 ∧ (here s).tstat.inh = true ∧
      (here s).depth = 0 ∧ s.busy s.cur = false ∧ s.cur.ctx = 0 ∧ s.slotHeld s.cur.sl = true ∧ s.firmwareActs = true ∧
      (s.taskOf s.cur.sl).isSome = true) :=
  ⟨⟨ready0 (fun x => { x with dom := 9 }), by decide +kernel⟩,
    ⟨(called Reg.zero 0).modCtx ⟨0, 0, 0⟩ (fun x => { x with dom := 9, bights := [{ frame0 with callee := 9 }] }), _, rfl, by decide +kernel⟩,
    ⟨called Reg.zero 3, _, rfl, by decide +kernel⟩,
    ⟨firm [task0 1 .running [⟨0, 0⟩]] (((ready 0).modSlot ⟨0, 0⟩ (fun q => { q with bind := bind0 })).modCtx ⟨0, 0, 0⟩ (fun x =>
      { x with tstat := { x.tstat with inh := true } })), by decide +kernel⟩⟩

theorem witness_ErrorEvents : AllDue errorEvent [
    (.machineCheck 1 2, ready 0), (.machineCheck 0x60 0, ready 0), (.storageError (.sideArray 0) false false, ready 0),
    (.storageError (.sideArray 0) true true, ready 0), (.layChannelFail 3, ready 0), (.storageError (.registers ⟨0, 0⟩) true false, ready 0),
    (.storageError (.registers ⟨0, 0⟩) false false, ready 0), (.storageError (.localBank 0 3) false true, ready 0),
    (.storageError (.localBank 0 3) true false, ready 0), (.storageError (.localBank 0 3) false false, ready 0),
    (.storageError (.secded 0) false false, ready 0), (.storageError (.weightStore 0 1) true false, ready 0),
    (.storageError (.sideCache 1) true false, ready 0), (.storageError (.hbmFrame 0 8 0 0 0x8000) true false, ready 0),
    (.thermalWarning 1050, ready 0), (.thermalClear 999, ready 0)] = true := by decide +kernel

/-- Function 0 has sent a command of its mailbox, and the firmware is up. -/
def mailed (l : List W64) (s : State) : State :=
  (((firm [] s).modVf 0 (fun v => { v with part := some 0, mbox := { v.mbox with req := l, mstate := 1 } })).modPf 0 (fun p =>
    { p with mbox := { p.mbox with req := l, mstate := 1 } }))

/-- The physical function alone has sent one. -/
def mailedPf (l : List W64) (s : State) : State := (mailed l s).modVf 0 (fun v => { v with mbox := { v.mbox with mstate := 0 } })

theorem witness_HostForms : AllDue hostEvent [
    (.registerWrite (.pf 0) 0 1, ready 0), (.registerWrite (.vf 0) 0x13000 1, ready 0), (.registerWrite (.vf 0) 0x10000 1, firm [] (ready 0)), (.doorbell 0 1, ready 0),
    (.mstateRead (.vf 0), ready 0), (.debugWindowRead 0 0, { ready 0 with dump := some (0, ⟨0x0405, 0, 0, 0, 0, 0⟩) }),
    (.flr 0, ready 0), (.vfEnableClear 0, ready 0), (.teardownComplete 0, (firm [] State.reset).modVf 0 (fun v => { v with teardown := true })),
    (.teardownComplete 0, (firm [] State.reset).modVf 0 (fun v => { v with teardown := true, torn := true }))] = true ∧
    AllDue mailboxEvent [
    (.regionSet 0, mailed [1, 0, 0, 0, 0, 0, 0, 0] (tabled 0 State.reset)), (.shootdown 0, mailed [2, 0, 0, 0, 0, 0, 0, 0] State.reset),
    (.mailboxFsync 0 true, mailed [3, 0, 0, 0, 0, 0, 0, 0] State.reset), (.gateExport 0, mailed [4, 0, 0, 0, 0, 0, 0, 0] State.reset),
    (.shootdown 0, mailedPf [2, 0, 0, 0, 0, 0, 0, 0] State.reset), (.mailboxFsync 0 true, mailedPf [3, 0, 0, 0, 0, 0, 0, 0] State.reset),
    (.importAsk 0, mailed [5, 1, 2, 0, 0, 0, 0, 0] State.reset), (.vfAssign 0 7, mailed [0x100, 0, 3, 0, 0, 0, 0, 0] State.reset),
    (.importGrant 0, mailed [0x101, 1, 2, 3, 4, 0, 0, 0] State.reset), (.importDeny 0, mailed [0x102, 1, 2, 3, 4, 0, 0, 0] State.reset),
    (.expwin 0, mailed [0x103, 1, 0x1000, 0x1000, 2, 0, 0, 0] State.reset)] = true := by decide +kernel

theorem witness_FirmwareEvents : AllDue firmwareEvent [
    (.fwUpdate 0, mailed [0x104, 64, 0, 0, 0, 0, 0, 0] State.reset),
    (.fwUpdate 0, { mailed [0x104, 0, 0, 0, 0, 0, 0, 0] State.reset with fw := { State.reset.fw with boot := .ready, update := .quiesced 0 } }),
    (.heartbeat, { ready 0 with fw := { State.reset.fw with update := .waitingBeat 0 0 } }),
    (.heartbeatTimeout, { ready 0 with fw := { State.reset.fw with update := .waitingBeat 0 0 }, timeNs := 50000001 }),
    (.perstDeassert, ready 0), (.bootComplete, { ready 0 with fw := { State.reset.fw with boot := .training } }),
    (.getVersion 0, ready 0), (.getCapabilities 0, ready 0), (.negotiateAlgorithms 0, ready 0), (.getDigests 0, ready 0),
    (.getCertificate 0, ready 0), (.challenge 0, ready 0), (.getMeasurements 0, (ready 0).modPf 0 (fun p => { p with spdm := .algs })),
    (.keyExchange 0, ready 0), (.finish 0, ready 0), (.endSession 0, ready 0),
    (.ideKm 0 1, (ready 0).modPf 0 (fun p => { p with spdm := .session }))] = true := by decide +kernel

/-- `Comes` for a context that the agenda names. -/
theorem comes {s : State} {c : CtxId} (rest : List Turn) (h1 : s.agenda = .context c :: rest)
    (h2 : (!s.mcheck && (({ s with agenda := rest } : State).toIssue c |>.unwindStep c).isNone &&
      (({ s with agenda := rest } : State).mayIssue c.core).contains c) = true) :
    Comes s c (({ s with agenda := rest } : State).toIssue c) := by
  simp only [Bool.and_eq_true, Bool.not_eq_true', Option.isNone_iff_eq_none] at h2
  exact ⟨h2.1.1, h2.1.2, Or.inl ⟨rest, h1, h2.2, rfl⟩⟩

/-- The boundary of the next turn of `ready`. -/
def border (s : State) : State := ({ s with agenda := [] } : State).toIssue ⟨0, 0, 0⟩

/-- A repetition under way, of ADD g5, g6, g7 with the step 1 in its first field. -/
def repeating : State :=
  ((ready 0x0008A23F).poke (.localStore 0 0 0 4) [0x81, 0xC2, 0x38, 0x00]).modCtx ⟨0, 0, 0⟩ (fun x => { x with repc := 3 })
/-- The same, with the instruction that its checks kept. -/
def repeated : State := repeating.modCtx ⟨0, 0, 0⟩ (fun x => { x with rep := some ⟨0x0038C281, 4, 1⟩ })
/-- A follower that has a word to execute. -/
def followed : State := ready0 (fun x => { x with attached := true, follow := [⟨0, 0x0038C281, 4, 4, []⟩] })

theorem witness_StepRunsDecoded :
    (Comes (ready 0x0038C281) ⟨0, 0, 0⟩ (border (ready 0x0038C281)) ∧ ((border (ready 0x0038C281)).ctx ⟨0, 0, 0⟩).attached = false ∧
      ((border (ready 0x0038C281)).ctx ⟨0, 0, 0⟩).pc.getLsbD 0 = false ∧ ((border (ready 0x0038C281)).ctx ⟨0, 0, 0⟩).repc = 0 ∧
      (border (ready 0x0038C281)).fetch ⟨0, 0, 0⟩ ((border (ready 0x0038C281)).ctx ⟨0, 0, 0⟩).pc = .ok (0x0038C281, 4) ∧
      decode 0x0038C281 = .ok (.add (.g 5) (.g 6) (.g 7))) ∧
    (Comes repeating ⟨0, 0, 0⟩ (border repeating) ∧ ((border repeating).ctx ⟨0, 0, 0⟩).attached = false ∧
      ((border repeating).ctx ⟨0, 0, 0⟩).pc.getLsbD 0 = false ∧ ((border repeating).ctx ⟨0, 0, 0⟩).repc ≠ 0 ∧
      (border repeating).fetch ⟨0, 0, 0⟩ ((border repeating).ctx ⟨0, 0, 0⟩).pc = .ok (0x0008A23F, 4) ∧
      decode 0x0008A23F = .ok (.rep (.g 5) 4 1) ∧
      (border repeating).fetch ⟨0, 0, 0⟩ (((border repeating).ctx ⟨0, 0, 0⟩).pc + 4) = .ok (0x0038C281, 4) ∧ repeatable 0x0038C281 = true ∧
      maskOk 0x0038C281 4 = true ∧ (maskFields 0x0038C281 4).all (stepInRange 0x0038C281 1 2) = true ∧
      decode (stepWord 0x0038C281 4 1 0) = .ok (.add (.g 5) (.g 6) (.g 7))) ∧
    (Comes followed ⟨0, 0, 0⟩ (border followed) ∧ ((border followed).ctx ⟨0, 0, 0⟩).attached = true ∧
      ((border followed).ctx ⟨0, 0, 0⟩).repc = 0 ∧ ((border followed).ctx ⟨0, 0, 0⟩).follow = [⟨0, 0x0038C281, 4, 4, []⟩] ∧
      ((border followed).ctx ⟨0, 0, 0⟩).pc = 0 ∧ (∃ h, (border followed).codeHalf ⟨0, 0, 0⟩ 0 = .ok h) ∧
      (∃ h, (border followed).codeHalf ⟨0, 0, 0⟩ (0 + 2) = .ok h) ∧
      ownFetch (.add (.g 5) (.g 6) (.g 7)) = false ∧ ∃ t, exec (.add (.g 5) (.g 6) (.g 7)) (border followed) = .next t) ∧
    (∃ u : State, Comes repeated ⟨0, 0, 0⟩ u ∧ (u.ctx ⟨0, 0, 0⟩).attached = false ∧ (u.ctx ⟨0, 0, 0⟩).pc.getLsbD 0 = false ∧
      (u.ctx ⟨0, 0, 0⟩).repc ≠ 0 ∧ (u.ctx ⟨0, 0, 0⟩).rep = some ⟨0x0038C281, 4, 1⟩) ∧
    (∃ (s : State) (i : Instr) (rest : List Turn), s.agenda = .event i :: rest ∧ i.encoded = false) :=
  ⟨⟨comes [] rfl (by decide +kernel), by decide +kernel⟩, ⟨comes [] rfl (by decide +kernel), by decide +kernel⟩,
    ⟨comes [] rfl (by decide +kernel), by decide +kernel, by decide +kernel, by decide +kernel, by decide +kernel, ⟨_, rfl⟩, ⟨_, rfl⟩, rfl, _, rfl⟩,
    ⟨_, comes [] rfl (by decide +kernel), by decide +kernel⟩,
    ⟨{ ready 0 with agenda := [.event (.lossOfLight 0 ⟨0, false⟩)] }, _, _, rfl, rfl⟩⟩

theorem witness_StepRefusesWord :
    (∃ e, Comes (ready 0xFFFFFFFF) ⟨0, 0, 0⟩ (border (ready 0xFFFFFFFF)) ∧ ((border (ready 0xFFFFFFFF)).ctx ⟨0, 0, 0⟩).attached = false ∧
      (border (ready 0xFFFFFFFF)).fetch ⟨0, 0, 0⟩ ((border (ready 0xFFFFFFFF)).ctx ⟨0, 0, 0⟩).pc = .ok (0xFFFFFFFF, 4) ∧
      decode 0xFFFFFFFF = .error e) ∧
    (∃ s : State, Comes s ⟨0, 0, 0⟩ (border s) ∧ ((border s).ctx ⟨0, 0, 0⟩).attached = false ∧
      ((border s).ctx ⟨0, 0, 0⟩).pc.getLsbD 0 = true) :=
  ⟨⟨_, comes [] rfl (by decide +kernel), by decide +kernel, by decide +kernel, rfl⟩,
    ⟨ready0 (fun x => x.setPc 1), comes [] rfl (by decide +kernel), by decide +kernel, by decide +kernel⟩⟩

theorem witness_RoundTrip : (Instr.epost (.g 5) (.p 3)).encoded = true ∧ WellFormed (.epost (.g 5) (.p 3)) = true := by decide
theorem witness_DecodeExact : ∃ i, decode 0x0230A079 = .ok i := ⟨_, rfl⟩
theorem witness_ResetState : resetWord 0x007 = some 4 ∧ resetWord 0x020 = some 0 := ⟨rfl, rfl⟩
theorem witness_StepKeepsCanonical : ∃ t, Canonical (ready 0x0038C281) ∧ step (ready 0x0038C281) = .next t :=
  ⟨_, ⟨by decide +kernel, by decide +kernel⟩, rfl⟩
theorem witness_StoppedDevice : (∃ (i : Instr) (s : State), s.mcheck = true ∧ stops i = true) ∧
    ∃ s : State, s.mcheck = true ∧ ∀ i rest, s.agenda ≠ .event i :: rest :=
  ⟨⟨.drowsy ⟨0, 0⟩, { State.reset with mcheck := true }, rfl, by decide⟩, ⟨{ State.reset with mcheck := true }, rfl, fun i rest h => by cases h⟩⟩

theorem witness_DataFrame : (∃ v : State, dataForm (.add (.g 0) (.g 6) (.g 7)) = some ([6, 7], 0, two (fun x y => x + y)) ∧
      Starts (.add (.g 0) (.g 6) (.g 7)) .closes [.g 6, .g 7] [.g 0, .g 6, .g 7] (ready 0) (ready 0) ∧
      GoesOn (.add (.g 0) (.g 6) (.g 7)) (ready 0) v) ∧ (dataForm (.shliC (.g 5) 3)).isSome = true :=
  ⟨⟨_, rfl, ⟨Or.inl rfl, rfl, rfl, rfl⟩, _, rfl, rfl⟩, rfl⟩

theorem witness_AccessFrame :
    (∃ (s' v : State), loadForm (.ld .d 0 (.g 5) 6 0) = some (8, 0, .g 5, 6, 0, fun x _ _ => Reg.data (x.setWidth 64)) ∧
      Starts (.ld .d 0 (.g 5) 6 0) .closes [] [.g 5] (near 0x1000) (near 0x1000) ∧ (here (near 0x1000)).remote = none ∧
      spot (near 0x1000) (loadAsk 8) = .ok (own 0x1000) ∧
      noteLoad (own 0x1000).loc 8 (BitVec.ofNat 128 ((near 0x1000).readNat (own 0x1000).loc 8)) (near 0x1000) = .ok ((), s') ∧
      GoesOn (.ld .d 0 (.g 5) 6 0) s' v) ∧
    (∃ (u : State), storeForm (.st .d 0 (.g 7) 6 0) = some (8, 0, .g 7, 6, 0, false) ∧
      Starts (.st .d 0 (.g 7) 6 0) .closes [.g 7] [.g 7] (near 0x1000) (near 0x1000) ∧ Canonical (near 0x1000) ∧
      spot (near 0x1000) (storeAsk 8) = .ok (own 0x1000) ∧ Ordered (near 0x1000) 0 ∧
      GoesOn (.st .d 0 (.g 7) 6 0) ((near 0x1000).keepStore ((near 0x1000).poke (own 0x1000).loc (bytesLE 8 9)) (own 0x1000).loc 8) u) :=
  ⟨⟨_, _, rfl, ⟨Or.inl rfl, rfl, rfl, rfl⟩, rfl, by decide +kernel, rfl, _, rfl, rfl⟩,
    ⟨_, rfl, ⟨Or.inl rfl, rfl, rfl, rfl⟩, ⟨by decide +kernel, by decide +kernel⟩, by decide +kernel, ordered_none _, _, rfl, rfl⟩⟩
/-! Well-formedness: an ill-formed instruction for each check, which the check refuses. -/

/-- CVT: a source of its own type, the unassigned rounding code 7, saturation to a float, and a mode between integers (R51). -/
theorem test_wf_cvt : [Instr.cvt 0 false .i64 .i64 (.g 5) (.g 6), .cvt 7 false .i64 .fp64 (.g 5) (.g 6),
    .cvt 0 true .fp32 .i64 (.g 5) (.g 6), .cvt 1 false .i64 .i32 (.g 5) (.g 6)].any WellFormed = false := by decide
/-- LOOP's half-word offset is at least 2 (R64). -/
theorem test_wf_loop : WellFormed (.loop (.g 1) 1) = false := by decide
/-- REP's step lies in −8 to 8 (R59). -/
theorem test_wf_rep : [Instr.rep (.g 1) 1 9, .rep (.g 1) 1 0x1FF7].any WellFormed = false := by decide
/-- FETCHT takes a destination pair g1 to g30. -/
theorem test_wf_fetcht : [Instr.fetcht 0 (.g 5), .fetcht 31 (.g 5)].any WellFormed = false := by decide
/-- SRD takes an assigned register, and TSTAT into g0 to g30 only (R233, R399). -/
theorem test_wf_srd : [Instr.srd (.g 5) 0x01E, .srd (.g 5) 0x103, .srd (.g 31) 0x00C, .srd (.q 1) 0x00C].any WellFormed = false := by
  decide
/-- SWR takes an assigned register, and TSTAT from g1 to g30 only (R233, R399). -/
theorem test_wf_swr : [Instr.swr (.g 5) 0x206 (.g 6), .swr (.g 31) 0x00C (.g 6), .swr (.g 5) 0x00C (.g 0),
    .swr (.g 5) 0x00C (.g 31), .swr (.g 5) 0x00C (.p 1)].any WellFormed = false := by decide
/-- VMAP takes shape pairs g1 to g30, and its second one exactly where the operation reads it; never PACKB or code 0x30
(R254). -/
theorem test_wf_vmap : [Instr.vmap 5 0 6 1, .vmap 5 31 6 1, .vmap 5 6 0 1, .vmap 5 6 31 1, .vmap 5 6 7 0x08, .vmap 5 6 0 0x2D,
    .vmap 5 6 7 0x30].any WellFormed = false := by decide
/-- VMAP.BS takes no operation that reads C (R254). -/
theorem test_wf_vmapBs : [Instr.vmapBs 5 0 (.g 6) 1, .vmapBs 5 6 (.g 6) 0x04].any WellFormed = false := by decide
/-- VCHAIN's shape pairs. -/
theorem test_wf_vchain : [Instr.vchain 5 0 6 7, .vchain 5 6 31 7].any WellFormed = false := by decide
/-- VRED and VSCAN list their operations (R254). -/
theorem test_wf_vred : [Instr.vred 5 0 1, .vred 5 6 0x02].any WellFormed = false := by decide
theorem test_wf_vscan : [Instr.vscan 5 31 (.g 6) 1, .vscan 5 6 (.g 6) 0x2D].any WellFormed = false := by decide
/-- VGATH, VSCAT, VCOMP and VEXPD take two shape pairs. -/
theorem test_wf_vindex : [Instr.vgath 5 0 6, .vgath 5 6 31, .vscat 5 31 6, .vscat 5 6 0, .vcomp 5 0 6, .vcomp 5 6 0,
    .vexpd 5 31 6, .vexpd 5 6 31].any WellFormed = false := by decide
/-- The matrix commands and the integrator's configuration and vector post take a register at a other than g0. -/
theorem test_wf_matrix : [Instr.mma 5 0 (.g 6) (.g 7), .mmas 5 0 (.g 6) (.g 7), .mldb 5 0 (.g 6), .msta 5 0 (.g 6),
    .mlda 5 0 (.g 6), .ecfg 0 (.g 6), .epostv 5 0].any WellFormed = false := by decide
/-- MOV of g0 to g0 has no word: the half-word of zeros is no instruction (R47). -/
theorem test_wf_mov : WellFormed (.mov (.g 0) 0) = false := by decide

/-! Decoding: a word of each row of the encoding tables (02: R39 to R59), written from the row's fixed bits and the places
of its fields, with different values in them. -/

/-- A word decodes to its instruction. -/
def reads (p : Nat × Instr) : Bool := match decode p.1 with
  | .ok i => i == p.2
  | .error _ => false

/-- From ADD to INSR. -/
def words1 : List (Nat × Instr) := [
  (0x00EC6281, .add (.g 5) (.q 3) (.g 29)), (0x02EC6281, .sub (.g 5) (.q 3) (.g 29)),
  (0x04EC6281, .mul (.g 5) (.q 3) (.g 29)), (0x06EC6281, .mulh (.g 5) (.q 3) (.g 29)),
  (0x08EC6281, .mulhn (.g 5) (.q 3) (.g 29)), (0x0AEC6281, .div (.g 5) (.q 3) (.g 29)),
  (0x0CEC6281, .divn (.g 5) (.q 3) (.g 29)), (0x0EEC6281, .rem (.g 5) (.q 3) (.g 29)),
  (0x10EC6281, .remn (.g 5) (.q 3) (.g 29)), (0x12EC6281, .and_ (.g 5) (.q 3) (.g 29)),
  (0x14EC6281, .or_ (.g 5) (.q 3) (.g 29)), (0x16EC6281, .xor (.g 5) (.q 3) (.g 29)),
  (0x18EC6281, .andn (.g 5) (.q 3) (.g 29)), (0x1AEC6281, .shl (.g 5) (.q 3) (.g 29)),
  (0x1CEC6281, .shr (.g 5) (.q 3) (.g 29)), (0x1EEC6281, .sar (.g 5) (.q 3) (.g 29)),
  (0x20EC6281, .rol (.g 5) (.q 3) (.g 29)), (0x22EC6281, .ror (.g 5) (.q 3) (.g 29)),
  (0x24EC6281, .slt (.g 5) (.q 3) (.g 29)), (0x26EC6281, .sltn (.g 5) (.q 3) (.g 29)),
  (0x28EC6281, .seq (.g 5) (.q 3) (.g 29)), (0x2AEC6281, .min (.g 5) (.q 3) (.g 29)),
  (0x2CEC6281, .max (.g 5) (.q 3) (.g 29)), (0x2EEC6281, .minn (.g 5) (.q 3) (.g 29)),
  (0x30EC6281, .maxn (.g 5) (.q 3) (.g 29)), (0x32046281, .clz (.g 5) (.q 3)), (0x34046281, .ctz (.g 5) (.q 3)),
  (0x36046281, .popc (.g 5) (.q 3)), (0x38046281, .brev (.g 5) (.q 3)), (0x3A046281, .bswap (.g 5) (.q 3)),
  (0x3CEC6281, .clmul (.g 5) (.q 3) (.g 29)), (0x3EEC6281, .clmulh (.g 5) (.q 3) (.g 29)),
  (0x40EC6281, .addw (.g 5) (.q 3) (.g 29)), (0x42EC6281, .subw (.g 5) (.q 3) (.g 29)),
  (0x44EC6281, .mulw (.g 5) (.q 3) (.g 29)), (0x46EC6281, .sel (.g 5) (.q 3) (.g 29)),
  (0x48EC6281, .extr (.g 5) (.q 3) (.g 29)), (0x4AEC6281, .insr (.g 5) (.q 3) (.g 29))]
theorem test_decode_words1 : words1.all (reads) = true := by decide +kernel

/-- From ADDS to FMA_D. -/
def words2 : List (Nat × Instr) := [
  (0x4CEC6281, .adds (.g 5) (.q 3) (.g 29)), (0x4EEC6281, .subs (.g 5) (.q 3) (.g 29)),
  (0x35AC6283, .addi (.g 5) (.q 3) 0x6b5), (0x35AC6285, .andi (.g 5) (.q 3) 0x6b5), (0x35AC6287, .ori (.g 5) (.q 3) 0x6b5),
  (0x35AC6289, .xori (.g 5) (.q 3) 0x6b5), (0x35AC628D, .slti (.g 5) (.q 3) 0x6b5),
  (0x35AC628F, .sltni (.g 5) (.q 3) 0x6b5), (0x35AC6291, .muli (.g 5) (.q 3) 0x6b5), (0x01AC628B, .shli (.g 5) (.q 3) 0x35),
  (0x03AC628B, .shri (.g 5) (.q 3) 0x35), (0x05AC628B, .sari (.g 5) (.q 3) 0x35), (0x07AC628B, .roli (.g 5) (.q 3) 0x35),
  (0x09AC628B, .rori (.g 5) (.q 3) 0x35), (0x0AAC628B, .shlwi (.g 5) (.q 3) 0x15), (0x0CAC628B, .shrwi (.g 5) (.q 3) 0x15),
  (0x0EAC628B, .sarwi (.g 5) (.q 3) 0x15), (0xB4D6A293, .movi (.g 5) 0x5a6b5), (0xB4D6A295, .movsh (.g 5) 0x5a6b5),
  (0x80EC6297, .fadd .s (.g 5) (.q 3) (.g 29)), (0x02EC6297, .fsub .d (.g 5) (.q 3) (.g 29)),
  (0x84EC6297, .fmul .s (.g 5) (.q 3) (.g 29)), (0x06EC6297, .fdiv .d (.g 5) (.q 3) (.g 29)),
  (0x08046297, .fsqrt .d (.g 5) (.q 3)), (0x0AEC6297, .fmin .d (.g 5) (.q 3) (.g 29)),
  (0x8CEC6297, .fmax .s (.g 5) (.q 3) (.g 29)), (0x0EEC6297, .fminm .d (.g 5) (.q 3) (.g 29)),
  (0x10EC6297, .fmaxm .d (.g 5) (.q 3) (.g 29)), (0x12EC6297, .feq .d (.g 5) (.q 3) (.g 29)),
  (0x14EC6297, .flt .d (.g 5) (.q 3) (.g 29)), (0x96EC6297, .fle .s (.g 5) (.q 3) (.g 29)),
  (0x98EC6297, .funord .s (.g 5) (.q 3) (.g 29)), (0x1A046297, .fclass .d (.g 5) (.q 3)),
  (0x1CEC6297, .fsgnj .d (.g 5) (.q 3) (.g 29)), (0x1EEC6297, .fsgnjn .d (.g 5) (.q 3) (.g 29)),
  (0xA0EC6297, .fsgnjx .s (.g 5) (.q 3) (.g 29)), (0x22046297, .frint .d (.g 5) (.q 3)),
  (0x54EC6299, .fmaD (.g 5) (.q 3) (.g 29) (.p 2))]
theorem test_decode_words2 : words2.all (reads) = true := by decide +kernel

/-- From FNMA_D to CGETT. -/
def words3 : List (Nat × Instr) := [
  (0xD4EC6299, .fnmaD (.g 5) (.q 3) (.g 29) (.p 2)), (0x54EC629B, .fmaS (.g 5) (.q 3) (.g 29) (.p 2)),
  (0xD4EC629B, .fnmaS (.g 5) (.q 3) (.g 29) (.p 2)), (0x70F4629D, .cvt 3 true .n32 .fp16 (.g 5) (.q 3)),
  (0xB56922A1, .ld .wn 0x1 (.g 5) 9 0xb5), (0xB57922A1, .ldc 0x1 (.g 5) 9 0xb5), (0xB55122A3, .st .w 0x1 (.g 5) 9 0xb5),
  (0xB56122A3, .stc 0x1 (.g 5) 9 0xb5), (0x131922A5, .amoadd true 0x1 (.g 5) (.q 3) 9),
  (0x331922A5, .amoand true 0x1 (.g 5) (.q 3) 9), (0x531922A5, .amoor true 0x1 (.g 5) (.q 3) 9),
  (0x731922A5, .amoxor true 0x1 (.g 5) (.q 3) 9), (0x931922A5, .amoswp true 0x1 (.g 5) (.q 3) 9),
  (0xB31922A5, .amomin true 0x1 (.g 5) (.q 3) 9), (0xD31922A5, .amomax true 0x1 (.g 5) (.q 3) 9),
  (0xBB1922A5, .amominn true 0x1 (.g 5) (.q 3) 9), (0xDB1922A5, .amomaxn true 0x1 (.g 5) (.q 3) 9),
  (0xF31922A5, .amofadd true 0x1 (.g 5) (.q 3) 9), (0x131922A7, .cas true 0x1 (.g 5) (.q 3) 9),
  (0x1D580029, .fence .die 0x5 true true true), (0x0018002B, .phase 3), (0x005804AB, .phasea 9 3),
  (0x35AC62AD, .beq (.g 5) (.q 3) 0x6b5), (0x35AC62AF, .bne (.g 5) (.q 3) 0x6b5), (0x35AC62B1, .blt (.g 5) (.q 3) 0x6b5),
  (0x35AC62B3, .bge (.g 5) (.q 3) 0x6b5), (0x35AC62B5, .bltn (.g 5) (.q 3) 0x6b5), (0x35AC62B7, .bgen (.g 5) (.q 3) 0x6b5),
  (0xB4D6A2B9, .jal (.g 5) 0x5a6b5), (0x35AC62BB, .jalr (.g 5) (.q 3) 0x6b5), (0x2A50A03D, .loop (.g 5) 0x2A5),
  (0xFFD0A4BF, .rep (.g 5) 9 0x1FFA), (0x000462C1, .cgeta (.g 5) (.q 3)), (0x020462C1, .cgetb (.g 5) (.q 3)),
  (0x040462C1, .cgetl (.g 5) (.q 3)), (0x060462C1, .cgetp (.g 5) (.q 3)), (0x080462C1, .cgetd (.g 5) (.q 3)),
  (0x0A0462C1, .cgett (.g 5) (.q 3))]
theorem test_decode_words3 : words3.all (reads) = true := by decide +kernel

/-- From CSETA to HTEST. -/
def words4 : List (Nat × Instr) := [
  (0x0CEC62C1, .cseta (.g 5) (.q 3) (.g 29)), (0x0EEC62C1, .cinc (.g 5) (.q 3) (.g 29)),
  (0x10EC62C1, .csetb (.g 5) (.q 3) (.g 29)), (0x12EC62C1, .csetbr (.g 5) (.q 3) (.g 29)),
  (0x14EC62C1, .candp (.g 5) (.q 3) (.g 29)), (0x16EC62C1, .cseal (.g 5) (.q 3) (.g 29)),
  (0x18EC62C1, .cunseal (.g 5) (.q 3) (.g 29)), (0x1A0462C1, .cclr (.g 5) (.q 3)),
  (0x1CEC62C1, .ctsub (.g 5) (.q 3) (.g 29)), (0x1E0462C1, .movt (.g 5) (.q 3)), (0x35A922C3, .csetbi (.g 5) 9 0x6b5),
  (0x35A922C5, .cinci (.g 5) 9 0x6b5), (0x000122C7, .qcfg (.g 5) 9), (0x020122C7, .qclr (.g 5) 9),
  (0x040122C7, .qcnt (.g 5) 9), (0x068922C7, .rbind (.g 5) 9 17), (0x088935C7, .pbind 3 9 17), (0x0A0015C7, .punbind 3),
  (0x0C0122C7, .rpoll (.g 5) 9), (0x0E8922C7, .radv (.g 5) 9 17), (0x001922C9, .recv (.g 5) 9 3),
  (0x011922CB, .send (.g 5) 9 (.q 3)), (0x011922CD, .start (.g 5) 9 (.q 3)), (0x0200004D, .exit),
  (0x0400A04D, .join (.g 5)), (0x0600A04D, .barc (.g 5)), (0x0800004D, .yield_), (0x0A00004D, .follow),
  (0x0C00004D, .unfollow), (0x0F1922CD, .park (.g 5) 9 (.q 3)), (0x100002CD, .helpers (.g 5)),
  (0x0000A4CF, .fetcht 9 (.g 5)), (0x031922CF, .tdcfg (.g 5) 9 (.q 3)), (0x040462CF, .tdstat (.g 5) (.q 3)),
  (0x011922D1, .dmset (.g 5) 9 (.q 3)), (0x020462D1, .dmget (.g 5) (.q 3)), (0x000122D3, .hwait (.g 5) 9),
  (0x020122D3, .htest (.g 5) 9)]
theorem test_decode_words4 : words4.all (reads) = true := by decide +kernel

/-- From HCANCEL to MRESUME. -/
def words5 : List (Nat × Instr) := [
  (0x040122D3, .hcancel (.g 5) 9), (0x00012055, .gcall 9), (0x02012055, .gret 9), (0x04292055, .grets 9 (.g 5)),
  (0x06000055, .gclean), (0x080122D5, .dstat (.g 5) 9), (0x0A0122D5, .drevoke (.g 5) 9), (0x0C8922D5, .gmake (.g 5) 9 17),
  (0x082802D7, .srd (.g 5) 0x105), (0x882C62D7, .swr (.g 5) 0x105 (.q 3)), (0x0000A059, .trap (.g 5)),
  (0x02000059, .syscall), (0x04000059, .eret), (0x06000059, .bkpt), (0x000122DB, .launch (.g 5) 9),
  (0x0AF224E1, .cpy 9 17 30 (.g 5)), (0x8A0224E1, .cfill 9 17 (.g 5)), (0x0AF224E3, .cpyr 9 17 30 (.g 5)),
  (0x8AF224E3, .cpyb 9 17 30 (.g 5)), (0x16F224E7, .vmap 9 17 30 0x0B), (0x962A24E7, .vmapBs 9 17 (.g 5) 0x0B),
  (0x2CF224E9, .vchain 9 17 30 22), (0x5A0224EB, .vred 9 17 0x2D), (0x182A24ED, .vscan 9 17 (.g 5) 0x0C),
  (0x00F224EF, .vgath 9 17 30), (0x00F224F1, .vscat 9 17 30), (0x00F224F3, .vcomp 9 17 30), (0x80F224F3, .vexpd 9 17 30),
  (0x462A24F5, .mma 9 17 (.g 5) (.q 3)), (0xC62A24F5, .mmas 9 17 (.g 5) (.q 3)), (0x002A24F7, .mldb 9 17 (.g 5)),
  (0x0200A4F7, .mzero 9 (.g 5)), (0x042A24F7, .msta 9 17 (.g 5)), (0x062A24F7, .mlda 9 17 (.g 5)),
  (0x0800A4F7, .msync 9 (.g 5)), (0x0A0002F7, .mown (.g 5)), (0x0C0002F7, .mfree (.g 5)), (0x0E0224F7, .mresume 9 17)]
theorem test_decode_words5 : words5.all (reads) = true := by decide +kernel

/-- From ECFG to NOT. -/
def words6 : List (Nat × Instr) := [
  (0x00292079, .ecfg 9 (.g 5)), (0x0318A079, .epost (.g 5) (.q 3)), (0x040224F9, .epostv 9 17),
  (0x0600A4F9, .etick 9 (.g 5)), (0x08EC62F9, .edrain (.g 5) (.q 3) (.g 29)), (0x0A0462F9, .erd (.g 5) (.q 3)),
  (0x0CEC62F9, .ewr (.g 5) (.q 3) (.g 29)), (0x0EEC62F9, .efan (.g 5) (.q 3) (.g 29)), (0x000462FB, .wswin (.g 5) (.q 3)),
  (0x020462FB, .wsstat (.g 5) (.q 3)), (0x48A0, .mov (.g 5) 9), (0x48A2, .addC (.g 5) 9), (0x48A4, .subC (.g 5) 9),
  (0x48A6, .andC (.g 5) 9), (0x48A8, .orC (.g 5) 9), (0x48AA, .xorC (.g 5) 9), (0xA8AC, .shliC (.g 5) 0x15),
  (0xA8AE, .shriC (.g 5) 0x15), (0xA8B0, .addiC (.g 5) 0x15), (0xA8B2, .moviC (.g 5) 0x15), (0x48B4, .ldDC (.g 5) 9),
  (0x48B6, .stDC (.g 5) 9), (0x48B8, .faddDC (.g 5) 9), (0x48BA, .fmulDC (.g 5) 9), (0xA8BC, .bnz (.g 5) 0x15),
  (0x001E, .nop), (0x081E, .yieldC), (0x113E, .hwaitC 9), (0x181E, .ret), (0x201E, .exitC), (0x28BE, .neg (.g 5)),
  (0x30BE, .not_ (.g 5))]
theorem test_decode_words6 : words6.all (reads) = true := by decide +kernel

/-- The trap of a word that decodes to nothing. -/
def refuses (w : Nat) (e : Reject) : Bool := match decode w with
  | .ok _ => false
  | .error x => x == e
/-- Words that are no instruction: all zeros, a reserved bit of ADD, an unlisted FENCE scope and an unlisted short form; and
register codes 44 and 63 (R44, R47). -/
theorem test_decode_refused :
    ([0x00000000, 0xFE000001, 0x00300029, 0xF81E].all (fun w => refuses w .illegalInstruction) &&
     [0x00000001 + 44 * 128, 0x00000001 + 63 * 8192].all (fun w => refuses w .illegalOperand)) = true := by decide +kernel

/-! One step. -/

/-- ADD of g6 and g7 wraps at 2^64 (R217). -/
theorem test_add_wraps :
    regOf (step ((ready 0x0038C281).modCtx ⟨0, 0, 0⟩ (fun x =>
      (x.setReg 6 (Reg.data (BitVec.allOnes 64))).setReg 7 (Reg.data 3)))) 5 = 2 := by decide +kernel
/-- A short form (MOVI_C g5, #3) moves the PC on by two bytes, a word by four (R36). -/
theorem test_pc_advances :
    (((after (step (ready 0x18B2))).ctx ⟨0, 0, 0⟩).pc, ((after (step (ready 0x0038C281))).ctx ⟨0, 0, 0⟩).pc) = (2, 4) := by
  decide +kernel
/-- A write to g0 is discarded (R171): ADD g0, g6, g7 = 0x0038C001. -/
theorem test_g0_zero :
    regOf (step ((ready 0x0038C001).modCtx ⟨0, 0, 0⟩ (fun x => x.setReg 6 (Reg.data 9)))) 0 = 0 := by decide +kernel
/-- Division by zero answers all ones and takes no trap (R218): DIV g5, g6, g7 = 0x0A38C281. -/
theorem test_div_zero :
    regOf (step ((ready 0x0A38C281).modCtx ⟨0, 0, 0⟩ (fun x => x.setReg 6 (Reg.data 9)))) 5 = 2 ^ 64 - 1 := by decide +kernel


end Sys2Proof.Tests
end

section
/-! PROOFS of the family 00_scope: the words of a slot lie in its banks and rows one to one (R121), and memory reads back what was
written (R8, R140). -/
namespace Sys2Proof.Proofs.Scope
open Sys2Proof Sys2Proof.Machine Sys2Proof.Laws
open Sys2Proof.Safety (Canonical LayoutOneToOne WriteThenRead)

/-! Layout of a slot (R121). -/

/-- The one fact R121 rests on: a slot's number of rows is a power of two, and 37 is odd. -/
theorem coprime_banks_slotRows {mode : Nat} (h : mode ≤ 2) : Nat.Coprime 37 (slotRows mode) := by
  interval_cases mode <;> decide

theorem slotRows_pos {mode : Nat} (h : mode ≤ 2) : 0 < slotRows mode := by
  interval_cases mode <;> decide

/-- A row of a local store tells the slot it belongs to. -/
theorem rowOf_div_slotRows {mode : Nat} (h : mode ≤ 2) (l w : Nat) : rowOf l mode w / slotRows mode = l := by
  rw [rowOf, Nat.mul_comm, Nat.mul_add_div (slotRows_pos h), Nat.div_eq_of_lt (Nat.mod_lt w (slotRows_pos h)), Nat.add_zero]

/-- A row of a local store tells the row inside its slot. -/
theorem rowOf_mod_slotRows (l mode w : Nat) : rowOf l mode w % slotRows mode = w % slotRows mode := by
  rw [rowOf, Nat.mul_comm, Nat.mul_add_mod, Nat.mod_mod]

/-- Chinese remainder theorem on one slot: bank and row inside the slot fix the word. -/
theorem word_eq_of_bank_row {mode w w' : Nat} (h : mode ≤ 2) (hw : w < 37 * slotRows mode) (hw' : w' < 37 * slotRows mode)
    (hbank : bankOf w = bankOf w') (hrow : w % slotRows mode = w' % slotRows mode) : w = w' :=
  Nat.ModEq.eq_of_lt_of_lt ((Nat.modEq_and_modEq_iff_modEq_mul (coprime_banks_slotRows h)).mp ⟨hbank, hrow⟩) hw hw'

/-- R121: the row tells the slot and the row inside it, and with the bank the word. -/
theorem layoutOneToOne : LayoutOneToOne := by
  intro mode l l' w w' hmode _ _ hw hw' hbank hrow
  have hslot : l = l' := by rw [← rowOf_div_slotRows hmode l w, hrow, rowOf_div_slotRows hmode]
  have hinside : w % slotRows mode = w' % slotRows mode := by
    rw [← rowOf_mod_slotRows l, hrow, rowOf_mod_slotRows]
  exact ⟨hslot, word_eq_of_bank_row hmode hw hw' hbank hinside⟩

/-! Bytes at a location. -/

@[simp] theorem place_plus (l : Loc) (i j : Nat) : (l.plus i).place j = l.place (j + i) := by
  cases l <;> simp [Loc.plus, Loc.place, Nat.add_assoc, Nat.add_comm i j]

@[simp] theorem tagKey_plus (l : Loc) (i j : Nat) : (l.plus i).tagKey j = l.tagKey (j + i) := by
  cases l <;> simp [Loc.plus, Loc.tagKey, Nat.add_assoc, Nat.add_comm i j]

@[simp] theorem byteAt_setTagAt (s : State) (k p : Nat) (t : Bool) : (s.setTagAt k t).byteAt p = s.byteAt p := rfl

@[simp] theorem tagAt_setByteAt (s : State) (p k : Nat) (b : Byte) : (s.setByteAt p b).tagAt k = s.tagAt k := rfl

/-- A byte outside the places written is as before. -/
theorem byteAt_writeBytes_of_ne {s : State} (h : Canonical s) (l : Loc) (bs : List Byte) {p : Nat}
    (hp : ∀ i, i < bs.length → p ≠ l.place i) : (s.writeBytes l bs).byteAt p = s.byteAt p := by
  induction bs generalizing s l with
  | nil => rfl
  | cons b r ih =>
    have hrest : ∀ i, i < r.length → p ≠ (l.plus 1).place i := fun i hi => by
      rw [place_plus]
      exact hp (i + 1) (Nat.succ_lt_succ hi)
    rw [State.writeBytes, ih (canonical_setTagAt (canonical_setByteAt h ..) ..) _ hrest, byteAt_setTagAt, byteAt_setByteAt h,
      if_neg (hp 0 (Nat.succ_pos _))]

/-- A tag bit is set after a write exactly when it was set and its unit is not touched (R140). -/
theorem tagAt_writeBytes {s : State} (h : Canonical s) (l : Loc) (bs : List Byte) (k : Nat) :
    (s.writeBytes l bs).tagAt k = true ↔ s.tagAt k = true ∧ ∀ i, i < bs.length → k ≠ l.tagKey i := by
  induction bs generalizing s l with
  | nil => simp [State.writeBytes]
  | cons b r ih =>
    have hsplit : (∀ i, i < (b :: r).length → k ≠ l.tagKey i) ↔ k ≠ l.tagKey 0 ∧ ∀ i, i < r.length → k ≠ (l.plus 1).tagKey i := by
      simp only [List.length_cons, Nat.forall_lt_succ_left, tagKey_plus]
    have hb := canonical_setByteAt h (l.place 0) b
    rw [State.writeBytes, ih (canonical_setTagAt hb ..), hsplit, tagAt_setTagAt hb, tagAt_setByteAt]
    by_cases hk : k = l.tagKey 0 <;> simp [hk]

/-- What is written to places that differ is read back (R8). -/
theorem readBytes_writeBytes {s : State} (h : Canonical s) (l : Loc) (bs : List Byte)
    (hd : ∀ i j, i < j → j < bs.length → l.place i ≠ l.place j) : (s.writeBytes l bs).readBytes l bs.length = bs := by
  induction bs generalizing s l with
  | nil => rfl
  | cons b r ih =>
    have hc : Canonical ((s.setByteAt (l.place 0) b).setTagAt (l.tagKey 0) false) :=
      canonical_setTagAt (canonical_setByteAt h ..) ..
    have hhead : ∀ i, i < r.length → l.place 0 ≠ (l.plus 1).place i := fun i hi => by
      rw [place_plus]
      exact hd 0 (i + 1) (Nat.succ_pos i) (Nat.succ_lt_succ hi)
    have htail : ∀ i j, i < j → j < r.length → (l.plus 1).place i ≠ (l.plus 1).place j := fun i j hij hj => by
      rw [place_plus, place_plus]
      exact hd (i + 1) (j + 1) (Nat.succ_lt_succ hij) (Nat.succ_lt_succ hj)
    rw [State.writeBytes, List.length_cons, State.readBytes, byteAt_writeBytes_of_ne hc _ _ hhead, byteAt_setTagAt,
      byteAt_setByteAt h, if_pos rfl, ih hc _ htail]

theorem writeThenRead : WriteThenRead := by
  intro s l bs h hd
  refine ⟨readBytes_writeBytes h l bs hd, fun i hi => ?_, fun p hp => byteAt_writeBytes_of_ne h l bs hp, fun k hk => ?_⟩
  · rw [← Bool.not_eq_true, tagAt_writeBytes h]
    exact fun ⟨_, hne⟩ => hne i hi rfl
  · rw [Bool.eq_iff_iff, tagAt_writeBytes h]
    exact and_iff_left hk

/-- Settles O10: R121 by the Chinese remainder theorem, R8 and R140 by induction on the bytes written. -/
theorem memoryLaws : Obligations.MemoryLaws := ⟨layoutOneToOne, writeThenRead⟩

end Sys2Proof.Proofs.Scope
end

section
/-! PROOFS of the family 01_reading_listings: the events of tasks, slots and the clock answer what their table gives (R32, R360 to
R364, R369 to R371, R422, R423), and a slot that is bound starts clean (R120, R364). -/
namespace Sys2Proof.Proofs.Tasks
open Sys2Proof Sys2Proof.Machine Sys2Proof.Laws
open Sys2Proof.Safety (EventCompletes taskEvent StartsClean)

/-! A step that is due, while no machine check has stopped the device (R414). -/

section
variable {s t : State} {due : Bool}

theorem on_of_due {f : State → State} (hm : s.mcheck = false) (hdue : due = true) : s.on due f = .next (f s) := by
  simp [State.on, hm, hdue]

theorem onSome_of_due {f : State → Option State} (hm : s.mcheck = false) (hdue : due = true) (hf : f s = some t) :
    s.onSome due f = .next t := by
  rw [State.onSome, on_of_due hm hdue, hf, Option.getD_some]

end

/-- What `EventCompletes taskEvent` asks of one event. -/
def Completes (i : Instr) : Prop := ∀ s t : State, s.mcheck = false → taskEvent i s = some t → exec i s = .next t

/-! Tasks (R360 to R363, R369, R423). -/

theorem completes_launchRecordAccept_device (part : Fin 64) : Completes (.launchRecordAccept part true) := by
  intro s t hm h
  change execLaunchRecordAccept part true s = .next t
  simp only [taskEvent] at h
  cases hq : (s.part part).devQueue with
  | nil => simp [hq] at h
  | cons r rest =>
    simp only [hq, Option.ite_none_right_eq_some, Option.some.injEq] at h
    obtain ⟨⟨hfw, hassigned, hteardown⟩, rfl⟩ := h
    simp only [execLaunchRecordAccept, if_true, hq]
    exact on_of_due hm (by simp [hfw, hassigned, hteardown])

theorem completes_launchRecordAccept_window (part : Fin 64) : Completes (.launchRecordAccept part false) := by
  intro s t hm h
  change execLaunchRecordAccept part false s = .next t
  simp only [taskEvent, Option.ite_none_right_eq_some, Option.some.injEq] at h
  obtain ⟨⟨hfw, hassigned, hteardown, hqueued⟩, rfl⟩ := h
  simp only [execLaunchRecordAccept, Bool.false_eq_true, if_false]
  exact on_of_due hm (by simp [hfw, hassigned, hteardown, hqueued])

theorem completes_taskDependencesMet (part : Fin 64) (task : BitVec 64) : Completes (.taskDependencesMet part task) := by
  intro s t hm h
  change execTaskDependencesMet part task s = .next t
  simp only [taskEvent, Option.bind_eq_some_iff, Option.ite_none_left_eq_some, not_or, ne_eq, not_not, Bool.not_eq_false] at h
  obtain ⟨u, hu, ⟨hqueued, hfw⟩, h⟩ := h
  simp only [execTaskDependencesMet, hu]
  rw [on_of_due hm (by simp [hqueued, hfw])]
  split at h
  · next hfailed => rw [if_pos hfailed]; exact congrArg _ (Option.some.inj h)
  · next hfailed =>
    rw [if_neg hfailed]
    simp only [Option.ite_none_right_eq_some, Option.some.injEq] at h
    obtain ⟨⟨hmet, hfirst⟩, rfl⟩ := h
    have hstart : (s.part part).startable u = true := by
      simp only [Partition.startable, hqueued, hmet, beq_self_eq_true, Bool.and_self]
    rw [if_pos (by rw [hstart, hfirst, Bool.and_self])]
    rfl

theorem completes_taskPlace (part : Fin 64) (task : BitVec 64) (picks : List SlotPick) : Completes (.taskPlace part task picks) := by
  intro s t hm h
  change execTaskPlace part task picks s = .next t
  simp only [taskEvent, Option.bind_eq_some_iff, Option.ite_none_left_eq_some, not_or, ne_eq, not_not, Bool.not_eq_false] at h
  obtain ⟨u, hu, ⟨hplacing, hfw⟩, h⟩ := h
  simp only [execTaskPlace, hu]
  exact onSome_of_due hm (by simp [hplacing, hfw]) h

theorem completes_imageLoad_supervisor (part : Fin 64) (textAt dataAt : BitVec 64) (stackAt : List (BitVec 64)) (frames : List Nat) :
    Completes (.imageLoad part 0 textAt dataAt stackAt frames) := by
  intro s t hm h
  change execImageLoad part 0 textAt dataAt stackAt frames s = .next t
  simp only [taskEvent, if_true, Option.bind_eq_some_iff, Option.ite_none_right_eq_some] at h
  obtain ⟨sl, hsl, g, hg, ⟨hfw, hfits⟩, h⟩ := h
  simp only [execImageLoad, if_true, hsl, hg]
  exact onSome_of_due hm (by simp [hfw, hfits]) h

theorem completes_imageLoad_task {part : Fin 64} {task textAt dataAt : BitVec 64} {stackAt : List (BitVec 64)} {frames : List Nat}
    (htask : task ≠ 0) : Completes (.imageLoad part task textAt dataAt stackAt frames) := by
  intro s t hm h
  change execImageLoad part task textAt dataAt stackAt frames s = .next t
  simp only [taskEvent, if_neg htask, Option.bind_eq_some_iff, Option.ite_none_left_eq_some, not_or, ne_eq, not_not,
    Bool.not_eq_false] at h
  obtain ⟨u, hu, ⟨hloading, hfw, hpresent⟩, h⟩ := h
  simp only [execImageLoad, if_neg htask, hu]
  refine onSome_of_due hm (by simp [hloading, hfw, hpresent]) ?_
  cases hg : s.imageAt part u.recd.image with
  | none =>
    simp only [hg] at h
    exact h
  | some g =>
    simp only [hg] at h ⊢
    cases hfits : u.slots.all (fun sl => g.fits (s.slot sl).bind) with
    | false =>
      rw [if_pos hfits] at h
      exact h
    | true =>
      rw [if_neg ((Bool.not_eq_false _).mpr hfits)] at h
      exact h

theorem completes_taskDone (part : Fin 64) (task : BitVec 64) : Completes (.taskDone part task) := by
  intro s t hm h
  change execTaskDone part task s = .next t
  simp only [taskEvent, Option.bind_eq_some_iff] at h
  obtain ⟨u, hu, h⟩ := h
  simp only [execTaskDone, hu]
  split at h
  · next habort =>
    simp only [Option.ite_none_right_eq_some, Option.some.injEq] at h
    obtain ⟨hfw, rfl⟩ := h
    rw [if_pos habort]
    exact on_of_due hm hfw
  · next habort =>
    simp only [Option.ite_none_right_eq_some, Option.some.injEq] at h
    obtain ⟨⟨hrunning, hfw, hended⟩, rfl⟩ := h
    rw [if_neg habort]
    exact on_of_due hm (by simp [hrunning, hfw, hended])

/-! Slots (R364, R369, R370). -/

theorem completes_slotBind (sl : SlotId) (b : BindRec) (frames : List Nat) : Completes (.slotBind sl b frames) := by
  intro s t hm h
  change execSlotBind sl b frames s = .next t
  simp only [taskEvent, Option.ite_none_right_eq_some] at h
  obtain ⟨hmay, h⟩ := h
  exact onSome_of_due hm hmay h

theorem completes_slotUnbind (sl : SlotId) : Completes (.slotUnbind sl) := by
  intro s t hm h
  change execSlotUnbind sl s = .next t
  simp only [taskEvent, Option.ite_none_right_eq_some, Option.some.injEq] at h
  obtain ⟨⟨hheld, hfw, hnested⟩, rfl⟩ := h
  exact on_of_due hm (by simp [hheld, hfw, hnested])

/-- An eviction takes three events, one from each phase of a slot that is held (R369). -/
theorem completes_slotEvict (sl : SlotId) : Completes (.slotEvict sl) := by
  intro s t hm h
  change execSlotEvict sl s = .next t
  simp only [taskEvent] at h
  unfold execSlotEvict
  cases hphase : (s.slot sl).phase with
  | unbound => simp [hphase] at h
  | bound =>
    simp only [hphase, Option.ite_none_right_eq_some, Option.some.injEq] at h ⊢
    obtain ⟨hvictim, rfl⟩ := h
    exact on_of_due hm hvictim
  | leaving =>
    simp only [hphase, Option.ite_none_right_eq_some, Option.some.injEq] at h ⊢
    obtain ⟨⟨hfw, hmay⟩, rfl⟩ := h
    exact on_of_due hm (by simp [hfw, hmay])
  | evicting =>
    simp only [hphase, Option.ite_none_right_eq_some, Option.some.injEq] at h ⊢
    obtain ⟨hfw, rfl⟩ := h
    exact on_of_due hm hfw

theorem completes_slotRestore (sl : SlotId) (n : Nat) : Completes (.slotRestore sl n) := by
  intro s t hm h
  change execSlotRestore sl n s = .next t
  simp only [taskEvent, Option.bind_eq_some_iff, Option.ite_none_right_eq_some, Option.some.injEq] at h
  obtain ⟨v, hv, ⟨hsl, hmay⟩, rfl⟩ := h
  simp only [execSlotRestore, hv]
  exact on_of_due hm (by simp [hsl, hmay])

/-! The clock (R371, R432). -/

theorem completes_clockModeChange (solo : Bool) : Completes (.clockModeChange solo) := by
  intro s t hm h
  change execClockModeChange solo s = .next t
  simp only [taskEvent, Option.ite_none_right_eq_some, Option.some.injEq] at h
  obtain ⟨⟨hfw, halone, hchanges⟩, rfl⟩ := h
  have hdue : (s.firmwareActs && (!solo || (s.tenants.length == 1 && decide (s.clock.shared + 1000000 ≤ s.timeNs)))) = true := by
    cases solo with
    | false => simp [hfw]
    | true =>
      obtain ⟨hone, hwaited⟩ := halone rfl
      simp [hfw, hone, hwaited]
  rw [execClockModeChange, on_of_due hm hdue, if_neg hchanges]

theorem completes_powerCapClockStep (mhz : Fin 1024) : Completes (.powerCapClockStep mhz) := by
  intro s t hm h
  change execPowerCapClockStep mhz s = .next t
  simp only [taskEvent, Option.ite_none_right_eq_some, Option.some.injEq] at h
  obtain ⟨⟨hsolo, hlow, hhigh⟩, rfl⟩ := h
  exact on_of_due hm (by simp [hsolo, hlow, hhigh])

/-- The table has twelve rows, each settled above; no other instruction has one. -/
theorem eventCompletes_taskEvent : EventCompletes taskEvent := by
  intro i s t hm h
  have hrow := h
  unfold taskEvent at hrow
  split at hrow
  · exact completes_launchRecordAccept_device _ s t hm h
  · exact completes_launchRecordAccept_window _ s t hm h
  · exact completes_taskDependencesMet _ _ s t hm h
  · exact completes_taskPlace _ _ _ s t hm h
  · next part task textAt dataAt stackAt frames =>
    by_cases htask : task = 0
    · subst htask
      exact completes_imageLoad_supervisor part textAt dataAt stackAt frames s t hm h
    · exact completes_imageLoad_task htask s t hm h
  · exact completes_taskDone _ _ s t hm h
  · exact completes_slotBind _ _ _ s t hm h
  · exact completes_slotUnbind _ s t hm h
  · exact completes_slotEvict _ s t hm h
  · exact completes_slotRestore _ _ s t hm h
  · exact completes_clockModeChange _ s t hm h
  · exact completes_powerCapClockStep _ s t hm h
  · cases hrow

/-! A cleared range (R120). -/

/-- A key that a list does not hold reads as the default, whatever the order of the list. -/
theorem get_of_not_mem_keys {α : Type} {d : α} {l : Sparse α} {j : Nat} (h : ∀ p ∈ l, p.1 ≠ j) : Sparse.get d l j = d := by
  induction l with
  | nil => rfl
  | cons p r ih =>
    obtain ⟨k, w⟩ := p
    have hk : j ≠ k := (h (k, w) (List.mem_cons_self ..)).symm
    rw [Sparse.get, if_neg hk, ih fun q hq => h q (List.mem_cons_of_mem _ hq), ite_self]

/-- `get_dropRange` inside the range, for lists in any order. -/
theorem get_dropRange_of_mem {α : Type} {d : α} (l : Sparse α) {a b j : Nat} (ha : a ≤ j) (hb : j < b) :
    Sparse.get d (dropRange l a b) j = d := by
  refine get_of_not_mem_keys fun p hp hpj => ?_
  simp [dropRange, List.mem_filter, hpj, ha, hb] at hp

/-- Where the local store of a slot begins among the places (R121). -/
def slotBase (core lslot mode : Nat) : Nat := lsBase + core * 0x40000 + lslot * slotRows mode * 37 * 8

/-- Every byte of a slot lies in the rows of the slot (R121). -/
theorem lsPlace_mem_slot {mode : Nat} (h : mode ≤ 2) (core lslot off : Nat) :
    slotBase core lslot mode ≤ lsPlace core lslot mode off ∧
      lsPlace core lslot mode off < slotBase core lslot mode + slotBytes mode := by
  have hrow : off / 8 % slotRows mode < slotRows mode := Nat.mod_lt _ (Scope.slotRows_pos h)
  have hbank : bankOf (off / 8) < 37 := Nat.mod_lt _ (by decide)
  simp only [slotBase, lsPlace, rowOf, slotBytes]
  omega

/-- After the scrub of a slot every byte of it is zero, and every unit has a clear tag (R120). -/
theorem scrub_clean {mode : Nat} (h : mode ≤ 2) (s : State) (core : Fin 4608) (lslot off : Nat) :
    (s.scrub core lslot mode).byteAt (lsPlace core.val lslot mode off) = 0 ∧
      (s.scrub core lslot mode).tagAt (lsPlace core.val lslot mode off) = false := by
  obtain ⟨hlow, hhigh⟩ := lsPlace_mem_slot h core.val lslot off
  exact ⟨get_dropRange_of_mem s.mem hlow hhigh, get_dropRange_of_mem s.tags hlow hhigh⟩

/-! Resetting the contexts of a slot (R364). -/

section
variable (s : State) (cs : List CtxId)

theorem mem_foldl_resetCtx : (cs.foldl (fun t c => t.setCtx c Ctx.reset) s).mem = s.mem := by
  induction cs generalizing s with
  | nil => rfl
  | cons c r ih => exact ih _

theorem tags_foldl_resetCtx : (cs.foldl (fun t c => t.setCtx c Ctx.reset) s).tags = s.tags := by
  induction cs generalizing s with
  | nil => rfl
  | cons c r ih => exact ih _

theorem ctx_foldl_resetCtx (e : CtxId) :
    (cs.foldl (fun t c => t.setCtx c Ctx.reset) s).ctx e = if e ∈ cs then Ctx.reset else s.ctx e := by
  induction cs generalizing s with
  | nil => rfl
  | cons c r ih =>
    rw [List.foldl_cons, ih, ctx_setCtx]
    by_cases hr : e ∈ r <;> by_cases hc : e = c <;> simp [hr, hc]

end

theorem mem_ctxsOf (sl : SlotId) (n : Fin 11) : (⟨sl.core, sl.slot, n⟩ : CtxId) ∈ ctxsOf sl :=
  List.mem_map_of_mem (show n ∈ allCtx by revert n; decide)

/-! Binding (R364). -/

/-- What a bind leaves: the slot as its record says, its contexts as at reset, and the memory of a state whose range of the slot
has been scrubbed. -/
theorem bindSlot_spec {s t : State} {sl : SlotId} {b : BindRec} {frames : List Nat} (h : s.bindSlot sl b frames = some t) :
    ∃ u : State,
      (t.slot sl).bind = b ∧ (t.slot sl).phase = .bound ∧ (t.slot sl).lsg = [] ∧
      (∀ c ∈ ctxsOf sl, t.ctx c = Ctx.reset) ∧
      (b.none_ = false → t.mem = (u.scrub sl.core b.lslot.toNat b.mode.toNat).mem ∧
        t.tags = (u.scrub sl.core b.lslot.toNat b.mode.toNat).tags) := by
  unfold State.bindSlot at h
  split at h
  · cases h
  · next u _ _ =>
    simp only [Option.some.injEq] at h
    subst h
    refine ⟨u, ?_, ?_, ?_, fun c hc => ?_, fun hnone => ?_⟩
    · rw [slot_setSlot_self]
    · rw [slot_setSlot_self]
    · rw [slot_setSlot_self]; rfl
    · have hreset := (ctx_foldl_resetCtx (if b.none_ = true then u else u.scrub sl.core b.lslot.toNat b.mode.toNat)
        (ctxsOf sl) c).trans (if_pos hc)
      simpa only [State.ctx, State.setSlot, State.modCore, State.setCore] using hreset
    · simp only [State.setSlot, State.modCore, State.setCore, mem_foldl_resetCtx, tags_foldl_resetCtx, hnone, Bool.false_eq_true,
        if_false, and_self]

theorem startsClean (s : State) (sl : SlotId) (b : BindRec) (frames : List Nat) : StartsClean s sl b frames := by
  intro t h
  obtain ⟨u, hbind, hphase, hlsg, hctx, hstore⟩ := bindSlot_spec h
  refine ⟨hbind, hphase, hlsg, fun n => hctx _ (mem_ctxsOf sl n), fun hnone hmode k _ => ?_⟩
  obtain ⟨hmem, htags⟩ := hstore hnone
  rw [State.byteAt, State.tagAt, hmem, htags, State.slotLoc, hbind]
  exact ⟨(scrub_clean hmode u sl.core b.lslot.toNat (k + 0)).1,
    (scrub_clean hmode u sl.core b.lslot.toNat ((k + 0) / 16 * 16)).2⟩

/-- Settles O47: the table of events row by row; and every byte of a slot lies in the range that a bind scrubs. -/
theorem taskEvents : Obligations.TaskEvents := ⟨eventCompletes_taskEvent, startsClean⟩

end Sys2Proof.Proofs.Tasks
end

section
/-! PROOFS of the family 04_the_lay_and_links, events: what an event that is due answers (R414), for any table of events. -/
namespace Sys2Proof.Proofs.Events
open Sys2Proof Sys2Proof.Machine Sys2Proof.Laws
open Sys2Proof.Safety (EventCompletes)
open Sys2Proof.Proofs.Tasks (on_of_due)

/-- What `EventCompletes form` asks of one instruction. -/
def Answers (form : Instr → State → Option State) (i : Instr) : Prop :=
  ∀ s t : State, s.mcheck = false → form i s = some t → exec i s = .next t

/-- A step that is due leaves what its function gives. -/
theorem on_next {s t : State} {due : Bool} {f : State → State} (hm : s.mcheck = false) (hdue : due = true) (hf : f s = t) :
    s.on due f = .next t := by
  rw [on_of_due hm hdue, hf]

/-- The same of a step whose table gives no state where the step is not due. -/
theorem on_of_unless {s t u : State} {due : Bool} {f : State → State} (hm : s.mcheck = false)
    (h : (if due = false then none else some u) = some t) (hf : f s = u) : s.on due f = .next t := by
  simp only [Option.ite_none_left_eq_some, Bool.not_eq_false, Option.some.injEq] at h
  obtain ⟨hdue, rfl⟩ := h
  exact on_next hm hdue hf

/-- An event that is due whenever its table gives a state, and that leaves that state then. -/
theorem answers_of_on {form : Instr → State → Option State} {i : Instr} {due : State → Bool} {f : State → State}
    (hexec : ∀ s, exec i s = s.on (due s) f) (hdue : ∀ s t, form i s = some t → due s = true)
    (hform : ∀ s t, form i s = some t → f s = t) : Answers form i := fun s t hm h => by
  rw [hexec]
  exact on_next hm (hdue s t h) (hform s t h)

end Sys2Proof.Proofs.Events
end

section
/-! PROOFS of the family 04_the_lay_and_links: the events of errors answer what their table gives (R102, R131 to R133, R412 to R414,
R432), and a machine check stops the device and writes the dump (R414). -/
namespace Sys2Proof.Proofs.Errors
open Sys2Proof Sys2Proof.Machine Sys2Proof.Laws Sys2Proof.Proofs.Events
open Sys2Proof.Safety (EventCompletes errorEvent Stopped)

/-! Machine checks (R414). -/

theorem answers_machineCheck (unit : BitVec 8) (detail : BitVec 32) : Answers errorEvent (.machineCheck unit detail) := by
  refine answers_of_on (fun _ => rfl) (fun _ _ _ => rfl) fun s t h => ?_
  obtain rfl := Option.some.inj h
  refine congrArg (fun u : State => u.machineCheck unit.toNat detail.toNat) (if_congr ?_ rfl rfl)
  simp [knownUnit, or_assoc]

theorem answers_layChannelFail (ch : Fin 208) : Answers errorEvent (.layChannelFail ch) :=
  answers_of_on (fun _ => rfl) (fun _ _ _ => rfl) fun _ _ h => Option.some.inj h

/-! Storage (R131 to R133, R412, R413). An error of storage is due always; what it does depends on where it is. -/

/-- A storage error whose rows in the table give what `f` leaves. -/
theorem answers_storageError {w : StorageWhere} {lasting uncorr : Bool} {f : State → State}
    (hexec : ∀ s, exec (.storageError w lasting uncorr) s = s.on true f)
    (hform : ∀ s t, errorEvent (.storageError w lasting uncorr) s = some t → f s = t) :
    Answers errorEvent (.storageError w lasting uncorr) := answers_of_on hexec (fun _ _ _ => rfl) hform

theorem answers_storageError_registers (sl : SlotId) (lasting uncorr : Bool) :
    Answers errorEvent (.storageError (.registers sl) lasting uncorr) := by
  refine answers_storageError (fun _ => rfl) fun s t h => ?_
  simp only [errorEvent] at h
  simp only [Bool.or_eq_true]
  split at h
  · next hgone =>
    rw [if_pos hgone]
    split at h
    · cases h
    · next hretired =>
      rw [if_neg hretired]
      exact Option.some.inj h
  · next hgone =>
    rw [if_neg hgone]
    exact Option.some.inj h

/-- A bank that has failed already stands (R132): its errors change nothing, and one in another bank stops the device. -/
theorem answers_storageError_localBank (core : Fin 4608) (bank : Fin 39) (lasting uncorr : Bool) :
    Answers errorEvent (.storageError (.localBank core bank) lasting uncorr) := by
  refine answers_storageError (fun _ => rfl) fun s t h => ?_
  cases uncorr with
  | true => exact Option.some.inj h
  | false =>
    cases lasting with
    | true =>
      simp only [errorEvent] at h
      cases hfailed : (s.core core).failed with
      | none =>
        simp only [State.bankError, hfailed, if_true, Bool.false_eq_true, if_false] at h ⊢
        exact Option.some.inj h
      | some b =>
        simp only [State.bankError, hfailed, if_true, Bool.false_eq_true, if_false, Option.ite_none_left_eq_some] at h ⊢
        obtain ⟨hother, h⟩ := h
        rw [if_neg hother]
        exact Option.some.inj h
    | false =>
      simp only [errorEvent, Option.ite_none_left_eq_some] at h
      obtain ⟨hother, h⟩ := h
      simp only [State.bankError, if_neg hother, Bool.false_eq_true, if_false]
      split at h
      · next hfailed => rw [if_pos hfailed]; exact Option.some.inj h
      · next hfailed => rw [if_neg hfailed]; exact Option.some.inj h

theorem answers_storageError_sideArray (core : Fin 4608) (lasting uncorr : Bool) :
    Answers errorEvent (.storageError (.sideArray core) lasting uncorr) := by
  refine answers_storageError (fun _ => rfl) fun s t h => ?_
  cases uncorr with
  | true => exact Option.some.inj h
  | false => exact Option.some.inj h

theorem answers_storageError_secded (core : Fin 4608) (lasting uncorr : Bool) :
    Answers errorEvent (.storageError (.secded core) lasting uncorr) := by
  refine answers_storageError (fun _ => rfl) fun s t h => ?_
  cases uncorr with
  | true => exact Option.some.inj h
  | false =>
    cases lasting with
    | true => exact Option.some.inj h
    | false => exact Option.some.inj h

/-- A row that lasts moves to a spare while one is left (R412). -/
theorem answers_storageError_weightStore (die : Fin 4) (g : Fin 8) (lasting uncorr : Bool) :
    Answers errorEvent (.storageError (.weightStore die g) lasting uncorr) := by
  refine answers_storageError (fun _ => rfl) fun s t h => ?_
  cases uncorr with
  | true => exact Option.some.inj h
  | false =>
    cases lasting with
    | false => exact Option.some.inj h
    | true =>
      simp only [errorEvent, Bool.false_eq_true, reduceCtorEq, if_false] at h
      simp only [State.rowError, Bool.false_eq_true, if_false, if_true]
      split at h
      · next hspent => rw [if_pos hspent]; exact Option.some.inj h
      · next hspare => rw [if_neg hspare]; exact Option.some.inj h

theorem answers_storageError_sideCache (base : Fin 8) (lasting uncorr : Bool) :
    Answers errorEvent (.storageError (.sideCache base) lasting uncorr) := by
  refine answers_storageError (fun _ => rfl) fun s t h => ?_
  cases uncorr with
  | true => exact Option.some.inj h
  | false =>
    cases lasting with
    | true => exact Option.some.inj h
    | false => cases h

theorem answers_storageError_hbmFrame (base : Fin 8) (frame : BitVec 32) (part : Fin 64) (dva : BitVec 64) (fresh : Nat)
    (lasting uncorr : Bool) : Answers errorEvent (.storageError (.hbmFrame base frame part dva fresh) lasting uncorr) := by
  refine answers_storageError (fun _ => rfl) fun s t h => ?_
  cases uncorr with
  | true => exact Option.some.inj h
  | false =>
    simp only [errorEvent, Bool.false_eq_true, if_false, Option.ite_none_right_eq_some, Option.some.injEq] at h
    obtain ⟨hhere, rfl⟩ := h
    simp only [Bool.false_eq_true, if_false, if_pos hhere]

theorem answers_storageError_all (w : StorageWhere) (lasting uncorr : Bool) :
    Answers errorEvent (.storageError w lasting uncorr) := by
  cases w with
  | registers sl => exact answers_storageError_registers sl lasting uncorr
  | localBank core bank => exact answers_storageError_localBank core bank lasting uncorr
  | secded core => exact answers_storageError_secded core lasting uncorr
  | sideArray core => exact answers_storageError_sideArray core lasting uncorr
  | weightStore die g => exact answers_storageError_weightStore die g lasting uncorr
  | sideCache base => exact answers_storageError_sideCache base lasting uncorr
  | hbmFrame base frame part dva fresh => exact answers_storageError_hbmFrame base frame part dva fresh lasting uncorr

/-! Temperature (R432). -/

theorem answers_thermalWarning (temp : BitVec 32) : Answers errorEvent (.thermalWarning temp) := by
  refine answers_of_on (fun _ => rfl) (fun s t h => ?_) fun s t h => ?_
  · simp only [errorEvent, Option.ite_none_left_eq_some] at h
    exact decide_eq_true (Nat.le_of_not_lt h.1)
  · simp only [errorEvent, Option.ite_none_left_eq_some] at h
    obtain ⟨_, h⟩ := h
    split at h
    · next hstops => rw [if_pos hstops]; exact Option.some.inj h
    · next hstops =>
      simp only [Option.ite_none_left_eq_some, Option.some.injEq] at h
      obtain ⟨hfirst, rfl⟩ := h
      rw [if_neg hstops, if_neg hfirst]

theorem answers_thermalClear (temp : BitVec 32) : Answers errorEvent (.thermalClear temp) := by
  refine answers_of_on (fun _ => rfl) (fun s t h => ?_) fun s t h => ?_
  · simp only [errorEvent, Option.ite_none_right_eq_some] at h
    exact decide_eq_true h.1
  · simp only [errorEvent, Option.ite_none_right_eq_some, Option.some.injEq] at h
    exact h.2

/-- The table has a row for each of five instructions; no other instruction has one. -/
theorem eventCompletes_errorEvent : EventCompletes errorEvent := by
  intro i s t hm h
  cases i with
  | machineCheck unit detail => exact answers_machineCheck unit detail s t hm h
  | layChannelFail ch => exact answers_layChannelFail ch s t hm h
  | storageError w lasting uncorr => exact answers_storageError_all w lasting uncorr s t hm h
  | thermalWarning temp => exact answers_thermalWarning temp s t hm h
  | thermalClear temp => exact answers_thermalClear temp s t hm h
  | _ => cases h

/-! A device that has stopped stays stopped while its records and completion words go out (R414). -/

theorem stopped_of_same {s t : State} (hmcheck : t.mcheck = s.mcheck) (hdump : t.dump = s.dump) (h : Stopped s) : Stopped t := by
  obtain ⟨hs, hd⟩ := h
  exact ⟨hmcheck.trans hs, hdump ▸ hd⟩

theorem stopped_foldl {α : Type} {f : State → α → State} (hf : ∀ s a, Stopped s → Stopped (f s a)) (l : List α) {s : State}
    (h : Stopped s) : Stopped (l.foldl f s) := by
  induction l generalizing s with
  | nil => exact h
  | cons a r ih => exact ih (hf s a h)

theorem stopped_toPf {s : State} (h : Stopped s) (n : Fin 16) (e : EvRec) : Stopped (s.toPf n e) := by
  unfold State.toPf
  split
  · exact stopped_of_same rfl rfl h
  · exact stopped_of_same rfl rfl h

theorem stopped_toVf {s : State} (h : Stopped s) (n : Fin 64) (e : EvRec) : Stopped (s.toVf n e) := by
  unfold State.toVf
  split
  · exact stopped_of_same rfl rfl h
  · exact stopped_of_same rfl rfl h

theorem stopped_toPfs {s : State} (h : Stopped s) (e : EvRec) : Stopped (s.toPfs e) :=
  stopped_foldl (fun _ n ht => stopped_toPf ht n e) _ h

theorem stopped_toVfs {s : State} (h : Stopped s) (e : EvRec) : Stopped (s.toVfs e) := by
  refine stopped_foldl (fun t k ht => ?_) _ h
  split
  · split
    · exact stopped_toVf ht _ e
    · exact ht
  · exact ht

theorem stopped_complete {s : State} (h : Stopped s) (p : Fin 64) (cdva word : W64) : Stopped (s.complete p cdva word) := by
  unfold State.complete
  split
  · exact h
  · split
    · next l _ =>
      have hwritten : Stopped (s.writeBytes l (bytesLE 8 word.toNat)) := by
        rw [writeBytes_eq]
        exact h
      dsimp only
      split
      · exact stopped_of_same rfl rfl hwritten
      · exact hwritten
    · exact h

theorem stopped_failTasks {s : State} (h : Stopped s) (p : Fin 64) : Stopped (s.failTasks p) := by
  unfold State.failTasks
  refine stopped_foldl (fun t k ht => ?_) _ h
  have hfresh : Stopped t.takeFresh := ht
  split
  · exact stopped_complete ht _ _ _
  · exact stopped_complete hfresh _ _ _
  · exact ht

/-- After a machine check the device has stopped, and its dump is written (R414). -/
theorem stopped_machineCheck (s : State) (unit detail : Nat) : Stopped (s.machineCheck unit detail) := by
  refine stopped_foldl (fun _ p ht => stopped_failTasks ht p) _ (stopped_toVfs (stopped_toPfs ?_ _) _)
  split
  · exact ⟨rfl, rfl⟩
  · exact ⟨rfl, rfl⟩

/-- Settles O48: the table of events row by row; and no record or completion word that goes out clears the stop or the dump. -/
theorem errorEvents : Obligations.ErrorEvents := ⟨eventCompletes_errorEvent, stopped_machineCheck⟩

end Sys2Proof.Proofs.Errors
end

section
/-! PROOFS of the family 04_the_lay_and_links: the network's events answer what their table gives (R99 to R101, R106, R108, R127,
R138, R139, R187 to R190, R325, R326); the order of frames (R101); and what an access leaves at its destination (R127). -/
namespace Sys2Proof.Proofs.Network
open Sys2Proof Sys2Proof.Machine Sys2Proof.Laws Sys2Proof.Proofs.Events
open Sys2Proof.Safety (EventCompletes networkEvent FrameOrder RemotePerformed SameMemory)

/-! The words of the table as the model's own. -/

theorem woken_of_waiting {s : State} {c : CtxId} {w : Wait} (h : (s.ctx c).status = .waiting w) :
    Safety.woken s c = s.modCtx c Ctx.wake := by
  simp only [Safety.woken, State.modCtx, Ctx.wake, Ctx.awake, h]

/-- Whether a word has been refused for 4,096 cycles (R189). -/
def refusedLong (now : Nat) (since : Option Nat) : Bool :=
  match since with
  | some t => decide (t + 4096 ≤ now)
  | none => false

@[simp] theorem sendingTo_wake (x : Ctx) (addr : W64) : x.wake.sendingTo addr = x.sendingTo addr := by
  unfold Ctx.wake
  split
  · rfl
  · rfl

theorem put_put {α : Type} (l : Sparse α) (i : Nat) (v w : α) : Sparse.put (Sparse.put l i v) i w = Sparse.put l i w := by
  induction l with
  | nil => simp [Sparse.put]
  | cons p r ih =>
    obtain ⟨k, u⟩ := p
    rcases Nat.lt_trichotomy i k with h | rfl | h
    · simp [Sparse.put, h, Nat.ne_of_lt h]
    · simp [Sparse.put]
    · simp [Sparse.put, Nat.ne_of_gt h, Nat.not_lt_of_gt h, ih]

theorem modCtx_modCtx (s : State) (c : CtxId) (f g : Ctx → Ctx) :
    (s.modCtx c f).modCtx c g = s.modCtx c (fun x => g (f x)) := by
  simp only [State.modCtx, ctx_setCtx_self]
  simp only [State.setCtx, put_put]

/-! Stores (R106, R108, R325). -/

theorem answers_messengerPass (ch : Fin 208) : Answers networkEvent (.messengerPass ch) :=
  answers_of_on (fun _ => rfl) (fun _ _ _ => rfl) fun _ _ h => Option.some.inj h

/-- A store that is stripped, meets an evicting slot, lands or is discarded, or waits for a snoop. -/
theorem answers_remoteStoreArrive (c : CtxId) (dest : Nat) : Answers networkEvent (.remoteStoreArrive c dest) := by
  intro s t hm h
  change execRemoteStoreArrive c dest s = .next t
  simp only [networkEvent] at h
  unfold execRemoteStoreArrive
  cases hnarrow : s.nextNarrow c dest with
  | some r =>
    simp only [hnarrow, Option.some.injEq] at h ⊢
    exact on_next hm rfl h
  | none =>
    cases hnext : s.nextStore c dest with
    | none => simp [hnarrow, hnext] at h
    | some r =>
      simp only [hnarrow, hnext, Option.ite_none_left_eq_some, not_or, ne_eq, not_not, Bool.not_eq_true, Bool.not_eq_false] at h ⊢
      obtain ⟨⟨hflying, hcrossed, holder, hwide⟩, h⟩ := h
      have hdue : (s.storeHere r && !r.narrow) = true := by
        have hr : r.narrow = false := hwide
        simp [State.storeHere, hflying, hcrossed, holder, hr]
      refine on_next hm hdue ?_
      cases htarget : r.target with
      | none =>
        simp only [htarget] at h ⊢
        cases hsnoop : s.mustSnoop r.loc true with
        | none =>
          simp only [hsnoop] at h ⊢
          exact Option.some.inj h
        | some n =>
          simp only [hsnoop] at h ⊢
          exact Option.some.inj h
      | some sl =>
        simp only [htarget] at h ⊢
        cases hland : s.landing sl r.part r.loc r.bytes.length with
        | none =>
          simp only [hland, ← apply_ite some] at h ⊢
          exact Option.some.inj h
        | some l =>
          simp only [hland, ← apply_ite some] at h ⊢
          exact Option.some.inj h

theorem answers_remoteAckSend (c : CtxId) (tag : Fin 4) (dest : Nat) : Answers networkEvent (.remoteAckSend c tag dest) := by
  intro s t hm h
  change execRemoteAckSend c tag dest s = .next t
  simp only [networkEvent, Option.ite_none_left_eq_some, not_or, Option.some.injEq, Bool.not_eq_true, Bool.decide_and] at h
  obtain ⟨⟨hnew, hunsent⟩, rfl⟩ := h
  unfold execRemoteAckSend
  refine on_next hm ?_ rfl
  simp only [Bool.and_eq_true, bne_iff_ne, Bool.not_eq_true', beq_eq_decide, Bool.and_assoc]
  exact ⟨hnew, hunsent⟩

theorem answers_remoteAckArrive (c : CtxId) (tag : Fin 4) (dest : Nat) : Answers networkEvent (.remoteAckArrive c tag dest) := by
  intro s t hm h
  change execRemoteAckArrive c tag dest s = .next t
  simp only [networkEvent, Bool.decide_and] at h
  simp only [execRemoteAckArrive, beq_eq_decide, Bool.and_assoc]
  cases hack : s.acks.find? (fun a => decide (a.ctx = c) && (decide (a.tag = tag) && decide (a.dest = dest))) with
  | none => simp [hack] at h
  | some a =>
    simp only [hack, Option.some.injEq, Bool.and_assoc] at h ⊢
    exact on_next hm rfl h

theorem answers_retryResend (c : CtxId) (dest : Nat) : Answers networkEvent (.retryResend c dest) := by
  intro s t hm h
  change execRetryResend c dest s = .next t
  simp only [networkEvent, Bool.decide_and] at h
  simp only [execRetryResend, beq_eq_decide]
  cases hstore : (s.nextStore c dest).filter (fun r => decide (r.phase = .retry)) with
  | some r =>
    simp only [hstore, Option.some.injEq] at h ⊢
    exact on_next hm rfl h
  | none =>
    simp only [hstore, Option.ite_none_right_eq_some, Option.some.injEq] at h ⊢
    obtain ⟨hposts, h⟩ := h
    exact on_next hm hposts h

/-! Accesses (R88, R127, R138, R139, R325, R326). -/

/-- An access that a boundary strips, in the table's words: a release that is too narrow (R325). -/
def tooNarrow (c : CtxId) (r : Remote) : Bool :=
  match r.scope with
  | some sc => decide (r.op ≠ .load) && decide (sc.code < r.home.code) && !Safety.ownRouter c r.loc
  | none => false

theorem tooNarrow_eq (c : CtxId) (r : Remote) : tooNarrow c r = r.narrow c.core := by
  unfold tooNarrow Remote.narrow
  cases r.scope with
  | none => rfl
  | some sc =>
    cases r.loc with
    | localStore k lslot mode off => simp only [Safety.ownRouter, decide_not, bne, beq_eq_decide]
    | _ => simp only [Safety.ownRouter, decide_not, bne, beq_eq_decide]

/-- An access that is not stripped is performed, refused, sent again, or waits for a snoop or a refresh window. -/
theorem answers_remoteLoadArrive (c : CtxId) : Answers networkEvent (.remoteLoadArrive c) := by
  intro s t hm h
  change execRemoteLoadArrive c s = .next t
  simp only [networkEvent] at h
  unfold execRemoteLoadArrive
  cases hremote : (s.ctx c).remote with
  | none => simp [hremote] at h
  | some r =>
    simp only [hremote] at h ⊢
    replace h := (congrArg (fun b : Bool => if b = true then _ else _) (tooNarrow_eq c r)).symm.trans h
    cases hnarrow : r.narrow c.core with
    | true =>
      simp only [hnarrow, if_true, Option.ite_none_right_eq_some, Option.some.injEq] at h ⊢
      obtain ⟨hstripped, h⟩ := h
      exact on_next hm hstripped h
    | false =>
      simp only [hnarrow, Bool.false_eq_true, if_false, Option.ite_none_left_eq_some, not_or, not_and_or, ne_eq, not_not,
        Bool.not_eq_true, Bool.not_eq_false] at h ⊢
      obtain ⟨⟨hphase, hcrossed, howed⟩, h⟩ := h
      refine on_next hm ?_ ?_
      · simp [State.accessHere, hphase, hcrossed, howed]
      · cases htarget : r.target with
        | some sl =>
          simp only [htarget] at h ⊢
          cases hland : s.landing sl (s.partOf c.sl) r.loc r.size with
          | none =>
            simp only [hland, ← apply_ite some] at h ⊢
            exact Option.some.inj h
          | some l =>
            simp only [hland, ← apply_ite some] at h ⊢
            exact Option.some.inj h
        | none =>
          simp only [htarget, decide_not, bne, beq_eq_decide] at h ⊢
          cases hsnoop : s.mustSnoop r.loc (!decide (r.op = .load)) with
          | some n =>
            simp only [hsnoop] at h ⊢
            exact Option.some.inj h
          | none =>
            simp only [hsnoop] at h ⊢
            cases hloc : r.loc with
            | weight d off =>
              simp only [hloc, ← apply_ite some] at h ⊢
              exact Option.some.inj h
            | expansion port pa =>
              simp only [hloc, ← apply_ite some] at h ⊢
              exact Option.some.inj h
            | localStore k lslot mode off => simp only [hloc] at h ⊢; exact Option.some.inj h
            | hbm pa => simp only [hloc] at h ⊢; exact Option.some.inj h
            | host part va => simp only [hloc] at h ⊢; exact Option.some.inj h

/-- A context that waits for a reply goes on when the reply has crossed, and a repair is counted (R326). -/
theorem execRemoteReplyArrive_of_answered {s : State} {c : CtxId} {r : Remote} (hm : s.mcheck = false)
    (hstatus : (s.ctx c).status = .waiting .reply) (hremote : (s.ctx c).remote = some r) (hcrossed : s.crossed r.seq = true)
    (hanswered : r.answered = true) :
    execRemoteReplyArrive c s = .next (Safety.repairs (Safety.woken (s.modCtx c (fun x =>
      { x with remote := x.remote.map (fun q => { q with repaired := false }) })) c) c (if r.repaired then 1 else 0)) := by
  simp only [execRemoteReplyArrive, hstatus, hremote]
  refine on_next hm (by simp [hanswered, hcrossed]) ?_
  rw [woken_of_waiting (w := .reply) (by simp [hstatus])]
  cases r.repaired with
  | true => rfl
  | false => rfl

theorem answers_remoteReplyArrive (c : CtxId) : Answers networkEvent (.remoteReplyArrive c) := by
  intro s t hm h
  change execRemoteReplyArrive c s = .next t
  simp only [networkEvent] at h
  split at h
  · next r hstatus hremote =>
    simp only [Option.ite_none_left_eq_some, Bool.not_eq_false] at h
    obtain ⟨hcrossed, h⟩ := h
    cases hphase : r.phase with
    | replied v tag fl =>
      simp only [hphase, Option.some.injEq] at h
      rw [← h, execRemoteReplyArrive_of_answered hm hstatus hremote hcrossed (by simp [Remote.answered, hphase])]
    | failed e =>
      simp only [hphase, Option.some.injEq] at h
      rw [← h, execRemoteReplyArrive_of_answered hm hstatus hremote hcrossed (by simp [Remote.answered, hphase])]
    | fpTrap fl =>
      simp only [hphase, Option.some.injEq] at h
      rw [← h, execRemoteReplyArrive_of_answered hm hstatus hremote hcrossed (by simp [Remote.answered, hphase])]
    | _ => simp [hphase] at h
  · cases h

theorem answers_expansionTimeout (c : CtxId) : Answers networkEvent (.expansionTimeout c) := by
  intro s t hm h
  change execExpansionTimeout c s = .next t
  simp only [networkEvent] at h
  unfold execExpansionTimeout
  cases hremote : (s.ctx c).remote with
  | none => simp [hremote] at h
  | some r =>
    simp only [hremote] at h ⊢
    cases hloc : r.loc with
    | expansion port pa =>
      simp only [hloc, Option.ite_none_right_eq_some, Option.some.injEq] at h ⊢
      obtain ⟨hsent, h⟩ := h
      exact on_next hm (by simp [hsent]) h
    | _ => simp [hloc] at h

/-- A context behind the refresh window of a bank group that it waits for, and `y` where it waits for none (R138). -/
def afterWindow (g : Fin 8) (x y : Ctx) : Ctx :=
  match x.status with
  | .waiting (.refresh _ k) => if k = g then x.wake else x
  | _ => y

theorem afterWindow_eq (g : Fin 8) (x y : Ctx) :
    afterWindow g x y = match x.status with
      | .waiting (.refresh _ k) => if k = g then { x with status := if x.attached then .following true else .ready } else x
      | _ => y := by
  unfold afterWindow
  cases hstatus : x.status with
  | waiting w =>
    cases w with
    | refresh d k => simp only [Ctx.wake, Ctx.awake, hstatus]
    | _ => rfl
  | _ => rfl

theorem answers_wsRefreshWindow (g : Fin 8) : Answers networkEvent (.wsRefreshWindow g) := by
  refine answers_of_on (fun _ => rfl) (fun s t h => ?_) fun s t h => ?_
  · simp only [networkEvent, Option.ite_none_left_eq_some] at h
    simpa using h.1
  · simp only [networkEvent, Option.ite_none_left_eq_some, Option.some.injEq] at h
    obtain ⟨_, rfl⟩ := h
    refine congrArg (fun l => ({ s with ctxs := l } : State)) (List.map_congr_left fun p _ => congrArg (Prod.mk p.1) ?_)
    exact afterWindow_eq g p.2 _

theorem answers_scopeMissRepair (c : CtxId) : Answers networkEvent (.scopeMissRepair c) := by
  intro s t hm h
  change execScopeMissRepair c s = .next t
  simp only [networkEvent] at h
  unfold execScopeMissRepair
  cases hmiss : s.firstMiss c with
  | none =>
    cases hremote : (s.ctx c).remote with
    | none => simp [hmiss, hremote] at h
    | some q =>
      cases hphase : q.phase with
      | missed n =>
        simp only [hmiss, hremote, Option.bind_some, hphase] at h ⊢
        exact on_of_unless hm h rfl
      | _ => simp [hmiss, hremote, hphase] at h
  | some r =>
    cases hremote : (s.ctx c).remote with
    | none =>
      simp only [hmiss, hremote, Option.bind_none] at h ⊢
      exact on_of_unless hm h rfl
    | some q =>
      cases hphase : q.phase with
      | missed n =>
        simp only [hmiss, hremote, Option.bind_some, hphase] at h ⊢
        split at h
        · next hfirst => rw [if_pos hfirst]; exact on_of_unless hm h rfl
        · next hfirst => rw [if_neg hfirst]; exact on_of_unless hm h rfl
      | _ =>
        simp only [hmiss, hremote, Option.bind_some, hphase] at h ⊢
        exact on_of_unless hm h rfl

/-! Rings (R187 to R190). -/

theorem answers_ringRetry (c : CtxId) : Answers networkEvent (.ringRetry c) := by
  intro s t hm h
  change execRingRetry c s = .next t
  simp only [networkEvent] at h
  unfold execRingRetry
  cases hstatus : (s.ctx c).status with
  | waiting w =>
    cases w with
    | ringRoom addr since =>
      simp only [hstatus] at h ⊢
      cases haddr : ringAddr addr with
      | none => simp [haddr] at h
      | some a =>
        simp only [haddr, woken_of_waiting hstatus] at h ⊢
        cases hsend : s.sendWord c.sl a 0 false (s.ctx c).place with
        | full => rw [hsend] at h; cases h
        | retry => rw [hsend] at h; exact on_next hm rfl (Option.some.inj h)
        | deadlock => rw [hsend] at h; exact on_next hm rfl (Option.some.inj h)
        | delivered u => rw [hsend] at h; exact on_next hm rfl (Option.some.inj h)
        | diverted u => rw [hsend] at h; exact on_next hm rfl (Option.some.inj h)
        | discarded u => rw [hsend] at h; exact on_next hm rfl (Option.some.inj h)
    | _ => simp [hstatus] at h
  | _ => simp [hstatus] at h

theorem answers_overflowDivert (c : CtxId) : Answers networkEvent (.overflowDivert c) := by
  intro s t hm h
  change execOverflowDivert c s = .next t
  simp only [networkEvent] at h
  unfold execOverflowDivert
  cases hstatus : (s.ctx c).status with
  | waiting w =>
    cases w with
    | ringRoom addr since =>
      simp only [hstatus, Option.ite_none_right_eq_some, Option.some.injEq] at h ⊢
      obtain ⟨⟨hlate, haway⟩, h⟩ := h
      refine on_next hm ?_ ?_
      · cases haddr : ringAddr addr with
        | none => simp [hlate]
        | some a =>
          rw [haddr, Option.map_some] at haway
          cases hsend : s.sendWord c.sl a 0 false (s.ctx c).place with
          | retry => rw [hsend] at haway; cases haway
          | _ => simp only [hlate, decide_true, Bool.true_and, hsend, Bool.not_false]
      · rw [← h, woken_of_waiting hstatus, modCtx_modCtx]
        simp only [sendingTo_wake]
    | _ => simp [hstatus] at h
  | _ => simp [hstatus] at h

theorem answers_overflowMove (c : CtxId) (k : Fin 4) : Answers networkEvent (.overflowMove c k) := by
  intro s t hm h
  change execOverflowMove c k s = .next t
  simp only [networkEvent, Bool.decide_and] at h
  simp only [execOverflowMove, beq_eq_decide]
  cases hword : takeFirst (fun e => decide (e.1 = c.ctx) && decide (e.2.1 = k)) (s.slot c.sl).portOvf with
  | none => simp [hword] at h
  | some q =>
    obtain ⟨e, rest⟩ := q
    simp only [hword] at h ⊢
    cases hbound : ((s.ctx c).ring k).bound with
    | false =>
      simp only [hbound, if_true, Option.some.injEq] at h
      exact on_next hm rfl h
    | true =>
      simp only [hbound, reduceCtorEq, if_false, Option.ite_none_right_eq_some, Option.some.injEq] at h
      obtain ⟨hroom, h⟩ := h
      exact on_next hm (decide_eq_true hroom) h

theorem answers_ringDeliver (n : Nat) : Answers networkEvent (.ringDeliver n) := by
  intro s t hm h
  change execRingDeliver n s = .next t
  simp only [networkEvent, Bool.decide_and] at h
  simp only [execRingDeliver, beq_eq_decide]
  cases hmsg : s.ringmsgs[n]? with
  | none => simp [hmsg] at h
  | some m =>
    cases haddr : ringAddr m.addr with
    | none => simp [hmsg, haddr] at h
    | some a =>
      simp only [hmsg, haddr, Option.ite_none_left_eq_some, not_or, Bool.not_eq_true, Bool.not_eq_false] at h ⊢
      obtain ⟨⟨hfirst, hcrossed⟩, h⟩ := h
      refine on_next hm ?_ ?_
      · simp [hfirst, hcrossed]
      · change (match s.sendWord m.ctx.sl a m.word (refusedLong s.cycle (Safety.refusedSince s.cycle m)) none with
          | .delivered u => _
          | .diverted u => _
          | .discarded u => _
          | .full => _
          | .deadlock => _
          | .retry => _) = some t at h
        change (match s.sendWord m.ctx.sl a m.word (refusedLong s.cycle (Safety.refusedSince s.cycle m)) none with
          | .delivered u => _
          | .diverted u => _
          | .discarded u => _
          | .full => _
          | .deadlock => _
          | .retry => _) = t
        cases hsend : s.sendWord m.ctx.sl a m.word (refusedLong s.cycle (Safety.refusedSince s.cycle m)) none with
        | full => simp only [hsend, ← apply_ite some] at h ⊢; exact Option.some.inj h
        | retry => simp only [hsend, ← apply_ite some] at h ⊢; exact Option.some.inj h
        | _ => simp only [hsend] at h ⊢; exact Option.some.inj h

/-- The table has a row for each of fourteen instructions; no other instruction has one. -/
theorem eventCompletes_networkEvent : EventCompletes networkEvent := by
  intro i s t hm h
  cases i with
  | messengerPass ch => exact answers_messengerPass ch s t hm h
  | remoteStoreArrive c dest => exact answers_remoteStoreArrive c dest s t hm h
  | remoteAckSend c tag dest => exact answers_remoteAckSend c tag dest s t hm h
  | remoteAckArrive c tag dest => exact answers_remoteAckArrive c tag dest s t hm h
  | retryResend c dest => exact answers_retryResend c dest s t hm h
  | remoteLoadArrive c => exact answers_remoteLoadArrive c s t hm h
  | remoteReplyArrive c => exact answers_remoteReplyArrive c s t hm h
  | expansionTimeout c => exact answers_expansionTimeout c s t hm h
  | wsRefreshWindow g => exact answers_wsRefreshWindow g s t hm h
  | scopeMissRepair c => exact answers_scopeMissRepair c s t hm h
  | ringRetry c => exact answers_ringRetry c s t hm h
  | overflowDivert c => exact answers_overflowDivert c s t hm h
  | overflowMove c k => exact answers_overflowMove c k s t hm h
  | ringDeliver n => exact answers_ringDeliver n s t hm h
  | _ => cases h

/-! The order of frames (R101). -/

/-- The fold by which a die chooses its next frame finds the first of the least elements (R101). -/
theorem foldl_least {α β : Type} [LinearOrder β] (rank : α → β) (a : α) (l : List α) :
    some (l.foldl (fun x y => if rank y < rank x then y else x) a) = List.argmin rank (a :: l) := by
  change _ = l.foldl (List.argAux fun b c => rank b < rank c) (some a)
  induction l generalizing a with
  | nil => rfl
  | cons b r ih =>
    simp only [List.foldl_cons, ih, List.argAux, apply_ite some]

/-- Of the elements that a test passes, where all have the rank of a first least one that passes it, that one comes first. -/
theorem find?_of_mem_argmin {α β : Type} [DecidableEq α] [LinearOrder β] {rank : α → β} {l : List α} {m : α} {test : α → Bool}
    (h : m ∈ List.argmin rank l) (hself : test m = true) (hrank : ∀ x, test x = true → rank x = rank m) :
    l.find? test = some m := by
  obtain ⟨hmem, _, hfirst⟩ := List.mem_argmin_iff.mp h
  obtain ⟨front, back, rfl, hfront⟩ := List.eq_append_cons_of_mem hmem
  refine List.find?_eq_some_iff_append.mpr ⟨hself, front, back, rfl, fun x hx => ?_⟩
  by_contra hpasses
  have htest : test x = true := by simpa using hpasses
  have hle := hfirst x (List.mem_append_left _ hx) (hrank x htest).le
  rw [List.idxOf_append_of_mem hx, List.idxOf_append_of_notMem hfront] at hle
  have := List.idxOf_lt_length_of_mem hx
  omega

theorem nextFrame_eq_argmin (s : State) (ch die : Nat) :
    s.nextFrame ch die = List.argmin (fun f => turnsAfter (Sparse.get 255 s.frameTurn (16 * ch + die)) f.requester)
      (s.frames.filter (fun f => f.channel == ch && f.source == die)) := by
  unfold State.nextFrame
  dsimp only
  cases s.frames.filter (fun f => f.channel == ch && f.source == die) with
  | nil => rfl
  | cons f fs => exact foldl_least _ f fs

theorem frameOrder : FrameOrder := by
  intro s ch die f h
  rw [nextFrame_eq_argmin] at h
  have hmine : ∀ g : Frame, decide (g.channel = ch ∧ g.source = die) = (g.channel == ch && g.source == die) := fun g => by
    simp only [beq_eq_decide, Bool.decide_and]
  simp only [hmine]
  obtain ⟨_, hleast, _⟩ := List.mem_argmin_iff.mp h
  refine ⟨?_, fun g hg hmine' => hleast g (List.mem_filter.mpr ⟨hg, hmine'⟩)⟩
  have hfirst := find?_of_mem_argmin h (test := fun g => decide (g.requester = f.requester)) (by simp)
    fun g hg => by rw [of_decide_eq_true hg]
  rw [← List.head?_filter, List.filter_filter] at hfirst
  simpa only [Bool.and_comm] using hfirst

/-! What an access leaves at its destination (R127, R139, R146). -/

theorem get_map {α : Type} {d : α} {f : α → α} (hf : f d = d) (l : Sparse α) (i : Nat) :
    Sparse.get d (l.map (fun p => (p.1, f p.2))) i = f (Sparse.get d l i) := by
  induction l with
  | nil => exact hf.symm
  | cons p r ih =>
    simp only [List.map_cons, Sparse.get, ih, apply_ite f, hf]

@[simp] theorem remote_markHit (l : Loc) (n : Nat) (x : Ctx) : (markHit l n x).remote = x.remote := by
  unfold markHit
  dsimp only
  split
  · rfl
  · rfl
  · rfl

theorem markHit_reset (l : Loc) (n : Nat) : markHit l n Ctx.reset = Ctx.reset := rfl

theorem ctx_notice (s : State) (l : Loc) (n : Nat) (c : CtxId) :
    (s.notice l n).ctx c = s.ctx c ∨ (s.notice l n).ctx c = markHit l n (s.ctx c) := by
  unfold State.notice
  split
  · exact .inr (get_map (markHit_reset l n) s.ctxs c.key)
  · exact .inl rfl

/-- A write by any agent leaves the access that a context has outstanding (R342). -/
theorem remote_poke (s : State) (l : Loc) (bs : List Byte) (c : CtxId) : ((s.poke l bs).ctx c).remote = (s.ctx c).remote := by
  obtain h | h := ctx_notice (s.writeBytes l bs) l bs.length c
  · rw [State.poke, h, (writeBytes_parts s l bs).1]
  · rw [State.poke, h, remote_markHit, (writeBytes_parts s l bs).1]

/-- An access performed at its place leaves what contexts have outstanding, and a load leaves everything (R146, R148). -/
theorem performAt_spec {s u : State} {op : RemoteOp} {l : Loc} {n old : Nat} {fl : BitVec 5}
    (h : s.performAt op l n = .ok (u, old, fl)) (c : CtxId) :
    (u.ctx c).remote = (s.ctx c).remote ∧ (op = .load → u = s) := by
  cases op with
  | load =>
    cases h
    exact ⟨rfl, fun _ => rfl⟩
  | amo op n v frm seed seq =>
    simp only [State.performAt] at h
    split at h
    · cases h
    · cases h
      exact ⟨remote_poke .., nofun⟩
  | cas new exp =>
    simp only [State.performAt] at h
    split at h
    · cases h
      exact ⟨remote_poke .., nofun⟩
    · cases h
      exact ⟨rfl, nofun⟩

theorem reached_of_not_inExp {l : Loc} (h : l.inExp = false) (s : State) (n : Nat) (wr : Bool) : s.reached l n wr = s := by
  cases l with
  | expansion port pa => cases h
  | _ => rfl

theorem swapExp_of_not_inExp {l : Loc} (h : l.inExp = false) (s : State) (n : Nat) : s.swapExp l n = s := by
  cases l with
  | expansion port pa => cases h
  | _ => rfl

theorem cacheLine_ctxs (s : State) (n : Nat) (wr : Bool) : (s.cacheLine n wr).ctxs = s.ctxs := by
  unfold State.cacheLine
  split
  · rfl
  · split
    · rfl
    · rfl

theorem ctxs_cacheHost (s : State) (l : Loc) (n : Nat) (wr : Bool) : (s.cacheHost l n wr).ctxs = s.ctxs := by
  unfold State.cacheHost
  split
  · generalize List.range _ = is
    induction is generalizing s with
    | nil => rfl
    | cons i is ih => exact (ih _).trans (cacheLine_ctxs ..)
  · rfl

theorem ctx_cacheHost (s : State) (l : Loc) (n : Nat) (wr : Bool) (c : CtxId) : (s.cacheHost l n wr).ctx c = s.ctx c := by
  rw [State.ctx, ctxs_cacheHost, State.ctx]

theorem remote_notMissed (x : Ctx) (r : Remote) : (x.notMissed r).remote = x.remote := by
  unfold Ctx.notMissed
  split
  · rfl
  · rfl

/-- A reply changes the phase of the outstanding access alone, and neither memory nor tags. -/
theorem reply_spec (s : State) (c : CtxId) (r : Remote) (p : RemotePhase) :
    ((s.reply c r p).ctx c).remote = (s.ctx c).remote.map (fun q => { q with phase := p }) ∧
      (s.reply c r p).mem = s.mem ∧ (s.reply c r p).tags = s.tags := by
  unfold State.reply State.modRemote State.enframeReply
  rw [ctx_modCtx_self]
  split
  · exact ⟨rfl, rfl, rfl⟩
  · exact ⟨rfl, rfl, rfl⟩

/-- An access outside expansion memory that misses none of its own stores is performed on the state as it is. -/
theorem performRemote_eq {s u : State} {c : CtxId} {r : Remote} {l : Loc} {old : Nat} {fl : BitVec 5} (hl : l.inExp = false)
    (hmay : r.mayMiss c = false) (hperform : s.performAt r.op l r.size = .ok (u, old, fl)) :
    s.performRemote c r l = (((u.cacheHost l r.size (r.op != .load)).modCtx c (fun x => x.notMissed r)).modRemote c
      (fun q => { q with loc := l })).reply c r
        (.replied (BitVec.ofNat 128 (r.joined old)) (r.tags && s.tagAt (l.tagKey 0)) fl) := by
  have hmissing : s.missing c r = (s, []) := by simp [State.missing, hmay]
  have hafter : (if (r.op != .load) = true then u else s) = u := by
    split
    · rfl
    · next hload => exact ((performAt_spec hperform c).2 (by simpa using hload)).symm
  simp only [State.performRemote, hmissing, reached_of_not_inExp hl, swapExp_of_not_inExp hl, hperform, State.overMissed,
    List.foldl_nil, hafter]

theorem remotePerformed : RemotePerformed := by
  intro s u c r l old fl hremote hl hmay hperform
  rw [performRemote_eq hl hmay hperform]
  obtain ⟨hreply, hmem, htags⟩ := reply_spec (((u.cacheHost l r.size (r.op != .load)).modCtx c (fun x => x.notMissed r)).modRemote c
    (fun q => { q with loc := l })) c r (.replied (BitVec.ofNat 128 (r.joined old)) (r.tags && s.tagAt (l.tagKey 0)) fl)
  obtain ⟨hcacheMem, hcacheTags⟩ := cacheHost_mem u l r.size (r.op != .load)
  refine ⟨⟨{ r with loc := l, phase := .replied (BitVec.ofNat 128 (r.joined old)) (r.tags && s.tagAt (l.tagKey 0)) fl }, ?_, rfl⟩,
    fun p => ?_, fun k => ?_⟩
  · rw [hreply, State.modRemote, ctx_modCtx_self, ctx_modCtx_self, remote_notMissed, ctx_cacheHost,
      (performAt_spec hperform c).1, hremote]
    rfl
  · rw [State.byteAt, hmem]
    exact congrArg (Sparse.get unlisted · p) hcacheMem
  · rw [State.tagAt, htags]
    exact congrArg (Sparse.get false · k) hcacheTags

/-- Settles O42: the table of events row by row; a die's next frame is the first of those whose requester's turn comes first; and an
access that tears, or misses none of its own stores, leaves its reply and the memory that it makes. -/
theorem networkEvents : Obligations.NetworkEvents := ⟨eventCompletes_networkEvent, frameOrder, remotePerformed⟩

end Sys2Proof.Proofs.Network
end

section
/-! PROOFS of the family 04_the_lay_and_links: the links' events answer what their table gives (R111, R113 to R117, R440 to R443);
flits are accepted in the order of their numbers (R113); which flits cannot be read (R111, R112); and how a flit is striped (R112). -/
namespace Sys2Proof.Proofs.Links
open Sys2Proof Sys2Proof.Machine Sys2Proof.Laws Sys2Proof.Proofs.Events
open Sys2Proof.Safety (EventCompletes linkEvent received InOrder unread Stripes)

/-! Flits that arrive (R111, R113, R440, R443). -/

theorem received_eq (s : State) (n : Fin 256) (f : Flit) : received s n f = s.receiveFlit n f := by
  have hcount : ∀ l : Link, (if f.replay = true then l.rxReplayed + 1 else l.rxReplayed) =
      l.rxReplayed + (if f.replay = true then 1 else 0) := fun l => by
    cases f.replay with
    | true => rfl
    | false => exact (BitVec.add_zero _).symm
  simp only [received, State.receiveFlit, hcount]

theorem answers_flitDataReceive (n : Fin 256) (f : Flit) : Answers linkEvent (.flitDataReceive n f) := by
  intro s t hm h
  change execFlitDataReceive n f s = .next t
  simp only [linkEvent, Option.ite_none_left_eq_some, not_or, not_and, Bool.not_eq_true, received_eq, Option.some.injEq] at h
  obtain ⟨⟨hkind, hlost⟩, h⟩ := h
  refine on_next hm ?_ h
  simp only [hlost, Bool.not_false, Bool.and_true, Bool.or_eq_true, beq_iff_eq, decide_eq_true_eq]
  exact or_iff_not_imp_left.mpr fun hdata => Nat.le_of_not_lt (hkind hdata)

theorem answers_completionFlitReceive (n : Fin 256) (f : Flit) : Answers linkEvent (.completionFlitReceive n f) := by
  intro s t hm h
  change execCompletionFlitReceive n f s = .next t
  simp only [linkEvent, Option.ite_none_left_eq_some, not_or, ne_eq, not_not, Bool.not_eq_true, received_eq, Option.some.injEq] at h
  obtain ⟨⟨hkind, hlost⟩, h⟩ := h
  exact on_next hm (by simp [hkind, hlost]) h

/-! Acknowledgement and replay (R113, R114). -/

theorem marking_iff (l : Link) : l.marking = true ↔ l.restripe = true ∧ l.first = none := by simp [Link.marking]

/-- A cause of a replay, in the table's words (R113). -/
theorem replayCause_eq (s : State) (n : Fin 256) :
    s.replayCause n = if (s.link n).held = [] ∨ ((s.link n).restripe = true ∧ (s.link n).first = none) then s
      else if 64 ≤ (s.link n).rounds then s.loseLink n else s.replayAll n := by
  simp only [State.replayCause, marking_iff, List.isEmpty_iff]

theorem answers_flitNackReceive (n : Fin 256) (f : Flit) : Answers linkEvent (.flitNackReceive n f) := by
  intro s t hm h
  change execFlitNackReceive n f s = .next t
  simp only [linkEvent, Option.ite_none_left_eq_some, not_or, ne_eq, not_not, Bool.not_eq_true, Option.some.injEq,
    ← replayCause_eq] at h
  obtain ⟨⟨hkind, hread, hlost⟩, h⟩ := h
  exact on_next hm (by simp [hkind, hread, hlost]) h

/-- The acknowledgement of a marker starts the replay, or ends the restripe; any other releases flits only (R114, R441). -/
theorem answers_flitAckReceive (n : Fin 256) (f : Flit) : Answers linkEvent (.flitAckReceive n f) := by
  intro s t hm h
  change execFlitAckReceive n f s = .next t
  simp only [linkEvent, Option.ite_none_left_eq_some, not_or, not_not, Bool.not_eq_true] at h
  obtain ⟨⟨hkind, hread, hlost⟩, h⟩ := h
  refine on_next hm ?_ ?_
  · simp only [List.mem_cons, List.not_mem_nil, or_false] at hkind
    simp only [hread, hlost, Bool.not_false, Bool.and_true, Bool.or_eq_true, beq_iff_eq]
    tauto
  · simp only [marking_iff, and_assoc, maskOf]
    split at h
    · next hmarker =>
      rw [if_pos hmarker]
      cases hheld : ((s.ackUpTo n f.ackseq).link n).held with
      | nil => simp only [hheld] at h ⊢; exact Option.some.inj h
      | cons g rest => simp only [hheld] at h ⊢; exact Option.some.inj h
    · next hother =>
      rw [if_neg hother]
      exact Option.some.inj h

theorem answers_restripeMarkerReceive (n : Fin 256) (f : Flit) : Answers linkEvent (.restripeMarkerReceive n f) := by
  intro s t hm h
  change execRestripeMarkerReceive n f s = .next t
  simp only [linkEvent, Option.ite_none_left_eq_some, not_or, ne_eq, not_not, Bool.not_eq_true, Option.some.injEq] at h
  obtain ⟨⟨hkind, hread, hlost⟩, h⟩ := h
  refine on_next hm (by simp [hkind, hread, hlost]) ?_
  simp only [maskOf, BitVec.ofNat_toNat] at h ⊢
  exact h

theorem answers_ackFlitTimer (n : Fin 256) : Answers linkEvent (.ackFlitTimer n) := by
  intro s t hm h
  change execAckFlitTimer n s = .next t
  simp only [linkEvent, Option.ite_none_left_eq_some, Bool.not_eq_true, Option.some.injEq] at h
  obtain ⟨hlost, h⟩ := h
  exact on_next hm (by simp [hlost]) h

theorem answers_replayTimeout (n : Fin 256) : Answers linkEvent (.replayTimeout n) := by
  intro s t hm h
  change execReplayTimeout n s = .next t
  unfold execReplayTimeout
  simp only [linkEvent, Option.ite_none_left_eq_some, Bool.not_eq_true, ← marking_iff] at h
  obtain ⟨hlost, h⟩ := h
  cases hmarking : (s.link n).marking with
  | true =>
    rw [if_pos hmarking] at h
    refine on_next hm ?_ ?_
    · simp [hlost, hmarking]
    · rw [if_pos hmarking]
      exact Option.some.inj h
  | false =>
    simp only [hmarking, Bool.false_eq_true, if_false, Option.ite_none_left_eq_some, not_or, Nat.not_lt, ← apply_ite some,
      Option.some.injEq] at h
    obtain ⟨⟨hheld, hlate⟩, h⟩ := h
    refine on_next hm ?_ ?_
    · simp [hlost, hheld, hlate]
    · simp only [State.replayCause, hmarking, List.isEmpty_iff, hheld, Bool.false_eq_true, or_self, if_false]
      exact h

/-! Light (R114, R116, R441, R442). -/

theorem answers_lossOfLight (n : Fin 256) (g : Laser) : Answers linkEvent (.lossOfLight n g) := by
  obtain ⟨grp, rx⟩ := g
  cases rx with
  | false => exact answers_of_on (fun _ => rfl) (fun _ _ _ => rfl) fun _ _ h => Option.some.inj h
  | true => exact answers_of_on (fun _ => rfl) (fun _ _ _ => rfl) fun _ _ h => Option.some.inj h

theorem answers_laserLightReturn (n : Fin 256) (g : Laser) : Answers linkEvent (.laserLightReturn n g) := by
  obtain ⟨grp, rx⟩ := g
  cases rx with
  | false => exact answers_of_on (fun _ => rfl) (fun _ _ _ => rfl) fun _ _ h => Option.some.inj h
  | true => exact answers_of_on (fun _ => rfl) (fun _ _ _ => rfl) fun _ _ h => Option.some.inj h

theorem answers_lossDetect_receive (n : Fin 256) (g : Fin 4) : Answers linkEvent (.lossDetect n ⟨g, true⟩) := by
  intro s t hm h
  change execLossDetect n ⟨g, true⟩ s = .next t
  simp only [linkEvent, Option.ite_none_left_eq_some, not_or, Bool.not_eq_true] at h
  obtain ⟨⟨hlost, hdark, hstriped, hnew⟩, h⟩ := h
  refine on_next hm ?_ ?_
  · simp only [hlost, Link.unknownLoss, if_true, hdark, hnew, groupMask, Bool.not_false, Bool.true_and, Bool.and_true, bne_iff_ne]
    exact hstriped
  · exact Option.some.inj h

theorem answers_lossDetect_transmit (n : Fin 256) (g : Fin 4) : Answers linkEvent (.lossDetect n ⟨g, false⟩) := by
  intro s t hm h
  change execLossDetect n ⟨g, false⟩ s = .next t
  simp only [linkEvent, Option.ite_none_left_eq_some, not_or, Bool.not_eq_true, ← apply_ite some] at h
  obtain ⟨⟨hlost, hdark, hstriped⟩, h⟩ := h
  refine on_next hm ?_ ?_
  · simp only [hlost, Link.unknownLoss, Bool.false_eq_true, if_false, hdark, groupMask, Bool.not_false, Bool.true_and, bne_iff_ne]
    exact hstriped
  · exact Option.some.inj h

theorem answers_linkRetrain (n : Fin 256) : Answers linkEvent (.linkRetrain n) := by
  intro s t hm h
  change execLinkRetrain n s = .next t
  unfold execLinkRetrain
  simp only [linkEvent, Option.ite_none_left_eq_some, not_or, ne_eq, not_not, Option.some.injEq] at h
  obtain ⟨⟨hheld, hlit, hrxLit, hidle⟩, h⟩ := h
  refine on_next hm ?_ ?_
  · rw [hheld, hlit, hrxLit]
    cases hlost : (s.link n).lost with
    | true => rfl
    | false => simpa [hlost] using hidle
  · exact h

/-- The table has a row for each of ten instructions; no other instruction has one. -/
theorem eventCompletes_linkEvent : EventCompletes linkEvent := by
  intro i s t hm h
  cases i with
  | flitDataReceive n f => exact answers_flitDataReceive n f s t hm h
  | completionFlitReceive n f => exact answers_completionFlitReceive n f s t hm h
  | flitNackReceive n f => exact answers_flitNackReceive n f s t hm h
  | flitAckReceive n f => exact answers_flitAckReceive n f s t hm h
  | restripeMarkerReceive n f => exact answers_restripeMarkerReceive n f s t hm h
  | ackFlitTimer n => exact answers_ackFlitTimer n s t hm h
  | replayTimeout n => exact answers_replayTimeout n s t hm h
  | lossOfLight n g => exact answers_lossOfLight n g s t hm h
  | laserLightReturn n g => exact answers_laserLightReturn n g s t hm h
  | lossDetect n g =>
    obtain ⟨grp, rx⟩ := g
    cases rx with
    | true => exact answers_lossDetect_receive n grp s t hm h
    | false => exact answers_lossDetect_transmit n grp s t hm h
  | linkRetrain n => exact answers_linkRetrain n s t hm h
  | _ => cases h

/-! The order of flits (R113), and which cannot be read (R111, R112). -/

theorem inOrder (s : State) (n : Fin 256) (f : Flit) : InOrder s n f := by
  intro haccepted
  unfold State.receiveFlit at haccepted ⊢
  split at haccepted
  · cases haccepted
  · next hread =>
    dsimp only at haccepted ⊢
    split at haccepted
    · next hseq =>
      rw [if_neg hread, if_pos hseq]
      refine ⟨hseq, ?_⟩
      rw [link_modLink_self, hseq]
    · split at haccepted
      · cases haccepted
      · cases haccepted

theorem garbled_iff_unread (s : State) (n : Fin 256) (f : Flit) : (s.link n).garbled f = true ↔ unread s n f := by
  simp only [Link.garbled, unread, Bool.or_eq_true, Bool.and_eq_true, bne_iff_ne, List.any_eq_true, wavelengths, List.mem_filter,
    List.mem_range, Bool.not_eq_true', decide_eq_true_eq, or_assoc, and_assoc]

/-! Stripes (R112). -/

/-- What a flit carries on the wavelength of a place, of `b` bits each. -/
def lane (b bits j : Nat) : Nat := bits / 2 ^ (b * j) % 2 ^ b

theorem stripe_eq (m : BitVec 16) (bits : Nat) :
    stripe m bits = (List.range (wavelengths m).length).map (fun j =>
      ((wavelengths m).getD j 0, lane (768 / (wavelengths m).length) bits j)) := rfl

theorem length_stripe (m : BitVec 16) (bits : Nat) : (stripe m bits).length = (wavelengths m).length := by simp [stripe]

theorem nodup_wavelengths (m : BitVec 16) : (wavelengths m).Nodup := List.nodup_range.filter _

theorem getElem?_stripe (m : BitVec 16) (bits : Nat) {j : Nat} (h : j < (wavelengths m).length) :
    (stripe m bits)[j]? = some ((wavelengths m).getD j 0, lane (768 / (wavelengths m).length) bits j) := by
  simp [stripe_eq, h]

/-- The receiver finds the lane of each wavelength. -/
theorem find?_stripe (m : BitVec 16) (bits : Nat) {j : Nat} (h : j < (wavelengths m).length) :
    (stripe m bits).find? (fun p => p.1 == (wavelengths m).getD j 0) =
      some ((wavelengths m).getD j 0, lane (768 / (wavelengths m).length) bits j) := by
  have hfirst : (List.range (wavelengths m).length).find? (fun k => (wavelengths m).getD k 0 == (wavelengths m).getD j 0) = some j := by
    refine List.find?_range_eq_some.mpr ⟨beq_self_eq_true _, List.mem_range.mpr h, fun k hk => ?_⟩
    have hkw : k < (wavelengths m).length := hk.trans h
    simp only [List.getD_eq_getElem _ _ hkw, List.getD_eq_getElem _ _ h, Bool.not_eq_true', beq_eq_false_iff_ne, ne_eq,
      (nodup_wavelengths m).getElem_inj_iff]
    exact hk.ne
  rw [stripe_eq, List.find?_map]
  exact congrArg (Option.map _) hfirst

/-- The low lanes of a number, put together again, are its low bits. -/
theorem sum_lanes (b bits w : Nat) :
    (List.range w).foldl (fun n j => n + lane b bits j * 2 ^ (b * j)) 0 = bits % 2 ^ (b * w) := by
  induction w with
  | zero => simp [Nat.mod_one]
  | succ w ih =>
    rw [List.range_succ, List.foldl_append, ih, List.foldl_cons, List.foldl_nil, Nat.mul_succ, Nat.pow_add, Nat.mod_mul, lane,
      Nat.mul_comm (2 ^ (b * w))]

theorem gather_stripe {m : BitVec 16} {bits : Nat} (hw : 768 / (wavelengths m).length * (wavelengths m).length = 768)
    (hbits : bits < 2 ^ 768) : gather m (stripe m bits) = bits := by
  have hlanes : gather m (stripe m bits) = (List.range (wavelengths m).length).foldl (fun n j =>
      n + lane (768 / (wavelengths m).length) bits j * 2 ^ (768 / (wavelengths m).length * j)) 0 :=
    List.foldl_ext _ _ _ fun n j hj => by
      rw [find?_stripe m bits (List.mem_range.mp hj)]
      simp only [Option.map_some, Option.getD_some, lane, Nat.mod_mod]
  rw [hlanes, sum_lanes, hw, Nat.mod_eq_of_lt hbits]

/-! The bytes of a flit (R111). -/

theorem length_bytesLE (n v : Nat) : (bytesLE n v).length = n := by
  induction n generalizing v with
  | zero => rfl
  | succ n ih => exact congrArg (· + 1) (ih _)

theorem ofBytesLE_lt (bs : List Byte) : ofBytesLE bs < 2 ^ (8 * bs.length) := by
  induction bs with
  | nil => exact Nat.one_pos
  | cons b r ih =>
    have hb : b.toNat < 256 := b.isLt
    rw [ofBytesLE, List.length_cons, Nat.mul_succ, Nat.pow_add]
    omega

/-- The bytes of a flit whose payload and what follows it are 64 bytes (R111). -/
theorem flitBytes_spec (g : Flit) (rest : List Byte) (h : g.payload.length + rest.length = 64) :
    (flitBytes g rest).length = 96 ∧ (flitBytes g rest).take 64 = g.payload ++ rest ∧
      ((flitBytes g rest).drop 64).take 16 = bytesLE 16 (flitHeader g).toNat ∧
      ((flitBytes g rest).drop 80).take 4 = bytesLE 4 (Config.crc32 ((flitBytes g rest).take 80)).toNat := by
  have hpayload : (g.payload ++ rest).length = 64 := by rw [List.length_append, h]
  have hheader := length_bytesLE 16 (flitHeader g).toNat
  have hbody : (g.payload ++ rest ++ bytesLE 16 (flitHeader g).toNat).length = 80 := by rw [List.length_append, hpayload, hheader]
  have hbytes : flitBytes g rest = g.payload ++ rest ++ bytesLE 16 (flitHeader g).toNat ++
      bytesLE 4 (Config.crc32 (g.payload ++ rest ++ bytesLE 16 (flitHeader g).toNat)).toNat ++
      (List.range 12).map (Config.parity (g.payload ++ rest ++ bytesLE 16 (flitHeader g).toNat ++
        bytesLE 4 (Config.crc32 (g.payload ++ rest ++ bytesLE 16 (flitHeader g).toNat)).toNat)) := by
    rw [flitBytes, List.take_of_length_le hpayload.le]
  have hcrc := fun body => length_bytesLE 4 (Config.crc32 body).toNat
  have htake : (flitBytes g rest).take 80 = g.payload ++ rest ++ bytesLE 16 (flitHeader g).toNat := by
    rw [hbytes, List.append_assoc, List.take_left' hbody]
  refine ⟨?_, ?_, ?_, ?_⟩
  · simp only [hbytes, List.length_append, List.length_map, List.length_range, hheader, hcrc]
    omega
  · rw [hbytes, List.append_assoc, List.append_assoc, List.take_left' hpayload]
  · rw [hbytes, List.append_assoc, List.append_assoc, List.drop_left' hpayload, List.take_left' hheader]
  · rw [htake, hbytes, List.append_assoc, List.drop_left' hbody, List.take_left' (hcrc _)]

theorem stripes : Stripes := by
  refine ⟨fun m bits hcount hbits => ?_, fun s n f hlen => ?_⟩
  · have hw : 768 / (wavelengths m).length * (wavelengths m).length = 768 := by
      simp only [List.mem_cons, List.not_mem_nil, or_false] at hcount
      rcases hcount with h | h | h | h <;> rw [h]
    exact ⟨length_stripe m bits, gather_stripe hw hbits, fun j hj => getElem?_stripe m bits hj⟩
  · have hrest : f.payload.length + ((List.range (64 - f.payload.length)).map (fun i => Config.freeByte (s.fresh + i))).length = 64 := by
      rw [List.length_map, List.length_range]
      omega
    refine ⟨_, hrest, ?_⟩
    obtain ⟨hlength, hhead, hheader, hcrc⟩ :=
      flitBytes_spec { f with ackseq := (s.link n).expect - 1, mask := (s.link n).live } _ hrest
    have hbits : 8 * (flitBytes { f with ackseq := (s.link n).expect - 1, mask := (s.link n).live }
        ((List.range (64 - f.payload.length)).map (fun i => Config.freeByte (s.fresh + i)))).length = 768 := by rw [hlength]
    refine ⟨hlength, hhead, hheader, hcrc, hbits ▸ ofBytesLE_lt _, ?_⟩
    rw [State.transmit, link_modLink_self]
    rfl

/-- Settles O43: the table of events row by row; what a receiver accepts carries the number that it expects, and moves it on by one;
and the lanes of a flit put together give its bits. -/
theorem linkEvents : Obligations.LinkEvents := ⟨eventCompletes_linkEvent, inOrder, garbled_iff_unread, stripes⟩

end Sys2Proof.Proofs.Links
end

section
/-! PROOFS of the family 04_the_lay_and_links: no trap and no phase that completes changes which context is the current one. -/
namespace Sys2Proof.Proofs.Current
open Sys2Proof Sys2Proof.Machine Sys2Proof.Laws

theorem cur_foldl {α : Type} {f : State → α → State} (hf : ∀ s a, (f s a).cur = s.cur) (l : List α) (s : State) :
    (l.foldl f s).cur = s.cur := by
  induction l generalizing s with
  | nil => rfl
  | cons a r ih => exact (ih _).trans (hf s a)

@[simp] theorem cur_modCtx (s : State) (c : CtxId) (f : Ctx → Ctx) : (s.modCtx c f).cur = s.cur := rfl

@[simp] theorem cur_modCore (s : State) (k : Fin 4608) (f : Core → Core) : (s.modCore k f).cur = s.cur := rfl

@[simp] theorem cur_modSlot (s : State) (l : SlotId) (f : Slot → Slot) : (s.modSlot l f).cur = s.cur := rfl

/-! Writes. -/

@[simp] theorem cur_writeBytes (s : State) (l : Loc) (bs : List Byte) : (s.writeBytes l bs).cur = s.cur := by
  rw [writeBytes_eq]

@[simp] theorem cur_setHbm64 (s : State) (a : Nat) (x : W64) : (s.setHbm64 a x).cur = s.cur := cur_writeBytes ..

@[simp] theorem cur_poke (s : State) (l : Loc) (bs : List Byte) : (s.poke l bs).cur = s.cur := by
  unfold State.poke State.notice
  split
  · exact cur_writeBytes ..
  · exact cur_writeBytes ..

/-! The end of a context, and of a task. -/

theorem cur_resolveHandle (s : State) (c : CtxId) (h : Fin 16) (k : BitVec 16) (w : W64) (d : Option W64) :
    (s.resolveHandle c h k w d).cur = s.cur := by
  unfold State.resolveHandle
  dsimp only
  split
  · rfl
  · rfl

theorem cur_killHandles (s : State) (c : CtxId) : (s.killHandles c).cur = s.cur := by
  refine cur_foldl (fun t h => ?_) _ s
  dsimp only
  split
  · exact cur_resolveHandle ..
  · rfl

theorem cur_abandon (s : State) (c : CtxId) : (s.abandon c).cur = s.cur := by
  unfold State.abandon
  split
  · dsimp only
    split
    · rfl
    · rfl
  · rfl

theorem cur_forsake (s : State) (c : CtxId) : (s.forsake c).cur = s.cur := cur_abandon ..

theorem cur_dropFlying (s : State) (gone : CtxId → Bool) : (s.dropFlying gone).cur = s.cur := rfl

theorem cur_dropOpsOf (s : State) (k : Fin 4608) (gone : CtxId → Bool) : (s.dropOpsOf k gone).cur = s.cur := rfl

theorem cur_endCtx (s : State) (c : CtxId) : (s.endCtx c).cur = s.cur := by
  simp only [State.endCtx, cur_dropFlying, cur_modCtx, cur_dropOpsOf, cur_killHandles, cur_abandon]

theorem cur_cancelLoose (s : State) (c : CtxId) (f : OpHead → Bool) : (s.cancelLoose c f).cur = s.cur := by
  unfold State.cancelLoose
  dsimp only
  split
  · rfl
  · rfl

theorem cur_unmapPages (s : State) (p : Fin 64) (ds : List Nat) : (s.unmapPages p ds).1.cur = s.cur := by
  induction ds generalizing s with
  | nil => rfl
  | cons d r ih =>
    unfold State.unmapPages
    split
    · split
      · exact (ih _).trans (cur_setHbm64 ..)
      · exact ih s
    · exact ih s

theorem cur_unmapService (s : State) (p : Fin 64) (l : SlotId) : (s.unmapService p l).cur = s.cur := by
  unfold State.unmapService
  dsimp only
  split
  · rfl
  · exact cur_unmapPages ..

theorem cur_markShared (s : State) : s.markShared.cur = s.cur := by
  unfold State.markShared
  split
  · rfl
  · rfl

theorem cur_dropped (s : State) (l : SlotId) : ((s.dropOps l).dropTraffic l).cur = s.cur := rfl

theorem cur_clearAcc (s : State) (k : Fin 4608) : (s.clearAcc k).cur = s.cur := rfl

theorem cur_clearSlot (s : State) (l : SlotId) : (s.clearSlot l).cur = s.cur := by
  have hfold : ((ctxsOf l).foldl (fun t c => (t.killHandles c).modCtx c (fun x => { x.ended with counts := [] })) s).cur = s.cur :=
    cur_foldl (fun t c => (cur_modCtx ..).trans (cur_killHandles t c)) _ s
  simp only [State.clearSlot, cur_modCore]
  split
  · rw [cur_clearAcc, cur_dropped, hfold]
  · rw [cur_dropped, hfold]

theorem cur_unbindSlot (s : State) (l : SlotId) : (s.unbindSlot l).cur = s.cur := by
  rw [State.unbindSlot, cur_modSlot, cur_clearSlot, cur_unmapService, cur_markShared]

theorem cur_dropSaved (s : State) (gone : Saved → Bool) : (s.dropSaved gone).cur = s.cur := by
  refine cur_foldl (fun t v => ?_) _ s
  rfl

theorem cur_giveUp (p : Fin 64) (k : W64) (s : State) (l : SlotId) : (State.giveUp p k s l).cur = s.cur := by
  unfold State.giveUp
  split
  · exact cur_unbindSlot ..
  · exact (cur_dropSaved ..).trans ((cur_unmapService ..).trans (cur_markShared ..))

theorem cur_complete (s : State) (p : Fin 64) (a w : W64) : (s.complete p a w).cur = s.cur := by
  unfold State.complete
  split
  · rfl
  · split
    · dsimp only
      split
      · exact cur_writeBytes ..
      · exact cur_writeBytes ..
    · rfl

theorem cur_finishTask (s : State) (p : Fin 64) (t : Task) (a : BitVec 16) (b : BitVec 8) (r : BitVec 32) :
    (s.finishTask p t a b r).cur = s.cur :=
  (cur_complete ..).trans (cur_foldl (cur_giveUp p t.recd.taskid) t.slots s)

theorem cur_abortTask (s : State) (p : Fin 64) (t : Task) : (s.abortTask p t).cur = s.cur := by
  unfold State.abortTask
  split
  · rfl
  · split
    · split
      · exact cur_finishTask ..
      · exact cur_finishTask ..
    · exact cur_finishTask ..

theorem cur_toVf (s : State) (n : Fin 64) (r : EvRec) : (s.toVf n r).cur = s.cur := by
  unfold State.toVf
  split
  · rfl
  · rfl

theorem cur_toPart (s : State) (p : Fin 64) (r : EvRec) : (s.toPart p r).cur = s.cur := by
  unfold State.toPart
  split
  · exact cur_toVf ..
  · rfl

theorem cur_doubleEnd (s : State) (c : CtxId) (k : Nat) : (s.doubleEnd c k).cur = s.cur := by
  have hevent : ((s.modCtx c Ctx.ended).doubleEvent c k).cur = s.cur := cur_toPart ..
  unfold State.doubleEnd
  dsimp only
  split
  · split
    · exact (cur_abortTask ..).trans hevent
    · exact hevent
  · exact hevent

/-! The entry of a trap. -/

theorem cur_doubleTrap (s : State) (c : CtxId) (k : Cause) : (s.doubleTrap c k).cur = s.cur := by
  unfold State.doubleTrap
  dsimp only
  split
  · exact cur_cancelLoose ..
  · exact cur_doubleEnd ..

theorem cur_freezeOps (s : State) (c : CtxId) : (s.freezeOps c).cur = s.cur := by
  unfold State.freezeOps
  split
  · rfl
  · rfl

theorem cur_enterSup {s t : State} {c : CtxId} {i : TrapInfo} (h : s.enterSup c i = some t) : t.cur = s.cur := by
  unfold State.enterSup at h
  dsimp only at h
  split at h
  · cases h
  · split at h
    · cases h
    · cases h
      exact cur_freezeOps ..

theorem cur_spillTrap (s : State) (c : CtxId) (d : W64) : (s.spillTrap c d).cur = s.cur := by
  unfold State.spillTrap
  dsimp only
  split
  · next h => exact (cur_enterSup h).trans (cur_forsake ..)
  · exact cur_forsake ..

/-! The unwind check. -/

theorem cur_homeAt {s t : State} {c : CtxId} {d : W64} {w : Bool} {l : Loc} (h : s.homeAt c d w = some (t, l)) : t.cur = s.cur := by
  unfold State.homeAt at h
  dsimp only at h
  split at h
  · cases h
  · split at h
    · split at h
      · cases h
      · cases h
        exact cur_setHbm64 ..
    · cases h

theorem cur_fill {s t : State} {c : CtxId} (h : s.fill c = some t) : t.cur = s.cur := by
  unfold State.fill at h
  dsimp only at h
  split at h
  · cases h
    rfl
  · split at h
    · cases h
      rfl
    · split at h
      · next hhome =>
        cases h
        exact (cur_modCtx ..).trans (cur_homeAt hhome)
      · cases h

theorem cur_joinWalk (s : State) (c : CtxId) (d : W64) : (s.joinWalk c d).cur = s.cur := by
  unfold State.joinWalk State.joinMiss
  dsimp only
  split
  · rfl
  · rfl

/-- What an unwind check comes to has the current context `c`, where it is a state of its own. -/
def HasCur (c : CtxId) : Unwound → Prop
  | .quiet => True
  | .moved t => t.cur = c
  | .waits t _ => t.cur = c
  | .spill t _ => t.cur = c

theorem hasCur_tryPop (s : State) (c : CtxId) (a b : W64) (m : Closing) : HasCur s.cur (s.tryPop c a b m) := by
  have hloose (x : Ctx) := cur_cancelLoose (s.setCtx c x) c (fun o => o.depth == (s.ctx c).depth)
  unfold State.tryPop
  dsimp only
  split
  · exact hloose _
  · split
    · exact hloose _
    · split
      · exact hloose _
      · next h => exact (cur_abandon ..).trans ((cur_fill h).trans (hloose _))

theorem hasCur_enterCleanup {s : State} {c : CtxId} {a b : Nat} {u : Unwound} (h : s.enterCleanup c a b = some u) :
    HasCur s.cur u := by
  unfold State.enterCleanup at h
  dsimp only at h
  split at h
  · cases h
    rfl
  · split at h
    · cases h
      rfl
    · next t hfill =>
      have ht := cur_fill hfill
      split at h
      · cases h
      · split at h
        · cases h
          simp only [HasCur]
          split
          · exact ht
          · exact (cur_joinWalk ..).trans ht
          · exact ht
        · cases h
        · split at h
          · cases h
          · cases h
            exact (cur_abandon ..).trans ht

theorem hasCur_unwindFrom (s : State) (c : CtxId) (a : W64) (n : Nat) : HasCur s.cur (s.unwindFrom c a n) := by
  induction n generalizing s with
  | zero => rfl
  | succ n ih =>
    have hpop := hasCur_tryPop s c a ((s.ctx c).cdepth.setWidth 64) (.unwind a)
    simp only [State.unwindFrom]
    split
    · next t h =>
      rw [h] at hpop
      have ht : t.cur = s.cur := hpop
      split
      · exact ht ▸ ih _
      · split
        · exact (cur_endCtx ..).trans ht
        · split
          · exact ht
          · exact ht
    · exact hpop

theorem hasCur_unwindLoop (c : CtxId) (n : Nat) (s : State) (b : Bool) : HasCur s.cur (State.unwindLoop c n s b) := by
  induction n generalizing s b with
  | zero => rfl
  | succ n ih =>
    have stop : HasCur s.cur (if b = true then .moved s else .quiet) := by
      split
      · rfl
      · trivial
    have again : ∀ u : Unwound, HasCur s.cur u → HasCur s.cur (match u with
        | .moved t => State.unwindLoop c n t true
        | u => u) := by
      intro u hu
      cases u with
      | moved t =>
        have ht : t.cur = s.cur := hu
        exact ht ▸ ih t true
      | quiet => exact hu
      | waits t w => exact hu
      | spill t d => exact hu
    simp only [State.unwindLoop]
    split
    · exact stop
    · split
      · exact again _ (hasCur_tryPop ..)
      · exact again _ (hasCur_unwindFrom ..)
      · exact stop
      · split
        · exact again _ (hasCur_tryPop ..)
        · split
          · split
            · exact again _ (hasCur_unwindFrom ..)
            · exact stop
          · split
            · split
              · next h =>
                split at h
                · exact hasCur_enterCleanup h
                · exact hasCur_enterCleanup h
              · exact hasCur_unwindFrom ..
            · split
              · split
                · next h => exact hasCur_enterCleanup h
                · exact hasCur_unwindFrom ..
              · exact stop

theorem cur_settle {s : State} (c : CtxId) {u : Unwound} (h : HasCur s.cur u) : (s.settle c u).cur = s.cur := by
  cases u with
  | quiet => rfl
  | moved t => exact h
  | waits t w => exact h
  | spill t d => exact (cur_spillTrap ..).trans h

/-! Traps as a whole. -/

theorem cur_popTrap (s : State) (c : CtxId) : (s.popTrap c).cur = s.cur := cur_settle c (hasCur_tryPop ..)

theorem cur_deliverNone (s : State) (c : CtxId) (i : TrapInfo) : (s.deliverNone c i).cur = s.cur := by
  unfold State.deliverNone
  split
  · exact cur_popTrap ..
  · exact cur_doubleTrap ..

theorem cur_deliverTvec (s : State) (c : CtxId) (i : TrapInfo) : (s.deliverTvec c i).cur = s.cur := by
  unfold State.deliverTvec
  dsimp only
  split
  · exact cur_freezeOps ..
  · split
    · exact cur_popTrap ..
    · exact cur_doubleTrap ..

theorem cur_takeTrap (s : State) (c : CtxId) (i : TrapInfo) : (s.takeTrap c i).cur = s.cur := by
  have hforsake : ((s.forsake c).modCtx c (fun y => { y with pending := none })).cur = s.cur := cur_forsake ..
  unfold State.takeTrap
  dsimp only
  revert hforsake
  generalize (s.forsake c).modCtx c (fun y => { y with pending := none }) = u
  intro hu
  rw [← hu]
  split
  · split
    · exact cur_endCtx ..
    · exact cur_settle c (hasCur_unwindLoop ..)
  · split
    · exact cur_settle c (hasCur_unwindFrom ..)
    · split
      · split
        · exact cur_popTrap ..
        · exact cur_doubleTrap ..
      · split
        · split
          · next h => exact cur_enterSup h
          · exact cur_deliverNone ..
        · exact cur_deliverTvec ..

/-! The completion of a phase. -/

theorem cur_passOn (s : State) (c : CtxId) (n : Nat) : (s.passOn c n).cur = s.cur := by
  unfold State.passOn
  dsimp only
  split
  · rfl
  · exact cur_takeTrap ..

theorem cur_resolveAnywhere (s : State) (p : Fin 64) (c : CtxId) (h : Fin 16) (k : BitVec 16) (w : W64) :
    (s.resolveAnywhere p c h k w).cur = s.cur := by
  unfold State.resolveAnywhere
  split
  · exact cur_resolveHandle ..
  · rfl

theorem cur_closePhase (s : State) (part : Fin 64) (slot : Fin 4) (d : DomReg) (p : BitVec 32) :
    (s.closePhase part slot d p).cur = s.cur :=
  (cur_foldl (f := fun t c => t.passOn c 4) (fun _ _ => cur_passOn ..) _ _).trans
    (cur_foldl (f := fun t (h : CtxId × Fin 16 × BitVec 16 × BitVec 32) => t.resolveAnywhere part h.1 h.2.1 h.2.2.1 _)
      (fun _ _ => cur_resolveAnywhere ..) _ _)

theorem cur_phaseSweep (s : State) (part : Fin 64) (slot : Fin 4) (d : DomReg) (f : Nat) :
    (s.phaseSweep part slot d f).cur = s.cur := by
  induction f generalizing s with
  | zero => rfl
  | succ f ih =>
    unfold State.phaseSweep
    dsimp only
    split
    · exact (ih _).trans (cur_closePhase ..)
    · rfl

end Sys2Proof.Proofs.Current
end

section
/-! PROOFS of the family 04_the_lay_and_links: SEND completes with the result of its word, and what becomes of a word that is sent
(R104, R187 to R190, R196). -/
namespace Sys2Proof.Proofs.Sends
open Sys2Proof Sys2Proof.Machine Sys2Proof.Laws
open Sys2Proof.Safety
open Sys2Proof.Proofs
open Sys2Proof.Proofs.Network (ctx_notice)
open Sys2Proof.Proofs.Current (cur_writeBytes cur_poke)

/-! An instruction that undoes what it received where it traps. -/

theorem operateUndo_next {undo : Cause → Bool} {i : Instr} {e : AtEnd} {reads names : List RegCode} {pre : M Unit}
    {body : M Machine.Flow} {s s1 u v : State} (hp : pre s = .ok ((), s)) (h : Starts i e reads names s s1)
    (hb : body s1 = .ok (.next, u)) (hg : GoesOn i u v) : operateUndo undo i e reads names pre body s = .next v := by
  obtain ⟨x, hx, rfl⟩ := hg
  simp only [operateUndo, if_neg (starts_unfrozen h), h.loop, h.queues, h.ports, hp, hb, finish, hx]

/-- What `readData` gives was read. -/
theorem read_of_readData {r : RegCode} {s t : State} {w : W64} (h : readData r s = .ok (w, t)) :
    ∃ v, Machine.read r s = .ok (v, t) := by
  cases hread : Machine.read r s with
  | error e => simp [readData, bind, StateT.bind, Except.bind, hread] at h
  | ok p =>
    obtain ⟨v, u⟩ := p
    rw [readData_ok hread] at h
    cases h
    exact ⟨v, rfl⟩

/-! Sending a word from an instruction (R104, R106, R191, R196). -/

/-- A word has gone: it was delivered, diverted or discarded, with the result of SEND (R196). -/
def Gone (x : Sent) (n : Nat) (m : State) : Prop :=
  n = 0 ∧ x = .delivered m ∨ n = 1 ∧ x = .diverted m ∨ n = 2 ∧ x = .discarded m

theorem sendTo_of_gone {iw addr w : W64} {s m : State} {c : CtxId} {r : RingAddr} {n : Nat} (hcur : s.cur = c)
    (haddr : ringAddr addr = some r) (hcounted : (s.ctx c).counted < 1024) (hstores : s.storesTo c r.core.val = false)
    (hposts : s.postsTo c r.core.val = false) (harrived : s.arrived c r (((s.ctx c).sendingTo addr).back s.cycle) = true)
    (hgone : Gone (s.sendWord c.sl r w (((s.ctx c).sendingTo addr).back s.cycle).divert (s.ctx c).place) n m) :
    sendTo iw addr w s = .ok (n, m.countSend c r.core.val) := by
  subst hcur
  have hroom : ¬ (s.ctx s.cur).counted ≥ Config.uscMax := Nat.not_le.mpr hcounted
  simp only [sendTo, haddr, if_neg hroom, hstores, hposts, harrived, Bool.false_eq_true, reduceCtorEq, if_false]
  rcases hgone with ⟨rfl, hsent⟩ | ⟨rfl, hsent⟩ | ⟨rfl, hsent⟩
  · rw [hsent]
  · rw [hsent]
  · rw [hsent]

/-- SEND whose word has gone writes its result and goes on. -/
theorem execSend_of_sendTo {d : RegCode} {a : GReg} {b : RegCode} {s s1 t m u v : State} {w : W64} {n : Nat}
    (hstarts : Starts (.send d a b) .closes [b] [d, b] s s1) (hread : readData b s1 = .ok (w, t))
    (hsend : sendTo (Instr.word (.send d a b)) ((here s1).reg a).lo w t = .ok (n, m))
    (hwrite : write (Instr.word (.send d a b)) d (Reg.data (BitVec.ofNat 64 n)) m = .ok ((), u))
    (hgoes : GoesOn (.send d a b) u v) : exec (.send d a b) s = .next v := by
  change execSend d a b s = .next v
  unfold execSend
  refine operateUndo_next (pre := pure ()) rfl hstarts ?_ hgoes
  simp only [here] at hsend
  simp only [bind, StateT.bind, Except.bind, pure, StateT.pure, Except.pure, greg, hread, hsend, writeData, hwrite]

theorem sendResult : SendResult := by
  intro d a b s s1 t m u v w n r hstarts hread haddr hcounted hstores hposts q harrived hgone hwrite hgoes
  obtain ⟨val, hval⟩ := read_of_readData hread
  obtain ⟨_, _, hcur1, _⟩ := receive_spec hstarts.ports
  obtain ⟨_, _, hcur2, _⟩ := read_spec hval
  have hcur : t.cur = s.cur := hcur2.trans hcur1
  have hhere : here t = t.ctx s.cur := by rw [here, hcur]
  simp only [q, hhere] at hcounted harrived hgone
  exact execSend_of_sendTo hstarts hread (sendTo_of_gone hcur haddr hcounted hstores hposts harrived hgone) hwrite hgoes

/-! What becomes of a word, case by case (R187 to R190). -/

section
variable {s : State} {l t : SlotId} {a : RingAddr} {w : W64} {late : Bool} {place : Option SlotId}

theorem sendWord_of_noSlot (h : s.tenantSlot (s.partOf l) a.core l.slot = none) : s.sendWord l a w late place = .discarded s := by
  simp only [State.sendWord, h]

variable (htenant : s.tenantSlot (s.partOf l) a.core l.slot = some t) (hpresent : s.present (s.partOf l) t = true)
include htenant hpresent

theorem sendWord_of_unbound (hbound : ((s.ctx ⟨t.core, t.slot, a.ctx⟩).ring a.ring).bound = false) :
    s.sendWord l a w late place = .discarded (s.modCtx ⟨t.core, t.slot, a.ctx⟩ (fun x =>
      { x with drops := if x.drops = 255 then 255 else x.drops + 1 })) := by
  simp only [State.sendWord, htenant, hpresent, hbound, reduceCtorEq, if_false, if_true]
  rfl

theorem sendWord_of_diverts (hbound : ((s.ctx ⟨t.core, t.slot, a.ctx⟩).ring a.ring).bound = true)
    (hdivert : late = true ∨ (s.slot t).ovfFor a.ctx a.ring ≠ []) (hplace : (s.slot t).portOvf.length + s.keptPlaces t < 4096) :
    s.sendWord l a w late place = .diverted (s.toOverflow t (a.ctx, a.ring, w)) := by
  have hgoes : (late || !((s.slot t).ovfFor a.ctx a.ring).isEmpty) = true := by simpa using hdivert
  have hfree : ¬ (place != some t && decide (4096 ≤ (s.slot t).portOvf.length + s.keptPlaces t)) = true := by
    simp [Nat.not_le.mpr hplace]
  simp only [State.sendWord, htenant, hpresent, hbound, reduceCtorEq, if_false, if_pos hgoes, if_neg hfree]

theorem sendWord_of_overflowFull (hbound : ((s.ctx ⟨t.core, t.slot, a.ctx⟩).ring a.ring).bound = true) (hplace : place ≠ some t)
    (hfull : 4096 ≤ (s.slot t).portOvf.length) : s.sendWord l a w true place = .deadlock := by
  have hnone : (place != some t && decide (4096 ≤ (s.slot t).portOvf.length + s.keptPlaces t)) = true := by
    simp [hplace, Nat.le_add_right_of_le hfull]
  simp only [State.sendWord, htenant, hpresent, hbound, reduceCtorEq, if_false, Bool.true_or, if_true, if_pos hnone]

variable (hbound : ((s.ctx ⟨t.core, t.slot, a.ctx⟩).ring a.ring).bound = true) (hwaits : (s.slot t).ovfFor a.ctx a.ring = [])
include hbound hwaits

theorem sendWord_of_room (hroom : ((s.ctx ⟨t.core, t.slot, a.ctx⟩).ring a.ring).room s.cycle = true) :
    s.sendWord l a w false place = .delivered (s.ringPut ⟨t.core, t.slot, a.ctx⟩ a.ring w) := by
  simp only [State.sendWord, htenant, hpresent, hbound, hwaits, hroom, reduceCtorEq, if_false, List.isEmpty_nil, Bool.not_true,
    Bool.or_false, Bool.false_eq_true]

theorem sendWord_of_noRoom (hroom : ((s.ctx ⟨t.core, t.slot, a.ctx⟩).ring a.ring).room s.cycle = false) :
    s.sendWord l a w false place = .full := by
  simp only [State.sendWord, htenant, hpresent, hbound, hwaits, hroom, reduceCtorEq, if_false, List.isEmpty_nil, Bool.not_true,
    Bool.or_false, Bool.false_eq_true, if_true]

end

/-! A context whose own word has gone: only its rings, DROPS and, through the monitors, its status may have changed. -/

/-- Two states of a context that differ in status, rings and DROPS at most. -/
def AlikeButRings (x y : Ctx) : Prop := y = { x with status := y.status, rings := y.rings, drops := y.drops }

theorem alikeButRings_refl (x : Ctx) : AlikeButRings x x := rfl

theorem alikeButRings_markHit (l : Loc) (n : Nat) (x : Ctx) : AlikeButRings x (markHit l n x) := by
  unfold markHit
  dsimp only
  split
  · rfl
  · rfl
  · rfl

theorem alikeButRings_poke (s : State) (l : Loc) (bs : List Byte) (c : CtxId) : AlikeButRings (s.ctx c) ((s.poke l bs).ctx c) := by
  obtain h | h := ctx_notice (s.writeBytes l bs) l bs.length c
  · rw [State.poke, h, (writeBytes_parts s l bs).1]
    exact alikeButRings_refl _
  · rw [State.poke, h, (writeBytes_parts s l bs).1]
    exact alikeButRings_markHit ..

theorem alikeButRings_ringPut (s : State) (d c : CtxId) (k : Fin 4) (w : W64) :
    AlikeButRings (s.ctx c) ((s.ringPut d k w).ctx c) := by
  unfold State.ringPut
  have hpoke := alikeButRings_poke s (s.slotLoc d.sl (((s.ctx d).ring k).base.toNat +
    8 * (((s.ctx d).ring k).tail.toNat % ((s.ctx d).ring k).size))) (bytesLE 8 w.toNat) c
  by_cases hc : c = d
  · subst hc
    rw [ctx_modCtx_self]
    unfold AlikeButRings at hpoke ⊢
    rw [hpoke]
    rfl
  · rw [ctx_modCtx_ne _ _ hc]
    exact hpoke

theorem ctxs_writeBytes (s : State) (l : Loc) (bs : List Byte) : (s.writeBytes l bs).ctxs = s.ctxs := by
  rw [writeBytes_eq]

theorem ctxs_toOverflow (s : State) (t : SlotId) (e : Fin 11 × Fin 4 × W64) : (s.toOverflow t e).ctxs = s.ctxs := by
  simp only [State.toOverflow, State.scribble, setSlot_fields, ctxs_writeBytes]

theorem cur_toOverflow (s : State) (t : SlotId) (e : Fin 11 × Fin 4 × W64) : (s.toOverflow t e).cur = s.cur := by
  simp only [State.toOverflow, State.scribble, setSlot_fields, cur_writeBytes]

theorem ctx_toOverflow (s : State) (t : SlotId) (e : Fin 11 × Fin 4 × W64) (c : CtxId) : (s.toOverflow t e).ctx c = s.ctx c := by
  rw [State.ctx, ctxs_toOverflow, State.ctx]

theorem sentState_of_gone {x : Sent} {n : Nat} {m : State} (h : Gone x n m) : sentState x = some m := by
  rcases h with ⟨_, rfl⟩ | ⟨_, rfl⟩ | ⟨_, rfl⟩
  · rfl
  · rfl
  · rfl

/-- What a word that has gone leaves of the contexts. -/
theorem sendWord_spec {s m : State} {l : SlotId} {a : RingAddr} {w : W64} {late : Bool} {place : Option SlotId}
    (h : sentState (s.sendWord l a w late place) = some m) (c : CtxId) : m.cur = s.cur ∧ AlikeButRings (s.ctx c) (m.ctx c) := by
  unfold State.sendWord at h
  split at h
  · cases h
    exact ⟨rfl, alikeButRings_refl _⟩
  · next t _ =>
    dsimp only at h
    split at h
    · cases h
    · split at h
      · cases h
        refine ⟨rfl, ?_⟩
        rw [ctx_setCtx]
        split
        · next hc => rw [hc]; rfl
        · exact alikeButRings_refl _
      · split at h
        · split at h
          · cases h
          · cases h
            exact ⟨cur_toOverflow .., (ctx_toOverflow ..).symm ▸ alikeButRings_refl _⟩
        · split at h
          · cases h
          · cases h
            exact ⟨cur_poke .., alikeButRings_ringPut ..⟩

section
variable {x y : Ctx} (hpcc : y.pcc = x.pcc) (hloopc : y.loopc = x.loopc) (hloope : y.loope = x.loope) (hloopb : y.loopb = x.loopb)
include hpcc hloopc hloope hloopb

theorem isOk_closeLoop_congr (a next : W64) : (y.closeLoop a next).isOk = (x.closeLoop a next).isOk := by
  simp only [Ctx.closeLoop, hpcc, hloopc, hloope, hloopb]
  split_ifs
  · rfl
  · rfl
  · rfl
  · rfl
  · rfl

/-- Whether a context can go on behind an instruction depends on its code capability and its loop state alone. -/
theorem isOk_advance_congr (hrepc : y.repc = x.repc) (n : Nat) : (y.advance n).isOk = (x.advance n).isOk := by
  have hpc : y.pc = x.pc := congrArg Reg.lo hpcc
  simp only [Ctx.advance, hpc, hrepc]
  split_ifs
  · exact isOk_closeLoop_congr hpcc hloopc hloope hloopb _ _
  · exact isOk_closeLoop_congr (x := { x with repc := 0, repi := 0, rep := none }) (y := { y with repc := 0, repi := 0, rep := none })
      hpcc hloopc hloope hloopb _ _
  · rfl

end

theorem isOk_iff {ε α : Type} (e : Except ε α) : e.isOk = true ↔ ∃ x, e = .ok x := by
  cases e with
  | error e => simp [Except.isOk, Except.toBool]
  | ok x => simp [Except.isOk, Except.toBool]

/-- A ring that takes the word: it has gone, with the result of SEND. -/
theorem gone_of_ringTakes {s : State} {l : SlotId} {r : RingAddr} {late : Bool} {n : Nat} (w : W64) (place : Option SlotId)
    (h : RingTakes s l r late n) : ∃ m, Gone (s.sendWord l r w late place) n m := by
  rcases h with ⟨hnone, rfl⟩ | ⟨t, htenant, hpresent, hring⟩
  · exact ⟨s, .inr (.inr ⟨rfl, sendWord_of_noSlot hnone⟩)⟩
  · rcases hring with ⟨hunbound, rfl⟩ | ⟨hbound, hdivert, hplace, rfl⟩ | ⟨hbound, hlate, hnoWait, hroom, rfl⟩
    · exact ⟨_, .inr (.inr ⟨rfl, sendWord_of_unbound htenant hpresent hunbound⟩)⟩
    · exact ⟨_, .inr (.inl ⟨rfl, sendWord_of_diverts htenant hpresent hbound hdivert hplace⟩)⟩
    · exact ⟨_, .inl ⟨rfl, hlate ▸ sendWord_of_room htenant hpresent hbound (not_not.mp hnoWait) hroom⟩⟩

/-- A context with one more word that is not acknowledged (R104). -/
def countedOnce (x : Ctx) : Ctx := x.setCount x.phaseTag (x.count x.phaseTag + 1)

theorem counted_countedOnce (x : Ctx) : (countedOnce x).counted = x.counted + 1 := by
  simp only [countedOnce, Ctx.counted, count_setCount]
  generalize x.phaseTag = t
  fin_cases t <;> simp <;> omega

theorem ctx_countSend (s : State) (c : CtxId) (k : Nat) : (s.countSend c k).ctx c = countedOnce (s.ctx c) :=
  ctx_modCtx_self s c fun x => x.setCount (s.ctx c).phaseTag (x.count (s.ctx c).phaseTag + 1)

theorem goesOn_of_advance {i : Instr} {s : State} {c : CtxId} {x : Ctx} (hcur : s.cur = c)
    (h : (s.ctx c).settled.advance i.size = .ok x) : GoesOn i s (s.setCtx c x) := by
  subst hcur
  exact ⟨x, h, rfl⟩

theorem here_setCtx {s : State} {c : CtxId} (hcur : s.cur = c) (x : Ctx) : here (s.setCtx c x) = x := by
  subst hcur
  exact ctx_setCtx_self ..

/-- A context whose word has gone writes the result and goes on where it could go on before. -/
theorem advance_of_sent {x y z : Ctx} {d : GReg} {v : Reg} {n : Nat} (halike : AlikeButRings x y) (hz : x.settled.advance n = .ok z) :
    ∃ z', ((countedOnce y).setReg d v).settled.advance n = .ok z' ∧ (d ≠ 0 → z'.reg d = v) ∧ z'.counted = x.counted + 1 := by
  have hgoes : (((countedOnce y).setReg d v).settled.advance n).isOk = true := by
    rw [isOk_advance_congr (x := x.settled), hz]
    · rfl
    all_goals
      rw [halike]
      simp [countedOnce]
  obtain ⟨z', hz'⟩ := (isOk_iff _).mp hgoes
  refine ⟨z', hz', fun hd => ?_, ?_⟩
  · rw [advance_spec hz']
    exact (reg_setReg (countedOnce y) d d v).trans (by simp [hd])
  · have hcounts : z'.counted = (countedOnce y).counted := by
      rw [advance_spec hz']
      simp [Ctx.counted, Ctx.count]
    rw [hcounts, counted_countedOnce, halike]
    rfl

theorem sendCompletes : SendCompletes := by
  intro d a b s r n hloop haddr hcounted hstores hposts q harrived htakes hadvance
  obtain ⟨z, hz⟩ := hadvance
  obtain ⟨m, hgone⟩ := gone_of_ringTakes ((here s).reg b).lo (here s).place htakes
  obtain ⟨hcur, halike⟩ := sendWord_spec (sentState_of_gone hgone) s.cur
  have hstarts : Starts (.send (.g d) a (.g b)) .closes [.g b] [.g d, .g b] s s := ⟨.inr rfl, hloop, rfl, rfl⟩
  have hsend := sendTo_of_gone (iw := Instr.word (.send (.g d) a (.g b))) rfl haddr hcounted hstores hposts harrived hgone
  obtain ⟨z', hz', hreg, hcount⟩ := advance_of_sent (d := d) (v := Reg.data (BitVec.ofNat 64 n)) halike hz
  have hwrite := write_g (Instr.word (.send (.g d) a (.g b))) d (Reg.data (BitVec.ofNat 64 n)) (m.countSend s.cur r.core.val)
  have hcurSent : (m.countSend s.cur r.core.val).cur = s.cur := hcur
  rw [hcurSent] at hwrite
  have hcurAfter : ((m.countSend s.cur r.core.val).modCtx s.cur (fun x => x.setReg d (Reg.data (BitVec.ofNat 64 n)))).cur = s.cur :=
    hcur
  have hafter : (((m.countSend s.cur r.core.val).modCtx s.cur (fun x => x.setReg d (Reg.data (BitVec.ofNat 64 n)))).ctx s.cur) =
      (countedOnce (m.ctx s.cur)).setReg d (Reg.data (BitVec.ofNat 64 n)) := by
    rw [ctx_modCtx_self, ctx_countSend]
  refine ⟨_, execSend_of_sendTo hstarts rfl hsend hwrite (goesOn_of_advance hcur (hafter ▸ hz')), fun hd => ?_, ?_⟩
  · rw [here_setCtx hcurAfter]
    exact hreg hd
  · rw [here_setCtx hcurAfter]
    exact hcount

/-! What becomes of a word (R187 to R190). -/

/-- A count of 8 bits that stops at 255 (R190). -/
theorem toNat_saturated (n : BitVec 8) : (if n = 255 then (255 : BitVec 8) else n + 1).toNat = min 255 (n.toNat + 1) := by
  split
  · next h => subst h; rfl
  · next h =>
    have hne : n.toNat ≠ 255 := fun he => h (BitVec.eq_of_toNat_eq he)
    have hlt := n.isLt
    rw [BitVec.toNat_add, Nat.mod_eq_of_lt (by simp; omega)]
    simp
    omega

theorem ring_ringPut (s : State) (c : CtxId) (k : Fin 4) (w : W64) :
    ((s.ringPut c k w).ctx c).ring k = ((s.ctx c).ring k).got s.cycle := by
  simp only [State.ringPut, ctx_modCtx_self, ring_setRing_self]

theorem slot_toOverflow (s : State) (t : SlotId) (e : Fin 11 × Fin 4 × W64) :
    ((s.toOverflow t e).slot t).portOvf = (s.slot t).portOvf ++ [e] := by
  simp only [State.toOverflow, slot_setSlot_self]

theorem byteAt_setSlot (s : State) (t : SlotId) (x : Slot) (p : Nat) : (s.setSlot t x).byteAt p = s.byteAt p := rfl

/-- Bytes that no rule states are written as any others. -/
theorem byteAt_scribble (s : State) (l : Loc) (n p : Nat) :
    (s.scribble l n).byteAt p = (s.writeBytes l ((List.range n).map (fun i => Config.freeByte (s.fresh + i)))).byteAt p := rfl

theorem byteAt_toOverflow {s : State} (h : Canonical s) (t : SlotId) (e : Fin 11 × Fin 4 × W64) {p : Nat}
    (hp : ∀ i < 16, p ≠ (Loc.hbm ((s.slot t).bind.save.toNat + 0x30000 + 16 * ((s.slot t).ovfAt % 4096))).place i) :
    (s.toOverflow t e).byteAt p = s.byteAt p := by
  rw [State.toOverflow, byteAt_setSlot, byteAt_scribble]
  refine Scope.byteAt_writeBytes_of_ne h _ _ fun i hi => hp i ?_
  simpa only [List.length_map, List.length_range] using hi

theorem ringDelivery : RingDelivery := by
  intro s l a w t place
  refine ⟨sendWord_of_noSlot, fun htenant hpresent => ?_⟩
  refine ⟨fun hbound late => ⟨_, sendWord_of_unbound htenant hpresent hbound, ?_, fun _ => rfl⟩,
    fun hbound hnone hroom => ⟨_, sendWord_of_room htenant hpresent hbound hnone (decide_eq_true hroom), ?_, ?_, fun _ => rfl⟩,
    fun hbound hnone hfull => sendWord_of_noRoom htenant hpresent hbound hnone (decide_eq_false (Nat.not_lt.mpr hfull)),
    fun hbound hplace hcanonical => ⟨_, sendWord_of_diverts htenant hpresent hbound (.inl rfl) hplace, slot_toOverflow .., fun p hp =>
      byteAt_toOverflow hcanonical _ _ hp⟩,
    fun hbound hplace hfull => sendWord_of_overflowFull htenant hpresent hbound hplace hfull⟩
  · rw [ctx_modCtx_self]
    exact toNat_saturated _
  · rw [ring_ringPut]
    rfl
  · rw [ring_ringPut]
    rfl

/-- Settles O19: the course of SEND, and the equation of `State.sendWord` in each of its cases. -/
theorem sendForms : Obligations.SendForms := ⟨sendResult, sendCompletes, ringDelivery⟩


end Sys2Proof.Proofs.Sends
end

section
/-! PROOFS of the family 04_the_lay_and_links: FENCE, the phases of a domain, and the domain registers (R107, R333 to R335, R351 to
R354). -/
namespace Sys2Proof.Proofs.Order
open Sys2Proof Sys2Proof.Machine Sys2Proof.Laws
open Sys2Proof.Safety
open Sys2Proof.Proofs.Network (ctxs_cacheHost)
open Sys2Proof.Proofs.Current (cur_phaseSweep)
open Sys2Proof.Proofs.Sends (read_of_readData)

/-- An operation that succeeds hands its result and its state to the next. -/
theorem bind_ok {α β : Type} {m : M α} {f : α → M β} {s t : State} {a : α} (h : m s = .ok (a, t)) : (m >>= f) s = f a t := by
  simp only [bind, StateT.bind, Except.bind, h]

/-! FENCE (R333). -/

section
variable {sc : Scope} {kinds : BitVec 4} {lb rs eng : Bool} {s : State}

theorem fenceBlocked_iff (c : CtxId) (st : Bool) : s.fenceBlocked c sc st lb rs eng = true ↔
    st = true ∧ s.pendingIn c sc = true ∨ (lb = true ∨ 2 ≤ sc.code) ∧ s.pendingLoop c = true ∨ rs = true ∧ (s.ctx c).usc ≠ 0 ∨
      eng = true ∧ s.opsOf c = true := by
  simp only [State.fenceBlocked, Bool.or_eq_true, Bool.and_eq_true, decide_eq_true_eq, bne_iff_ne, or_assoc]

theorem execFence_of_free (h : Starts (.fence sc kinds lb rs eng) .closes [] [] s s)
    (hfree : s.fenceBlocked s.cur sc (kinds.getLsbD 2 || kinds.getLsbD 3) lb rs eng = false) {v : State}
    (hgoes : GoesOn (.fence sc kinds lb rs eng) (if lb = true ∨ 2 ≤ sc.code then s.joinAliases s.cur else s) v) :
    exec (.fence sc kinds lb rs eng) s = .next v := by
  refine run_next h ?_ hgoes
  simp only [bind, StateT.bind, Except.bind, pure, StateT.pure, Except.pure, modify, modifyGet, MonadStateOf.modifyGet,
    StateT.modifyGet, fenceAt, hfree, Bool.or_eq_true, decide_eq_true_eq, Bool.false_eq_true, if_false]

theorem execFence_of_blocked (h : Starts (.fence sc kinds lb rs eng) .closes [] [] s s)
    (hblocked : s.fenceBlocked s.cur sc (kinds.getLsbD 2 || kinds.getLsbD 3) lb rs eng = true) :
    exec (.fence sc kinds lb rs eng) s = .next (s.waitOn s.cur
      (.fence sc (kinds.getLsbD 2 || kinds.getLsbD 3) (kinds.getLsbD 0 || kinds.getLsbD 1) lb rs eng)) := by
  refine operate_wait (pre := pure ()) (w := .fence _ _ _ _ _ _) rfl h ?_
  simp only [bind, StateT.bind, Except.bind, fenceAt, hblocked, if_true]

end

theorem fenceResult : FenceResult := by
  intro sc kinds lb rs eng s hstarts st blocked
  have hblocked : s.fenceBlocked s.cur sc (kinds.getLsbD 2 || kinds.getLsbD 3) lb rs eng = true ↔ blocked := by
    rw [fenceBlocked_iff, Bool.or_eq_true]
    rfl
  exact ⟨fun v hfree hgoes => execFence_of_free hstarts (Bool.eq_false_iff.mpr (hfree ∘ hblocked.mp)) hgoes,
    fun h => execFence_of_blocked hstarts (hblocked.mpr h)⟩

/-! Arriving at a phase (R334, R335). -/

section
variable {n : Fin 6} {s : State}

theorem needDomain_ok (hvalid : ((here s).domReg n.val).valid = true) (hdepth : (here s).depth = 0) :
    needDomain n s = .ok ((here s).domReg n.val, s) := by
  simp only [here] at hvalid hdepth
  simp only [needDomain, me, here, bind, StateT.bind, Except.bind, pure, StateT.pure, Except.pure, hvalid, hdepth, Bool.true_and,
    beq_self_eq_true, if_true]

theorem arrive_ok {d : DomReg} (hnext : s.domNext (s.partOf s.cur.sl) d = d.phase) :
    arrive n d s = .ok ((), s.modCtx s.cur (fun x => x.setDomReg n.val { d with phase := d.phase + 1 })) := by
  simp only [arrive, ne_eq, hnext, not_true_eq_false, if_false]

end

theorem allocHandle_ok {s : State} {h : Fin 16} {engine : Bool} (hpick : (here s).pickSlot = .ok h) :
    allocHandle engine s = .ok ((h, (here s).hserial), s.modCtx s.cur (fun x =>
      { x.setHslot h ⟨.pending, (here s).hserial, 0, false, x.dom, x.depth, 0, none, engine⟩ with
        hserial := (here s).hserial + 1 })) := by
  simp only [here] at hpick
  simp only [allocHandle, hpick]
  rfl

/-- An instruction that completes by itself leaves its context where it has put it. -/
theorem run_done {i : Instr} {reads names : List RegCode} {body : M Machine.Flow} {s s1 u : State}
    (h : Starts i .closes reads names s s1) (hb : body s1 = .ok (.done, u)) (hcur : u.cur = s.cur) :
    run i reads names body s = .next (u.modCtx s.cur Ctx.settled) := by
  rw [run, operate_finish rfl h hb, finish, hcur]

theorem phaseResult : PhaseResult := by
  constructor
  · intro n s hstarts d hvalid hdepth hnext
    exact run_done hstarts ((bind_ok (needDomain_ok hvalid hdepth)).trans (bind_ok (arrive_ok hnext))) (cur_phaseSweep ..)
  · intro d n h s v hstarts dom part hvalid hdepth hpick hnext k s1 s2 s3 hgoes
    refine run_next hstarts ?_ hgoes
    have halloc : allocHandle false s = .ok ((h, k), s1) := allocHandle_ok hpick
    have harrive : arrive n dom s1 = .ok ((), s2) := arrive_ok (s := s1) hnext
    exact (bind_ok (needDomain_ok hvalid hdepth)).trans ((bind_ok (m := who) rfl).trans ((bind_ok halloc).trans (bind_ok harrive)))

/-! When a phase is complete (R107, R335). -/

/-- A member has arrived at phase `p` of a domain, and its count of the tag is 0 where its DSEL names the domain. -/
def Met (d : DomReg) (p : BitVec 32) (x : Ctx) : Prop :=
  (∃ e, x.dmFor d = some e ∧ (e.phase - p).toNat ≠ 0 ∧ (e.phase - p).toNat < 2 ^ 31) ∧
    ((x.domReg x.dsel.toNat).same d = true → x.count ⟨p.toNat % 4, Nat.mod_lt _ (by decide)⟩ = 0)

section
variable {s : State} {part : Fin 64} {slot : Fin 4} {d : DomReg} {p : BitVec 32}

theorem arrivedAt_iff (x : Ctx) :
    x.arrivedAt d p = true ↔ ∃ e, x.dmFor d = some e ∧ (e.phase - p).toNat ≠ 0 ∧ (e.phase - p).toNat < 2 ^ 31 := by
  unfold Ctx.arrivedAt
  cases hfor : x.dmFor d with
  | none => simp
  | some e => simp [Nat.one_le_iff_ne_zero]

theorem countFor_eq_zero_iff (x : Ctx) (t : Fin 4) :
    x.countFor d t = 0 ↔ ((x.domReg x.dsel.toNat).same d = true → x.count t = 0) := by
  unfold Ctx.countFor
  split
  · next h => simp [h]
  · next h => simp [h]

theorem phaseMet_iff : s.phaseMet part slot d p = true ↔
    (∀ c ∈ s.liveMembers part slot d, Met d p (s.ctx c)) ∧ ∀ x ∈ s.awayMembers part slot d, Met d p x := by
  simp only [State.phaseMet, Bool.and_eq_true, List.all_eq_true, beq_iff_eq, arrivedAt_iff, countFor_eq_zero_iff, Met]

theorem phaseSweep_of_not_met (h : ∀ c ∈ s.liveMembers part slot d, ¬ Met d (s.domNext part d) (s.ctx c))
    (hne : s.liveMembers part slot d ≠ []) (f : Nat) : s.phaseSweep part slot d f = s := by
  have hnot : s.phaseMet part slot d (s.domNext part d) = false := by
    obtain ⟨c, hc⟩ := List.exists_mem_of_ne_nil _ hne
    exact Bool.eq_false_iff.mpr fun hmet => h c hc ((phaseMet_iff.mp hmet).1 c hc)
  cases f with
  | zero => rfl
  | succ f => simp only [State.phaseSweep, hnot, Bool.and_false, Bool.false_eq_true, if_false]

theorem phaseSweep_of_met (hvalid : d.valid = true) (hdom : ∃ y ∈ s.doms, y.isFor part d = true)
    (hsome : ∃ c ∈ s.liveMembers part slot d, Met d (s.domNext part d) (s.ctx c))
    (hmet : s.phaseMet part slot d (s.domNext part d) = true) (f : Nat) :
    s.phaseSweep part slot d (f + 1) = (s.closePhase part slot d (s.domNext part d)).phaseSweep part slot d f := by
  have hany : s.doms.any (fun y => y.isFor part d) = true := List.any_eq_true.mpr hdom
  have harrived : (s.liveMembers part slot d).any (fun c => (s.ctx c).arrivedAt d (s.domNext part d)) = true := by
    obtain ⟨c, hc, harrived, _⟩ := hsome
    exact List.any_eq_true.mpr ⟨c, hc, (arrivedAt_iff _).mpr harrived⟩
  simp only [State.phaseSweep, hvalid, hany, harrived, hmet, Bool.and_true, if_true]

end

/-! The handles of a phase that is complete. -/

/-- Two states that hold the same slots and tenants, and whose contexts stand alike. -/
structure AlikeButHandles (s t : State) : Prop where
  slots : t.slots = s.slots
  binds : ∀ p l, t.heldBind p l = s.heldBind p l
  status : ∀ c, (t.ctx c).status = (s.ctx c).status

theorem alikeButHandles_refl (s : State) : AlikeButHandles s s := ⟨rfl, fun _ _ => rfl, fun _ => rfl⟩

theorem alikeButHandles_trans {s t u : State} (h : AlikeButHandles s t) (g : AlikeButHandles t u) : AlikeButHandles s u :=
  ⟨g.slots.trans h.slots, fun p l => (g.binds p l).trans (h.binds p l), fun c => (g.status c).trans (h.status c)⟩

/-- A slot of a handle as a resolution of it leaves it (R159, R161). -/
def resolvedBy (q : HSlot) (serial : BitVec 16) (w : W64) (order : Nat) : HSlot :=
  if q.state = .pending ∧ q.serial = serial then { q with state := .resolved, result := w, order := order, denied := none } else q

theorem ctx_bump (s : State) (c : CtxId) : s.bump.ctx c = s.ctx c := rfl

theorem alikeButHandles_resolveHandle (s : State) (c : CtxId) (h : Fin 16) (k : BitVec 16) (w : W64) :
    AlikeButHandles s (s.resolveHandle c h k w none) := by
  unfold State.resolveHandle
  dsimp only
  split
  · refine ⟨rfl, fun _ _ => rfl, fun e => ?_⟩
    rw [ctx_bump, ctx_setCtx]
    split
    · next he => rw [he]; rfl
    · rfl
  · exact alikeButHandles_refl s

theorem hslot_resolveHandle_self (s : State) (c : CtxId) (h : Fin 16) (k : BitVec 16) (w : W64) :
    ((s.resolveHandle c h k w none).ctx c).hslot h = resolvedBy ((s.ctx c).hslot h) k w s.nextSeq := by
  unfold State.resolveHandle resolvedBy
  dsimp only
  split
  · rw [ctx_bump, ctx_setCtx_self, hslot_setHslot_self]
  · rfl

theorem hslot_resolveHandle_ne (s : State) {c e : CtxId} {h n : Fin 16} (k : BitVec 16) (w : W64) (hne : ¬ (e = c ∧ n = h)) :
    ((s.resolveHandle c h k w none).ctx e).hslot n = (s.ctx e).hslot n := by
  unfold State.resolveHandle
  dsimp only
  split
  · rw [ctx_bump]
    by_cases he : e = c
    · subst he
      rw [ctx_setCtx_self, hslot_setHslot, if_neg fun hn => hne ⟨rfl, hn⟩]
    · rw [ctx_setCtx_ne _ _ he]
  · rfl

/-- What resolves in a saved slot leaves the tenants of the slots as they are. -/
theorem heldBind_map_saved {s : State} {f : Saved → Saved} (hsl : ∀ v, (f v).sl = v.sl) (hslot : ∀ v, (f v).slot = v.slot) (n : Nat)
    (p : Fin 64) (l : SlotId) : ({ s with saved := s.saved.map f, nextSeq := n } : State).heldBind p l = s.heldBind p l := by
  have hfind : (s.saved.map f).find? (fun v => v.sl == l && v.slot.bind.part == p) =
      (s.saved.find? (fun v => v.sl == l && v.slot.bind.part == p)).map f := by
    rw [List.find?_map]
    simp only [Function.comp_def, hsl, hslot]
  unfold State.heldBind
  simp only [hfind, Option.map_map, Function.comp_def, hslot]
  rfl

section
variable (s : State) (part : Fin 64) (c : CtxId) (h : Fin 16) (k : BitVec 16) (w : W64)

theorem alikeButHandles_resolveAnywhere : AlikeButHandles s (s.resolveAnywhere part c h k w) := by
  unfold State.resolveAnywhere
  split
  · exact alikeButHandles_resolveHandle ..
  · refine ⟨rfl, heldBind_map_saved (fun v => ?_) (fun v => ?_) _, fun _ => rfl⟩
    · split
      · rfl
      · rfl
    · split
      · rfl
      · rfl

theorem hslot_resolveAnywhere_self (hheld : s.slotHeld c.sl = true) (hpart : s.partOf c.sl = part) :
    ((s.resolveAnywhere part c h k w).ctx c).hslot h = resolvedBy ((s.ctx c).hslot h) k w s.nextSeq := by
  rw [State.resolveAnywhere, if_pos (by simp [hheld, hpart]), hslot_resolveHandle_self]

variable {c h} in
theorem hslot_resolveAnywhere_ne {e : CtxId} {n : Fin 16} (hne : ¬ (e = c ∧ n = h)) :
    ((s.resolveAnywhere part c h k w).ctx e).hslot n = (s.ctx e).hslot n := by
  unfold State.resolveAnywhere
  split
  · exact hslot_resolveHandle_ne s k w hne
  · rfl

end

/-- A handle has resolved with a result, and was not denied (R335). -/
def ResolvedWith (w : W64) (q : HSlot) : Prop := q.state = .resolved ∧ q.result = w ∧ q.denied = none

/-- A handle of PHASEA: its context, its slot, its serial and the phase that it waits for. -/
abbrev PhaseHandle := CtxId × Fin 16 × BitVec 16 × BitVec 32

/-- The handles of a phase resolve, one after another. -/
def resolveAll (part : Fin 64) (w : W64) (s : State) (hs : List (PhaseHandle)) : State :=
  hs.foldl (fun t h => t.resolveAnywhere part h.1 h.2.1 h.2.2.1 w) s

section
variable {part : Fin 64} {w : W64} {c : CtxId} {h : Fin 16}

theorem resolveAll_cons (s : State) (a : PhaseHandle) (hs : List (PhaseHandle)) :
    resolveAll part w s (a :: hs) = resolveAll part w (s.resolveAnywhere part a.1 a.2.1 a.2.2.1 w) hs := rfl

theorem alikeButHandles_resolveAll (hs : List (PhaseHandle)) (s : State) :
    AlikeButHandles s (resolveAll part w s hs) := by
  induction hs generalizing s with
  | nil => exact alikeButHandles_refl s
  | cons a hs ih => exact alikeButHandles_trans (alikeButHandles_resolveAnywhere ..) (ih _)

/-- A step leaves the slot of a handle, or resolves it. -/
theorem hslot_resolveAnywhere {s : State} (hheld : s.slotHeld c.sl = true) (hpart : s.partOf c.sl = part) (e : CtxId) (n : Fin 16)
    (k : BitVec 16) : ((s.resolveAnywhere part e n k w).ctx c).hslot h =
      if c = e ∧ h = n then resolvedBy ((s.ctx c).hslot h) k w s.nextSeq else (s.ctx c).hslot h := by
  split
  · next hsame =>
    obtain ⟨rfl, rfl⟩ := hsame
    exact hslot_resolveAnywhere_self s part c h k w hheld hpart
  · next hne => exact hslot_resolveAnywhere_ne s part k w hne

theorem resolvedWith_resolveAnywhere {s : State} (hheld : s.slotHeld c.sl = true) (hpart : s.partOf c.sl = part) (e : CtxId) (n : Fin 16)
    (k : BitVec 16) (hq : ResolvedWith w ((s.ctx c).hslot h)) :
    ResolvedWith w (((s.resolveAnywhere part e n k w).ctx c).hslot h) := by
  have hkeep : resolvedBy ((s.ctx c).hslot h) k w s.nextSeq = (s.ctx c).hslot h := if_neg fun hp => by simp [hq.1] at hp
  rw [hslot_resolveAnywhere hheld hpart, hkeep, ite_self]
  exact hq

theorem slotHeld_congr {s t : State} (hslots : t.slots = s.slots) (l : SlotId) : t.slotHeld l = s.slotHeld l := by
  simp only [State.slotHeld, State.slot, hslots]

theorem partOf_congr {s t : State} (hslots : t.slots = s.slots) (l : SlotId) : t.partOf l = s.partOf l := by
  simp only [State.partOf, State.slot, hslots]

theorem resolvedWith_resolveAll (hs : List (PhaseHandle)) {s : State} (hheld : s.slotHeld c.sl = true)
    (hpart : s.partOf c.sl = part) (hq : ResolvedWith w ((s.ctx c).hslot h)) :
    ResolvedWith w (((resolveAll part w s hs).ctx c).hslot h) := by
  induction hs generalizing s with
  | nil => exact hq
  | cons a hs ih =>
    have hslots := (alikeButHandles_resolveAnywhere s part a.1 a.2.1 a.2.2.1 w).slots
    exact ih ((slotHeld_congr hslots _).trans hheld) ((partOf_congr hslots _).trans hpart)
      (resolvedWith_resolveAnywhere hheld hpart a.1 a.2.1 a.2.2.1 hq)

/-- A pending handle among those that resolve has resolved with their result. -/
theorem resolvedWith_of_mem (hs : List (PhaseHandle)) {s : State} {k : BitVec 16} {p : BitVec 32}
    (hheld : s.slotHeld c.sl = true) (hpart : s.partOf c.sl = part) (hpending : ((s.ctx c).hslot h).state = .pending)
    (hserial : ((s.ctx c).hslot h).serial = k) (hmem : (c, h, k, p) ∈ hs) :
    ResolvedWith w (((resolveAll part w s hs).ctx c).hslot h) := by
  induction hs generalizing s with
  | nil => exact absurd hmem List.not_mem_nil
  | cons a hs ih =>
    have hslots := (alikeButHandles_resolveAnywhere s part a.1 a.2.1 a.2.2.1 w).slots
    have hheld' := (slotHeld_congr hslots _).trans hheld
    have hpart' := (partOf_congr hslots _).trans hpart
    have hstep := hslot_resolveAnywhere (w := w) (h := h) hheld hpart a.1 a.2.1 a.2.2.1
    rw [resolveAll_cons]
    by_cases hhit : (c = a.1 ∧ h = a.2.1) ∧ a.2.2.1 = k
    · obtain ⟨hsame, hk⟩ := hhit
      rw [if_pos hsame, resolvedBy, if_pos ⟨hpending, hserial.trans hk.symm⟩] at hstep
      exact resolvedWith_resolveAll hs hheld' hpart' (hstep ▸ ⟨rfl, rfl, rfl⟩)
    · have hkeep : ((s.resolveAnywhere part a.1 a.2.1 a.2.2.1 w).ctx c).hslot h = (s.ctx c).hslot h := by
        rw [hstep]
        split
        · next hsame => exact if_neg fun hp => hhit ⟨hsame, hp.2.symm.trans hserial⟩
        · rfl
      have htail : (c, h, k, p) ∈ hs := by
        refine (List.mem_cons.mp hmem).resolve_left fun ha => hhit ?_
        subst ha
        exact ⟨⟨rfl, rfl⟩, rfl⟩
      exact ih hheld' hpart' (hkeep ▸ hpending) (hkeep ▸ hserial) htail

end

/-! The members of a domain while its handles resolve. -/

theorem ctxOfKey_key (c : CtxId) : ctxOfKey c.key = c := by
  obtain ⟨⟨k, hk⟩, ⟨l, hl⟩, ⟨x, hx⟩⟩ := c
  simp only [ctxOfKey, CtxId.key, slotKey, CtxId.mk.injEq, Fin.mk.injEq]
  omega

theorem mem_of_get_ne {α : Type} {d : α} {l : Sparse α} {i : Nat} (h : Sparse.get d l i ≠ d) : ∃ v, (i, v) ∈ l := by
  induction l with
  | nil => exact absurd rfl h
  | cons a l ih =>
    obtain ⟨k, v⟩ := a
    by_cases hk : i = k
    · exact ⟨v, hk ▸ List.mem_cons_self⟩
    · rw [Sparse.get, if_neg hk] at h
      split at h
      · exact absurd rfl h
      · obtain ⟨u, hu⟩ := ih h
        exact ⟨u, List.mem_cons_of_mem _ hu⟩

/-- A context that is not as at reset has a record. -/
theorem mem_ctxIds {s : State} {c : CtxId} (h : s.ctx c ≠ Ctx.reset) : c ∈ s.ctxIds := by
  obtain ⟨x, hx⟩ := mem_of_get_ne h
  exact List.mem_map.mpr ⟨_, hx, ctxOfKey_key c⟩

theorem tenantSlot_congr {s t : State} (hbinds : ∀ p l, t.heldBind p l = s.heldBind p l) (p : Fin 64) (k : Fin 4608) (n : Fin 4) :
    t.tenantSlot p k n = s.tenantSlot p k n := by
  simp only [State.tenantSlot, hbinds]

theorem mem_liveMembers_of_alike {s t : State} (h : AlikeButHandles s t) {part : Fin 64} {slot : Fin 4} {d : DomReg} {c : CtxId}
    (hmem : c ∈ t.liveMembers part slot d) : c ∈ s.liveMembers part slot d := by
  simp only [State.liveMembers, List.mem_filter, Ctx.live, State.isMember, h.status, slotHeld_congr h.slots, partOf_congr h.slots,
    tenantSlot_congr h.binds] at hmem ⊢
  refine ⟨mem_ctxIds fun hreset => ?_, hmem.2⟩
  simp [hreset, Ctx.reset] at hmem

/-! The first phase of a domain closes (R335). -/

/-- The handles of a phase. -/
def phaseHandles (s : State) (part : Fin 64) (d : DomReg) (p : BitVec 32) : List (PhaseHandle) :=
  (s.doms.filter (fun y => y.isFor part d)).flatMap (fun y => y.handles.filter (fun h => h.2.2.2 == p))

/-- The domain goes on to its next phase. -/
def nextPhase (s : State) (part : Fin 64) (d : DomReg) (p : BitVec 32) : State :=
  { s with doms := s.doms.map (fun (y : SyncDom) =>
    if y.isFor part d then { y with next := p + 1, handles := y.handles.filter (fun h => h.2.2.2 != p) } else y) }

section
variable {s : State} {part : Fin 64} {slot : Fin 4} {d : DomReg} {p : BitVec 32}

theorem closePhase_eq (h : ∀ k ∈ s.liveMembers part slot d, ∀ n, (s.ctx k).status ≠ .waiting (.phase n p)) :
    s.closePhase part slot d p =
      resolveAll part (resultWord 0 p.toNat 0) (nextPhase s part d p) (phaseHandles s part d p) := by
  have halike : AlikeButHandles s (resolveAll part (resultWord 0 p.toNat 0) (nextPhase s part d p) (phaseHandles s part d p)) :=
    alikeButHandles_trans (t := nextPhase s part d p) ⟨rfl, fun _ _ => rfl, fun _ => rfl⟩ (alikeButHandles_resolveAll ..)
  refine congrArg (List.foldl (fun t c => State.passOn t c 4) _) (List.filter_eq_nil_iff.mpr fun c hc => ?_)
  change c ∈ State.liveMembers (resolveAll part (resultWord 0 p.toNat 0) (nextPhase s part d p) (phaseHandles s part d p)) part slot d
    at hc
  have hwait := h c (mem_liveMembers_of_alike halike hc)
  split
  · next n q hstatus =>
    have hs : (s.ctx c).status = .waiting (.phase n q) := (halike.status c).symm.trans hstatus
    intro hq
    simp only [Bool.and_eq_true, beq_iff_eq] at hq
    exact hwait n (hq.2 ▸ hs)
  · exact Bool.false_ne_true

theorem mem_phaseHandles {a : PhaseHandle} {y : SyncDom} (hy : y ∈ s.doms) (hfor : y.isFor part d = true)
    (ha : a ∈ y.handles) (hp : a.2.2.2 = p) : a ∈ phaseHandles s part d p :=
  List.mem_flatMap.mpr ⟨y, List.mem_filter.mpr ⟨hy, hfor⟩, List.mem_filter.mpr ⟨ha, beq_iff_eq.mpr hp⟩⟩

theorem resultWord_progress (p : BitVec 32) : resultWord 0 p.toNat 0 = BitVec.ofNat 64 (p.toNat * 2 ^ 16) := by
  have hp : p.toNat % 2 ^ 32 = p.toNat := Nat.mod_eq_of_lt p.isLt
  simp only [resultWord, hp, Nat.zero_mod, Nat.zero_mul, Nat.zero_add, Nat.add_zero]

end

theorem phaseCompletion : PhaseCompletion := by
  intro s part slot d p done
  refine ⟨phaseMet_iff, fun hnot hne hp f => ?_, fun hp hvalid hdom hsome hmet f => ?_, fun c h hheld hpart hpending hmem hwait => ?_⟩
  · subst hp
    exact phaseSweep_of_not_met hnot hne f
  · subst hp
    exact phaseSweep_of_met hvalid hdom hsome hmet f
  · obtain ⟨y, hy, hfor, ha⟩ := hmem
    rw [closePhase_eq hwait, ← resultWord_progress]
    exact resolvedWith_of_mem (s := nextPhase s part d p) _ hheld hpart hpending rfl (mem_phaseHandles hy hfor ha rfl)

/-! The domain registers (R351 to R354). -/

theorem bind_eq_ok {α β : Type} {m : M α} {f : α → M β} {s t : State} {b : β} (h : (m >>= f) s = .ok (b, t)) :
    ∃ a u, m s = .ok (a, u) ∧ f a u = .ok (b, t) := by
  cases hm : m s with
  | error e => simp [bind, StateT.bind, Except.bind, hm] at h
  | ok q =>
    obtain ⟨a, u⟩ := q
    exact ⟨a, u, rfl, (bind_ok hm).symm.trans h⟩

/-- Nothing but what is cached changes. -/
def OnlyCached (s t : State) : Prop := t.ctxs = s.ctxs ∧ t.mem = s.mem ∧ t.tags = s.tags

theorem onlyCached_refl (s : State) : OnlyCached s s := ⟨rfl, rfl, rfl⟩

theorem onlyCached_trans {s t u : State} (h : OnlyCached s t) (g : OnlyCached t u) : OnlyCached s u :=
  ⟨g.1.trans h.1, g.2.1.trans h.2.1, g.2.2.trans h.2.2⟩

theorem onlyCached_record {cap : Reg} {a : Ask} {addr : W64} {s t : State} {p : Spot} (h : record cap a addr s = .ok (p, t)) :
    OnlyCached s t := by
  unfold record need at h
  cases hreach : s.reachRecord s.cur cap a addr with
  | trap c v n => simp [hreach] at h
  | wait w => simp [hreach] at h
  | ok q =>
    simp only [hreach] at h
    cases h
    exact ⟨ctxs_cacheHost .., cacheHost_mem ..⟩

theorem onlyCached_readSpan {cap : Reg} {n : Nat} {addr : W64} {s t : State} {bs : List Byte}
    (h : readSpan cap n addr s = .ok (bs, t)) : OnlyCached s t := by
  induction n generalizing addr s t bs with
  | zero =>
    cases h
    exact onlyCached_refl s
  | succ n ih =>
    obtain ⟨_, _, hget, h⟩ := bind_eq_ok h
    cases hget
    obtain ⟨p, u, hrecord, h⟩ := bind_eq_ok h
    obtain ⟨r, v, hspan, h⟩ := bind_eq_ok h
    cases h
    exact onlyCached_trans (onlyCached_record hrecord) (ih hspan)

theorem readDomain_spec {cap : Reg} {s t : State} {new : DomReg} (h : readDomain cap s = .ok (new, t)) :
    new.phase = 0 ∧ new.valid = true ∧ OnlyCached s t := by
  obtain ⟨_, _, hget, h⟩ := bind_eq_ok h
  cases hget
  obtain ⟨_, _, hwho, h⟩ := bind_eq_ok h
  cases hwho
  obtain ⟨p, u, hrecord, h⟩ := bind_eq_ok h
  have hcached := onlyCached_record hrecord
  dsimp only at h
  split at h
  · cases h
  · split at h
    · cases h
      exact ⟨rfl, rfl, hcached⟩
    · generalize checkCap _ _ _ _ _ = failing at h
      cases failing with
      | some e => cases h
      | none =>
        obtain ⟨bs, v, hspan, h⟩ := bind_eq_ok h
        split at h
        · cases h
          exact ⟨rfl, rfl, onlyCached_trans hcached (onlyCached_readSpan hspan)⟩
        · cases h

theorem sameMemory_of_onlyCached {s t : State} (h : OnlyCached s t) : SameMemory s t := by
  obtain ⟨_, hmem, htags⟩ := h
  exact ⟨fun p => congrArg (Sparse.get unlisted · p) hmem, fun k => congrArg (Sparse.get false · k) htags⟩

/-- The fields of a word add up where they lie apart. -/
theorem or_eq_add {a b i : Nat} (h : b < 2 ^ i) : a * 2 ^ i ||| b = a * 2 ^ i + b := by
  rw [Nat.mul_comm, Nat.two_pow_add_eq_or_of_lt h]

theorem toNat_setWidth_shiftLeft {n : Nat} (x : BitVec n) {i : Nat} (h : x.toNat * 2 ^ i < 2 ^ 64) :
    (x.setWidth 64 <<< i).toNat = x.toNat * 2 ^ i := by
  have hx : x.toNat < 2 ^ 64 := lt_of_le_of_lt (Nat.le_mul_of_pos_right _ (Nat.two_pow_pos i)) h
  rw [BitVec.toNat_shiftLeft, BitVec.toNat_setWidth, Nat.shiftLeft_eq, Nat.mod_eq_of_lt hx, Nat.mod_eq_of_lt h]

/-- A domain register as DMSET gives it, as the sum of its fields (R352). -/
theorem domReg_word (d : DomReg) : d.word =
    if d.valid = true then BitVec.ofNat 64 (d.key.toNat * 2 ^ 48 + 2 ^ 31 + d.level.toNat * 2 ^ 24 + d.cmask.toNat) else 0 := by
  have hkey := d.key.isLt
  have hlevel := d.level.isLt
  have hmask := d.cmask.isLt
  refine if_congr Iff.rfl (BitVec.eq_of_toNat_eq ?_) rfl
  rw [BitVec.toNat_or, BitVec.toNat_or, BitVec.toNat_or, toNat_setWidth_shiftLeft _ (by omega), toNat_setWidth_shiftLeft _ (by omega),
    BitVec.toNat_setWidth_of_le (by decide)]
  change d.key.toNat * 2 ^ 48 ||| 1 * 2 ^ 31 ||| _ ||| _ = _
  rw [Nat.or_assoc, Nat.or_assoc, or_eq_add (a := d.level.toNat) (by omega), or_eq_add (a := 1) (by omega),
    or_eq_add (a := d.key.toNat) (by omega), BitVec.toNat_ofNat, Nat.mod_eq_of_lt (by omega)]
  omega

theorem toNat_ofNat_of_six (n : Fin 6) : (BitVec.ofNat 64 n.val).toNat = n.val := by
  have hn := n.isLt
  rw [BitVec.toNat_ofNat, Nat.mod_eq_of_lt (by omega)]

theorem execDmset_next {d : RegCode} {a : GReg} {b : RegCode} {s s1 t0 t u v : State} {n : Fin 6} {new : DomReg}
    (hstarts : Starts (.dmset d a b) .closes [b] [d, b] s s1) (hread : readData b s1 = .ok (BitVec.ofNat 64 n.val, t0))
    (hdepth : (here s1).depth = 0)
    (hnew : (if a = 0 then .ok (DomReg.none, t0) else readDomain ((here s1).reg a) t0) = .ok (new, t))
    (hfree : ((here s1).domReg n.val).valid = true →
      t.domNext (t.partOf s1.cur.sl) ((here s1).domReg n.val) = ((here s1).domReg n.val).phase)
    (hwrite : write (Instr.word (.dmset d a b)) d (Reg.data ((here s1).domReg n.val).word) (t.installDom s1.cur n new) = .ok ((), u))
    (hgoes : GoesOn (.dmset d a b) u v) : exec (.dmset d a b) s = .next v := by
  have hlt : (BitVec.ofNat 64 n.val).toNat < 6 := (toNat_ofNat_of_six n).symm ▸ n.isLt
  have hfin : (⟨(BitVec.ofNat 64 n.val).toNat, hlt⟩ : Fin 6) = n := Fin.ext (toNat_ofNat_of_six n)
  have hgo : ¬ (((here s1).domReg n.val).valid &&
      t.domNext (t.partOf s1.cur.sl) ((here s1).domReg n.val) != ((here s1).domReg n.val).phase) = true := by
    simp only [Bool.and_eq_true, bne_iff_ne, ne_eq, not_and, not_not]
    exact hfree
  have hrecord : ((if a = 0 then pure DomReg.none else readDomain ((here s1).reg a)) : M DomReg) t0 = .ok (new, t) := by
    rw [← hnew]
    split
    · rfl
    · rfl
  have hshallow : ¬ (here s1).depth > 0 := by simp [hdepth]
  change execDmset d a b s = .next v
  refine run_next hstarts ?_ hgoes
  refine (bind_ok (m := me) (a := here s1) rfl).trans ((bind_ok (m := who) rfl).trans ?_)
  rw [if_neg hshallow]
  refine (bind_ok (m := greg a) rfl).trans ((bind_ok hread).trans ?_)
  rw [dif_pos hlt, hfin]
  refine (bind_ok hrecord).trans ((bind_ok (m := get) rfl).trans ?_)
  rw [if_neg hgo]
  exact (bind_ok (m := set _) rfl).trans (bind_ok hwrite)

/-- A tenant has at most the cores of the device as members. -/
theorem length_memberCores_le (s : State) (p : Fin 64) (d : DomReg) : (s.memberCores p d).length ≤ 4608 := by
  have hsub : ((s.slotsOfPart p ++ (s.saved.filter (fun v => v.slot.bind.part == p)).map (fun v => v.sl)).map
      (fun sl => sl.core.val)).dedup ⊆ List.range 4608 := fun k hk => by
    obtain ⟨l, _, rfl⟩ := List.mem_map.mp (List.mem_dedup.mp hk)
    exact List.mem_range.mpr l.core.isLt
  have hle := (List.subperm_of_subset (List.nodup_dedup _) hsub).length_le
  rw [List.length_range] at hle
  exact (List.length_filter_le _ _).trans hle

/-- What DMGET gives, as the sum of its fields (R354). -/
theorem phase_word {e : BitVec 32} {rank cores : Nat} (hrank : rank ≤ cores) (hcores : cores ≤ 4608) :
    e.setWidth 64 <<< 32 ||| BitVec.ofNat 64 (rank * 2 ^ 13 + cores) = BitVec.ofNat 64 (e.toNat * 2 ^ 32 + rank * 2 ^ 13 + cores) := by
  have he := e.isLt
  refine BitVec.eq_of_toNat_eq ?_
  rw [BitVec.toNat_or, toNat_setWidth_shiftLeft _ (by omega), BitVec.toNat_ofNat, BitVec.toNat_ofNat, Nat.mod_eq_of_lt (by omega),
    Nat.mod_eq_of_lt (by omega), or_eq_add (by omega), Nat.add_assoc]

theorem execDmget_next {d a : RegCode} {s s1 t u v : State} {n : Fin 6} (hstarts : Starts (.dmget d a) .closes [a] [d, a] s s1)
    (hread : readData a s1 = .ok (BitVec.ofNat 64 n.val, t)) (hvalid : ((here t).domReg n.val).valid = true)
    (hdepth : (here t).depth = 0)
    (hwrite : write (Instr.word (.dmget d a)) d (Reg.data ((((here t).domReg n.val).phase.setWidth 64 <<< 32) |||
      BitVec.ofNat 64 ((t.memberCores (t.partOf t.cur.sl) ((here t).domReg n.val)).countP (fun k => decide (k < t.cur.core.val)) * 2 ^ 13 +
        (t.memberCores (t.partOf t.cur.sl) ((here t).domReg n.val)).length))) t = .ok ((), u))
    (hgoes : GoesOn (.dmget d a) u v) : exec (.dmget d a) s = .next v := by
  have hlt : (BitVec.ofNat 64 n.val).toNat < 6 := (toNat_ofNat_of_six n).symm ▸ n.isLt
  have hfin : (⟨(BitVec.ofNat 64 n.val).toNat, hlt⟩ : Fin 6) = n := Fin.ext (toNat_ofNat_of_six n)
  have hsmall : ¬ (BitVec.ofNat 64 n.val).toNat ≥ 8 := by omega
  change execDmget d a s = .next v
  refine run_next hstarts ?_ hgoes
  refine (bind_ok hread).trans ((bind_ok (m := who) rfl).trans ((bind_ok (m := get) rfl).trans ?_))
  rw [if_neg hsmall, dif_pos hlt, hfin]
  exact (bind_ok (needDomain_ok hvalid hdepth)).trans (bind_ok hwrite)

theorem domainRegisters : DomainRegisters := by
  refine ⟨?_, fun cap s t new h => ?_, ?_⟩
  · intro d a b s s1 t0 t u v n new hstarts hread hdepth hnew old hfree hwrite hgoes
    obtain ⟨_, _, hcur, _⟩ := receive_spec hstarts.ports
    rw [← hcur] at hfree hwrite
    exact execDmset_next hstarts hread hdepth hnew hfree (domReg_word old ▸ hwrite) hgoes
  · obtain ⟨hphase, hvalid, hcached⟩ := readDomain_spec h
    exact ⟨hphase, hvalid, sameMemory_of_onlyCached hcached, hcached.1⟩
  · intro d a s s1 t u v n hstarts hread e cores hvalid hdepth hwrite hgoes
    obtain ⟨_, hval⟩ := read_of_readData hread
    obtain ⟨_, _, hcur1, _⟩ := receive_spec hstarts.ports
    obtain ⟨_, _, hcur2, _⟩ := read_spec hval
    rw [← phase_word List.countP_le_length (length_memberCores_le ..), ← hcur2.trans hcur1] at hwrite
    exact execDmget_next hstarts hread hvalid hdepth hwrite hgoes

/-- Settles O22: the course of each instruction from what its parts answer; a domain's first phase closes where every member has
arrived at it and its handles resolve one after another, in states alike but for their handles; and the domain registers as the sums
of their fields. -/
theorem orderForms : Obligations.OrderForms := ⟨fenceResult, phaseResult, phaseCompletion, domainRegisters⟩

end Sys2Proof.Proofs.Order
end

section
/-! PROOFS of the family 05_local_store: a load from the slot's own local store completes in one step (R40, R142, R144). -/
namespace Sys2Proof.Proofs.Loads
open Sys2Proof Sys2Proof.Machine Sys2Proof.Laws
open Sys2Proof.Safety
open Sys2Proof.Proofs.Links (ofBytesLE_lt)
open Sys2Proof.Proofs.Order (bind_ok)

theorem access_ok {s : State} {cap : Reg} {ask : Ask} {addr : W64} {p : Spot} (h : s.reach s.cur cap ask addr = .ok p) :
    access cap ask addr s = .ok (p, s) := by
  rw [access, h, need]

/-- A load that has not been sent, from the slot's own local store, gives what memory holds there. -/
theorem loadOp_own {i : Instr} {n : Nat} {o : BitVec 2} {d : RegCode} {a : GReg} {off : BitVec 8} {conv : W128 → Bool → Reg → Reg}
    {s s' u v : State} {p : Spot} (hstarts : Starts i .closes [] [d] s s) (hremote : (here s).remote = none)
    (hreach : s.reach s.cur ((here s).reg a) (loadAsk n) (addrOf ((here s).reg a) off n) = .ok p) (hown : p.own = true)
    (hnote : noteLoad p.loc n (BitVec.ofNat 128 (s.readNat p.loc n)) s = .ok ((), s'))
    (hwrite : write (Instr.word i) d
      (conv (BitVec.ofNat 128 (s.readNat p.loc n)) (p.tags && s.tagAt (p.loc.tagKey 0)) ((here s).reg a)) s' = .ok ((), u))
    (hgoes : GoesOn i u v) : loadOp i n o d a off conv s = .next v := by
  refine run_next hstarts ?_ hgoes
  refine (bind_ok (m := me) (a := here s) rfl).trans ((bind_ok (m := greg a) (a := (here s).reg a) rfl).trans ?_)
  rw [hremote]
  refine (bind_ok (access_ok hreach)).trans ?_
  rw [if_pos hown]
  exact (bind_ok (m := get) rfl).trans ((bind_ok hnote).trans (bind_ok hwrite))

@[simp] theorem length_readBytes (s : State) (l : Loc) (n : Nat) : (s.readBytes l n).length = n := by
  induction n generalizing l with
  | zero => rfl
  | succ n ih => rw [State.readBytes, List.length_cons, ih]

theorem readNat_lt (s : State) (l : Loc) (n : Nat) : s.readNat l n < 2 ^ (8 * n) := by
  have h := ofBytesLE_lt (s.readBytes l n)
  rwa [length_readBytes] at h

/-- A zero-extended load takes the whole of a value that is no wider than its size. -/
theorem setWidth_setWidth_of_lt {w : Nat} (hw : w ≤ 64) {v : W128} (hv : v.toNat < 2 ^ w) :
    (v.setWidth w).setWidth 64 = v.setWidth 64 := by
  refine BitVec.eq_of_toNat_eq ?_
  rw [BitVec.toNat_setWidth_of_le hw, BitVec.toNat_setWidth, BitVec.toNat_setWidth, Nat.mod_eq_of_lt hv,
    Nat.mod_eq_of_lt (lt_of_lt_of_le hv (Nat.pow_le_pow_right (by decide) hw))]

/-- A load of the table runs as `loadOp`, with the table's register of every value that its bytes give. -/
theorem exec_of_loadForm {i : Instr} {n : Nat} {o : BitVec 2} {d : RegCode} {a : GReg} {off : BitVec 8}
    {conv : W128 → Bool → Reg → Reg} (h : loadForm i = some (n, o, d, a, off, conv)) (s : State) :
    ∃ conv', exec i s = loadOp i n o d a off conv' s ∧
      ∀ x < 2 ^ (8 * n), conv' (BitVec.ofNat 128 x) = conv (BitVec.ofNat 128 x) := by
  unfold loadForm at h
  split at h
  case h_1 sz o d a off =>
    cases h
    refine ⟨fun v _ _ => Reg.data (loadConv sz v), rfl, fun x hx => ?_⟩
    have hv : (BitVec.ofNat 128 x).toNat < 2 ^ (8 * loadBytes sz) := lt_of_le_of_lt (Nat.mod_le ..) hx
    funext t cap
    refine congrArg Reg.data ?_
    cases sz with
    | bn => exact (setWidth_setWidth_of_lt (by decide) hv).symm
    | hn => exact (setWidth_setWidth_of_lt (by decide) hv).symm
    | wn => exact (setWidth_setWidth_of_lt (by decide) hv).symm
    | _ => rfl
  case h_2 o d a off =>
    cases h
    refine ⟨fun v t cap => loadTagged v (t && !lacks cap permLC), rfl, fun x _ => ?_⟩
    funext t cap
    simp only [loadTagged, Bool.and_eq_true, Bool.not_eq_true', and_assoc]
  case h_3 d b =>
    cases h
    exact ⟨fun v _ _ => Reg.data (v.setWidth 64), rfl, fun _ _ => rfl⟩
  case h_4 => cases h

/-- Settles O11: the course of `loadOp`, and the table's registers as those that the loads give. -/
theorem loadResult : Obligations.LoadResult := by
  intro i n o d a off conv s s' u v p hform hstarts hremote hreach hown hnote hwrite hgoes
  obtain ⟨conv', hexec, hconv⟩ := exec_of_loadForm hform s
  rw [← hconv _ (readNat_lt s p.loc n)] at hwrite
  exact hexec.trans (loadOp_own hstarts hremote hreach hown hnote hwrite hgoes)

end Sys2Proof.Proofs.Loads
end

section
/-! PROOFS of the family 05_local_store: a store to the slot's own local store completes in one step, and STC refuses what R145
refuses it (R40, R143, R145). -/
namespace Sys2Proof.Proofs.Stores
open Sys2Proof Sys2Proof.Machine Sys2Proof.Laws
open Sys2Proof.Safety
open Sys2Proof.Proofs.Links (length_bytesLE)
open Sys2Proof.Proofs.Loads (access_ok)
open Sys2Proof.Proofs.Order (bind_ok)

/-- What a store does before it reads its register: its address passes the checks (R139). -/
theorem checkAddress_ok {s : State} {a : GReg} {off : BitVec 8} {n : Nat} {ask : Ask} {p : Spot}
    (h : s.reach s.cur ((here s).reg a) ask (addrOf ((here s).reg a) off n) = .ok p) :
    (do
      let cap ← greg a
      let addr := addrOf cap off n
      let p ← access cap ask addr
      pure (cap, p, addr) : M (Reg × Spot × W64)) s = .ok (((here s).reg a, p, addrOf ((here s).reg a) off n), s) :=
  (bind_ok (m := greg a) (a := (here s).reg a) rfl).trans (bind_ok (access_ok h))

/-- A release that is not blocked goes ahead. -/
theorem releaseIf_ok {sc : Option Scope} {s : State} (h : ∀ v, sc = some v → s.releaseBlocked s.cur v = false) :
    releaseIf sc s = .ok ((), s) := by
  cases sc with
  | none => rfl
  | some v => simp only [releaseIf, releaseAt, h v rfl, Bool.false_eq_true, if_false]

/-- What a store leaves at its place: the register with its tag, or bytes. -/
theorem storeAt_own {p : Spot} {addr : W64} {bs : List Byte} {sc : Option Scope} {t : State} (reg : Option Reg)
    (hown : p.own = true) (hfree : ∀ v, sc = some v → t.releaseBlocked t.cur v = false) :
    storeAt p addr bs reg sc t = .ok (.next, t.keepStore (match reg with
      | some r => t.pokeReg p.loc r true
      | none => t.poke p.loc bs) p.loc bs.length) := by
  refine (bind_ok (releaseIf_ok hfree)).trans ?_
  rw [if_pos hown]
  rfl

section
variable {i : Instr} {n : Nat} {o : BitVec 2} {r : RegCode} {a : GReg} {off : BitVec 8} {s s1 t u : State} {p : Spot} {q : Reg}

theorem storeOp_own (hstarts : Starts i .closes [r] [r] s s1)
    (hreach : s.reach s.cur ((here s).reg a) (storeAsk n) (addrOf ((here s).reg a) off n) = .ok p)
    (hreach1 : s1.reach s1.cur ((here s1).reg a) (storeAsk n) (addrOf ((here s1).reg a) off n) = .ok p) (hown : p.own = true)
    (hread : Machine.read r s1 = .ok (q, t)) (hfree : ∀ sc, (here s1).ordScope o = some sc → t.releaseBlocked t.cur sc = false)
    (hgoes : GoesOn i (t.keepStore (t.poke p.loc (bytesLE n q.lo.toNat)) p.loc n) u) : storeOp i n o r a off s = .next u := by
  refine operate_next (bind_ok (checkAddress_ok hreach)) hstarts ?_ hgoes
  refine (bind_ok (checkAddress_ok hreach1)).trans ((bind_ok (m := me) (a := here s1) rfl).trans ((bind_ok hread).trans ?_))
  rw [storeAt_own none hown hfree, length_bytesLE]

section
variable (hstarts : Starts (.stc o r a off) .closes [r] [r] s s1)
  (hreach : s.reach s.cur ((here s).reg a) (storeAsk 16) (addrOf ((here s).reg a) off 16) = .ok p)
  (hreach1 : s1.reach s1.cur ((here s1).reg a) (storeAsk 16) (addrOf ((here s1).reg a) off 16) = .ok p)
  (hread : Machine.read r s1 = .ok (q, t))
include hstarts hreach hreach1 hread

theorem execStc_own (hown : p.own = true) (hpass : stcTrap ((here s1).reg a) q p s1.cur.sl = none)
    (hfree : ∀ sc, (here s1).ordScope o = some sc → t.releaseBlocked t.cur sc = false)
    (hgoes : GoesOn (.stc o r a off) (t.keepStore (if q.tag ≠ 0 then t.pokeReg p.loc q true
      else t.poke p.loc (bytesLE 16 q.bits.toNat)) p.loc 16) u) : execStc o r a off s = .next u := by
  refine operate_next (bind_ok (checkAddress_ok hreach)) hstarts ?_ hgoes
  refine (bind_ok (checkAddress_ok hreach1)).trans ((bind_ok (m := me) (a := here s1) rfl).trans
    ((bind_ok (m := who) (a := s1.cur) rfl).trans ((bind_ok hread).trans ?_)))
  simp only [hpass]
  rw [storeAt_own _ hown hfree, length_bytesLE]
  by_cases htag : q.tag = 0
  · simp only [htag, if_true, ne_eq, not_true_eq_false, if_false]
  · simp only [htag, if_false, ne_eq, not_false_eq_true, if_true]

theorem execStc_trap {e : Cause} (hfail : stcTrap ((here s1).reg a) q p s1.cur.sl = some e) :
    execStc o r a off s = .next (s1.takeTrap s.cur ⟨e, addrOf ((here s1).reg a) off 16, 0, false⟩) := by
  refine operate_trap (bind_ok (checkAddress_ok hreach)) hstarts ?_
  refine (bind_ok (checkAddress_ok hreach1)).trans ((bind_ok (m := me) (a := here s1) rfl).trans
    ((bind_ok (m := who) (a := s1.cur) rfl).trans ((bind_ok hread).trans ?_)))
  simp only [hfail]
  rfl

end
end

theorem storeResult : StoreResult := by
  intro i n o r a off tagged s s1 t u p q hform hstarts hreach hreach1 hown hread hpass hfree hscope hgoes
  have hrelease : ∀ sc, (here s1).ordScope o = some sc → t.releaseBlocked t.cur sc = false := fun sc h => hfree sc (hscope ▸ h)
  unfold storeForm at hform
  split at hform
  case h_1 sz o r a off =>
    cases hform
    simp only [Bool.false_eq_true, false_and, if_false] at hgoes
    exact storeOp_own hstarts hreach hreach1 hown hread hrelease hgoes
  case h_2 o r a off =>
    cases hform
    simp only [true_and, if_true] at hgoes
    exact execStc_own hstarts hreach hreach1 hread hown (hpass rfl) hrelease hgoes
  case h_3 r b =>
    cases hform
    simp only [Bool.false_eq_true, false_and, if_false] at hgoes
    exact storeOp_own hstarts hreach hreach1 hown hread hrelease hgoes
  case h_4 => cases hform

/-- The refusals of STC in their order (R145). -/
theorem stcTrap_of_refused {cap q : Reg} {p : Spot} {sl : SlotId} {e : Cause}
    (h : e = .capTag ∧ q.tag = 2 ∨ e = .capPerm ∧ (q.tag = 1 ∨ q.tag = 3) ∧
      (lacks cap permSC = true ∨ p.tags = false ∨ p.shared sl = true ∧ lacks q permG = true)) : stcTrap cap q p sl = some e := by
  rcases h with ⟨rfl, htag⟩ | ⟨rfl, htag, hwhy⟩
  · simp only [stcTrap, htag, if_true]
  · have hcap : q.tag ≠ 2 ∧ q.tag ≠ 0 := by rcases htag with h | h <;> rw [h] <;> decide
    simp only [stcTrap, if_neg hcap.1, if_neg hcap.2]
    split
    · rfl
    · split
      · rfl
      · next hsc htags => rw [if_pos (by simpa [hsc, htags] using hwhy)]

theorem stcRefusals : StcRefusals := by
  intro o r a off s s1 t p q e hstarts hreach hreach1 hread hwhy
  exact execStc_trap hstarts hreach hreach1 hread (stcTrap_of_refused hwhy)

/-- Settles O12: the course of a store whose address passes its checks, and the refusals of STC in their order. -/
theorem storeForms : Obligations.StoreForms := ⟨storeResult, stcRefusals⟩

end Sys2Proof.Proofs.Stores
end

section
/-! PROOFS of the family 05_local_store: an AMO or CAS on the slot's own local store completes in one step (R127), with the
combination of R146 and R148. -/
namespace Sys2Proof.Proofs.Atomics
open Sys2Proof Sys2Proof.Machine Sys2Proof.Laws
open Sys2Proof.Safety
open Sys2Proof.Proofs.Loads (access_ok)
open Sys2Proof.Proofs.Stores (releaseIf_ok)
open Sys2Proof.Proofs.Order (bind_ok)

/-- Flags that no enabled trap takes are raised (R210). -/
theorem raiseFlags_ok {s : State} {mode : Nat} {fl : BitVec 5} (h : fl &&& (here s).frm.extractLsb' 6 5 = 0) :
    raiseFlags mode fl s = .ok ((), Raised s mode fl) := by
  refine (bind_ok (m := me) (a := here s) rfl).trans ?_
  rw [if_neg (not_not.mpr h)]
  rfl

section
variable {i : Instr} {size : Nat} {o : BitVec 2} {d : RegCode} {a : GReg} {fadd : Bool} {op : RemoteOp} {t m u : State} {p : Spot}
  {old : Nat} {fl : BitVec 5}

/-- An AMO or CAS that has read its operands and has not been sent, on the slot's own local store. -/
theorem atomicOp_own (hremote : (here t).remote = none)
    (hreach : t.reach t.cur ((here t).reg a) (amoAsk size) ((here t).reg a).lo = .ok p) (hown : p.own = true) (hfree : Ordered t o)
    (hperform : t.performAt op p.loc size = .ok (m, old, fl))
    (hflags : fl &&& (here ((t.keepStore m p.loc size).costs 4)).frm.extractLsb' 6 5 = 0)
    (hwrite : write (Instr.word i) d (Reg.data (oldOut (fadd && size == 4) size old))
      (if fadd = true then Raised ((t.keepStore m p.loc size).costs 4) (here t).mode fl
        else (t.keepStore m p.loc size).costs 4) = .ok ((), u)) :
    atomicOp i op size o d a fadd t = .ok (.next, u) := by
  refine (bind_ok (m := me) (a := here t) rfl).trans ?_
  simp only [hremote]
  refine (bind_ok (m := greg a) (a := (here t).reg a) rfl).trans ((bind_ok (access_ok hreach)).trans
    ((bind_ok (releaseIf_ok hfree)).trans ?_))
  rw [if_pos hown]
  refine (bind_ok (m := get) (a := t) rfl).trans ?_
  simp only [hperform]
  refine (bind_ok (m := set _) rfl).trans ?_
  cases fadd with
  | false => exact bind_ok hwrite
  | true =>
    rw [if_pos rfl] at hwrite
    exact (bind_ok (raiseFlags_ok hflags)).trans (bind_ok hwrite)

end

/-- The operand of an AMO as it is combined (R146): AMOFADD.W takes its boxed value out. -/
def amoOperand (op : Nat) (w8 : Bool) (v : W64) : W64 :=
  if op = 7 ∧ w8 = false then BitVec.ofNat 64 (unbox32 v) else v

theorem amoOperand_eq (op : Nat) (w8 : Bool) (v : W64) :
    amoOperand op w8 v = if op = 7 ∧ (if w8 = true then 8 else 4) = 4 then BitVec.ofNat 64 (unbox32 v) else v := by
  cases w8 with
  | true => simp [amoOperand]
  | false => simp [amoOperand]

/-- An AMO of the table runs as `amoOp`, and the only other member is CAS. -/
theorem exec_of_atomicForm {i : Instr} {rs : List RegCode} {w8 : Bool} {o : BitVec 2} {d : RegCode} {a : GReg}
    {f : Ctx → List W64 → RemoteOp} (h : atomicForm i = some (rs, w8, o, d, a, f)) :
    (∃ op n b, rs = [b] ∧ (∀ s, exec i s = amoOp i op n w8 o d b a s) ∧ isFadd i = (op == 7) ∧
      f = fun x vs => .amo op n (one (amoOperand op w8) vs) x.frm x.srseed x.srseq) ∨
    ∃ b, i = .cas w8 o d b a ∧ rs = [b, d] ∧ ∀ x new exp, f x [new, exp] = .cas new exp := by
  unfold atomicForm at h
  dsimp only at h
  split at h
  case h_11 w8 o d b a =>
    cases h
    exact .inr ⟨b, rfl, rfl, fun _ _ _ => rfl⟩
  case h_12 => cases h
  all_goals
    cases h
    exact .inl ⟨_, _, _, rfl, fun _ => rfl, rfl, rfl⟩

theorem oldOut_eq_oldValue (i : Instr) (w8 : Bool) (old : Nat) :
    oldOut (isFadd i && (if w8 then 8 else 4) == 4) (if w8 then 8 else 4) old = oldValue i w8 old := by
  cases w8 with
  | true => rfl
  | false => cases h : isFadd i <;> simp [oldOut, oldValue, h, box32, sx32]

/-- Naming fewer operands freezes no more (R184). -/
theorem starts_of_names_subset {i : Instr} {e : AtEnd} {reads names fewer : List RegCode} {s s1 : State}
    (h : Starts i e reads names s s1) (hsub : fewer ⊆ names) : Starts i e reads fewer s s1 := by
  refine ⟨h.unfrozen.imp_right fun hnone => ?_, h.loop, h.queues, h.ports⟩
  rw [List.any_eq_false] at hnone ⊢
  exact fun r hr => hnone r (hsub hr)

theorem atomicResult : AtomicResult := by
  intro i rs w8 o d a f s s1 t m u v vs p old fl hform hstarts htake hremote hreach hown hfree hperform k hflags hwrite hgoes
  rw [← oldOut_eq_oldValue] at hwrite
  obtain ⟨op, n, b, rfl, hexec, hfadd, rfl⟩ | ⟨b, rfl, rfl, hf⟩ := exec_of_atomicForm hform
  · obtain ⟨x, _, ws, hread, hrest, rfl⟩ := takeAll_cons htake
    obtain ⟨rfl, rfl⟩ := takeAll_nil hrest
    rw [hfadd] at hwrite
    simp only [lows, List.map, one, amoOperand_eq] at hperform
    rw [hexec]
    refine run_next hstarts ?_ hgoes
    refine (bind_ok (readData_ok hread)).trans ((bind_ok (m := me) (a := here t) rfl).trans ?_)
    exact atomicOp_own hremote hreach hown hfree hperform hflags hwrite
  · obtain ⟨x, t1, _, hread1, hrest1, rfl⟩ := takeAll_cons htake
    obtain ⟨y, _, ws, hread2, hrest2, rfl⟩ := takeAll_cons hrest1
    obtain ⟨rfl, rfl⟩ := takeAll_nil hrest2
    refine run_next (starts_of_names_subset hstarts (by simp)) ?_ hgoes
    refine (bind_ok (readData_ok hread1)).trans ((bind_ok (readData_ok hread2)).trans ?_)
    exact atomicOp_own hremote hreach hown hfree (hf _ _ _ ▸ hperform) hflags hwrite

/-! What is left at the place (R146, R148). -/

/-- An AMO but AMOFADD leaves its combination, and raises nothing. -/
theorem performAt_amo (s : State) {l : Loc} {n op x : Nat} {natural : Bool} {v : W64} {frm : BitVec 11} {seed seq : W64} (hop : op ≠ 7)
    (hnew : amoNew op natural (8 * n) (s.readNat l n) (v.toNat % 2 ^ (8 * n)) (frm.extractLsb' 0 3).toNat (srbits seed seq 0) = (x, 0)) :
    s.performAt (.amo op natural v frm seed seq) l n = .ok (s.poke l (bytesLE n x), s.readNat l n, 0) := by
  simp only [State.performAt, hnew, hop, false_and, if_false]

/-- The sign of a number of `n` bits is that of a word of that width. -/
theorem signedOf_eq_toInt {n : Nat} (hn : 0 < n) (x : Nat) : signedOf n x = (BitVec.ofNat n x).toInt := by
  have hpow : 2 ^ n = 2 * 2 ^ (n - 1) := by rw [← Nat.pow_succ', Nat.succ_eq_add_one, Nat.sub_add_cancel hn]
  rw [signedOf, intOf, BitVec.toInt_eq_toNat_cond, BitVec.toNat_ofNat]
  generalize x % 2 ^ n = y
  simp only [true_and]
  split_ifs <;> omega

theorem atomicCombination : AtomicCombination := by
  intro s l n v frm seed seq hn old w put
  have hbits : 0 < 8 * n := by omega
  refine ⟨performAt_amo s (by decide) rfl, performAt_amo s (by decide) rfl, performAt_amo s (by decide) rfl,
    performAt_amo s (by decide) rfl, performAt_amo s (by decide) rfl, performAt_amo s (by decide) rfl,
    performAt_amo s (by decide) rfl, performAt_amo s (by decide) ?_, performAt_amo s (by decide) ?_, fun new exp => ?_⟩
  · simp only [amoNew, signedOf_eq_toInt hbits, Bool.false_eq_true, if_false, old, w]
  · simp only [amoNew, signedOf_eq_toInt hbits, Bool.false_eq_true, if_false, old, w]
  · simp only [State.performAt, old, put]
    split
    · rfl
    · rfl

/-- Settles O13: the course of an AMO or CAS that has read its operands, and the combination of each as the model's `amoNew`. -/
theorem atomicForms : Obligations.AtomicForms := ⟨atomicResult, atomicCombination⟩

end Sys2Proof.Proofs.Atomics
end

section
/-! PROOFS of the family 05_local_store: what a load from the slot's own local store, and a store to it, leave alone (R142 to R145). -/
namespace Sys2Proof.Proofs.AccessFrame
open Sys2Proof Sys2Proof.Machine Sys2Proof.Laws
open Sys2Proof.Safety
open Sys2Proof.Proofs.Links (length_bytesLE)
open Sys2Proof.Proofs.Loads (loadResult)
open Sys2Proof.Proofs.Network (modCtx_modCtx)
open Sys2Proof.Proofs.Scope (byteAt_writeBytes_of_ne tagAt_writeBytes)
open Sys2Proof.Proofs.Sends (alikeButRings_poke)
open Sys2Proof.Proofs.Stores (storeResult)

/-- Between two states at most the bytes of an access of `n` bytes, the tags of its units, and parts of contexts other than their
general registers differ. -/
structure OnlyAt (l : Loc) (n : Nat) (s t : State) : Prop where
  bytes : ∀ b, (∀ k, k < n → b ≠ l.place k) → t.byteAt b = s.byteAt b
  tags : ∀ b, (∀ k, k < n → b ≠ l.tagKey k) → t.tagAt b = s.tagAt b
  regs : ∀ (c : CtxId) (k : GReg), (t.ctx c).reg k = (s.ctx c).reg k
  rest : t = { s with ctxs := t.ctxs, mem := t.mem, tags := t.tags }

theorem onlyAt_trans {l : Loc} {n : Nat} {s t u : State} (h : OnlyAt l n s t) (g : OnlyAt l n t u) : OnlyAt l n s u where
  bytes b hb := (g.bytes b hb).trans (h.bytes b hb)
  tags b hb := (g.tags b hb).trans (h.tags b hb)
  regs c k := (g.regs c k).trans (h.regs c k)
  rest := by rw [g.rest, h.rest]

theorem byteAt_poke (s : State) (l : Loc) (bs : List Byte) (b : Nat) : (s.poke l bs).byteAt b = (s.writeBytes l bs).byteAt b :=
  congrArg (Sparse.get unlisted · b) (notice_mem ..).1

theorem tagAt_poke (s : State) (l : Loc) (bs : List Byte) (k : Nat) : (s.poke l bs).tagAt k = (s.writeBytes l bs).tagAt k :=
  congrArg (Sparse.get false · k) (notice_mem ..).2

theorem rest_poke (s : State) (l : Loc) (bs : List Byte) :
    s.poke l bs = { s with ctxs := (s.poke l bs).ctxs, mem := (s.poke l bs).mem, tags := (s.poke l bs).tags } := by
  unfold State.poke State.notice
  split
  · rw [writeBytes_eq]
  · rw [writeBytes_eq]

/-- A write of bytes (R140): monitors may see it, and no register of any context changes. -/
theorem onlyAt_poke {s : State} (h : Canonical s) (l : Loc) (bs : List Byte) : OnlyAt l bs.length s (s.poke l bs) where
  bytes b hb := (byteAt_poke ..).trans (byteAt_writeBytes_of_ne h l bs hb)
  tags b hb := by
    rw [tagAt_poke, Bool.eq_iff_iff, tagAt_writeBytes h]
    exact and_iff_left hb
  regs c k := by
    rw [alikeButRings_poke s l bs c]
    rfl
  rest := rest_poke ..

theorem onlyAt_poke_bytesLE {s : State} (h : Canonical s) (l : Loc) (n x : Nat) : OnlyAt l n s (s.poke l (bytesLE n x)) := by
  have hpoke := onlyAt_poke h l (bytesLE n x)
  rwa [length_bytesLE] at hpoke

theorem onlyAt_setTagAt {s : State} (h : Canonical s) {l : Loc} {n : Nat} (hn : 0 < n) (t : Bool) :
    OnlyAt l n s (s.setTagAt (l.tagKey 0) t) where
  bytes _ _ := rfl
  tags b hb := by rw [tagAt_setTagAt h, if_neg (hb 0 hn)]
  regs _ _ := rfl
  rest := rfl

/-- A write of a unit with its tag (R145). -/
theorem onlyAt_pokeReg {s : State} (h : Canonical s) (l : Loc) (r : Reg) (t : Bool) : OnlyAt l 16 s (s.pokeReg l r t) :=
  onlyAt_trans (onlyAt_poke_bytesLE h ..) (onlyAt_setTagAt (canonical_poke h ..) (by decide) t)

theorem onlyAt_setCtx {l : Loc} {n : Nat} {s : State} {c : CtxId} {x : Ctx} (hx : ∀ k, x.reg k = (s.ctx c).reg k) :
    OnlyAt l n s (s.setCtx c x) where
  bytes _ _ := rfl
  tags _ _ := rfl
  regs e k := by
    rw [ctx_setCtx]
    split
    · next h => rw [h, hx]
    · rfl
  rest := rfl

/-- What is kept of a store for R70 is neither memory nor a register. -/
theorem onlyAt_keepStore {l : Loc} {n : Nat} {s t : State} (h : OnlyAt l n s t) : OnlyAt l n s (s.keepStore t l n) := by
  unfold State.keepStore
  split
  · exact onlyAt_trans h (onlyAt_setCtx fun _ => rfl)
  · exact h

/-- Going on in sequence changes neither memory nor a register (R36, R60, R64). -/
theorem onlyAt_goesOn {l : Loc} {n : Nat} {i : Instr} {s t : State} (h : GoesOn i s t) : OnlyAt l n s t := by
  obtain ⟨x, hx, rfl⟩ := h
  refine onlyAt_setCtx fun k => ?_
  rw [advance_spec hx]
  rfl

/-- An instruction that has changed its own context alone, and goes on, leaves the rest alone. -/
theorem sameElsewhere_of_goesOn {i : Instr} {s : State} {f : Ctx → Ctx} {v : State} (h : GoesOn i (s.modCtx s.cur f) v) :
    SameMemory s v ∧ SameElsewhere s v ∧ ∀ r, (here v).reg r = (f (here s)).reg r := by
  obtain ⟨x, hx, rfl⟩ := h
  refine ⟨⟨fun _ => rfl, fun _ => rfl⟩, ⟨fun c hc => ?_, rfl⟩, fun r => ?_⟩
  · exact (ctx_setCtx_ne _ _ hc).trans (ctx_modCtx_ne _ _ hc)
  · change (Ctx.reg (State.ctx (State.setCtx _ s.cur x) s.cur) r) = _
    rw [ctx_setCtx_self, advance_spec hx]
    change (Ctx.reg (State.ctx _ s.cur) r) = _
    rw [ctx_modCtx_self]
    rfl

theorem loadFrame {i : Instr} {n : Nat} {o : BitVec 2} {d a : GReg} {off : BitVec 8} {conv : W128 → Bool → Reg → Reg}
    {s s' v : State} {p : Spot} (hform : loadForm i = some (n, o, .g d, a, off, conv)) (hstarts : Starts i .closes [] [.g d] s s)
    (hremote : (here s).remote = none)
    (hreach : s.reach s.cur ((here s).reg a) (loadAsk n) (((here s).reg a).lo + off.signExtend 64 * BitVec.ofNat 64 n) = .ok p)
    (hown : p.own = true) (hnote : noteLoad p.loc n (BitVec.ofNat 128 (s.readNat p.loc n)) s = .ok ((), s'))
    (hgoes : GoesOn i (s'.modCtx s.cur (fun x => x.setReg d
      (conv (BitVec.ofNat 128 (s.readNat p.loc n)) (p.tags && s.tagAt (p.loc.tagKey 0)) ((here s).reg a)))) v) :
    exec i s = .next v ∧ SameMemory s v ∧ SameElsewhere s v ∧ SameRegs (here s) (here v) [d] := by
  have hexec := loadResult i n o (.g d) a off conv s s' _ v p hform hstarts hremote hreach hown hnote (write_g ..)
  cases hnote
  refine ⟨hexec hgoes, ?_⟩
  rw [modCtx_modCtx] at hgoes
  obtain ⟨hmem, helse, hregs⟩ := sameElsewhere_of_goesOn hgoes
  refine ⟨hmem, helse, fun r hr => ?_⟩
  rw [hregs, reg_setReg, if_neg (List.mem_singleton.not.mp hr)]
  rfl

/-- A store with a tag is one of 16 bytes (R145). -/
theorem size_of_tagged {i : Instr} {n : Nat} {o : BitVec 2} {r : RegCode} {a : GReg} {off : BitVec 8}
    (h : storeForm i = some (n, o, r, a, off, true)) : n = 16 := by
  unfold storeForm at h
  split at h
  · cases h
  · cases h; rfl
  · cases h
  · cases h

theorem storeFrame {i : Instr} {n : Nat} {o : BitVec 2} {r a : GReg} {off : BitVec 8} {tagged : Bool} {s u : State} {p : Spot}
    (hform : storeForm i = some (n, o, .g r, a, off, tagged)) (hstarts : Starts i .closes [.g r] [.g r] s s) (hcanon : Canonical s)
    (hreach : s.reach s.cur ((here s).reg a) (storeAsk n) (((here s).reg a).lo + off.signExtend 64 * BitVec.ofNat 64 n) = .ok p)
    (hown : p.own = true) (hpass : tagged = true → stcTrap ((here s).reg a) ((here s).reg r) p s.cur.sl = none) (hfree : Ordered s o)
    (hgoes : GoesOn i (s.keepStore (if tagged = true ∧ ((here s).reg r).tag ≠ 0 then s.pokeReg p.loc ((here s).reg r) true
      else s.poke p.loc (bytesLE n (if tagged = true then ((here s).reg r).bits.toNat else ((here s).reg r).lo.toNat))) p.loc n) u) :
    exec i s = .next u ∧ OnlyAt p.loc n s u := by
  refine ⟨storeResult i n o (.g r) a off tagged s s s u p _ hform hstarts hreach hreach hown rfl hpass hfree rfl hgoes,
    onlyAt_trans (onlyAt_keepStore ?_) (onlyAt_goesOn hgoes)⟩
  split
  · next htag =>
    obtain ⟨rfl, _⟩ := htag
    exact size_of_tagged hform ▸ onlyAt_pokeReg hcanon ..
  · exact onlyAt_poke_bytesLE hcanon ..

/-- Settles O60: O11 and O12 give the step, and the state that each names differs from the one before only where the frame lets it. -/
theorem accessFrame : Obligations.AccessFrame := by
  refine ⟨fun i n o d a off conv s s' v p hform hstarts hremote hreach hown hnote hgoes =>
    loadFrame hform hstarts hremote hreach hown hnote hgoes,
    fun i n o r a off tagged s u p hform hstarts hcanon hreach hown hpass hfree hgoes => ?_⟩
  obtain ⟨hexec, hbytes, htags, hregs, hrest⟩ := storeFrame hform hstarts hcanon hreach hown hpass hfree hgoes
  exact ⟨hexec, hbytes, htags, hregs, hrest⟩

end Sys2Proof.Proofs.AccessFrame
end

section
/-! PROOFS of the family 05_local_store: HWAIT, HTEST and HCANCEL in every state of a handle (R137, R161, R169, R170). -/
namespace Sys2Proof.Proofs.Handles
open Sys2Proof Sys2Proof.Machine Sys2Proof.Laws
open Sys2Proof.Safety
open Sys2Proof.Proofs.Order (bind_ok)

/-! What a handle register names (R161, R162). -/

/-- The fields of a handle (R159) are read back from it. -/
theorem handle_fields {n core slot ctx h serial : Nat} (hn : n = core * 2 ^ 26 + slot * 2 ^ 24 + ctx * 2 ^ 20 + h * 2 ^ 16 + serial)
    (hcore : core < 2 ^ 13) (hslot : slot < 4) (hctx : ctx < 16) (hh : h < 16) (hserial : serial < 2 ^ 16) :
    n / 2 ^ 26 % 2 ^ 13 = core ∧ n / 2 ^ 24 % 4 = slot ∧ n / 2 ^ 20 % 16 = ctx ∧ n / 2 ^ 16 % 16 = h ∧ n % 2 ^ 16 = serial := by
  omega

theorem lookHandle_of_names {s : State} {r : Reg} {o : CtxId} {h : Fin 16} (hnames : Names s r o h) :
    lookHandle r s = .ok (some (o, h), s) := by
  obtain ⟨htag, hcore, hslot, hdom, hstate, hword⟩ := hnames
  obtain ⟨kcore, kslot, kctx, kh, kserial⟩ := handle_fields hword (by omega) (by omega) (by omega) h.isLt (BitVec.isLt _)
  have hctx : r.lo.toNat / 2 ^ 20 % 16 < 11 := kctx ▸ o.ctx.isLt
  have ho : (⟨s.cur.core, s.cur.slot, ⟨r.lo.toNat / 2 ^ 20 % 16, hctx⟩⟩ : CtxId) = o := by
    obtain ⟨core, slot, ctx⟩ := o
    subst hcore hslot
    simp only [CtxId.mk.injEq, true_and]
    exact Fin.ext kctx
  have hh : (⟨r.lo.toNat / 2 ^ 16 % 16, by omega⟩ : Fin 16) = h := Fin.ext kh
  have hserial : ((s.ctx o).hslot h).serial = r.lo.setWidth 16 := BitVec.eq_of_toNat_eq (by rw [BitVec.toNat_setWidth, kserial])
  unfold lookHandle
  simp only [here] at hdom
  simp only [htag, ne_eq, not_true_eq_false, if_false, dif_pos hctx, ho, hh, kcore, kslot, hdom, hserial, hstate, or_self]

/-! The bodies of HWAIT and HTEST. -/

/-- What follows HWAIT and HTEST of an operation that has resolved (R137, R170). -/
def afterResult (q : HSlot) (x : Ctx) : Machine.Flow :=
  match q.denied with
  | some dva => .trapAfter ⟨.wsWriteDenied, dva, 0, false⟩
  | none => if x.htrapEn && q.result.getLsbD 15 then .trapAfter ⟨.handleError, q.result, 0, false⟩ else .next

section
variable {q : HSlot} {x : Ctx}

theorem afterResult_quiet (hdenied : q.denied = none) (hquiet : x.htrapEn = false ∨ q.result.getLsbD 15 = false) :
    afterResult q x = .next := by
  simp only [afterResult, hdenied]
  rw [if_neg]
  rw [Bool.and_eq_true, not_and_or, Bool.not_eq_true, Bool.not_eq_true]
  exact hquiet

theorem afterResult_error (hdenied : q.denied = none) (htrap : x.htrapEn = true) (herror : q.result.getLsbD 15 = true) :
    afterResult q x = .trapAfter ⟨.handleError, q.result, 0, false⟩ := by
  simp only [afterResult, hdenied, htrap, herror, Bool.and_self, if_true]

theorem afterResult_denied {dva : W64} (hdenied : q.denied = some dva) :
    afterResult q x = .trapAfter ⟨.wsWriteDenied, dva, 0, false⟩ := by
  simp only [afterResult, hdenied]

end

section
variable {s u : State} {o : CtxId} {h : Fin 16} {w : W64} {d : RegCode}

theorem takeResult_ok
    (hwrite : write w d (Reg.data ((s.ctx o).hslot h).result)
      (s.modCtx o (fun x => x.setHslot h { (s.ctx o).hslot h with state := .consumed })) = .ok ((), u)) :
    takeResult w d o h s = .ok (afterResult ((s.ctx o).hslot h) (here u), u) := by
  refine (bind_ok (m := get) rfl).trans ((bind_ok (m := set _) rfl).trans ((bind_ok hwrite).trans
    ((bind_ok (m := me) (a := here u) rfl).trans ?_)))
  unfold afterResult
  cases ((s.ctx o).hslot h).denied with
  | some dva => rfl
  | none =>
    cases (here u).htrapEn && ((s.ctx o).hslot h).result.getLsbD 15 with
    | true => rfl
    | false => rfl

theorem takeStale_ok (hwrite : write w d (Reg.data 0x8003) s = .ok ((), u)) (hquiet : (here u).htrapEn = false) :
    takeStale w d s = .ok (.next, u) := by
  refine (bind_ok hwrite).trans ((bind_ok (m := me) (a := here u) rfl).trans ?_)
  simp only [hquiet, Bool.false_eq_true, if_false]
  rfl

end

/-- What the body of HWAIT or HTEST does with the handle that it finds. -/
structure Waits (i : Instr) (d : RegCode) (a : GReg) (body : M Machine.Flow) : Prop where
  stale : ∀ s, lookHandle ((here s).reg a) s = .ok (none, s) → body s = takeStale (Instr.word i) d s
  resolved : ∀ s o h, lookHandle ((here s).reg a) s = .ok (some (o, h), s) → ((s.ctx o).hslot h).state ≠ .pending →
    body s = takeResult (Instr.word i) d o h s
  pending : isTest i = false → ∀ s o h, lookHandle ((here s).reg a) s = .ok (some (o, h), s) →
    ((s.ctx o).hslot h).state = .pending → body s = .error (.wait (.handle o.ctx h))

theorem waits_hwaitBody (i : Instr) (d : RegCode) (a : GReg) : Waits i d a (hwaitBody (Instr.word i) d a) where
  stale s hlook := (bind_ok (m := greg a) (a := (here s).reg a) rfl).trans (bind_ok hlook)
  resolved s o h hlook hstate := by
    refine (bind_ok (m := greg a) (a := (here s).reg a) rfl).trans ((bind_ok hlook).trans ((bind_ok (m := get) (a := s) rfl).trans ?_))
    rw [if_neg hstate]
  pending _ s o h hlook hstate := by
    refine (bind_ok (m := greg a) (a := (here s).reg a) rfl).trans ((bind_ok hlook).trans ((bind_ok (m := get) (a := s) rfl).trans ?_))
    rw [if_pos hstate]
    rfl

/-- HWAIT, HWAIT.C and HTEST run with a body that waits for the handle, or looks at it. -/
theorem exec_of_waitForm {i : Instr} {d : RegCode} {a : GReg} (hform : waitForm i = some (d, a)) :
    ∃ body, (∀ s, exec i s = run i [] (waitNames i d) body s) ∧ Waits i d a body := by
  unfold waitForm at hform
  split at hform
  case h_1 d a =>
    cases hform
    exact ⟨_, fun _ => rfl, waits_hwaitBody ..⟩
  case h_2 d =>
    cases hform
    exact ⟨_, fun _ => rfl, waits_hwaitBody ..⟩
  case h_3 d a =>
    cases hform
    refine ⟨_, fun _ => rfl, fun s hlook => ?_, fun s o h hlook hstate => ?_, nofun⟩
    · exact (bind_ok (m := greg a) (a := (here s).reg a) rfl).trans (bind_ok hlook)
    · refine (bind_ok (m := greg a) (a := (here s).reg a) rfl).trans ((bind_ok hlook).trans
        ((bind_ok (m := get) (a := s) rfl).trans ?_))
      rw [if_neg hstate]
  case h_4 => cases hform

/-! An instruction that has completed, and then traps (R170). -/

theorem finish_next {i : Instr} {s u v : State} (hgoes : GoesOn i u v) : finish i.size s u .next = v := by
  obtain ⟨x, hx, rfl⟩ := hgoes
  simp only [finish, hx]

/-- Outside every callee the trap of a completed instruction is taken at the boundary behind it (R403). -/
theorem finish_trapAfter {n : Nat} {s u : State} {x : Ctx} {e : TrapInfo} (hx : (here u).settled.advance n = .ok x)
    (hdepth : (here u).depth = 0) : finish n s u (.trapAfter e) = (u.setCtx u.cur x).takeTrap u.cur e := by
  have hshallow : x.depth = 0 := by
    rw [advance_spec hx]
    exact hdepth
  unfold here at hx
  simp only [finish, hx, State.trapNext, ctx_setCtx_self, hshallow, if_true]

theorem handleResult : HandleResult := by
  intro i d a o h s s1 u hform hstarts hnames q hstate hwrite
  obtain rfl := starts_self hstarts
  obtain ⟨body, hexec, hwaits⟩ := exec_of_waitForm hform
  have hcourse : exec i s1 = .next (finish i.size s1 u (afterResult q (here u))) :=
    (hexec s1).trans (operate_finish (pre := pure ()) rfl hstarts
      ((hwaits.resolved s1 o h (lookHandle_of_names hnames) hstate).trans (takeResult_ok hwrite)))
  rw [hcourse]
  refine ⟨fun v hdenied hquiet hgoes => ?_, fun x hx hdepth => ⟨fun hdenied htrap herror => ?_, fun dva hdenied => ?_⟩⟩
  · rw [afterResult_quiet hdenied hquiet, finish_next hgoes]
  · rw [afterResult_error hdenied htrap herror, finish_trapAfter hx hdepth]
  · rw [afterResult_denied hdenied, finish_trapAfter hx hdepth]

/-! Stale and pending handles, and HCANCEL. -/

section
variable {d : RegCode} {a : GReg} {s u v : State}

theorem execHtest_pending {o : CtxId} {h : Fin 16} (hstarts : Starts (.htest d a) .closes [] [d] s s)
    (hlook : lookHandle ((here s).reg a) s = .ok (some (o, h), s)) (hstate : ((s.ctx o).hslot h).state = .pending)
    (hwrite : write (Instr.word (.htest d a)) d (Reg.data (BitVec.allOnes 64)) s = .ok ((), u)) (hgoes : GoesOn (.htest d a) u v) :
    execHtest d a s = .next v := by
  refine run_next hstarts ?_ hgoes
  refine (bind_ok (m := greg a) (a := (here s).reg a) rfl).trans ((bind_ok hlook).trans ((bind_ok (m := get) (a := s) rfl).trans ?_))
  rw [if_pos hstate]
  exact bind_ok hwrite

variable (hstarts : Starts (.hcancel d a) .closes [] [d] s s) (hgoes : GoesOn (.hcancel d a) u v)
include hstarts hgoes

theorem execHcancel_stale (hlook : lookHandle ((here s).reg a) s = .ok (none, s))
    (hwrite : write (Instr.word (.hcancel d a)) d (Reg.data 0) s = .ok ((), u)) : execHcancel d a s = .next v := by
  refine run_next hstarts ?_ hgoes
  exact (bind_ok (m := greg a) (a := (here s).reg a) rfl).trans ((bind_ok hlook).trans (bind_ok hwrite))

theorem execHcancel_named {o : CtxId} {h : Fin 16} (hlook : lookHandle ((here s).reg a) s = .ok (some (o, h), s))
    (hwrite : write (Instr.word (.hcancel d a)) d
      (Reg.data (if ((s.ctx o).hslot h).state = .pending then 1 else 0))
      (if ((s.ctx o).hslot h).state = .pending then s.modCtx o (fun x => x.setHslot h { (s.ctx o).hslot h with cancel := true })
        else s) = .ok ((), u)) : execHcancel d a s = .next v := by
  refine run_next hstarts ?_ hgoes
  refine (bind_ok (m := greg a) (a := (here s).reg a) rfl).trans ((bind_ok hlook).trans ((bind_ok (m := get) (a := s) rfl).trans ?_))
  split
  · next hpending =>
    rw [if_pos hpending, if_pos hpending] at hwrite
    exact (bind_ok (m := set _) rfl).trans (bind_ok hwrite)
  · next hpending =>
    rw [if_neg hpending, if_neg hpending] at hwrite
    exact bind_ok hwrite

end

theorem handleStates : HandleStates := by
  refine ⟨?_, ?_, ?_, ?_⟩
  · intro i d a n s s1 u v hform hstarts hlook hwrite hgoes
    obtain rfl := starts_self hstarts
    obtain ⟨hform, rfl, hquiet⟩ | ⟨rfl, rfl⟩ := hform
    · obtain ⟨body, hexec, hwaits⟩ := exec_of_waitForm hform
      exact (hexec s1).trans (run_next hstarts ((hwaits.stale s1 hlook).trans (takeStale_ok hwrite hquiet)) hgoes)
    · exact execHcancel_stale hstarts hgoes hlook hwrite
  · intro d a o h s s1 u v hstarts hnames hstate hwrite hgoes
    obtain rfl := starts_self hstarts
    exact execHtest_pending hstarts (lookHandle_of_names hnames) hstate hwrite hgoes
  · intro i d a o h s s1 hform htest hstarts hnames hstate
    obtain rfl := starts_self hstarts
    obtain ⟨body, hexec, hwaits⟩ := exec_of_waitForm hform
    exact (hexec s1).trans
      (operate_wait (pre := pure ()) rfl hstarts (hwaits.pending htest s1 o h (lookHandle_of_names hnames) hstate))
  · intro d a o h s s1 u v hstarts hnames q p hwrite hgoes
    obtain rfl := starts_self hstarts
    simp only [p, decide_eq_true_eq] at hwrite
    exact execHcancel_named hstarts hgoes (lookHandle_of_names hnames) hwrite

/-- Settles O20: what a handle register names is read back from its fields, and each instruction does with the handle what its state
asks. -/
theorem handleForms : Obligations.HandleForms := ⟨handleResult, handleStates⟩

end Sys2Proof.Proofs.Handles
end

section
/-! PROOFS of the family 05_local_store: WSWIN and WSSTAT (R149, R150), SYSCALL (R408 to R411) and LAUNCH (R363). -/
namespace Sys2Proof.Proofs.Services
open Sys2Proof Sys2Proof.Machine Sys2Proof.Laws
open Sys2Proof.Safety
open Sys2Proof.Proofs.Network (modCtx_modCtx)
open Sys2Proof.Proofs.Order (bind_ok or_eq_add toNat_setWidth_shiftLeft)
open Sys2Proof.Proofs.Sends (read_of_readData)

theorem cur_of_starts_read {i : Instr} {e : AtEnd} {reads names : List RegCode} {r : RegCode} {s s1 t : State} {v : Reg}
    (hstarts : Starts i e reads names s s1) (hread : Machine.read r s1 = .ok (v, t)) : t.cur = s.cur := by
  obtain ⟨_, _, hcur1, _⟩ := receive_spec hstarts.ports
  obtain ⟨_, _, hcur2, _⟩ := read_spec hread
  exact hcur2.trans hcur1

/-! The weight store. -/

/-- WSWIN counts from the start of the group's window, whose times repeat every 64 us (R138, R149). -/
theorem windowCycles_eq (s : State) {g : Nat} (hg : g < 8) {n : W64}
    (hn : n.toInt = ((if ((s.timeNs : Int) % 64000 - 8000 * g) % 64000 < 1600
      then -(1600 - ((s.timeNs : Int) % 64000 - 8000 * g) % 64000)
      else 64000 - ((s.timeNs : Int) % 64000 - 8000 * g) % 64000) * s.clock.mhz).tdiv 1000) : s.windowCycles g = n := by
  have hwrap : (if ((s.timeNs % 64000 : Nat) : Int) - (8000 * g : Nat) < 0 then ((s.timeNs % 64000 : Nat) : Int) - (8000 * g : Nat) + 64000
      else ((s.timeNs % 64000 : Nat) : Int) - (8000 * g : Nat)) = ((s.timeNs : Int) % 64000 - 8000 * g) % 64000 := by
    split <;> omega
  simp only [State.windowCycles, hwrap]
  rw [← hn, BitVec.ofInt_toInt]

section
variable {d a : RegCode} {s s1 t u v : State} {r : Reg} (hstarts : Starts (.wswin d a) .closes [a] [d, a] s s1)
  (hread : Machine.read a s1 = .ok (r, t)) (hgoes : GoesOn (.wswin d a) u v)
include hstarts hread hgoes

theorem execWswin_number (htag : r.tag = 0)
    (hwrite : write (Instr.word (.wswin d a)) d (Reg.data (t.windowCycles (r.lo.toNat % 8))) t = .ok ((), u)) :
    execWswin d a s = .next v := by
  refine run_next hstarts ?_ hgoes
  refine (bind_ok hread).trans ?_
  rw [if_neg (by rw [htag]; decide), if_pos htag]
  exact (bind_ok (m := get) rfl).trans (bind_ok hwrite)

theorem execWswin_byte {p : Spot} {x : Xl} {die : Fin 4} {off : Nat} (htag : r.tag = 1)
    (hreach : t.reach t.cur r (loadAsk 1) r.lo = .ok p) (hxl : p.xl = some x) (hmt : x.mt = 1) (hloc : p.loc = .weight die off)
    (hwrite : write (Instr.word (.wswin d a)) d (Reg.data (t.windowCycles (wsGroup off).val)) t = .ok ((), u)) :
    execWswin d a s = .next v := by
  have hbyte : weightByte r t = .ok (p, t) := by simp only [weightByte, hreach, need]
  refine run_next hstarts ?_ hgoes
  refine (bind_ok hread).trans ?_
  rw [if_pos htag]
  refine (bind_ok hbyte).trans ?_
  simp only [hxl, hloc, hmt, if_true]
  exact (bind_ok (m := get) rfl).trans (bind_ok hwrite)

end

/-- WSSTAT's word is the sum of its fields (R150). -/
theorem stat_word (n : BitVec 32) (copying isOpen : Bool) :
    n.setWidth 64 <<< 32 ||| ofBool copying <<< 1 ||| ofBool isOpen =
      BitVec.ofNat 64 (n.toNat * 2 ^ 32 + (if copying = true then 2 else 0) + (if isOpen = true then 1 else 0)) := by
  have hn := n.isLt
  refine BitVec.eq_of_toNat_eq ?_
  have hlow : (ofBool copying <<< 1 ||| ofBool isOpen).toNat = (if copying = true then 2 else 0) + (if isOpen = true then 1 else 0) := by
    cases copying <;> cases isOpen <;> rfl
  have hsmall : (if copying = true then 2 else 0) + (if isOpen = true then 1 else 0) < 2 ^ 32 := by split <;> split <;> decide
  rw [BitVec.or_assoc, BitVec.toNat_or, hlow, toNat_setWidth_shiftLeft n (by omega), or_eq_add hsmall, BitVec.toNat_ofNat,
    Nat.mod_eq_of_lt (by omega), Nat.add_assoc]

theorem execWsstat_next {d a : RegCode} {s s1 t u v : State} {w : W64} {die : Fin 4}
    (hstarts : Starts (.wsstat d a) .closes [a] [d, a] s s1)
    (hread : readData a s1 = .ok (w, t)) (hdie : die.val = w.toNat % 4)
    (hwrite : write (Instr.word (.wsstat d a)) d (Reg.data (((Sparse.get 0 (here t).stalls die.val).setWidth 64 <<< 32) |||
      (ofBool (t.copyingWeights (t.partOf t.cur.sl) die) <<< 1) ||| ofBool (t.wsOpen (t.partOf t.cur.sl) die))) t = .ok ((), u))
    (hgoes : GoesOn (.wsstat d a) u v) : execWsstat d a s = .next v := by
  obtain rfl : die = ⟨w.toNat % 4, Nat.mod_lt _ (by decide)⟩ := Fin.ext hdie
  refine run_next hstarts ?_ hgoes
  exact (bind_ok hread).trans ((bind_ok (m := who) rfl).trans ((bind_ok (m := me) rfl).trans ((bind_ok (m := get) rfl).trans
    (bind_ok hwrite))))

theorem weightStoreForms : WeightStoreForms := by
  constructor
  · intro d a s s1 t u v r g n hstarts hread hwhere x ns hn _ hwrite hgoes
    obtain ⟨htag, rfl⟩ | ⟨htag, p, y, die, off, hreach, hxl, hmt, hloc, rfl⟩ := hwhere
    · rw [← windowCycles_eq t (by omega) hn] at hwrite
      exact execWswin_number hstarts hread hgoes htag hwrite
    · rw [← windowCycles_eq t (Fin.isLt _) hn] at hwrite
      rw [← cur_of_starts_read hstarts hread] at hreach
      exact execWswin_byte hstarts hread hgoes htag hreach hxl hmt hloc hwrite
  · intro d a s s1 t u v w hstarts hread die part hwrite hgoes
    obtain ⟨_, hval⟩ := read_of_readData hread
    simp only [part, ← cur_of_starts_read hstarts hval, ← stat_word] at hwrite
    exact execWsstat_next hstarts hread rfl hwrite hgoes

/-! SYSCALL. -/

/-- With nothing staged the status and the value of a service go to g4 and g5 (R408). -/
theorem sysReturn_ok {r : SysReq} (hstaged : r.staged = []) (st : W64) (g : Option Reg) (s : State) :
    sysReturn r st g s = .ok (.next, s.modCtx s.cur (fun y => (match g with
      | some w => y.setReg 5 w
      | none => y).setReg 4 (Reg.data st))) := by
  refine (bind_ok (m := who) rfl).trans ((bind_ok (m := get) rfl).trans ?_)
  rw [hstaged]
  refine (bind_ok (a := st) rfl).trans ?_
  cases g with
  | none => rfl
  | some w =>
    have hboth := modCtx_modCtx s s.cur (fun y => y.setReg 5 w) (fun y => y.setReg 4 (Reg.data st))
    exact (bind_ok (m := setG 5 w) rfl).trans ((bind_ok (m := setG 4 _) rfl).trans
      (congrArg (fun t => Except.ok (Machine.Flow.next, t)) hboth))

/-- A register as an argument: a handle loses its tag (R408). -/
def sentArg (r : Reg) : Reg := if r.tag = 2 then ⟨r.bits, 0⟩ else r

/-- Arguments of which none must be staged are sent as they stand. -/
theorem stageArgs_ok {c : CtxId} {part : Fin 64} {s : State} (is : List GReg) (off : Nat)
    (h : ∀ i ∈ is, s.mustStage c.sl ((here s).reg i) = false) :
    stageArgs c part is off s = .ok (some (is.map (fun i => sentArg ((here s).reg i)), []), s) := by
  induction is with
  | nil => rfl
  | cons i is ih =>
    refine (bind_ok (m := greg i) (a := (here s).reg i) rfl).trans ((bind_ok (m := get) (a := s) rfl).trans ?_)
    rw [if_neg (by rw [h i (List.mem_cons_self ..)]; decide)]
    exact bind_ok (ih fun j hj => h j (List.mem_cons_of_mem _ hj))

/-- The services that exist have numbers of 16 bits (R97, R375). -/
theorem known_eq_isService (n : Nat) : (decide (n < 2 ^ 16) && isService n) = isService n := by
  simp only [isService, Bool.and_eq_right_iff_imp, Bool.or_eq_true, beq_iff_eq, decide_eq_true_eq]
  omega

/-- The request that a SYSCALL with nothing to stage posts (R408). -/
def request (x : Ctx) : SysReq where
  service := (x.reg 4).lo.setWidth 16
  args := ([5, 6, 7, 8, 9, 10] : List GReg).map (fun i => sentArg (x.reg i))
  staged := []
  answer := none

section
variable {s : State} (hstarts : Starts .syscall .closes [] [] s s)
include hstarts

theorem execSyscall_answered {r : SysReq} {st : W64} {g : Option Reg} {v : State} (hreq : (here s).sysreq = some r)
    (hanswer : r.answer = some (st, g)) (hstaged : r.staged = [])
    (hgoes : GoesOn .syscall (s.modCtx s.cur (fun y => (match g with
      | some w => y.setReg 5 w
      | none => y).setReg 4 (Reg.data st))) v) : execSyscall s = .next v := by
  refine run_next hstarts ?_ hgoes
  refine (bind_ok (m := who) rfl).trans ((bind_ok (m := me) (a := here s) rfl).trans ?_)
  simp only [hreq, hanswer]
  exact sysReturn_ok hstaged ..

variable (hreq : (here s).sysreq = none) (hfree : s.releaseBlocked s.cur .sys = false)
  (hplain : ∀ i ∈ ([5, 6, 7, 8, 9, 10] : List GReg), s.mustStage s.cur.sl ((here s).reg i) = false)
include hreq hfree hplain

theorem execSyscall_posts (hknown : isService ((here s).reg 4).lo.toNat = true) :
    execSyscall s = .next (s.modCtx s.cur (fun y =>
      { ({ y with sysreq := some (request (here s)) } : Ctx).keepIo (here s) with status := .waiting .syscall })) := by
  refine (operate_finish (pre := pure ()) (f := .hold .syscall)
    (u := s.modCtx s.cur (fun y => { y with sysreq := some (request (here s)) })) rfl hstarts ?_).trans ?_
  · refine (bind_ok (m := who) rfl).trans ((bind_ok (m := me) (a := here s) rfl).trans ?_)
    simp only [hreq]
    refine (bind_ok (m := releaseAt .sys) (a := ()) (t := s) ?_).trans ((bind_ok (m := get) rfl).trans
      ((bind_ok (stageArgs_ok _ 0 hplain)).trans ?_))
    · simp only [releaseAt, hfree, Bool.false_eq_true, if_false]
    · rw [known_eq_isService, hknown]
      rfl
  · exact congrArg Host.Outcome.next ((congrArg (State.waitOn · s.cur .syscall) (modCtx_modCtx s s.cur _ _)).trans
      (modCtx_modCtx s s.cur _ _))

theorem execSyscall_unknown {v : State} (hunknown : isService ((here s).reg 4).lo.toNat = false)
    (hgoes : GoesOn .syscall (s.modCtx s.cur (fun y => y.setReg 4 (Reg.data 0x21))) v) : execSyscall s = .next v := by
  refine run_next hstarts ?_ hgoes
  refine (bind_ok (m := who) rfl).trans ((bind_ok (m := me) (a := here s) rfl).trans ?_)
  simp only [hreq]
  refine (bind_ok (m := releaseAt .sys) (a := ()) (t := s) ?_).trans ((bind_ok (m := get) rfl).trans
    ((bind_ok (stageArgs_ok _ 0 hplain)).trans ?_))
  · simp only [releaseAt, hfree, Bool.false_eq_true, if_false]
  · rw [known_eq_isService, hunknown]
    exact sysReturn_ok (r := { request (here s) with answer := some (stNoSys, none) }) rfl 0x21 none s

end

theorem syscallResult : SyscallResult := by
  intro s hstarts x
  refine ⟨fun r st v g u hreq hanswer hstaged hu hgoes => ?_, fun hreq hfree hstage => ?_⟩
  · subst hu
    exact execSyscall_answered hstarts hreq hanswer hstaged hgoes
  · have hargs : ∀ i ∈ ([5, 6, 7, 8, 9, 10] : List GReg), 5 ≤ i.val ∧ i.val ≤ 10 := by decide
    have hplain : ∀ i ∈ ([5, 6, 7, 8, 9, 10] : List GReg), s.mustStage s.cur.sl ((here s).reg i) = false :=
      fun i hi => hstage i (hargs i hi).1 (hargs i hi).2
    refine ⟨fun hknown => ⟨_, request (here s), execSyscall_posts hstarts hreq hfree hplain hknown, ?_⟩,
      fun v hunknown hgoes => execSyscall_unknown hstarts hreq hfree hplain hunknown hgoes⟩
    have hhere : ∀ f : Ctx → Ctx, here (s.modCtx s.cur f) = f (here s) := fun f => ctx_modCtx_self s s.cur f
    rw [hhere]
    exact ⟨rfl, rfl, rfl, rfl, rfl, rfl, rfl, fun _ => rfl, fun _ => rfl⟩

/-! LAUNCH. -/

/-- What the memory-side cache holds has no part in the order of stores and posts (R91, R323). -/
def SameTraffic (s t : State) : Prop := t.stores = s.stores ∧ t.evmsgs = s.evmsgs ∧ t.cur = s.cur

theorem sameTraffic_cacheLine (s : State) (n : Nat) (wr : Bool) : SameTraffic s (s.cacheLine n wr) := by
  unfold State.cacheLine
  split
  · exact ⟨rfl, rfl, rfl⟩
  · split
    · exact ⟨rfl, rfl, rfl⟩
    · exact ⟨rfl, rfl, rfl⟩

theorem sameTraffic_cacheHost (s : State) (l : Loc) (n : Nat) (wr : Bool) : SameTraffic s (s.cacheHost l n wr) := by
  unfold State.cacheHost
  split
  · generalize List.range _ = is
    induction is generalizing s with
    | nil => exact ⟨rfl, rfl, rfl⟩
    | cons i is ih =>
      obtain ⟨hstores, hposts, hcur⟩ := ih (s.cacheLine _ wr)
      obtain ⟨hstores', hposts', hcur'⟩ := sameTraffic_cacheLine s _ wr
      exact ⟨hstores.trans hstores', hposts.trans hposts', hcur.trans hcur'⟩
  · exact ⟨rfl, rfl, rfl⟩

theorem releaseBlocked_of_sameTraffic {s t : State} (h : SameTraffic s t) (sc : Scope) :
    t.releaseBlocked t.cur sc = s.releaseBlocked s.cur sc := by
  obtain ⟨hstores, hposts, hcur⟩ := h
  simp only [State.releaseBlocked, State.pendingIn, State.pendingLoop, hstores, hposts, hcur]

theorem record_ok {s : State} {cap : Reg} {ask : Ask} {addr : W64} {p : Spot} (h : s.reachRecord s.cur cap ask addr = .ok p) :
    record cap ask addr s = .ok (p, s.cacheHost p.loc ask.size (ask.kind == .write)) := by
  simp only [record, h, need]

section
variable {d : RegCode} {a : GReg} {s u v : State} {p : Spot} (hstarts : Starts (.launch d a) .closes [] [d] s s)
  (hreach : s.reachRecord s.cur ((here s).reg a) ⟨[permL], .read, false, 128, 128, false⟩ ((here s).reg a).lo = .ok p)
  (hfree : s.releaseBlocked s.cur .dev = false) (hgoes : GoesOn (.launch d a) u v)
include hstarts hreach hfree hgoes

/-- LAUNCH, once its record is read and its release goes ahead, does what the room in the queue asks. -/
theorem execLaunch_next (hrest : (if (s.part (s.partOf s.cur.sl)).devQueue.length ≥ devQueueSize then
      write (Instr.word (.launch d a)) d (Reg.data 1) (s.cacheHost p.loc 128 false)
    else write (Instr.word (.launch d a)) d (Reg.data 0) ((s.cacheHost p.loc 128 false).modPart (s.partOf s.cur.sl)
      (fun q => { q with devQueue := q.devQueue ++ [s.readBytes p.loc 128] }))) = .ok ((), u)) : execLaunch d a s = .next v := by
  have hrelease : releaseAt .dev (s.cacheHost p.loc 128 false) = .ok ((), s.cacheHost p.loc 128 false) := by
    simp only [releaseAt, releaseBlocked_of_sameTraffic (sameTraffic_cacheHost s p.loc 128 false), hfree, Bool.false_eq_true, if_false]
  refine run_next hstarts ?_ hgoes
  refine (bind_ok (m := who) rfl).trans ((bind_ok (m := greg a) (a := (here s).reg a) rfl).trans ((bind_ok (m := get) rfl).trans
    ((bind_ok (record_ok hreach)).trans ((bind_ok hrelease).trans ?_))))
  split
  · next hfull =>
    rw [if_pos hfull] at hrest
    exact bind_ok hrest
  · next hroom =>
    rw [if_neg hroom] at hrest
    exact (bind_ok (m := modify _) rfl).trans (bind_ok hrest)

end

theorem launchResult : LaunchResult := by
  intro d a s u v p hstarts hreach hfree part full m
  refine ⟨fun hfull hwrite hgoes => ?_, fun hroom hwrite hgoes => ?_⟩
  · exact execLaunch_next hstarts hreach hfree hgoes ((if_pos hfull).trans hwrite)
  · exact execLaunch_next hstarts hreach hfree hgoes ((if_neg hroom).trans hwrite)

/-- Settles O35: WSWIN's cycles by the remainder that its window repeats in, WSSTAT's word as the sum of its fields, and SYSCALL and
LAUNCH case by case. -/
theorem serviceForms : Obligations.ServiceForms := ⟨weightStoreForms, syscallResult, launchResult⟩

end Sys2Proof.Proofs.Services
end

section
/-! PROOFS of the family 06_copy_engine: which handle slot an allocation takes (R160). -/
namespace Sys2Proof.Proofs.Allocation
open Sys2Proof Sys2Proof.Machine

/-! Searches among the handle slots. -/

/-- The first slot of a kind is the lowest of that kind. -/
theorem find?_allHandles_eq_some {p : Fin 16 → Bool} {h : Fin 16} (hp : p h = true) (hlower : ∀ k < h, p k = false) :
    allHandles.find? p = some h := by
  have hall : allHandles = List.finRange 16 := rfl
  rw [hall, List.find?_eq_some_iff_getElem]
  refine ⟨hp, h.val, by simp, by simp, fun j hj => ?_⟩
  rw [List.getElem_finRange, hlower _ hj]
  rfl

theorem find?_allHandles_eq_none {p : Fin 16 → Bool} (hp : ∀ k, p k = false) : allHandles.find? p = none :=
  List.find?_eq_none.mpr fun k _ => by simp [hp k]

theorem mem_allHandles (h : Fin 16) : h ∈ allHandles := List.mem_finRange h

/-- A search that keeps the smaller of two ends at the one that is smaller than all others. -/
theorem foldl_smaller_eq {α : Type} (f : α → Nat) {m : α} (l : List α) {a : α} (hl : ∀ k ∈ l, k ≠ m → f m < f k)
    (ha : a = m ∨ f m < f a ∧ m ∈ l) : l.foldl (fun a b => if f b < f a then b else a) a = m := by
  induction l generalizing a with
  | nil => exact ha.resolve_right fun ⟨_, hm⟩ => List.not_mem_nil hm
  | cons b r ih =>
    rw [List.foldl_cons]
    refine ih (fun k hk => hl k (List.mem_cons_of_mem _ hk)) ?_
    by_cases hb : b = m
    · subst hb
      rcases ha with rfl | ⟨hless, _⟩
      · exact .inl (ite_self _)
      · exact .inl (if_pos hless)
    · have hmore : f m < f b := hl b List.mem_cons_self hb
      rcases ha with rfl | ⟨hless, hm⟩
      · exact .inl (if_neg (Nat.lt_asymm hmore))
      · have hr : m ∈ r := (List.mem_cons.mp hm).resolve_left (Ne.symm hb)
        split
        · exact .inr ⟨hmore, hr⟩
        · exact .inr ⟨hless, hr⟩

/-! What an allocation takes (R160). -/

section
variable {x : Ctx} {h : Fin 16}

theorem pickSlot_of_free (hfree : (x.hslot h).state = .free) (hlower : ∀ k < h, (x.hslot k).state ≠ .free) :
    x.pickSlot = .ok h := by
  have hfind : allHandles.find? (fun k => (x.hslot k).state == .free) = some h :=
    find?_allHandles_eq_some (by simp [hfree]) fun k hk => by simp [hlower k hk]
  simp only [Ctx.pickSlot, hfind]

theorem pickSlot_of_consumed (hnone : ∀ k, (x.hslot k).state ≠ .free) (hconsumed : (x.hslot h).state = .consumed)
    (hlower : ∀ k < h, (x.hslot k).state ≠ .consumed) : x.pickSlot = .ok h := by
  have hfree : allHandles.find? (fun k => (x.hslot k).state == .free) = none :=
    find?_allHandles_eq_none fun k => by simp [hnone k]
  have hfind : allHandles.find? (fun k => (x.hslot k).state == .consumed) = some h :=
    find?_allHandles_eq_some (by simp [hconsumed]) fun k hk => by simp [hlower k hk]
  simp only [Ctx.pickSlot, hfree, hfind]

theorem find?_allHandles_of_none_free (hnone : ∀ k, (x.hslot k).state ≠ .free ∧ (x.hslot k).state ≠ .consumed) :
    allHandles.find? (fun k => (x.hslot k).state == .free) = none ∧
      allHandles.find? (fun k => (x.hslot k).state == .consumed) = none :=
  ⟨find?_allHandles_eq_none fun k => by simp [(hnone k).1], find?_allHandles_eq_none fun k => by simp [(hnone k).2]⟩

variable (hnone : ∀ k, (x.hslot k).state ≠ .free ∧ (x.hslot k).state ≠ .consumed) (hdepth : x.depth = 0)
include hnone hdepth

/-- With no slot FREE or CONSUMED the RESOLVED ones are looked at, which outside every callee all are the context's own. -/
theorem pickSlot_of_filter {k : Fin 16} {ks : List (Fin 16)}
    (hl : allHandles.filter (fun j => (x.hslot j).state == .resolved) = k :: ks) :
    x.pickSlot = .ok (ks.foldl (fun a b => if (x.hslot b).order < (x.hslot a).order then b else a) k) := by
  obtain ⟨hfree, hconsumed⟩ := find?_allHandles_of_none_free hnone
  simp only [Ctx.pickSlot, hfree, hconsumed, hdepth, beq_self_eq_true, Bool.true_or, Bool.and_true, hl]

theorem pickSlot_of_resolved (hresolved : (x.hslot h).state = .resolved)
    (hfirst : ∀ k, k ≠ h → (x.hslot k).state = .resolved → (x.hslot h).order < (x.hslot k).order) : x.pickSlot = .ok h := by
  have hmem : h ∈ allHandles.filter (fun k => (x.hslot k).state == .resolved) := by simp [mem_allHandles, hresolved]
  have hall : ∀ k ∈ allHandles.filter (fun k => (x.hslot k).state == .resolved), k ≠ h → (x.hslot h).order < (x.hslot k).order :=
    fun k hk hne => hfirst k hne (by simpa [mem_allHandles] using hk)
  cases hl : allHandles.filter (fun k => (x.hslot k).state == .resolved) with
  | nil => simp [hl] at hmem
  | cons k ks =>
    rw [hl] at hmem hall
    rw [pickSlot_of_filter hnone hdepth hl]
    refine congrArg Except.ok (foldl_smaller_eq (fun k => (x.hslot k).order) ks (fun j hj => hall j (List.mem_cons_of_mem _ hj)) ?_)
    by_cases hk : k = h
    · exact .inl hk
    · exact .inr ⟨hall k List.mem_cons_self hk, (List.mem_cons.mp hmem).resolve_left (Ne.symm hk)⟩

omit hnone in
theorem pickSlot_of_pending (hpending : ∀ k, (x.hslot k).state = .pending) : x.pickSlot = .error (.wait .handleSlot) := by
  obtain ⟨hfree, hconsumed⟩ := find?_allHandles_of_none_free (x := x) fun k => by simp [hpending k]
  have hresolved : allHandles.filter (fun k => (x.hslot k).state == .resolved) = [] :=
    List.filter_eq_nil_iff.mpr fun k _ => by simp [hpending k]
  simp only [Ctx.pickSlot, hfree, hconsumed, hdepth, beq_self_eq_true, Bool.true_or, Bool.and_true, hresolved, true_or, if_true]

end

/-- Settles O21: each search takes the first or the least of its kind, and no earlier kind has one. -/
theorem handleAllocation : Obligations.HandleAllocation := fun _ _ =>
  ⟨pickSlot_of_free, pickSlot_of_consumed, pickSlot_of_resolved, fun hpending hdepth => pickSlot_of_pending hdepth hpending⟩

end Sys2Proof.Proofs.Allocation
end

section
/-! PROOFS of the family 06_copy_engine: the issue of an operation to an engine (R104, R157, R160, R164, R166), and the issue of CPY,
CFILL, CPYR and CPYB (R167, R168). -/
namespace Sys2Proof.Proofs.Issue
open Sys2Proof Sys2Proof.Machine Sys2Proof.Laws
open Sys2Proof.Safety
open Sys2Proof.Proofs.Network (modCtx_modCtx put_put)
open Sys2Proof.Proofs.Order (bind_ok bind_eq_ok allocHandle_ok)
open Sys2Proof.Proofs.Sends (read_of_readData)
open Sys2Proof.Proofs.Services (sameTraffic_cacheHost)

/-! Going on after an issue: the next place in the code (R36, R60, R64). -/

section
variable {x y : Ctx} (hpcc : y.pcc = x.pcc) (hloopc : y.loopc = x.loopc) (hloope : y.loope = x.loope) (hloopb : y.loopb = x.loopb)
include hpcc hloopc hloope hloopb

theorem pcc_closeLoop_congr (a next : W64) : (y.closeLoop a next).map Ctx.pcc = (x.closeLoop a next).map Ctx.pcc := by
  simp only [Ctx.closeLoop, hpcc, hloopc, hloope, hloopb]
  split_ifs
  · simp only [Except.map, Ctx.setPc]
  · rfl
  · rfl
  · simp only [Except.map, Ctx.setPc]
  · simp only [Except.map, Ctx.setPc, hpcc]

/-- Where a context goes on behind an instruction depends on its code capability and its loop state alone. -/
theorem pcc_advance_congr (hrepc : y.repc = x.repc) (n : Nat) : (y.advance n).map Ctx.pcc = (x.advance n).map Ctx.pcc := by
  have hpc : y.pc = x.pc := congrArg Reg.lo hpcc
  simp only [Ctx.advance, hpc, hrepc]
  split_ifs
  · exact pcc_closeLoop_congr hpcc hloopc hloope hloopb _ _
  · exact pcc_closeLoop_congr (x := { x with repc := 0, repi := 0, rep := none }) (y := { y with repc := 0, repi := 0, rep := none })
      hpcc hloopc hloope hloopb _ _
  · exact congrArg Except.ok hpcc

end

theorem ok_of_map_eq_ok {ε α β : Type} {f : α → β} {e : Except ε α} {b : β} (h : e.map f = .ok b) : ∃ a, e = .ok a ∧ f a = b := by
  cases e with
  | error e => cases h
  | ok a => exact ⟨a, rfl, Except.ok.inj h⟩

/-- Going on changes neither registers nor handles nor counts. -/
theorem advance_keeps {x y : Ctx} {n : Nat} (h : x.advance n = .ok y) :
    (∀ r, y.reg r = x.reg r) ∧ (∀ k, y.count k = x.count k) ∧ (∀ k, y.hslot k = x.hslot k) ∧
      y.hserial = x.hserial ∧ y.srseq = x.srseq := by
  rw [advance_spec h]
  exact ⟨fun _ => rfl, fun _ => rfl, fun _ => rfl, rfl, rfl⟩

/-! The issue of an operation (R157, R160, R164, R166). -/

/-- A context whose handle slot `q` waits for an operation, with the serial `k` (R160). -/
def taking (q : Fin 16) (k : BitVec 16) (x : Ctx) : Ctx :=
  { x.setHslot q ⟨.pending, k, 0, false, x.dom, x.depth, 0, none, true⟩ with hserial := k + 1 }

@[simp] theorem hslot_taking_self (q : Fin 16) (k : BitVec 16) (x : Ctx) :
    (taking q k x).hslot q = ⟨.pending, k, 0, false, x.dom, x.depth, 0, none, true⟩ := hslot_setHslot_self ..

/-- The state in which the context that executes has taken handle slot `q`. -/
def taken (s : State) (q : Fin 16) : State := s.modCtx s.cur (taking q (here s).hserial)

/-- A context that issues an operation: it takes a handle slot, and counts the operation under the tag of its phase (R104, R105). -/
def issuing (q : Fin 16) (k : BitVec 16) (x : Ctx) : Ctx := (taking q k x).setCount x.phaseTag (x.count x.phaseTag + 1)

/-- What an operation that is issued now keeps. -/
def headNow (s : State) (q : Fin 16) : OpHead where
  owner := s.cur
  handle := some q
  serial := (here s).hserial
  tag := (here s).phaseTag
  frm := (here s).frm
  seed := (here s).srseed
  seq := (here s).srseq
  flags := 0
  supv := (s.slot s.cur.sl).bind.supv
  depth := (here s).depth
  issued := (s.core s.cur.core).opSerial
  lsgs := s.lsgsOf (s.partOf s.cur.sl)
  cancel := false
  lay := []

/-- A core for whose engine a context does not wait any more (R164). -/
def admitting (e : EngineKind) (c : CtxId) (k : Core) : Core :=
  { k with entering := k.entering.filter (fun p => p.1 != e || p.2.1 != c) }

/-- A core that has numbered one more operation. -/
def numbering (k : Core) : Core := { k with opSerial := k.opSerial + 1 }

theorem modCore_modCore (s : State) (n : Fin 4608) (f g : Core → Core) :
    (s.modCore n f).modCore n g = s.modCore n (fun k => g (f k)) := by
  simp only [State.modCore, core_setCore_self]
  simp only [State.setCore, put_put]

section
variable {s : State} {e : EngineKind} {q : Fin 16}

theorem headIs_headNow : HeadIs s (headNow s q) (some q) :=
  ⟨rfl, rfl, fun _ => rfl, rfl, rfl, rfl, rfl, rfl, rfl, rfl, rfl⟩

theorem headNow_modCore {f : Core → Core} (hserial : ∀ k, (f k).opSerial = k.opSerial) :
    headNow (s.modCore s.cur.core f) q = headNow s q := by
  have hissued : ((s.modCore s.cur.core f).core s.cur.core).opSerial = (s.core s.cur.core).opSerial := by
    rw [core_modCore_self, hserial]
  exact congrArg (fun n => { headNow s q with issued := n }) hissued

theorem queueRoom_ok (hroom : (s.core s.cur.core).queued e < 2) (hfirst : s.earlier s.cur e = false) :
    queueRoom e s = .ok ((), s.modCore s.cur.core (admitting e s.cur)) := by
  have hspace : ¬ (s.core s.cur.core).queued e ≥ Config.queueEntries := Nat.not_le_of_lt hroom
  simp only [queueRoom, if_neg hspace, hfirst, Bool.false_eq_true, if_false]
  rfl

theorem countRoom_ok (hcount : (here s).usc < 1024) : countRoom s = .ok ((), s) := by
  have hspace : ¬ (here s).usc ≥ Config.uscMax := Nat.not_le_of_lt hcount
  refine (bind_ok (m := me) (a := here s) rfl).trans ?_
  rw [if_neg hspace]
  rfl

theorem kickRelease_ok (hrelease : s.releaseBlocked s.cur (if (here s).dscope.toNat < 5 then .dev else .sys) = false) :
    kickRelease s = .ok ((), s) := by
  refine (bind_ok (m := me) (a := here s) rfl).trans ?_
  simp only [releaseAt, hrelease, Bool.false_eq_true, if_false]

theorem issueHead_ok (hpick : (here s).pickSlot = .ok q) :
    issueHead true true s =
      .ok (headNow s q, (s.modCore s.cur.core numbering).modCtx s.cur (issuing q (here s).hserial)) := by
  have htake : (do let h ← allocHandle true; pure (some h) : M (Option (Fin 16 × BitVec 16))) s =
      .ok (some (q, (here s).hserial), taken s q) := bind_ok (allocHandle_ok hpick)
  have hme : me (taken s q) = .ok (taking q (here s).hserial (here s), taken s q) :=
    congrArg (fun x => Except.ok (x, taken s q)) (ctx_modCtx_self ..)
  refine (bind_ok htake).trans ((bind_ok (m := get) rfl).trans ((bind_ok (m := who) (s := taken s q) (a := s.cur) rfl).trans
    ((bind_ok hme).trans ((bind_ok (m := set _) rfl).trans ?_))))
  exact congrArg (fun t => Except.ok (headNow s q, t)) (modCtx_modCtx (s.modCore s.cur.core numbering) s.cur (taking q (here s).hserial)
    fun y => y.setCount (here s).phaseTag (y.count (here s).phaseTag + 1))

/-- The four steps that an issue begins with. -/
theorem issue_bind {α : Type} {k : OpHead → M α} (hcan : CanIssue s e true (some q)) :
    (do queueRoom e; countRoom; kickRelease; let head ← issueHead true true; k head : M α) s =
      k (headNow s q) ((s.modCore s.cur.core (fun n => numbering (admitting e s.cur n))).modCtx s.cur (issuing q (here s).hserial)) := by
  obtain ⟨hroom, hfirst, hcount, hrelease, hpick⟩ := hcan
  refine (bind_ok (queueRoom_ok hroom hfirst)).trans ((bind_ok (countRoom_ok (s := s.modCore _ _) (hcount rfl))).trans
    ((bind_ok (kickRelease_ok (s := s.modCore _ _) hrelease)).trans
      ((bind_ok (issueHead_ok (s := s.modCore _ _) (hpick q rfl))).trans ?_)))
  rw [headNow_modCore (f := admitting e s.cur) fun _ => rfl]
  exact congrArg (fun t : State => k (headNow s q) (t.modCtx s.cur (issuing q (here s).hserial))) (modCore_modCore ..)

end

/-! What an issue leaves. -/

/-- The state in which an operation is issued, its core changed by `f`, and its handle written. -/
def issued (s : State) (f : Core → Core) (q : Fin 16) (d : GReg) : State :=
  (s.modCore s.cur.core f).modCtx s.cur (fun x => (issuing q (here s).hserial x).setReg d (handleReg s.cur q (here s).hserial))

/-- An instruction that has issued an operation goes on where it could go on before. -/
theorem posted_of_issued {i : Instr} {s : State} {f : Core → Core} {d : GReg} {q : Fin 16} {x : Ctx}
    (hx : (here s).settled.advance i.size = .ok x) :
    ∃ u, GoesOn i (issued s f q d) u ∧ Posted s u i.size d (some q) true false ∧ u.core s.cur.core = f (s.core s.cur.core) := by
  have hhere : here (issued s f q d) = (issuing q (here s).hserial (here s)).setReg d (handleReg s.cur q (here s).hserial) :=
    ctx_modCtx_self ..
  have hpcc : ((here (issued s f q d)).settled.advance i.size).map Ctx.pcc = .ok x.pcc := by
    rw [pcc_advance_congr (x := (here s).settled), hx]
    · rfl
    all_goals
      rw [hhere]
      simp [issuing, taking]
  obtain ⟨y, hy, hypcc⟩ := ok_of_map_eq_ok hpcc
  obtain ⟨hregs, hcounts, hslots, hserial, hseq⟩ := advance_keeps hy
  rw [hhere] at hregs hcounts hslots hserial hseq
  have hu : here ((issued s f q d).setCtx s.cur y) = y := ctx_setCtx_self ..
  refine ⟨(issued s f q d).setCtx s.cur y, ⟨y, hy, rfl⟩, ⟨rfl, ⟨fun _ => rfl, fun _ => rfl⟩, ?_⟩, core_modCore_self ..⟩
  rw [hu]
  refine ⟨fun r hr => ?_, ?_, ?_, fun z hz => ?_, ?_, ?_, ?_⟩
  · exact (hregs r).trans ((reg_setReg ..).trans (if_neg hr))
  · exact (hcounts _).trans (by simp [issuing])
  · exact hseq.trans (by simp [issuing, taking])
  · rw [hypcc]
    exact congrArg Ctx.pcc (Except.ok.inj (hx.symm.trans hz))
  · exact (hregs d).trans ((reg_setReg ..).trans (if_pos rfl))
  · exact (hslots q).trans (by simp [issuing])
  · exact hserial.trans (by simp [issuing, taking])

/-! The issue of a copy (R167, R168). -/

/-- A copy operation as it is issued. -/
def newCopy (s : State) (q : Fin 16) (kind : CopyKind) (dst : Shape) (src : Option Shape) (start : Nat) : CopyOp where
  head := headNow s q
  kind := kind
  dst := dst
  src := src
  k := start
  n := dst.count
  fmts := none
  sent := false
  pause := none
  buf := []
  flits := 0
  acked := start
  comp := none
  ending := none
  restriped := false
  replayed := false
  start := start
  holes := []
  last := false
  out := []

/-- A core that has numbered and queued a copy. -/
def queueing (c : CtxId) (o : CopyOp) (k : Core) : Core :=
  { numbering (admitting .copy c k) with copyQ := k.copyQ ++ [o] }

theorem issueCopy_ok {s : State} {q : Fin 16} {d : GReg} {kind : CopyKind} {dst : Shape} {src : Option Shape} {start : Nat}
    (hcan : CanIssue s .copy true (some q)) :
    issueCopy d kind dst src start s =
      .ok (.next, issued s (queueing s.cur (newCopy s q kind dst src start)) q d) := by
  have hcore : (((s.modCore s.cur.core (fun n => numbering (admitting .copy s.cur n))).modCtx s.cur (issuing q (here s).hserial)).modCore
      s.cur.core (fun k => { k with copyQ := k.copyQ ++ [newCopy s q kind dst src start] })) =
      (s.modCore s.cur.core (queueing s.cur (newCopy s q kind dst src start))).modCtx s.cur (issuing q (here s).hserial) :=
    congrArg (fun t : State => t.modCtx s.cur (issuing q (here s).hserial)) (modCore_modCore s s.cur.core
      (fun n => numbering (admitting .copy s.cur n)) (fun k => { k with copyQ := k.copyQ ++ [newCopy s q kind dst src start] }))
  refine (issue_bind hcan).trans ((bind_ok (m := who) rfl).trans ((bind_ok (m := get) rfl).trans ((bind_ok (m := set _) rfl).trans
    ((bind_ok (m := setG _ _) rfl).trans ?_))))
  exact congrArg (fun t => Except.ok (Machine.Flow.next, t)) ((congrArg (fun t : State => t.modCtx s.cur
    (fun x => x.setReg d (headNow s q).reg)) hcore).trans (modCtx_modCtx ..))

/-! The options word (R167). -/

theorem extract_eq_fieldOf (w : W64) (lo n : Nat) : (w.extractLsb' lo n).toNat = fieldOf w lo n := by
  rw [BitVec.extractLsb'_toNat, Nat.shiftRight_eq_div_pow, fieldOf]

theorem extract_eq_zero_iff (w : W64) (lo n : Nat) : w.extractLsb' lo n = 0 ↔ fieldOf w lo n = 0 := by
  rw [← extract_eq_fieldOf, BitVec.toNat_eq]
  rfl

theorem bit_eq_true_iff (w : W64) (i : Nat) : w.getLsbD i = true ↔ fieldOf w i 1 = 1 := by
  rw [BitVec.getLsbD, Nat.testBit_eq_decide_div_mod_eq, decide_eq_true_eq, fieldOf, Nat.pow_one]

/-- An options word whose fields are right. -/
theorem optionsBad_eq_false {w : W64} {dselUsed xdevUsed : Bool} (hhigh : fieldOf w 48 16 = 0) (hlimit : fieldOf w 45 3 < 6)
    (hdsel : dselUsed = true ∨ fieldOf w 45 3 = 0) (hxdev : xdevUsed = true ∨ fieldOf w 44 1 = 0)
    (hdevice : xdevUsed = true ∧ fieldOf w 44 1 = 1 ∨ fieldOf w 32 12 = 0) : optionsBad w dselUsed xdevUsed = false := by
  have hbit : w.getLsbD 44 = false ↔ fieldOf w 44 1 = 0 := by
    rw [← Bool.not_eq_true, bit_eq_true_iff]
    simp only [fieldOf]
    omega
  simp only [optionsBad, Bool.or_eq_false_iff, Bool.and_eq_false_iff, bne_eq_false_iff_eq, decide_eq_false_iff_not, Nat.not_le,
    Bool.not_eq_false', Bool.and_eq_true, extract_eq_zero_iff, extract_eq_fieldOf, hbit, bit_eq_true_iff]
  exact ⟨⟨⟨⟨hhigh, hlimit⟩, hdsel⟩, hxdev⟩, hdevice⟩

/-- What CPY, CPYR and CPYB do with their options: which fields they use, and the member that they then issue. Only a copy to another
device takes an operation number. -/
structure Copies (i : Instr) (h a b : GReg) (c : RegCode) (dselUsed xdevUsed : Bool) (kind : W64 → M CopyKind) : Prop where
  runs : ∀ s, exec i s = run i [c] [c] (copyBody (Instr.word i) h a b c dselUsed xdevUsed kind) s
  options : ∀ t w k, CopyOptions i t w k →
    optionsBad w dselUsed xdevUsed = false ∧ ∃ n, kind w t = .ok (k, { t with nextOp := n })

section
variable (h a b : GReg) (c : RegCode)

theorem copies_cpy : Copies (.cpy h a b c) h a b c false false (fun _ => pure .cpy) where
  runs _ := rfl
  options t w k hoptions := by
    obtain ⟨hhigh, hlow, rfl⟩ := hoptions
    simp only [fieldOf] at hlow
    have hdsel : fieldOf w 45 3 = 0 := by simp only [fieldOf]; omega
    have hxdev : fieldOf w 44 1 = 0 := by simp only [fieldOf]; omega
    have hdevice : fieldOf w 32 12 = 0 := by simp only [fieldOf]; omega
    exact ⟨optionsBad_eq_false hhigh (by omega) (.inr hdsel) (.inr hxdev) (.inr hdevice), t.nextOp, rfl⟩

theorem copies_cpyr : ∃ kind, Copies (.cpyr h a b c) h a b c false true kind := by
  refine ⟨_, fun _ => rfl, fun t w k hoptions => ?_⟩
  obtain ⟨hhigh, hdsel, hmember⟩ := hoptions
  obtain ⟨hxdev, hdevice, rfl⟩ | ⟨hxdev, rfl⟩ := hmember
  · have hbit : ¬ w.getLsbD 44 = true := by rw [bit_eq_true_iff, hxdev]; decide
    refine ⟨optionsBad_eq_false hhigh (by omega) (.inr hdsel) (.inl rfl) (.inr hdevice), t.nextOp, ?_⟩
    rw [if_neg hbit]
    rfl
  · have hbit : w.getLsbD 44 = true := (bit_eq_true_iff w 44).mpr hxdev
    refine ⟨optionsBad_eq_false hhigh (by omega) (.inr hdsel) (.inl rfl) (.inl ⟨rfl, hxdev⟩), t.nextOp + 1, ?_⟩
    rw [if_pos hbit]
    rfl

theorem copies_cpyb : ∃ kind, Copies (.cpyb h a b c) h a b c true false kind := by
  refine ⟨_, fun _ => rfl, fun t w k hoptions => ?_⟩
  obtain ⟨hhigh, hlow, hlimit, rfl, hvalid, hlevel⟩ := hoptions
  simp only [fieldOf] at hlow
  have hxdev : fieldOf w 44 1 = 0 := by simp only [fieldOf]; omega
  have hdevice : fieldOf w 32 12 = 0 := by simp only [fieldOf]; omega
  refine ⟨optionsBad_eq_false hhigh hlimit (.inl rfl) (.inr hxdev) (.inr hdevice), t.nextOp, ?_⟩
  refine (bind_ok (m := me) (a := here t) rfl).trans ?_
  simp only [extract_eq_fieldOf, hvalid, bne_iff_ne.mpr hlevel, Bool.and_self, if_true]
  rfl

end

theorem copies_of_copyForm {i : Instr} {h a b : GReg} {c : RegCode} (hform : copyForm i = some (h, a, b, c)) :
    ∃ dselUsed xdevUsed kind, Copies i h a b c dselUsed xdevUsed kind := by
  unfold copyForm at hform
  split at hform
  case h_1 => cases hform; exact ⟨_, _, _, copies_cpy ..⟩
  case h_2 => cases hform; exact ⟨_, _, copies_cpyr ..⟩
  case h_3 => cases hform; exact ⟨_, _, copies_cpyb ..⟩
  case h_4 => cases hform

/-! Reading a shape record leaves the context that executes (R152). -/

theorem cur_record {cap : Reg} {a : Ask} {addr : W64} {s t : State} {p : Spot} (h : record cap a addr s = .ok (p, t)) : t.cur = s.cur := by
  unfold record need at h
  cases hreach : s.reachRecord s.cur cap a addr with
  | trap c v n => simp [hreach] at h
  | wait w => simp [hreach] at h
  | ok q =>
    simp only [hreach] at h
    cases h
    exact (sameTraffic_cacheHost ..).2.2

theorem cur_readShape {r : GReg} {s t : State} {sh : Shape} (h : readShape r s = .ok (sh, t)) : t.cur = s.cur := by
  obtain ⟨_, _, hget, h⟩ := bind_eq_ok h
  cases hget
  obtain ⟨_, _, hgreg, h⟩ := bind_eq_ok h
  cases hgreg
  obtain ⟨p, u, hrecord, h⟩ := bind_eq_ok h
  rw [← cur_record hrecord]
  dsimp only at h
  split_ifs at h
  · cases h
  · cases h
    rfl
  · cases h
  · cases h
  · cases h
  · cases h
    rfl

/-! The instructions. -/

/-- A copy that can be issued is, and its instruction goes on with the handle. -/
theorem issueCopy_posts {i : Instr} {t : State} {n : BitVec 16} {q : Fin 16} {d : GReg} {kind : CopyKind} {dst : Shape}
    {src : Option Shape} {start : Nat} {x : Ctx} (hcan : CanIssue t .copy true (some q)) (hx : (here t).settled.advance i.size = .ok x) :
    ∃ w u o, issueCopy d kind dst src start { t with nextOp := n } = .ok (.next, w) ∧ GoesOn i w u ∧
      Posted t u i.size d (some q) true false ∧ (u.core t.cur.core).copyQ = (t.core t.cur.core).copyQ ++ [o] ∧
      HeadIs t o.head (some q) ∧ o.kind = kind ∧ o.dst = dst ∧ o.src = src ∧ o.k = start ∧ o.n = dst.count := by
  obtain ⟨hroom, hfirst, hcount, hrelease, hpick⟩ := hcan
  have hcan : CanIssue { t with nextOp := n } .copy true (some q) := ⟨hroom, hfirst, hcount, hrelease, hpick⟩
  have hissue := issueCopy_ok (d := d) (kind := kind) (dst := dst) (src := src) (start := start) hcan
  obtain ⟨u, hgoes, hposted, hcore⟩ := posted_of_issued (s := { t with nextOp := n }) (q := q) (d := d)
    (f := queueing t.cur (newCopy { t with nextOp := n } q kind dst src start)) hx
  exact ⟨_, u, _, hissue, hgoes, hposted, congrArg Core.copyQ hcore, headIs_headNow (s := { t with nextOp := n }), rfl, rfl, rfl, rfl, rfl⟩

/-- The operands of a copy, read one after another, lead to its issue. -/
theorem copyBody_ok {iw : W64} {h a b : GReg} {c : RegCode} {dselUsed xdevUsed : Bool} {kind : W64 → M CopyKind}
    {s1 s2 s3 t t' w : State} {dst src : Shape} {opt : W64} {k : CopyKind} (hdst : readShape a s1 = .ok (dst, s2))
    (hsrc : readShape b s2 = .ok (src, s3)) (hopt : readData c s3 = .ok (opt, t)) (hgood : optionsBad opt dselUsed xdevUsed = false)
    (hkind : kind opt t = .ok (k, t')) (hcount : src.count = dst.count) (hstart : fieldOf opt 0 32 ≤ dst.count)
    (hissue : issueCopy h k dst (some src) (fieldOf opt 0 32) t' = .ok (.next, w)) :
    copyBody iw h a b c dselUsed xdevUsed kind s1 = .ok (.next, w) := by
  have hfield : opt.toNat % 2 ^ 32 = fieldOf opt 0 32 := by simp only [fieldOf, Nat.pow_zero, Nat.div_one]
  have hfits : ¬ (src.count ≠ dst.count ∨ fieldOf opt 0 32 > dst.count) := by omega
  refine (bind_ok hdst).trans ((bind_ok hsrc).trans ((bind_ok hopt).trans ?_))
  rw [hgood, if_neg Bool.false_ne_true]
  refine (bind_ok hkind).trans ?_
  rw [hfield, if_neg hfits]
  exact hissue

theorem cur_of_readData {r : RegCode} {s t : State} {w : W64} (h : readData r s = .ok (w, t)) : t.cur = s.cur := by
  obtain ⟨_, hread⟩ := read_of_readData h
  exact (read_spec hread).2.2.1

/-- Settles O36: each form reads its operands and then issues; the issue takes the handle slot, counts the operation and queues it, and
going on changes none of that. -/
theorem copyIssue : Obligations.CopyIssue := by
  constructor
  · intro i h a b c s s1 s2 s3 t dst src opt k q x hform hstarts hdst hsrc hopt hoptions hcount hstart hcan hx
    obtain ⟨_, _, kind, hcopies⟩ := copies_of_copyForm hform
    obtain ⟨hgood, n, hkind⟩ := hcopies.options t opt k hoptions
    have hcur : t.cur = s.cur := (cur_of_readData hopt).trans ((cur_readShape hsrc).trans ((cur_readShape hdst).trans
      (receive_spec hstarts.ports).2.2.1))
    obtain ⟨w, u, o, hissue, hgoes, hrest⟩ := issueCopy_posts (n := n) (d := h) (kind := k) (dst := dst) (src := some src)
      (start := fieldOf opt 0 32) hcan hx
    rw [hcur] at hrest
    exact ⟨u, o, (hcopies.runs s).trans
      (run_next hstarts (copyBody_ok hdst hsrc hopt hgood hkind hcount hstart hissue) hgoes), hrest⟩
  · intro h a c s s1 s2 t dst fill q x hstarts hdst hfill hcan hx
    have hcur : t.cur = s.cur := (cur_of_readData hfill).trans ((cur_readShape hdst).trans (receive_spec hstarts.ports).2.2.1)
    obtain ⟨w, u, o, hissue, hgoes, hrest⟩ := issueCopy_posts (i := .cfill h a c) (n := t.nextOp) (d := h) (kind := .cfill fill)
      (dst := dst) (src := none) (start := 0) hcan hx
    rw [hcur] at hrest
    exact ⟨u, o, run_next hstarts ((bind_ok hdst).trans ((bind_ok hfill).trans hissue)) hgoes, hrest⟩

end Sys2Proof.Proofs.Issue
end

section
/-! PROOFS of the family 06_copy_engine: the engines' events answer what their table gives (R157, R242, R261, R270, R271, R300, R305,
R309, R314, R315), what an operation that resolves leaves (R160, R163, R166, R210), and one element of a copy (R158, R167). -/
namespace Sys2Proof.Proofs.Engines
open Sys2Proof Sys2Proof.Machine Sys2Proof.Laws Sys2Proof.Proofs.Events
open Sys2Proof.Safety
open Sys2Proof.Proofs.Order (ctx_bump resolvedBy hslot_resolveHandle_self hslot_resolveHandle_ne)

/-! The head of a queue, a number of steps later (R157). -/

section
variable {s : State} {core : Fin 4608}

theorem setCopyHead_eq (p : Option CopyOp) : s.setCopyHead core p = s.modCore core (fun k => { k with copyQ := behead p k.copyQ }) := by
  refine congrArg (s.modCore core) (funext fun k => ?_)
  cases k.copyQ with
  | nil => rfl
  | cons o r => cases p <;> rfl

theorem setVecHead_eq (p : Option VecOp) : s.setVecHead core p = s.modCore core (fun k => { k with vecQ := behead p k.vecQ }) := by
  refine congrArg (s.modCore core) (funext fun k => ?_)
  cases k.vecQ with
  | nil => rfl
  | cons o r => cases p <;> rfl

theorem setIntHead_eq (p : Option IntOp) : s.setIntHead core p = s.modCore core (fun k => { k with intQ := behead p k.intQ }) := by
  refine congrArg (s.modCore core) (funext fun k => ?_)
  cases k.intQ with
  | nil => rfl
  | cons o r => cases p <;> rfl

theorem runCopy_eq {o : CopyOp} {r : List CopyOp} (hq : (s.core core).copyQ = o :: r) (n : Nat) :
    s.runCopy core n = copyAfter s core o n := by
  simp only [State.runCopy, hq, copyAfter, setCopyHead_eq]
  cases runOp copyStep n s o <;> rfl

theorem runVec_eq {o : VecOp} {r : List VecOp} (hq : (s.core core).vecQ = o :: r) (n : Nat) :
    s.runVec core n = vecAfter s core o n := by
  simp only [State.runVec, hq, vecAfter, setVecHead_eq]
  cases runOp vecStep n s o <;> rfl

theorem runInt_eq {o : IntOp} {r : List IntOp} (hq : (s.core core).intQ = o :: r) (n : Nat) :
    s.runInt core n = intAfter s core o n := by
  simp only [State.runInt, hq, intAfter, setIntHead_eq]
  cases runOp intStep n s o <;> rfl

theorem runMat_eq (o : MatOp) (n : Nat) : s.runMat core n o.head.issued = matAfter core s o n := by
  unfold State.runMat matAfter
  cases (s.core core).matQ.find? (fun p => p.head.issued == o.head.issued) with
  | none => rfl
  | some p => cases runOp matStep n s p <;> rfl

end

/-! The events. -/

/-- An event of the head of a queue, which is due as that operation stands. -/
theorem answers_of_head {α : Type} {i : Instr} {q : State → List α} {due : α → Bool} {run : α → State → State}
    (hexec : ∀ s o r, q s = o :: r → exec i s = s.on (due o) (run o))
    (hform : ∀ s t, engineEvent i s = some t → ∃ o r, q s = o :: r ∧ due o = true ∧ run o s = t) : Answers engineEvent i :=
  fun s t hm h => by
    obtain ⟨o, r, hq, hdue, hrun⟩ := hform s t h
    rw [hexec s o r hq]
    exact on_next hm hdue hrun

theorem answers_engineQueueStart (core : Fin 4608) (e : EngineKind) (n : Nat) : Answers engineEvent (.engineQueueStart core e n) := by
  refine answers_of_on (due := fun _ => true) (fun _ => rfl) (fun _ _ _ => rfl) fun s t h => ?_
  cases e with
  | copy =>
    obtain ⟨o, ho, rfl⟩ := Option.map_eq_some_iff.mp h
    obtain ⟨r, hq⟩ := List.head?_eq_some_iff.mp ho
    exact runCopy_eq hq n
  | vector =>
    obtain ⟨o, ho, rfl⟩ := Option.map_eq_some_iff.mp h
    obtain ⟨r, hq⟩ := List.head?_eq_some_iff.mp ho
    exact runVec_eq hq n
  | integrator =>
    obtain ⟨o, ho, rfl⟩ := Option.map_eq_some_iff.mp h
    obtain ⟨r, hq⟩ := List.head?_eq_some_iff.mp ho
    exact runInt_eq hq n
  | matrix =>
    rw [← Option.some.inj h]
    simp only [State.runMats, runMat_eq]

theorem answers_copyResolve (core : Fin 4608) : Answers engineEvent (.copyResolve core) := by
  refine answers_of_head (q := fun s => (s.core core).copyQ) (due := fun _ => true) (run := fun o s => s.runCopy core o.left)
    (fun s o r hq => ?_) fun s t h => ?_
  · change execCopyResolve core s = _
    simp only [execCopyResolve, hq]
  · obtain ⟨o, ho, rfl⟩ := Option.map_eq_some_iff.mp h
    obtain ⟨r, hq⟩ := List.head?_eq_some_iff.mp ho
    exact ⟨o, r, hq, rfl, runCopy_eq hq _⟩

theorem answers_vectorResolve (core : Fin 4608) : Answers engineEvent (.vectorResolve core) := by
  refine answers_of_head (q := fun s => (s.core core).vecQ) (due := fun _ => true)
    (run := fun o s => s.runVec core (128 * (o.out.count + o.a.count) + 8)) (fun s o r hq => ?_) fun s t h => ?_
  · change execVectorResolve core s = _
    simp only [execVectorResolve, hq]
  · obtain ⟨o, ho, rfl⟩ := Option.map_eq_some_iff.mp h
    obtain ⟨r, hq⟩ := List.head?_eq_some_iff.mp ho
    exact ⟨o, r, hq, rfl, runVec_eq hq _⟩

/-- With no command in the queue nothing is to be done, so that the event may as well be due then. -/
theorem answers_matrixResolve (core : Fin 4608) : Answers engineEvent (.matrixResolve core) := by
  intro s t hm h
  change execMatrixResolve core s = .next t
  rw [← Option.some.inj h]
  unfold execMatrixResolve
  cases hq : (s.core core).matQ with
  | nil => rfl
  | cons o r =>
    simp only [List.isEmpty_cons, Bool.false_eq_true, if_false, runMat_eq]
    exact on_next hm rfl rfl

/-- An event of the integrator, which is due as the operation at the head of its queue stands. -/
theorem answers_of_intHead {i : Instr} {core : Fin 4608} {due : IntOp → Bool} {steps : State → IntOp → Nat}
    (hexec : ∀ s o r, (s.core core).intQ = o :: r → exec i s = s.on (due o) (fun s => s.runInt core (steps s o)))
    (hform : ∀ s t, engineEvent i s = some t →
      ∃ o, (s.core core).intQ.head? = some o ∧ due o = true ∧ intAfter s core o (steps s o) = t) : Answers engineEvent i := by
  refine answers_of_head (q := fun s => (s.core core).intQ) (run := fun o s => s.runInt core (steps s o)) hexec fun s t h => ?_
  obtain ⟨o, ho, hdue, rfl⟩ := hform s t h
  obtain ⟨r, hq⟩ := List.head?_eq_some_iff.mp ho
  exact ⟨o, r, hq, hdue, runInt_eq hq _⟩

theorem answers_etickStart (core : Fin 4608) : Answers engineEvent (.etickStart core) := by
  refine answers_of_intHead (core := core) (due := fun o => o.isTick && !o.started)
    (steps := fun s o => (s.core core).events.length + (s.slot o.head.owner.sl).evtOvf.length + 2) (fun s o r hq => ?_) fun s t h => ?_
  · change execEtickStart core s = _
    simp only [execEtickStart, hq]
  · obtain ⟨o, ho, h⟩ := Option.bind_eq_some_iff.mp h
    split at h
    · next hkind hstarted => exact ⟨o, ho, by simp [IntOp.isTick, hkind, hstarted], Option.some.inj h⟩
    · cases h

theorem answers_tickDrainResume (core : Fin 4608) : Answers engineEvent (.tickDrainResume core) := by
  refine answers_of_intHead (core := core) (due := fun o => o.isTick && o.started && o.pause == some .drain)
    (steps := fun _ o => o.events.length + 1) (fun s o r hq => ?_) fun s t h => ?_
  · change execTickDrainResume core s = _
    simp only [execTickDrainResume, hq]
  · obtain ⟨o, ho, h⟩ := Option.bind_eq_some_iff.mp h
    split at h
    · next hkind hstarted =>
      obtain ⟨hpause, h⟩ := Option.ite_none_right_eq_some.mp h
      exact ⟨o, ho, by simp [IntOp.isTick, hkind, hstarted, hpause], Option.some.inj h⟩
    · cases h

theorem answers_etickResolve (core : Fin 4608) : Answers engineEvent (.etickResolve core) := by
  refine answers_of_intHead (core := core) (due := fun o => o.isTick && o.started)
    (steps := fun _ o => o.events.length + 3) (fun s o r hq => ?_) fun s t h => ?_
  · change execEtickResolve core s = _
    simp only [execEtickResolve, hq]
  · obtain ⟨o, ho, h⟩ := Option.bind_eq_some_iff.mp h
    split at h
    · next hkind hstarted => exact ⟨o, ho, by simp [IntOp.isTick, hkind, hstarted], Option.some.inj h⟩
    · cases h

theorem answers_epostvResolve (core : Fin 4608) : Answers engineEvent (.epostvResolve core) := by
  refine answers_of_intHead (core := core) (due := fun o => !o.isTick)
    (steps := fun _ o => o.n - o.k + 4) (fun s o r hq => ?_) fun s t h => ?_
  · change execEpostvResolve core s = _
    simp only [execEpostvResolve, hq]
  · obtain ⟨o, ho, h⟩ := Option.bind_eq_some_iff.mp h
    split at h
    · next hkind => exact ⟨o, ho, by simp [IntOp.isTick, hkind], Option.some.inj h⟩
    · cases h

/-- A visit of the arbiter that goes on has one step less than it had; one that begins has MXW − 1 left (R271). -/
theorem answers_tileStep (n : Fin 576) : Answers engineEvent (.tileStep n) := by
  intro s t hm h
  change execTileStep n s = .next t
  simp only [engineEvent] at h
  unfold execTileStep
  cases harbitrate : s.arbitrate n with
  | none => simp [harbitrate] at h
  | some r =>
    obtain ⟨k, u, o⟩ := r
    simp only [harbitrate, Option.some.injEq] at h ⊢
    refine on_next hm rfl ?_
    rw [← h]
    simp only [decide_eq_true_eq, apply_ite (· - 1)]
    rfl

theorem answers_eventDeliver (n : Nat) : Answers engineEvent (.eventDeliver n) := by
  intro s t hm h
  change execEventDeliver n s = .next t
  simp only [engineEvent] at h
  unfold execEventDeliver
  cases hmsg : s.evmsgs[n]? with
  | none => simp [hmsg] at h
  | some m =>
    simp only [hmsg, Option.ite_none_left_eq_some, not_or, not_and, Bool.not_eq_true, Bool.not_eq_false] at h ⊢
    obtain ⟨⟨hnew, hretry, hcrossed⟩, hfirst, h⟩ := h
    have hdue : (m.arrived.isNone && !m.retry && s.crossed m.seq &&
        (!m.counted || (!s.olderEvent m.ctx m.target.val m.seq && !s.olderStore m.ctx m.target.val m.seq))) = true := by
      simp only [Bool.and_eq_true, Bool.or_eq_true, Bool.not_eq_true', Option.isNone_iff_eq_none, hretry, hcrossed]
      refine ⟨⟨⟨Option.not_isSome_iff_eq_none.mp (Bool.eq_false_iff.mp hnew), trivial⟩, trivial⟩, ?_⟩
      cases hcounted : m.counted with
      | false => exact .inl rfl
      | true => exact .inr (hfirst hcounted)
    refine on_next hm hdue ?_
    cases htake : s.takeEvent m.part m.target m.ev with
    | none => simpa only [htake, Option.some.injEq] using h
    | some u =>
      simp only [htake, ← apply_ite some, Option.some.injEq] at h
      exact h

/-- The table has a row for each of these instructions; no other instruction has one. -/
theorem eventCompletes_engineEvent : EventCompletes engineEvent := by
  intro i s t hm h
  cases i with
  | engineQueueStart core e n => exact answers_engineQueueStart core e n s t hm h
  | copyResolve core => exact answers_copyResolve core s t hm h
  | vectorResolve core => exact answers_vectorResolve core s t hm h
  | matrixResolve core => exact answers_matrixResolve core s t hm h
  | etickStart core => exact answers_etickStart core s t hm h
  | tickDrainResume core => exact answers_tickDrainResume core s t hm h
  | etickResolve core => exact answers_etickResolve core s t hm h
  | epostvResolve core => exact answers_epostvResolve core s t hm h
  | tileStep n => exact answers_tileStep n s t hm h
  | eventDeliver n => exact answers_eventDeliver n s t hm h
  | _ => cases h

/-! What an operation that resolves leaves (R160, R163, R166, R210). -/

/-- The context in which an operation has given its word to its handle, where it has one. -/
def givenWord (s : State) (o : OpHead) (w : W64) : Ctx :=
  match o.handle with
  | some h => (s.resolveHandle o.owner h o.serial w none).ctx o.owner
  | none => s.ctx o.owner

theorem orFlags_parts (x : Ctx) (t : Nat) (fl : BitVec 5) :
    (x.orFlags t fl).fflags = x.fflags ||| fl ∧ (∀ k, (x.orFlags t fl).count k = x.count k) ∧
      ∀ h, (x.orFlags t fl).hslot h = x.hslot h := by
  unfold Ctx.orFlags
  split
  · exact ⟨rfl, fun _ => rfl, fun _ => rfl⟩
  · exact ⟨rfl, fun _ => rfl, fun _ => rfl⟩

theorem resolveHandle_keeps (s : State) (c : CtxId) (h : Fin 16) (k : BitVec 16) (w : W64) :
    (∀ j, ((s.resolveHandle c h k w none).ctx c).count j = (s.ctx c).count j) ∧
      ((s.resolveHandle c h k w none).ctx c).fflags = (s.ctx c).fflags := by
  unfold State.resolveHandle
  dsimp only
  split
  · rw [ctx_bump, ctx_setCtx_self]
    exact ⟨fun _ => rfl, rfl⟩
  · exact ⟨fun _ => rfl, rfl⟩

section
variable (s : State) (o : OpHead) (w : W64)

theorem ctx_resolveOp : ∃ now, (s.resolveOp o true w none).ctx o.owner =
    ((givenWord s o w).setCount o.tag ((givenWord s o w).count o.tag - 1)).orFlags now o.flags := by
  unfold State.resolveOp givenWord
  cases o.handle with
  | none => exact ⟨_, ctx_modCtx_self ..⟩
  | some h => exact ⟨_, ctx_modCtx_self ..⟩

theorem givenWord_keeps :
    (∀ j, (givenWord s o w).count j = (s.ctx o.owner).count j) ∧ (givenWord s o w).fflags = (s.ctx o.owner).fflags := by
  unfold givenWord
  cases o.handle with
  | none => exact ⟨fun _ => rfl, rfl⟩
  | some h => exact resolveHandle_keeps ..

theorem hslot_givenWord (h : Fin 16) : (givenWord s o w).hslot h =
    if o.handle = some h then resolvedBy ((s.ctx o.owner).hslot h) o.serial w s.nextSeq else (s.ctx o.owner).hslot h := by
  unfold givenWord
  cases o.handle with
  | none => rfl
  | some j =>
    by_cases hj : j = h
    · rw [hj, if_pos rfl]
      exact hslot_resolveHandle_self ..
    · rw [if_neg fun he => hj (Option.some.inj he)]
      exact hslot_resolveHandle_ne _ _ _ fun he => hj he.2.symm

theorem resolves : Resolves s o w := by
  obtain ⟨now, hctx⟩ := ctx_resolveOp s o w
  obtain ⟨hcounts, hflags⟩ := givenWord_keeps s o w
  obtain ⟨horFlags, horCount, horSlot⟩ :=
    orFlags_parts ((givenWord s o w).setCount o.tag ((givenWord s o w).count o.tag - 1)) now o.flags
  unfold Resolves
  rw [hctx]
  refine ⟨?_, ?_, fun h => ?_⟩
  · rw [horCount, count_setCount_self, hcounts]
  · rw [horFlags, ← hflags]
    rfl
  · have hslot := (horSlot h).trans (hslot_givenWord s o w h)
    simp only [hslot, resolvedBy]
    split
    · next hwaits =>
      obtain ⟨hhandle, hpending⟩ := hwaits
      rw [if_pos hhandle, if_pos hpending]
      exact ⟨rfl, rfl, rfl⟩
    · next hgone =>
      rw [not_and] at hgone
      split
      · next hhandle => exact if_neg (hgone hhandle)
      · rfl

end

/-! One element of a copy (R158, R167). -/

section
variable {s : State} {o : CopyOp} {src : Shape} {f g : Option Fmt} {near far : List Piece}

theorem fetch_of_pieces {u : Nat} (hchan : src.chan = none)
    (hnear : s.elem o.head true false (unitIs u) anywhere src u o.k = .ok near) :
    o.fetch s src u = .ok (s.seePieces near, s.getPieces near) := by
  simp only [CopyOp.fetch, hchan, hnear]

theorem store_of_pieces {u : Nat} {bs : List Byte} (hkind : o.kind = .cpy) (hchan : o.dst.chan = none)
    (hfar : s.elem o.head true true (unitIs u) o.place o.dst u o.k = .ok far) :
    o.store s u bs = .ok (s.putPieces far bs, o) := by
  simp only [CopyOp.store, hchan, hkind, hfar]

/-- One element of a copy on this device. An operation that waits for a word that it has sent does not go on. -/
theorem copyStep_of_pieces (hkind : o.kind = .cpy) (hsrc : o.src = some src) (hfmts : o.fmts = some (f, g)) (hdst : o.dst.chan = none)
    (hchan : src.chan = none) (hpause : o.pause = none) (hk : o.k < o.n) (hout : o.out = []) (hending : o.ending = none)
    (hcancel : s.cancelAsked o.head = false)
    (hnear : s.elem o.head true false (unitIs (opUnit o.dst g)) anywhere src (opUnit o.dst g) o.k = .ok near)
    (hfar : (s.seePieces near).elem o.head true true (unitIs (opUnit o.dst g)) o.place o.dst (opUnit o.dst g) o.k = .ok far) :
    copyStep s o = if o.sent = true then .halt ((s.seePieces near).putPieces far (s.getPieces near)) o
      else .go ((s.seePieces near).putPieces far (s.getPieces near)) (CopyOp.over { o with k := o.k + 1 }) := by
  have hpaused : ∀ k, { o with k := k, pause := none } = { o with k := k } := fun k => by rw [← hpause]
  have helement : o.element s (opUnit o.dst g) =
      if o.sent = true then .halt ((s.seePieces near).putPieces far (s.getPieces near)) { o with k := o.k, pause := none }
      else .go ((s.seePieces near).putPieces far (s.getPieces near)) { o with k := o.k + 1, pause := none } := by
    simp only [CopyOp.element, hkind, hsrc, fetch_of_pieces hchan hnear, store_of_pieces hkind hdst hfar]
  have hnext : copyNext s o = o.element s (opUnit o.dst g) := by
    simp [copyNext, hcancel, hpause, hfmts, hkind, hdst, hout, hending, hk]
  rw [copyStep, hnext, helement, hpaused, hpaused]
  split
  · rfl
  · rfl

end

theorem copiesUnit_of_unsent {s : State} {o : CopyOp} (hsent : o.sent = false) : CopiesUnit s o := by
  intro src f g near far hkind hsrc hfmts hdst hchan hpause hk hout hending hcancel hnear hfar
  rw [copyStep_of_pieces hkind hsrc hfmts hdst hchan hpause hk hout hending hcancel hnear hfar, if_neg (by rw [hsent]; decide)]

/-- What of O44 holds: the table of events, what a resolve leaves, and the element of a copy that does not wait for a word it has sent. -/
theorem engineEvents_of_unsent :
    EventCompletes engineEvent ∧ (∀ s o w, Resolves s o w) ∧ ∀ s o, o.sent = false → CopiesUnit s o :=
  ⟨eventCompletes_engineEvent, resolves, fun _ _ => copiesUnit_of_unsent⟩

/-! A copy that is marked as waiting for a word sent, though its destination is no channel: `CopiesUnit` does not exclude it. -/

/-- A shape of four units, over everything. -/
def fourUnits (a : W64) : Shape := ⟨placeCode.withCursor a, [4, 1, 1, 1], [1, 0, 0, 0], 1, 0, none, 0x1000, 0⟩

/-- A copy inside the local store of core 0 that is marked so, ready for its first element. -/
def sentCopy : CopyOp where
  head := ⟨placeCtx, none, 0, 0, 0, 0, 0, 0, false, 0, 1, [], false, []⟩
  kind := .cpy
  dst := fourUnits 0x8000
  src := some (fourUnits 0x9000)
  k := 0
  n := 4
  fmts := some (some ⟨0, 0⟩, some ⟨0, 0⟩)
  sent := true
  pause := none
  buf := []
  flits := 0
  acked := 0
  comp := none
  ending := none
  restriped := false
  replayed := false
  start := 0
  holes := []
  last := false
  out := []

/-- The machine with the whole local store of core 0 bound. -/
def bound0 : State := State.reset.place 32 0

/-- Where its first element comes from. -/
def nearPieces : List Piece := [⟨.localStore 0 0 0 0x9000, 1, none⟩]
/-- Where it goes. -/
def farPieces : List Piece := [⟨.localStore 0 0 0 0x8000, 1, none⟩]

theorem elem_sentCopy_near : bound0.elem sentCopy.head true false (unitIs 1) anywhere (fourUnits 0x9000) 1 0 = .ok nearPieces := rfl

theorem elem_sentCopy_far :
    (bound0.seePieces nearPieces).elem sentCopy.head true true (unitIs 1) sentCopy.place (fourUnits 0x8000) 1 0 = .ok farPieces := rfl

/-- The element is written, but the operation stands still and PROGRESS does not go on. -/
theorem copyStep_sentCopy :
    copyStep bound0 sentCopy = .halt ((bound0.seePieces nearPieces).putPieces farPieces (bound0.getPieces nearPieces)) sentCopy :=
  (copyStep_of_pieces (g := some ⟨0, 0⟩) rfl rfl rfl rfl rfl rfl (by decide) rfl rfl rfl elem_sentCopy_near elem_sentCopy_far).trans
    (if_pos rfl)

/-- Refutes O44: its last clause asks that the copy in `sentCopy` goes on, and `copyStep` leaves it standing still. The clause lacks
the hypothesis `o.sent = false`; with it all of O44 holds (`engineEvents_of_unsent`). -/
theorem not_engineEvents : ¬ Obligations.EngineEvents := by
  intro ⟨_, _, hcopies⟩
  have hgo := hcopies bound0 sentCopy _ _ (some ⟨0, 0⟩) nearPieces farPieces rfl rfl rfl rfl rfl rfl (by decide) rfl rfl rfl
    elem_sentCopy_near elem_sentCopy_far
  rw [copyStep_sentCopy] at hgo
  cases hgo

end Sys2Proof.Proofs.Engines
end

section
/-! PROOFS of the family 07_registers: what reading and writing a register operand does (R46, R171, R183), and what the frame of the
data forms leaves out (R60). -/
namespace Sys2Proof.Proofs.Operands
open Sys2Proof Sys2Proof.Machine Sys2Proof.Laws
open Sys2Proof.Safety

/-! One context changes, memory stays. -/

theorem sameMemory_setCtx (s : State) (c : CtxId) (x : Ctx) : SameMemory s (s.setCtx c x) := ⟨fun _ => rfl, fun _ => rfl⟩

@[simp] theorem here_setCtx_cur (s : State) (x : Ctx) : here (s.setCtx s.cur x) = x := ctx_setCtx_self ..

/-! Reading and writing, one lemma for each kind of register code. -/

/-- R171: g0 discards what is written to it, and reads as zero. -/
theorem reg_setReg_of_write (x : Ctx) (r q : GReg) (v : Reg) :
    (x.setReg r v).reg q = if q = 0 then Reg.zero else if q = r then v else x.reg q := by
  rw [reg_setReg]
  by_cases hq : q = 0
  · subst hq
    rw [if_pos rfl, reg_zero]
    split_ifs with h0 hr
    · rfl
    · exact absurd h0.symm hr
    · rfl
  · rw [if_neg hq]
    split_ifs with h hr
    · exact absurd (h.trans hr) hq
    · rfl
    · rfl

theorem read_g (s : State) (r : GReg) : read (.g r) s = .ok ((here s).reg r, s) := rfl

theorem read_q {s : State} {n : Fin 8} {w : W64} {ws : List W64} (h : ((here s).queue n).items = w :: ws) :
    read (.q n) s = .ok (Reg.data w, s.setCtx s.cur ((here s).setQueue n ⟨((here s).queue n).depth, ws⟩)) := by
  simp only [here] at h
  simp only [Machine.read, here, h]

theorem write_q {s : State} {n : Fin 8} (iw : W64) (v : Reg) (h : ((here s).queue n).items.length < ((here s).queue n).depth) :
    write iw (.q n) v s = .ok ((), s.setCtx s.cur
      ((here s).setQueue n ⟨((here s).queue n).depth, ((here s).queue n).items ++ [v.lo]⟩)) := by
  simp only [here] at h
  simp only [write, here, if_pos h]

theorem read_p {s : State} {m : Fin 4} {w : W64} {ws : List W64} (h : ((here s).port m).latch = w :: ws) :
    read (.p m) s = .ok (Reg.data w, s.setCtx s.cur ((here s).setPort m { (here s).port m with latch := ws })) := by
  simp only [here] at h
  simp only [Machine.read, here, h]

/-- Settles O3: each clause is the equation of `read` or `write` for its kind of code. -/
theorem operandAccess : Obligations.OperandAccess := by
  refine ⟨reg_setReg_of_write, read_g, fun s n w ws h => ⟨_, read_q h, ?_, sameMemory_setCtx ..⟩,
    fun s n iw v h => ⟨_, write_q iw v h, ?_, sameMemory_setCtx ..⟩, fun s m w ws h => ⟨_, read_p h, ?_, sameMemory_setCtx ..⟩⟩
  · rw [here_setCtx_cur, queue_setQueue_self]
  · rw [here_setCtx_cur, queue_setQueue_self]
  · rw [here_setCtx_cur, port_setPort_self]

/-! The frame of the data forms. -/

/-- The first context of the first core in the last repetition of a REP over ADD g5, g6, g7 (R60). -/
def lastRepetition : State :=
  State.reset.modCtx ⟨0, 0, 0⟩ fun x => { x with repc := 1, repi := 2, rep := some ⟨0x0038C281, 4, 1⟩ }

/-- An instruction of the last repetition ends the REP that its context keeps. -/
theorem rep_advance_of_last {x y : Ctx} {n : Nat} (hlast : x.repc = 1) (h : x.advance n = .ok y) : y.rep = none := by
  have hclose : ∀ {z y : Ctx} {a b : W64}, z.closeLoop a b = .ok y → y.rep = z.rep := by
    intro z y a b h
    unfold Ctx.closeLoop at h
    split_ifs at h
    all_goals
      cases h
      rfl
  rw [Ctx.advance, if_neg (by rw [hlast]; decide), if_pos hlast] at h
  exact hclose h

/-- Refutes O59: ADD g0, g6, g7 in the last repetition of a REP ends that REP, so the record `rep` of its context is gone behind it.
`SameContext` lists the loop and repeat state that an instruction may change, REPC and REPI among them, without that record. -/
theorem not_dataFrame : ¬ Obligations.DataFrame := by
  intro hframe
  have hstarts : Starts (.add (.g 0) (.g 6) (.g 7)) .closes [.g 6, .g 7] [.g 0, .g 6, .g 7] lastRepetition lastRepetition :=
    ⟨.inl rfl, rfl, rfl, rfl⟩
  obtain ⟨x, hx⟩ : ∃ x, (here lastRepetition).settled.advance (Instr.size (.add (.g 0) (.g 6) (.g 7))) = .ok x := ⟨_, rfl⟩
  have hgoes : GoesOn (.add (.g 0) (.g 6) (.g 7)) (lastRepetition.modCtx lastRepetition.cur fun y => y.setReg 0 (Reg.data
      (two (fun x y => x + y) [((here lastRepetition).reg 6).lo, ((here lastRepetition).reg 7).lo])))
      (lastRepetition.setCtx lastRepetition.cur x) := ⟨x, hx, rfl⟩
  obtain ⟨_, _, _, hcontext, _⟩ := hframe (.add (.g 0) (.g 6) (.g 7)) [6, 7] 0 (two (fun x y => x + y)) _ _ rfl hstarts hgoes
  have hkept : (here (lastRepetition.setCtx lastRepetition.cur x)).rep = (here lastRepetition).rep := by rw [hcontext]
  rw [here_setCtx_cur, rep_advance_of_last rfl hx] at hkept
  cases hkept

end Sys2Proof.Proofs.Operands
end

section
/-! PROOFS of the family 07_registers: the CAP instructions complete with the result of their table, or trap (R180 to R182). -/
namespace Sys2Proof.Proofs.Capabilities
open Sys2Proof Sys2Proof.Machine Sys2Proof.Laws
open Sys2Proof.Safety

/-! Checks: each gives a register or raises a trap, and neither reads nor changes the state. -/

/-- The causes of a check of R180 or R181 that fails. -/
def Refuses (c : Cause) : Prop := c = .capTag ∨ c = .capSealed ∨ c = .capBounds ∨ c = .capPerm

/-- A check gives what a table gives, or raises one of the four causes where the table gives nothing. -/
def Checks (m : M Reg) (o : Option Reg) : Prop :=
  match o with
  | some r => m = pure r
  | none => ∃ c v, Refuses c ∧ m = raise c v

theorem checks_raise {c : Cause} (v : W64) (h : Refuses c) : Checks (raise c v) none := ⟨c, v, h, rfl⟩

theorem raise_bind {α β : Type} (c : Cause) (v : W64) (f : α → M β) : (raise c v >>= f) = raise c v := rfl

theorem ite_bind {α β : Type} {p : Prop} [Decidable p] (m n : M α) (f : α → M β) :
    ((if p then m else n) >>= f) = if p then m >>= f else n >>= f := apply_ite (· >>= f) p m n

section
variable {tags : List (BitVec 2)} {changes : Bool} {r : Reg}

theorem wantTag_of_mem (h : r.tag ∈ tags) : wantTag tags changes r = pure () := by
  rw [wantTag, if_pos (List.contains_iff_mem.mpr h)]

theorem wantTag_of_sealed (h : r.tag ∉ tags) (hsealed : r.tag = 3) : wantTag tags true r = raise .capSealed r.lo := by
  rw [wantTag, if_neg (mt List.contains_iff_mem.mp h), if_pos (by simp [hsealed])]

/-- A register without a tag that is asked for is refused, whatever its check is to go on with. -/
theorem checks_of_not_mem (h : r.tag ∉ tags) (m : M Reg) : Checks (wantTag tags changes r >>= fun _ => m) none := by
  rw [wantTag, if_neg (mt List.contains_iff_mem.mp h)]
  split
  · exact checks_raise _ (.inr (.inl rfl))
  · exact checks_raise _ (.inl rfl)

end

/-! What a member makes of the registers that it has read. -/

/-- A member that wants a tag, and then is sure of its result. -/
def tagged (tags : List (BitVec 2)) (f : Reg → Reg) (r : Reg) : M Reg := wantTag tags false r >>= fun _ => pure (f r)

theorem checks_tagged_any (f : Reg → Reg) (r : Reg) : Checks (tagged anyTag f r) (some (f r)) := by
  have h : r.tag ∈ anyTag := by
    generalize r.tag = t
    revert t
    decide
  rw [tagged, wantTag_of_mem h]
  rfl

theorem checks_tagged_isCap (f : Reg → Reg) (r : Reg) :
    Checks (tagged [1, 3] f r) (if r.tag = 1 ∨ r.tag = 3 then some (f r) else none) := by
  split
  · next h =>
    rw [tagged, wantTag_of_mem (by simpa using h)]
    rfl
  · next h => exact checks_of_not_mem (by simpa using h) _

theorem checks_moveCursor (r : Reg) (n : W64) : Checks (moveCursor r n) (moved r n) := by
  unfold moveCursor moved
  by_cases hdata : r.tag = 0
  · rw [wantTag_of_mem (by simp [hdata]), if_pos hdata, pure_bind, if_pos hdata]
    rfl
  · by_cases hcap : r.tag = 1
    · rw [wantTag_of_mem (by simp [hcap]), pure_bind, if_neg hdata, if_neg hdata]
      cases representable r n with
      | false =>
        rw [if_pos rfl, if_neg (by simp)]
        exact checks_raise _ (.inr (.inr (.inl rfl)))
      | true =>
        rw [if_neg (by decide), if_pos ⟨hcap, rfl⟩]
        rfl
    · rw [if_neg hdata, if_neg hdata, if_neg (not_and_of_not_left _ hcap)]
      refine checks_of_not_mem ?_ _
      simp only [List.mem_cons, List.not_mem_nil, hdata, hcap, or_self, not_false_eq_true]

theorem checks_narrow (r : Reg) (v : Nat) (rounded : Bool) : Checks (narrow r v rounded) (narrowed r v rounded) := by
  unfold narrow narrowed
  dsimp only
  generalize (if rounded = true then roundBounds 8 r.lo.toNat (r.lo.toNat + v) else (r.lo.toNat, r.lo.toNat + v)) = bt
  have hrefused : Refuses .capBounds := .inr (.inr (.inl rfl))
  by_cases hcap : r.tag = 1
  · rw [wantTag_of_mem (by simp [hcap]), pure_bind]
    by_cases hinside : capBase r ≤ bt.1 ∧ bt.2 ≤ capTop r
    · rw [if_neg (by omega), if_pos ⟨hcap, hinside⟩]
      cases encodeBounds bt.1 bt.2 with
      | none => exact checks_raise _ hrefused
      | some e =>
        dsimp only
        split
        · rfl
        · exact checks_raise _ hrefused
    · rw [if_pos (by omega), if_neg (not_and_of_not_right _ hinside)]
      exact checks_raise _ hrefused
  · rw [if_neg (not_and_of_not_left _ hcap)]
    exact checks_of_not_mem (mt List.mem_singleton.mp hcap) _

/-- CSEAL (R181): the source must be unsealed, and the sealing capability one of its owner with SE. -/
def sealedBy (r k : Reg) : M Reg := do
  wantTag [1] true r
  if k.tag ≠ 1 then raise .capTag k.lo
  else if lacks k permSE ∨ k.owner ≠ r.owner then raise .capPerm k.lo
  else pure (withOtype r 3 3)

theorem checks_seal (r k : Reg) : Checks (sealedBy r k)
    (if r.tag = 1 ∧ k.tag = 1 ∧ lacks k permSE = false ∧ k.owner = r.owner then some (withOtype r 3 3) else none) := by
  unfold sealedBy
  by_cases hcap : r.tag = 1
  · rw [wantTag_of_mem (by simp [hcap]), pure_bind]
    by_cases hkey : k.tag = 1
    · rw [if_neg (not_not.mpr hkey)]
      by_cases hmay : lacks k permSE = false ∧ k.owner = r.owner
      · rw [if_neg (by simp [hmay]), if_pos ⟨hcap, hkey, hmay⟩]
        rfl
      · rw [if_pos (by grind), if_neg fun ⟨_, _, h⟩ => hmay h]
        exact checks_raise _ (.inr (.inr (.inr rfl)))
    · rw [if_pos hkey, if_neg fun ⟨_, h, _⟩ => hkey h]
      exact checks_raise _ (.inl rfl)
  · rw [if_neg (not_and_of_not_left _ hcap)]
    exact checks_of_not_mem (mt List.mem_singleton.mp hcap) _

/-- CUNSEAL (R181): the source must be sealed with OTYPE 3, and the unsealing capability one of its owner with US. -/
def unsealedBy (r k : Reg) : M Reg := do
  wantTag [3] false r
  if r.otype ≠ 3 then raise .capSealed r.lo
  else if k.tag ≠ 1 then raise .capTag k.lo
  else if lacks k permUS ∨ k.owner ≠ r.owner then raise .capPerm k.lo
  else pure (withOtype r 0 1)

theorem checks_unseal (r k : Reg) : Checks (unsealedBy r k)
    (if r.tag = 3 ∧ r.otype = 3 ∧ k.tag = 1 ∧ lacks k permUS = false ∧ k.owner = r.owner then some (withOtype r 0 1)
      else none) := by
  unfold unsealedBy
  by_cases hsealed : r.tag = 3
  · rw [wantTag_of_mem (by simp [hsealed]), pure_bind]
    by_cases htype : r.otype = 3
    · rw [if_neg (not_not.mpr htype)]
      by_cases hkey : k.tag = 1
      · rw [if_neg (not_not.mpr hkey)]
        by_cases hmay : lacks k permUS = false ∧ k.owner = r.owner
        · rw [if_neg (by simp [hmay]), if_pos ⟨hsealed, htype, hkey, hmay⟩]
          rfl
        · rw [if_pos (by grind), if_neg fun ⟨_, _, _, h⟩ => hmay h]
          exact checks_raise _ (.inr (.inr (.inr rfl)))
      · rw [if_pos hkey, if_neg fun ⟨_, _, h, _⟩ => hkey h]
        exact checks_raise _ (.inl rfl)
    · rw [if_pos htype, if_neg fun ⟨_, h, _⟩ => htype h]
      exact checks_raise _ (.inr (.inl rfl))
  · rw [if_neg (not_and_of_not_left _ hsealed)]
    exact checks_of_not_mem (mt List.mem_singleton.mp hsealed) _

/-- CTSUB (R181): the difference of two cursors. -/
def apart (r k : Reg) : M Reg := do
  wantTag [1] false r
  if k.tag ≠ 1 then raise .capTag k.lo
  else pure (Reg.data (r.lo - k.lo))

theorem checks_apart (r k : Reg) :
    Checks (apart r k) (if r.tag = 1 ∧ k.tag = 1 then some (Reg.data (r.lo - k.lo)) else none) := by
  unfold apart
  by_cases hcap : r.tag = 1
  · rw [wantTag_of_mem (by simp [hcap]), pure_bind]
    by_cases hkey : k.tag = 1
    · rw [if_neg (not_not.mpr hkey), if_pos ⟨hcap, hkey⟩]
      rfl
    · rw [if_pos hkey, if_neg (not_and_of_not_right _ hkey)]
      exact checks_raise _ (.inl rfl)
  · rw [if_neg (not_and_of_not_left _ hcap)]
    exact checks_of_not_mem (mt List.mem_singleton.mp hcap) _

/-! A member as a whole: it reads its operands, checks them, and writes what the check gives. -/

/-- The body of a member whose check is given its context and what it has read. -/
def capBody (w : W64) (rs : List RegCode) (d : RegCode) (check : Ctx → List Reg → M Reg) : M Machine.Flow := do
  let vs ← takeAll rs
  let x ← me
  let r ← check x vs
  write w d r
  pure .next

/-- A member is run with that body. -/
def Derives (i : Instr) (rs : List RegCode) (d : RegCode) (check : Ctx → List Reg → M Reg) : Prop :=
  ∀ s, exec i s = run i rs (d :: rs) (capBody (Instr.word i) rs d check) s

section
variable {i : Instr} {rs : List RegCode} {d : RegCode} {check : Ctx → List Reg → M Reg} {s s1 t u v : State} {vs : List Reg}

theorem capBody_of_takeAll (w : W64) (h : takeAll rs s1 = .ok (vs, t)) :
    capBody w rs d check s1 = (check (here t) vs >>= fun r => write w d r >>= fun _ => pure .next) t := by
  simp only [capBody, bind, StateT.bind, Except.bind, h, me, here]

theorem Derives.next {r : Reg} (hderives : Derives i rs d check) (hstarts : Starts i .closes rs (d :: rs) s s1)
    (htake : takeAll rs s1 = .ok (vs, t)) (hcheck : check (here t) vs = pure r)
    (hwrite : write (Instr.word i) d r t = .ok ((), u)) (hgoes : GoesOn i u v) : exec i s = .next v := by
  rw [hderives]
  refine run_next hstarts ?_ hgoes
  rw [capBody_of_takeAll _ htake, hcheck, pure_bind]
  exact Order.bind_ok hwrite

theorem Derives.trap {c : Cause} {w : W64} (hderives : Derives i rs d check) (hstarts : Starts i .closes rs (d :: rs) s s1)
    (htake : takeAll rs s1 = .ok (vs, t)) (hcheck : check (here t) vs = raise c w) :
    exec i s = .next (s1.takeTrap s.cur ⟨c, w, 0, false⟩) := by
  rw [hderives]
  refine run_trap hstarts ?_
  rw [capBody_of_takeAll _ htake, hcheck]
  rfl

end

/-- The check of a member that reads one register. -/
def onOne (m : Reg → M Reg) (_ : Ctx) (vs : List Reg) : M Reg := match vs with
  | [r] => m r
  | _ => pure Reg.zero
/-- The check of a member that reads two registers. -/
def onTwo (m : Reg → Reg → M Reg) (_ : Ctx) (vs : List Reg) : M Reg := match vs with
  | [r, k] => m r k
  | _ => pure Reg.zero
/-- The check of a member whose one source is a general register. -/
def onReg (a : GReg) (m : Reg → M Reg) (x : Ctx) (_ : List Reg) : M Reg := m (x.reg a)

theorem capBody_onOne (w : W64) (d a : RegCode) (m : Reg → M Reg) :
    capBody w [a] d (onOne m) = (do let r ← read a; let y ← m r; write w d y; pure .next) := by
  funext s
  simp only [capBody, takeAll, onOne, me, bind, StateT.bind, Except.bind, pure, StateT.pure, Except.pure]
  cases read a s
  · rfl
  · rfl

theorem capBody_onTwo (w : W64) (d a b : RegCode) (m : Reg → Reg → M Reg) :
    capBody w [a, b] d (onTwo m) = (do let r ← read a; let k ← read b; let y ← m r k; write w d y; pure .next) := by
  funext s
  simp only [capBody, takeAll, onTwo, me, bind, StateT.bind, Except.bind, pure, StateT.pure, Except.pure]
  cases read a s with
  | error e => rfl
  | ok p =>
    dsimp only
    cases read b p.2
    · rfl
    · rfl

theorem capBody_onReg (w : W64) (d : RegCode) (a : GReg) (m : Reg → M Reg) :
    capBody w [] d (onReg a m) = (do let r ← greg a; let y ← m r; write w d y; pure .next) := rfl

/-- A member that reads a field. -/
theorem derives_field {i : Instr} {d a : RegCode} {tags : List (BitVec 2)} {f : Reg → W64}
    (h : ∀ s, exec i s = capField i d a tags f s) : Derives i [a] d (onOne (tagged tags fun r => Reg.data (f r))) := by
  intro s
  rw [h, capBody_onOne]
  simp only [capField, tagged, writeData, bind_assoc, pure_bind]

section
variable (d a b : RegCode)

theorem derives_cseta : Derives (.cseta d a b) [a, b] d (onTwo fun r v => moveCursor r v.lo) := by
  intro s
  rw [capBody_onTwo]
  change execCseta d a b s = _
  simp only [execCseta, readData, bind_assoc, pure_bind]

theorem derives_cinc : Derives (.cinc d a b) [a, b] d (onTwo fun r v => moveCursor r (r.lo + v.lo)) := by
  intro s
  rw [capBody_onTwo]
  change execCinc d a b s = _
  simp only [execCinc, readData, bind_assoc, pure_bind]

theorem derives_csetb : Derives (.csetb d a b) [a, b] d (onTwo fun r v => narrow r v.lo.toNat false) := by
  intro s
  rw [capBody_onTwo]
  change execCsetb d a b s = _
  simp only [execCsetb, readData, bind_assoc, pure_bind]

theorem derives_csetbr : Derives (.csetbr d a b) [a, b] d (onTwo fun r v => narrow r v.lo.toNat true) := by
  intro s
  rw [capBody_onTwo]
  change execCsetbr d a b s = _
  simp only [execCsetbr, readData, bind_assoc, pure_bind]

theorem derives_candp :
    Derives (.candp d a b) [a, b] d (onTwo fun r v => tagged [1, 3] (fun r => withPerms r (r.perms &&& v.lo.setWidth 12)) r) := by
  intro s
  rw [capBody_onTwo]
  change execCandp d a b s = _
  simp only [execCandp, tagged, readData, bind_assoc, pure_bind]

theorem derives_cseal : Derives (.cseal d a b) [a, b] d (onTwo sealedBy) := by
  intro s
  rw [capBody_onTwo]
  change execCseal d a b s = _
  simp only [execCseal, sealedBy, bind_assoc, ite_bind, raise_bind, pure_bind]

theorem derives_cunseal : Derives (.cunseal d a b) [a, b] d (onTwo unsealedBy) := by
  intro s
  rw [capBody_onTwo]
  change execCunseal d a b s = _
  simp only [execCunseal, unsealedBy, bind_assoc, ite_bind, raise_bind, pure_bind]

theorem derives_ctsub : Derives (.ctsub d a b) [a, b] d (onTwo apart) := by
  intro s
  rw [capBody_onTwo]
  change execCtsub d a b s = _
  simp only [execCtsub, apart, writeData, bind_assoc, ite_bind, raise_bind, pure_bind]

end

theorem checks_onOne {m : Reg → M Reg} {g : Reg → Option Reg} (h : ∀ r, Checks (m r) (g r)) (x : Ctx) (vs : List Reg)
    (hvs : vs.length = 1) : Checks (onOne m x vs) (rone g vs) := by
  obtain ⟨r, rfl⟩ := List.length_eq_one_iff.mp hvs
  exact h r

theorem checks_onTwo {m : Reg → Reg → M Reg} {g : Reg → Reg → Option Reg} (h : ∀ r k, Checks (m r k) (g r k)) (x : Ctx)
    (vs : List Reg) (hvs : vs.length = 2) : Checks (onTwo m x vs) (rtwo g vs) := by
  obtain ⟨r, k, rfl⟩ := List.length_eq_two.mp hvs
  exact h r k

/-- A member of the table is run with a check that gives what the table gives. -/
theorem derives_of_capForm {i : Instr} {rs : List RegCode} {d : RegCode} {f : Ctx → List Reg → Option Reg}
    (h : capForm i = some (rs, d, f)) :
    ∃ check, Derives i rs d check ∧ ∀ x vs, vs.length = rs.length → Checks (check x vs) (f x vs) := by
  unfold capForm at h
  split at h
  case h_1 => cases h; exact ⟨_, derives_field fun _ => rfl, checks_onOne (checks_tagged_any _)⟩
  case h_2 => cases h; exact ⟨_, derives_field fun _ => rfl, checks_onOne (checks_tagged_isCap _)⟩
  case h_3 => cases h; exact ⟨_, derives_field fun _ => rfl, checks_onOne (checks_tagged_isCap _)⟩
  case h_4 => cases h; exact ⟨_, derives_field fun _ => rfl, checks_onOne (checks_tagged_isCap _)⟩
  case h_5 => cases h; exact ⟨_, derives_field fun _ => rfl, checks_onOne (checks_tagged_isCap _)⟩
  case h_6 => cases h; exact ⟨_, derives_field fun _ => rfl, checks_onOne (checks_tagged_any _)⟩
  case h_7 => cases h; exact ⟨_, derives_cseta _ _ _, checks_onTwo fun _ _ => checks_moveCursor ..⟩
  case h_8 => cases h; exact ⟨_, derives_cinc _ _ _, checks_onTwo fun _ _ => checks_moveCursor ..⟩
  case h_9 => cases h; exact ⟨_, derives_csetb _ _ _, checks_onTwo fun _ _ => checks_narrow ..⟩
  case h_10 => cases h; exact ⟨_, derives_csetbr _ _ _, checks_onTwo fun _ _ => checks_narrow ..⟩
  case h_11 => cases h; exact ⟨_, derives_candp _ _ _, checks_onTwo fun _ _ => checks_tagged_isCap (fun _ => _) _⟩
  case h_12 => cases h; exact ⟨_, derives_cseal _ _ _, checks_onTwo checks_seal⟩
  case h_13 => cases h; exact ⟨_, derives_cunseal _ _ _, checks_onTwo checks_unseal⟩
  case h_14 => cases h; exact ⟨_, derives_field fun _ => rfl, checks_onOne (checks_tagged_any _)⟩
  case h_15 => cases h; exact ⟨_, derives_ctsub _ _ _, checks_onTwo checks_apart⟩
  case h_16 => cases h; exact ⟨onOne pure, fun s => by rw [capBody_onOne]; rfl, checks_onOne fun _ => rfl⟩
  case h_17 a len => cases h; exact ⟨onReg a fun r => narrow r len.toNat false, fun _ => rfl, fun _ _ _ => checks_narrow ..⟩
  case h_18 a k =>
    cases h; exact ⟨onReg a fun r => moveCursor r (r.lo + k.signExtend 64), fun _ => rfl, fun _ _ _ => checks_moveCursor ..⟩
  case h_19 b => cases h; exact ⟨onReg b pure, fun _ => rfl, fun _ _ _ => rfl⟩
  case h_20 => cases h

/-- As many registers are read as are named. -/
theorem length_of_takeAll {rs : List RegCode} {s t : State} {vs : List Reg} (h : takeAll rs s = .ok (vs, t)) :
    vs.length = rs.length := by
  induction rs generalizing s vs with
  | nil => rw [(takeAll_nil h).1]; rfl
  | cons r rs ih =>
    obtain ⟨v, u, ws, _, hrest, rfl⟩ := takeAll_cons h
    rw [List.length_cons, List.length_cons, ih hrest]

theorem capabilityResult : CapabilityResult := by
  intro i rs d f s s1 t u v vs r hform hstarts htake hresult hwrite hgoes
  obtain ⟨check, hderives, hchecks⟩ := derives_of_capForm hform
  have hcheck := hchecks (here t) vs (length_of_takeAll htake)
  rw [hresult] at hcheck
  exact hderives.next hstarts htake hcheck hwrite hgoes

/-- The members that would change a sealed source refuse it (R181). -/
theorem sealed_refused {i : Instr} {d a b : RegCode} {s s1 t : State} {r v : Reg} {m : Reg → Reg → M Reg}
    (hderives : Derives i [a, b] d (onTwo m)) (hm : m r v = raise .capSealed r.lo)
    (hstarts : Starts i .closes [a, b] [d, a, b] s s1) (htake : takeAll [a, b] s1 = .ok ([r, v], t)) :
    exec i s = .next (s1.takeTrap s.cur ⟨.capSealed, r.lo, 0, false⟩) :=
  hderives.trap hstarts htake hm

theorem moveCursor_of_sealed {r : Reg} (n : W64) (h : r.tag = 3) : moveCursor r n = raise .capSealed r.lo := by
  rw [moveCursor, wantTag_of_sealed (by simp [h]) h]
  rfl

theorem narrow_of_sealed {r : Reg} (n : Nat) (rounded : Bool) (h : r.tag = 3) : narrow r n rounded = raise .capSealed r.lo := by
  rw [narrow, wantTag_of_sealed (by simp [h]) h]
  rfl

theorem seal_of_sealed {r : Reg} (k : Reg) (h : r.tag = 3) : sealedBy r k = raise .capSealed r.lo := by
  rw [sealedBy, wantTag_of_sealed (by simp [h]) h]
  rfl

theorem capabilityTraps : CapabilityTraps := by
  refine ⟨fun i rs d f s s1 t vs hform hstarts htake hresult => ?_, fun i d a b s s1 t r v hi hstarts htake hsealed => ?_⟩
  · obtain ⟨check, hderives, hchecks⟩ := derives_of_capForm hform
    have hcheck := hchecks (here t) vs (length_of_takeAll htake)
    rw [hresult] at hcheck
    obtain ⟨c, w, hrefuses, hraise⟩ := hcheck
    exact ⟨c, w, hrefuses, hderives.trap hstarts htake hraise⟩
  · obtain rfl | rfl | rfl | rfl | rfl := hi
    · exact (derives_cseta d a b).trap hstarts htake (moveCursor_of_sealed _ hsealed)
    · exact (derives_cinc d a b).trap hstarts htake (moveCursor_of_sealed _ hsealed)
    · exact (derives_csetb d a b).trap hstarts htake (narrow_of_sealed _ _ hsealed)
    · exact (derives_csetbr d a b).trap hstarts htake (narrow_of_sealed _ _ hsealed)
    · exact (derives_cseal d a b).trap hstarts htake (seal_of_sealed _ hsealed)

/-- Settles O6: each member is run with a check that gives a register where the table does, and raises a trap where it does not. -/
theorem capabilityForms : Obligations.CapabilityForms := ⟨capabilityResult, capabilityTraps⟩

end Sys2Proof.Proofs.Capabilities
end

section
/-! PROOFS of the family 07_registers: bounds that encode decode again (R175, R176). -/
namespace Sys2Proof.Proofs.Bounds
open Sys2Proof Sys2Proof.Machine Sys2Proof.Laws
open Sys2Proof.Safety

/-! Fields of a register behind an update (R174). -/

section
variable (r : Reg)

@[simp] theorem lo_withCursor (n : W64) : (r.withCursor n).lo = n := by
  refine BitVec.eq_of_getLsbD_eq fun i hi => ?_
  simp [Reg.withCursor, Reg.lo, hi]

/-- A field above the cursor. -/
theorem field_withCursor (n : W64) {l : Nat} (w : Nat) (hl : 64 ≤ l) :
    (r.withCursor n).bits.extractLsb' l w = r.bits.extractLsb' l w := by
  refine BitVec.eq_of_getLsbD_eq fun i hi => ?_
  simp only [Reg.withCursor, BitVec.getLsbD_extractLsb', BitVec.getLsbD_or, BitVec.getLsbD_shiftLeft, BitVec.getLsbD_ushiftRight,
    BitVec.getLsbD_setWidth]
  grind

@[simp] theorem fields_withCursor (n : W64) :
    (r.withCursor n).sh = r.sh ∧ (r.withCursor n).bm = r.bm ∧ (r.withCursor n).lm = r.lm ∧ (r.withCursor n).perms = r.perms ∧
      (r.withCursor n).owner = r.owner := by
  refine ⟨?_, ?_, ?_, field_withCursor r n 12 (by decide), field_withCursor r n 12 (by decide)⟩
  · rw [Reg.sh, field_withCursor r n 6 (by decide), Reg.sh]
  · rw [Reg.bm, field_withCursor r n 15 (by decide), Reg.bm]
  · rw [Reg.lm, field_withCursor r n 15 (by decide), Reg.lm]

/-- A number of `k` bits that is put at bit `l` has no bits elsewhere. -/
theorem getLsbD_shifted {m k l : Nat} (hm : m < 2 ^ k) {i : Nat} (hi : i < l ∨ l + k ≤ i) :
    (BitVec.ofNat 128 (m * 2 ^ l)).getLsbD i = false := by
  rw [BitVec.getLsbD_ofNat, Nat.testBit_mul_two_pow]
  rcases hi with hi | hi
  · simp [Nat.not_le.mpr hi]
  · rw [Nat.testBit_lt_two_pow (hm.trans_le (Nat.pow_le_pow_right (by decide) (by omega))), Bool.and_false, Bool.and_false]

theorem getLsbD_boundMask (i : Nat) :
    (BitVec.ofNat 128 (0xFFFFFFFFF * 2 ^ 64)).getLsbD i = (decide (64 ≤ i) && decide (i < 100)) := by
  by_cases hi : i < 64 ∨ 100 ≤ i
  · rw [getLsbD_shifted (k := 36) (by decide) hi]
    grind
  · rw [BitVec.getLsbD_ofNat, Nat.testBit_mul_two_pow, show (0xFFFFFFFFF : Nat) = 2 ^ 36 - 1 from rfl, Nat.testBit_two_pow_sub_one]
    grind

end

/-- The bound fields as one number, from bit 64 on. -/
def boundNat (e : Nat × Nat × Nat) : Nat := e.1 * 2 ^ 30 + e.2.1 * 2 ^ 15 + e.2.2

/-- Bounds whose numbers fit in their fields. -/
def Fits (e : Nat × Nat × Nat) : Prop := e.1 < 2 ^ 6 ∧ e.2.1 < 2 ^ 15 ∧ e.2.2 < 2 ^ 15

section
variable (r : Reg) {e : Nat × Nat × Nat}

theorem withBounds_bits (e : Nat × Nat × Nat) : (withBounds r e).bits =
    (r.bits &&& ~~~(BitVec.ofNat 128 (0xFFFFFFFFF * 2 ^ 64))) ||| BitVec.ofNat 128 (boundNat e * 2 ^ 64) := by
  have h : e.1 * 2 ^ 94 + e.2.1 * 2 ^ 79 + e.2.2 * 2 ^ 64 = boundNat e * 2 ^ 64 := by
    rw [boundNat]
    omega
  rw [withBounds, h]

variable (he : Fits e)
include he

theorem boundNat_lt : boundNat e < 2 ^ 36 := by
  obtain ⟨h1, h2, h3⟩ := he
  rw [boundNat]
  omega

/-- A field outside the bounds. -/
theorem field_withBounds {l w : Nat} (h : l + w ≤ 64 ∨ 100 ≤ l) :
    (withBounds r e).bits.extractLsb' l w = r.bits.extractLsb' l w := by
  refine BitVec.eq_of_getLsbD_eq fun i hi => ?_
  rw [withBounds_bits]
  simp only [BitVec.getLsbD_extractLsb', BitVec.getLsbD_or, BitVec.getLsbD_and, BitVec.getLsbD_not, getLsbD_boundMask,
    getLsbD_shifted (boundNat_lt he) (l := 64) (i := l + i) (by omega), Bool.or_false]
  grind

/-- A field inside the bounds. -/
theorem field_withBounds_inside {l w : Nat} (hl : 64 ≤ l) (hw : l + w ≤ 100) :
    ((withBounds r e).bits.extractLsb' l w).toNat = boundNat e / 2 ^ (l - 64) % 2 ^ w := by
  have h : (withBounds r e).bits.extractLsb' l w = (BitVec.ofNat 128 (boundNat e * 2 ^ 64)).extractLsb' l w := by
    refine BitVec.eq_of_getLsbD_eq fun i hi => ?_
    rw [withBounds_bits]
    simp only [BitVec.getLsbD_extractLsb', BitVec.getLsbD_or, BitVec.getLsbD_and, BitVec.getLsbD_not, getLsbD_boundMask,
      decide_eq_true (show 64 ≤ l + i by omega), decide_eq_true (show l + i < 100 by omega), Bool.and_true, Bool.not_true,
      Bool.and_false, Bool.false_or]
  have hlt := boundNat_lt he
  rw [h, BitVec.extractLsb'_toNat, BitVec.toNat_ofNat, Nat.mod_eq_of_lt (show boundNat e * 2 ^ 64 < 2 ^ 128 by omega),
    Nat.shiftRight_eq_div_pow]
  obtain ⟨k, rfl⟩ := Nat.exists_eq_add_of_le hl
  rw [Nat.pow_add, Nat.mul_comm, Nat.mul_div_mul_left _ _ (by decide), Nat.add_sub_cancel_left]

@[simp] theorem lo_withBounds : (withBounds r e).lo = r.lo := by
  refine BitVec.eq_of_getLsbD_eq fun i hi => ?_
  have h := congrArg (·.getLsbD i) (field_withBounds r he (l := 0) (w := 64) (.inl (by decide)))
  simpa [Reg.lo, hi] using h

theorem fields_withBounds : (withBounds r e).sh = e.1 ∧ (withBounds r e).bm = e.2.1 ∧ (withBounds r e).lm = e.2.2 := by
  have ⟨h1, h2, h3⟩ := he
  refine ⟨?_, ?_, ?_⟩
  · rw [Reg.sh, field_withBounds_inside r he (by decide) (by decide), boundNat]
    omega
  · rw [Reg.bm, field_withBounds_inside r he (by decide) (by decide), boundNat]
    omega
  · rw [Reg.lm, field_withBounds_inside r he (by decide) (by decide), boundNat]
    omega

theorem rights_withBounds : (withBounds r e).perms = r.perms ∧ (withBounds r e).owner = r.owner :=
  ⟨field_withBounds r he (.inr (by decide)), field_withBounds r he (.inr (by decide))⟩

end

/-! The base that a cursor decodes to (R175). -/

/-- How far a cursor stands above the first one of its window, in units of the shift. -/
def distance (bm c : Nat) : Nat := (c + 2 ^ 15 + 4096 - bm) % 2 ^ 15

/-- The base that SH and BM stand for where the cursor is `n`. -/
def baseAt (sh bm n : Nat) : Nat := (n / 2 ^ sh + 4096 + 2 ^ 64 - distance bm (n / 2 ^ sh)) * 2 ^ sh % 2 ^ 64

theorem capBounds_eq (r : Reg) : capBounds r = if r.sh = 63 then (0, 2 ^ 64)
    else (baseAt r.sh r.bm r.lo.toNat, baseAt r.sh r.bm r.lo.toNat + r.lm * 2 ^ r.sh) := rfl

/-- A cursor in the window of a base (R175). -/
def Window (sh base n : Nat) : Prop := (n + 2 ^ 64 - base + 4096 * 2 ^ sh) % 2 ^ 64 < 32768 * 2 ^ sh

theorem representable_iff (r : Reg) (n : W64) : representable r n = true ↔ Window r.sh (capBase r) n.toNat := decide_eq_true_iff

section
variable {sh bm n base : Nat}

theorem distance_lt (c : Nat) : distance bm c < 2 ^ 15 := Nat.mod_lt _ (by decide)

theorem baseAt_lt : baseAt sh bm n < 2 ^ 64 := Nat.mod_lt _ (by decide)

/-- The quotient that a base is decoded from has the low bits of BM. -/
theorem quotient_modEq (c : Nat) (hbm : bm < 2 ^ 15) :
    c + 4096 + 2 ^ 64 - distance bm c ≡ bm [MOD 2 ^ 15] := by
  rw [Nat.ModEq, distance]
  omega

theorem modulus_dvd (h : sh ≤ 49) : 2 ^ 15 * 2 ^ sh ∣ 2 ^ 64 := by
  rw [← Nat.pow_add]
  exact Nat.pow_dvd_pow 2 (by omega)

/-- The low bits of a base are BM. -/
theorem baseAt_modEq (h : sh ≤ 49) (hbm : bm < 2 ^ 15) : baseAt sh bm n ≡ bm * 2 ^ sh [MOD 2 ^ 15 * 2 ^ sh] :=
  ((Nat.mod_modEq _ _).of_dvd (modulus_dvd h)).trans ((quotient_modEq _ hbm).mul_right' _)

/-- With a large SH the base does not depend on the cursor. -/
theorem baseAt_of_large (h : 49 ≤ sh) (hbm : bm < 2 ^ 15) : baseAt sh bm n = bm * 2 ^ sh % 2 ^ 64 := by
  have hdvd : 2 ^ 64 ∣ 2 ^ 15 * 2 ^ sh := by
    rw [← Nat.pow_add]
    exact Nat.pow_dvd_pow 2 (by omega)
  exact ((quotient_modEq _ hbm).mul_right' _).of_dvd hdvd

/-- How far the cursor is above the first one of the window, for a base that stands `d` units below it. -/
theorem offset_modEq {b c d y rem p : Nat} (hn : p * c + rem = n) (hy : y + d = c + 4096 + 2 ^ 64) (hb : b < 2 ^ 64)
    (hbase : b ≡ y * p [MOD 2 ^ 64]) : n + 2 ^ 64 - b + 4096 * p ≡ rem + d * p [MOD 2 ^ 64] := by
  refine Nat.ModEq.add_right_cancel hbase ?_
  have hleft : n + 2 ^ 64 - b + 4096 * p + b = n + 4096 * p + 2 ^ 64 := by omega
  have hright : rem + d * p + y * p = n + 4096 * p + 2 ^ 64 * p := by
    rw [← hn]
    linear_combination p * hy
  rw [hleft, hright, Nat.ModEq, Nat.add_mod_right, Nat.add_mul_mod_self_left]

/-- A cursor stands in the window of the base that it decodes. -/
theorem window_baseAt : Window sh (baseAt sh bm n) n := by
  have hd := distance_lt (bm := bm) (n / 2 ^ sh)
  have hrem := Nat.mod_lt n (Nat.two_pow_pos sh)
  have hoffset : n + 2 ^ 64 - baseAt sh bm n + 4096 * 2 ^ sh ≡ n % 2 ^ sh + distance bm (n / 2 ^ sh) * 2 ^ sh [MOD 2 ^ 64] :=
    offset_modEq (Nat.div_add_mod n (2 ^ sh)) (Nat.sub_add_cancel (hd.le.trans (Nat.le_add_left_of_le (by decide)))) baseAt_lt
      (Nat.mod_modEq _ _)
  calc (n + 2 ^ 64 - baseAt sh bm n + 4096 * 2 ^ sh) % 2 ^ 64
      = (n % 2 ^ sh + distance bm (n / 2 ^ sh) * 2 ^ sh) % 2 ^ 64 := hoffset
    _ ≤ n % 2 ^ sh + distance bm (n / 2 ^ sh) * 2 ^ sh := Nat.mod_le _ _
    _ < 2 ^ sh + distance bm (n / 2 ^ sh) * 2 ^ sh := Nat.add_lt_add_right hrem _
    _ = (distance bm (n / 2 ^ sh) + 1) * 2 ^ sh := by ring
    _ ≤ 32768 * 2 ^ sh := Nat.mul_le_mul_right _ hd

/-- Of the numbers with given low bits only one has a given cursor in its window. -/
theorem eq_of_window {b b' : Nat} (h : sh ≤ 49) (hb : b < 2 ^ 64) (hb' : b' < 2 ^ 64) (hlow : b ≡ b' [MOD 2 ^ 15 * 2 ^ sh])
    (hw : Window sh b n) (hw' : Window sh b' n) : b = b' := by
  have hsum : n + 2 ^ 64 - b + 4096 * 2 ^ sh + b = n + 2 ^ 64 - b' + 4096 * 2 ^ sh + b' := by omega
  have hoffset : n + 2 ^ 64 - b + 4096 * 2 ^ sh ≡ n + 2 ^ 64 - b' + 4096 * 2 ^ sh [MOD 2 ^ 15 * 2 ^ sh] :=
    Nat.ModEq.add_right_cancel hlow (congrArg (· % (2 ^ 15 * 2 ^ sh)) hsum)
  have hmod : ∀ x, x % 2 ^ 64 ≡ x [MOD 2 ^ 15 * 2 ^ sh] := fun x => (Nat.mod_modEq x _).of_dvd (modulus_dvd h)
  have heq : n + 2 ^ 64 - b + 4096 * 2 ^ sh ≡ n + 2 ^ 64 - b' + 4096 * 2 ^ sh [MOD 2 ^ 64] :=
    Nat.ModEq.eq_of_lt_of_lt ((hmod _).trans (hoffset.trans (hmod _).symm)) hw hw'
  exact (Nat.ModEq.add_left_cancel heq (congrArg (· % 2 ^ 64) hsum)).eq_of_lt_of_lt hb hb'

/-- The base that a cursor decodes is the one with BM as its low bits that has the cursor in its window. -/
theorem baseAt_eq_of_window (h : sh ≤ 49) (hbm : bm < 2 ^ 15) (hbase : base < 2 ^ 64)
    (hlow : base ≡ bm * 2 ^ sh [MOD 2 ^ 15 * 2 ^ sh]) (hw : Window sh base n) : baseAt sh bm n = base :=
  eq_of_window h baseAt_lt hbase ((baseAt_modEq h hbm).trans hlow.symm) window_baseAt hw

/-- A cursor in the window of a decoded base decodes that base (R175). -/
theorem baseAt_eq_baseAt {m : Nat} (hbm : bm < 2 ^ 15) (hw : Window sh (baseAt sh bm m) n) : baseAt sh bm n = baseAt sh bm m := by
  rcases Nat.le_total sh 49 with h | h
  · exact baseAt_eq_of_window h hbm baseAt_lt (baseAt_modEq h hbm) hw
  · rw [baseAt_of_large h hbm, baseAt_of_large h hbm]

end

/-! Encoding (R176). -/

section
variable {f len len' sh : Nat}

theorem le_encodeShift : sh ≤ encodeShift f len sh := by
  induction f generalizing sh with
  | zero => exact Nat.le_refl _
  | succ f ih =>
    rw [encodeShift]
    split
    · exact (Nat.le_succ _).trans ih
    · exact Nat.le_refl _

/-- The shift holds the length, unless the search has ended. -/
theorem len_le_of_encodeShift (h : encodeShift f len sh < sh + f) : len ≤ 24576 * 2 ^ encodeShift f len sh := by
  induction f generalizing sh with
  | zero => exact absurd h (Nat.lt_irrefl _)
  | succ f ih =>
    rw [encodeShift] at h ⊢
    split at h
    · next hlong =>
      rw [if_pos hlong]
      exact ih (by omega)
    · next hshort =>
      rw [if_neg hshort]
      exact Nat.not_lt.mp hshort

theorem encodeShift_mono (h : len ≤ len') : encodeShift f len sh ≤ encodeShift f len' sh := by
  induction f generalizing sh with
  | zero => exact Nat.le_refl _
  | succ f ih =>
    rw [encodeShift, encodeShift]
    split
    · next hlong => rw [if_pos (Nat.lt_of_lt_of_le hlong h)]; exact ih
    · split
      · exact (Nat.le_succ _).trans le_encodeShift
      · exact Nat.le_refl _

end

/-- What bounds that encode are encoded as: everything, or multiples of a power of two that holds their length. -/
theorem encodeBounds_spec {base top : Nat} {e : Nat × Nat × Nat} (h : encodeBounds base top = some e) :
    (e = (63, 0, 0) ∧ base = 0 ∧ top = 2 ^ 64) ∨
      e.1 = encodeShift 64 (top - base) 0 ∧ e.1 ≤ 49 ∧ top - base ≤ 24576 * 2 ^ e.1 ∧ 2 ^ e.1 ∣ base ∧ 2 ^ e.1 ∣ top ∧
        e.2 = (base / 2 ^ e.1 % 2 ^ 15, (top - base) / 2 ^ e.1) := by
  unfold encodeBounds at h
  dsimp only at h
  split at h
  · split at h
    · next hall =>
      cases h
      exact .inl ⟨rfl, hall⟩
    · cases h
  · next hsmall =>
    split at h
    · cases h
    · next hexact =>
      cases h
      rw [not_or, not_not, not_not] at hexact
      exact .inr ⟨rfl, Nat.not_lt.mp hsmall, len_le_of_encodeShift (by omega), Nat.dvd_of_mod_eq_zero hexact.1,
        Nat.dvd_of_mod_eq_zero hexact.2, rfl⟩

theorem fits_of_encodeBounds {base top : Nat} {e : Nat × Nat × Nat} (h : encodeBounds base top = some e) : Fits e := by
  obtain ⟨rfl, _, _⟩ | ⟨_, hsh, hlen, _, _, he⟩ := encodeBounds_spec h
  · exact ⟨by decide, by decide, by decide⟩
  · refine ⟨by omega, ?_, ?_⟩
    · rw [he]
      exact Nat.mod_lt _ (by decide)
    · rw [he]
      exact (Nat.div_le_of_le_mul (Nat.mul_comm .. ▸ hlen)).trans_lt (by decide)

/-- A register with the fields of bounds that encode, and a cursor in their window, decodes to these bounds. -/
theorem capBounds_of_encodeBounds {q : Reg} {base top : Nat} {e : Nat × Nat × Nat} (h : encodeBounds base top = some e)
    (hle : base ≤ top) (hbase : base < 2 ^ 64) (hsh : q.sh = e.1) (hbm : q.bm = e.2.1) (hlm : q.lm = e.2.2)
    (hw : e.1 = 63 ∨ Window e.1 base q.lo.toNat) : capBounds q = (base, top) := by
  obtain ⟨rfl, rfl, rfl⟩ | ⟨_, hsmall, _, hdvdBase, hdvdTop, he⟩ := encodeBounds_spec h
  · rw [capBounds_eq, if_pos hsh]
  · have hne : q.sh ≠ 63 := by omega
    have hlow : base ≡ base / 2 ^ e.1 % 2 ^ 15 * 2 ^ e.1 [MOD 2 ^ 15 * 2 ^ e.1] := by
      have h := ((Nat.mod_modEq (base / 2 ^ e.1) (2 ^ 15)).mul_right' (2 ^ e.1)).symm
      rwa [Nat.div_mul_cancel hdvdBase] at h
    have hdecoded : baseAt e.1 (base / 2 ^ e.1 % 2 ^ 15) q.lo.toNat = base :=
      baseAt_eq_of_window hsmall (Nat.mod_lt _ (by decide)) hbase hlow (hw.resolve_left (by omega))
    rw [capBounds_eq, if_neg hne, hsh, hbm, hlm, he, hdecoded, Nat.div_mul_cancel (Nat.dvd_sub hdvdTop hdvdBase),
      Nat.add_sub_cancel' hle]

/-- Settles O8: the base with BM as its low bits is the only one that has the cursor in its window. -/
theorem boundsExact : Obligations.BoundsExact := by
  intro r base top e n hle hbase _ hencode hwindow
  have hfits := fits_of_encodeBounds hencode
  obtain ⟨hsh, hbm, hlm⟩ := fields_withBounds r hfits
  obtain ⟨csh, cbm, clm, _, _⟩ := fields_withCursor (withBounds r e) n
  exact capBounds_of_encodeBounds hencode hle hbase (csh.trans hsh) (cbm.trans hbm) (clm.trans hlm)
    (by rw [lo_withCursor]; exact hwindow)

end Sys2Proof.Proofs.Bounds
end

section
/-! PROOFS of the family 07_registers: a derived capability has at most the bounds and permissions of its source, and its owner
(R179). -/
namespace Sys2Proof.Proofs.Monotonic
open Sys2Proof Sys2Proof.Machine Sys2Proof.Laws
open Sys2Proof.Safety
open Sys2Proof.Proofs.Bounds

/-! Fields behind a change of PERMS, and of OTYPE and tag (R174). -/

theorem capBounds_congr {r q : Reg} (hsh : r.sh = q.sh) (hbm : r.bm = q.bm) (hlm : r.lm = q.lm) (hlo : r.lo = q.lo) :
    capBounds r = capBounds q := by
  rw [capBounds_eq, capBounds_eq, hsh, hbm, hlm, hlo]

/-- Two registers that agree in the 100 bits of cursor and bounds stand for the same bounds. -/
theorem capBounds_of_low {r q : Reg} (h : ∀ i < 100, r.bits.getLsbD i = q.bits.getLsbD i) : capBounds r = capBounds q := by
  have hfield : ∀ l w, l + w ≤ 100 → r.bits.extractLsb' l w = q.bits.extractLsb' l w := fun l w hlw => by
    refine BitVec.eq_of_getLsbD_eq fun i hi => ?_
    rw [BitVec.getLsbD_extractLsb', BitVec.getLsbD_extractLsb', h (l + i) (by omega)]
  refine capBounds_congr ?_ ?_ ?_ ?_
  · rw [Reg.sh, hfield 94 6 (by decide), Reg.sh]
  · rw [Reg.bm, hfield 79 15 (by decide), Reg.bm]
  · rw [Reg.lm, hfield 64 15 (by decide), Reg.lm]
  · refine BitVec.eq_of_getLsbD_eq fun i hi => ?_
    rw [Reg.lo, Reg.lo, BitVec.getLsbD_setWidth, BitVec.getLsbD_setWidth, h i (by omega)]

theorem capBounds_withPerms (r : Reg) (p : BitVec 12) : capBounds (withPerms r p) = capBounds r := by
  refine capBounds_of_low fun i hi => ?_
  simp only [withPerms, BitVec.getLsbD_or, BitVec.getLsbD_shiftLeft, BitVec.getLsbD_ushiftRight,
    BitVec.getLsbD_setWidth]
  grind

theorem perms_withPerms (r : Reg) (p : BitVec 12) : (withPerms r p).perms = p := by
  refine BitVec.eq_of_getLsbD_eq fun i hi => ?_
  simp only [withPerms, Reg.perms, BitVec.getLsbD_extractLsb', BitVec.getLsbD_or, BitVec.getLsbD_shiftLeft, BitVec.getLsbD_ushiftRight,
    BitVec.getLsbD_setWidth]
  grind

theorem owner_withPerms (r : Reg) (p : BitVec 12) : (withPerms r p).owner = r.owner := by
  refine BitVec.eq_of_getLsbD_eq fun i hi => ?_
  simp only [withPerms, Reg.owner, BitVec.getLsbD_extractLsb', BitVec.getLsbD_or, BitVec.getLsbD_shiftLeft, BitVec.getLsbD_ushiftRight,
    BitVec.getLsbD_setWidth]
  grind

theorem getLsbD_withOtype (r : Reg) (t : BitVec 4) (tag : BitVec 2) {i : Nat} (hi : i < 100 ∨ 104 ≤ i) :
    (withOtype r t tag).bits.getLsbD i = r.bits.getLsbD i := by
  have hmask := getLsbD_shifted (m := 0xF) (k := 4) (l := 100) (by decide) hi
  simp only [withOtype, BitVec.getLsbD_or, BitVec.getLsbD_and, BitVec.getLsbD_not, BitVec.getLsbD_shiftLeft,
    BitVec.getLsbD_setWidth, hmask]
  grind

theorem capBounds_withOtype (r : Reg) (t : BitVec 4) (tag : BitVec 2) : capBounds (withOtype r t tag) = capBounds r :=
  capBounds_of_low fun _ hi => getLsbD_withOtype r t tag (.inl hi)

theorem rights_withOtype (r : Reg) (t : BitVec 4) (tag : BitVec 2) :
    (withOtype r t tag).perms = r.perms ∧ (withOtype r t tag).owner = r.owner := by
  refine ⟨BitVec.eq_of_getLsbD_eq fun i _ => ?_, BitVec.eq_of_getLsbD_eq fun i _ => ?_⟩
  · rw [Reg.perms, Reg.perms, BitVec.getLsbD_extractLsb', BitVec.getLsbD_extractLsb', getLsbD_withOtype r t tag (.inr (by omega))]
  · rw [Reg.owner, Reg.owner, BitVec.getLsbD_extractLsb', BitVec.getLsbD_extractLsb', getLsbD_withOtype r t tag (.inr (by omega))]

/-! What is derived (R179). -/

/-- A capability, sealed or not, that bounds, permissions and owner of another one hold. -/
structure Under (q r : Reg) : Prop where
  cap : q.tag = 1 ∨ q.tag = 3
  base : capBase q ≤ capBase r
  top : capTop r ≤ capTop q
  perms : r.perms &&& q.perms = r.perms
  owner : r.owner = q.owner

theorem under_of_capBounds {q r : Reg} (hcap : q.tag = 1 ∨ q.tag = 3) (hbounds : capBounds r = capBounds q)
    (hperms : r.perms &&& q.perms = r.perms) (howner : r.owner = q.owner) : Under q r where
  cap := hcap
  base := by rw [capBase, capBase, hbounds]
  top := by rw [capTop, capTop, hbounds]
  perms := hperms
  owner := howner

theorem under_self {r : Reg} (h : r.tag = 1 ∨ r.tag = 3) : Under r r := under_of_capBounds h rfl (BitVec.and_self ..) rfl

theorem under_withPerms {q : Reg} (h : q.tag = 1 ∨ q.tag = 3) (p : BitVec 12) : Under q (withPerms q (q.perms &&& p)) := by
  refine under_of_capBounds h (capBounds_withPerms ..) ?_ (owner_withPerms ..)
  rw [perms_withPerms, BitVec.and_assoc, BitVec.and_comm p, ← BitVec.and_assoc, BitVec.and_self]

theorem under_withOtype {q : Reg} (h : q.tag = 1 ∨ q.tag = 3) (t : BitVec 4) (tag : BitVec 2) : Under q (withOtype q t tag) := by
  obtain ⟨hperms, howner⟩ := rights_withOtype q t tag
  exact under_of_capBounds h (capBounds_withOtype ..) (by rw [hperms, BitVec.and_self]) howner

/-- Data derives from nothing. -/
theorem not_isCap_data (x : W64) : ¬ ((Reg.data x).tag = 1 ∨ (Reg.data x).tag = 3) := by simp [Reg.data]

/-- BM has 15 bits (R174). -/
theorem bm_lt (r : Reg) : r.bm < 2 ^ 15 := BitVec.isLt _

/-- A cursor that moves inside the window leaves the bounds (R175, R181). -/
theorem capBounds_withCursor {q : Reg} {n : W64} (h : representable q n = true) : capBounds (q.withCursor n) = capBounds q := by
  obtain ⟨hsh, hbm, hlm, _, _⟩ := fields_withCursor q n
  have hw := (representable_iff q n).mp h
  rw [capBounds_eq, capBounds_eq, hsh, hbm, hlm, lo_withCursor]
  by_cases hall : q.sh = 63
  · rw [if_pos hall, if_pos hall]
  · rw [capBase, capBounds_eq, if_neg hall] at hw
    rw [if_neg hall, if_neg hall, baseAt_eq_baseAt (bm_lt q) hw]

theorem under_of_moved {q r : Reg} {n : W64} (h : moved q n = some r) (hr : r.tag = 1 ∨ r.tag = 3) : Under q r := by
  unfold moved at h
  split at h
  · cases h
    exact absurd hr (not_isCap_data n)
  · split at h
    · next hmove =>
      obtain ⟨hcap, hrep⟩ := hmove
      cases h
      obtain ⟨_, _, _, hperms, howner⟩ := fields_withCursor q n
      exact under_of_capBounds (.inl hcap) (capBounds_withCursor hrep) (by rw [hperms, BitVec.and_self]) howner
    · cases h

/-! Rounding outwards (R180, R181). -/

/-- A base that rounding has made of a cursor: the cursor less its low bits, no more of them than the shift of the bounds. -/
def RoundedDown (n b t : Nat) : Prop := ∃ k ≤ encodeShift 64 (t - b) 0, b = n / 2 ^ k * 2 ^ k

theorem roundedDown_self (n t : Nat) : RoundedDown n n t := ⟨0, Nat.zero_le _, by simp⟩

/-- Where a cursor stands in bounds that encode and that rounding has made of it. -/
theorem window_of_roundedDown {n b t : Nat} {e : Nat × Nat × Nat} (h : encodeBounds b t = some e) (hr : RoundedDown n b t) :
    e.1 = 63 ∨ Window e.1 b n := by
  obtain ⟨k, hk, rfl⟩ := hr
  obtain ⟨rfl, _, _⟩ | ⟨hsh, _⟩ := encodeBounds_spec h
  · exact .inl rfl
  · refine .inr ?_
    rw [← hsh] at hk
    have hrem : n % 2 ^ k < 2 ^ e.1 := (Nat.mod_lt n (Nat.two_pow_pos k)).trans_le (Nat.pow_le_pow_right (by decide) hk)
    have hsum := Nat.div_add_mod' n (2 ^ k)
    unfold Window
    calc (n + 2 ^ 64 - n / 2 ^ k * 2 ^ k + 4096 * 2 ^ e.1) % 2 ^ 64 = (n % 2 ^ k + 4096 * 2 ^ e.1) % 2 ^ 64 := by omega
      _ ≤ n % 2 ^ k + 4096 * 2 ^ e.1 := Nat.mod_le _ _
      _ < 32768 * 2 ^ e.1 := by omega

/-- Rounding down twice is rounding down by the larger step. -/
theorem div_mul_div_mul {n j k : Nat} (h : j ≤ k) : n / 2 ^ j * 2 ^ j / 2 ^ k * 2 ^ k = n / 2 ^ k * 2 ^ k := by
  obtain ⟨i, rfl⟩ := Nat.exists_eq_add_of_le h
  rw [Nat.pow_add, ← Nat.div_div_eq_div_mul, ← Nat.div_div_eq_div_mul, Nat.mul_div_cancel _ (Nat.two_pow_pos j)]

theorem le_roundUp (t : Nat) {p : Nat} (hp : 0 < p) : t ≤ (t + p - 1) / p * p := by
  have h := Nat.lt_div_mul_add (a := t + p - 1) hp
  omega

/-- Bounds from 0 to the end of memory or beyond encode as everything. -/
theorem all_of_encodeBounds {t : Nat} {e : Nat × Nat × Nat} (ht : 2 ^ 64 ≤ t) (h : encodeBounds 0 t = some e) : e.1 = 63 := by
  obtain ⟨rfl, _, _⟩ | ⟨_, hsh, hlen, _⟩ := encodeBounds_spec h
  · rfl
  · have hpow : 2 ^ e.1 ≤ 2 ^ 49 := Nat.pow_le_pow_right (by decide) hsh
    omega

/-- One step of rounding. -/
theorem roundedDown_step {n b t : Nat} (h : RoundedDown n b t) :
    RoundedDown n (b / 2 ^ encodeShift 64 (t - b) 0 * 2 ^ encodeShift 64 (t - b) 0)
      ((t + 2 ^ encodeShift 64 (t - b) 0 - 1) / 2 ^ encodeShift 64 (t - b) 0 * 2 ^ encodeShift 64 (t - b) 0) := by
  obtain ⟨k, hk, hb⟩ := h
  have hdown := Nat.div_mul_le_self b (2 ^ encodeShift 64 (t - b) 0)
  have hup := le_roundUp t (Nat.two_pow_pos (encodeShift 64 (t - b) 0))
  refine ⟨encodeShift 64 (t - b) 0, encodeShift_mono (by omega), ?_⟩
  rw [hb, div_mul_div_mul (hb ▸ hk)]

/-- What rounding ends with where it encodes: bounds around those it began with, whose window has the cursor. -/
theorem roundBounds_spec {n f b t : Nat} {e : Nat × Nat × Nat} (hle : b ≤ t) (hr : RoundedDown n b t)
    (h : encodeBounds (roundBounds f b t).1 (roundBounds f b t).2 = some e) :
    (roundBounds f b t).1 ≤ b ∧ t ≤ (roundBounds f b t).2 ∧ (e.1 = 63 ∨ Window e.1 (roundBounds f b t).1 n) := by
  induction f generalizing b t with
  | zero => exact ⟨Nat.le_refl _, Nat.le_refl _, window_of_roundedDown h hr⟩
  | succ f ih =>
    rw [roundBounds] at h ⊢
    split at h
    · exact ⟨Nat.le_refl _, Nat.le_refl _, window_of_roundedDown h hr⟩
    · dsimp only at h ⊢
      split at h
      · next hlarge =>
        rw [if_pos hlarge]
        exact ⟨Nat.zero_le _, Nat.le_max_left .., .inl (all_of_encodeBounds (Nat.le_max_right ..) h)⟩
      · next hsmall =>
        rw [if_neg hsmall]
        have hdown := Nat.div_mul_le_self b (2 ^ encodeShift 64 (t - b) 0)
        have hup := le_roundUp t (Nat.two_pow_pos (encodeShift 64 (t - b) 0))
        obtain ⟨hbase, htop, hw⟩ := ih (hdown.trans (hle.trans hup)) (roundedDown_step hr) h
        exact ⟨hbase.trans hdown, hup.trans htop, hw⟩

/-- The bounds that a member asks for: from the cursor on, or rounded outwards. -/
theorem askedBounds_spec {n v b t : Nat} {rounded : Bool} {e : Nat × Nat × Nat}
    (hbt : (if rounded = true then roundBounds 8 n (n + v) else (n, n + v)) = (b, t)) (he : encodeBounds b t = some e) :
    b ≤ n ∧ n + v ≤ t ∧ (e.1 = 63 ∨ Window e.1 b n) := by
  cases rounded with
  | false =>
    cases hbt
    exact ⟨Nat.le_refl _, Nat.le_refl _, window_of_roundedDown he (roundedDown_self ..)⟩
  | true =>
    have hspec := roundBounds_spec (f := 8) (e := e) (Nat.le_add_right n v) (roundedDown_self ..)
    rw [if_pos rfl] at hbt
    rw [hbt] at hspec
    exact hspec he

/-- A capability that is narrowed: the bounds that it gets decode to those that were asked for, or to those rounded outwards. -/
theorem under_of_narrowed {q r : Reg} {v : Nat} {rounded : Bool} (h : narrowed q v rounded = some r) : Under q r := by
  unfold narrowed at h
  obtain ⟨⟨b, t⟩, hbt⟩ : ∃ bt, (if rounded = true then roundBounds 8 q.lo.toNat (q.lo.toNat + v)
      else (q.lo.toNat, q.lo.toNat + v)) = bt := ⟨_, rfl⟩
  rw [hbt] at h
  dsimp only at h
  split at h
  · next hinside =>
    obtain ⟨hcap, hbase, htop⟩ := hinside
    split at h
    · next e he =>
      split at h
      · cases h
        obtain ⟨hlow, hhigh, hw⟩ := askedBounds_spec hbt he
        have hfits := fits_of_encodeBounds he
        obtain ⟨hsh, hbm, hlm⟩ := fields_withBounds q hfits
        obtain ⟨hperms, howner⟩ := rights_withBounds q hfits
        have hbounds : capBounds (withBounds q e) = (b, t) :=
          capBounds_of_encodeBounds he (hlow.trans ((Nat.le_add_right ..).trans hhigh)) (hlow.trans_lt q.lo.isLt) hsh hbm hlm
            (by rw [lo_withBounds q hfits]; exact hw)
        exact ⟨.inl hcap, hbase.trans_eq (congrArg Prod.fst hbounds).symm, (congrArg Prod.snd hbounds).trans_le htop,
          by rw [hperms, BitVec.and_self], howner⟩
      · cases h
    · cases h
  · cases h

/-! The members of the table. -/

/-- What a member makes of a register is no capability, or one that the register is over. -/
def Narrows (q : Reg) (o : Option Reg) : Prop := ∀ r, o = some r → (r.tag = 1 ∨ r.tag = 3) → Under q r

theorem narrows_data (q : Reg) (w : W64) : Narrows q (some (Reg.data w)) := by
  intro r h hr
  cases h
  exact absurd hr (not_isCap_data w)

theorem narrows_moved (q : Reg) (n : W64) : Narrows q (moved q n) := fun _ => under_of_moved

theorem narrows_narrowed (q : Reg) (v : Nat) (rounded : Bool) : Narrows q (narrowed q v rounded) := fun _ h _ => under_of_narrowed h

theorem narrows_ite {q : Reg} {p : Prop} [Decidable p] {o : Option Reg} (h : p → Narrows q o) : Narrows q (if p then o else none) := by
  split
  · next hp => exact h hp
  · intro r hnone
    cases hnone

theorem narrows_of_under {q r : Reg} (h : Under q r) : Narrows q (some r) := by
  intro r hr _
  cases hr
  exact h

theorem narrows_self (q : Reg) : Narrows q (some q) := by
  intro r h hr
  cases h
  exact under_self hr

/-- A capability among those read, or in a general register, is over the result. -/
def HasSource (x : Ctx) (vs : List Reg) (r : Reg) : Prop := ∃ q, (q ∈ vs ∨ ∃ g, q = x.reg g) ∧ Under q r

section
variable {x : Ctx} {vs : List Reg} {r : Reg} (hr : r.tag = 1 ∨ r.tag = 3)
include hr

theorem hasSource_of_rone {f : Reg → Option Reg} (h : rone f vs = some r) (hf : ∀ q, Narrows q (f q)) : HasSource x vs r := by
  unfold rone at h
  split at h
  · next q => exact ⟨q, .inl List.mem_cons_self, hf q r h hr⟩
  · cases h

theorem hasSource_of_rtwo {f : Reg → Reg → Option Reg} (h : rtwo f vs = some r) (hf : ∀ q k, Narrows q (f q k)) :
    HasSource x vs r := by
  unfold rtwo at h
  split at h
  · next q k => exact ⟨q, .inl List.mem_cons_self, hf q k r h hr⟩
  · cases h

theorem hasSource_of_reg {o : Option Reg} (g : GReg) (h : o = some r) (ho : Narrows (x.reg g) o) : HasSource x vs r :=
  ⟨_, .inr ⟨g, rfl⟩, ho r h hr⟩

theorem hasSource_of_capForm {i : Instr} {rs : List RegCode} {d : RegCode} {f : Ctx → List Reg → Option Reg}
    (hform : capForm i = some (rs, d, f)) (h : f x vs = some r) : HasSource x vs r := by
  unfold capForm at hform
  split at hform
  case h_1 => cases hform; exact hasSource_of_rone hr h (fun _ => narrows_data _ _)
  case h_2 => cases hform; exact hasSource_of_rone hr h (fun _ => narrows_ite fun _ => narrows_data _ _)
  case h_3 => cases hform; exact hasSource_of_rone hr h (fun _ => narrows_ite fun _ => narrows_data _ _)
  case h_4 => cases hform; exact hasSource_of_rone hr h (fun _ => narrows_ite fun _ => narrows_data _ _)
  case h_5 => cases hform; exact hasSource_of_rone hr h (fun _ => narrows_ite fun _ => narrows_data _ _)
  case h_6 => cases hform; exact hasSource_of_rone hr h (fun _ => narrows_data _ _)
  case h_7 => cases hform; exact hasSource_of_rtwo hr h (fun _ _ => narrows_moved _ _)
  case h_8 => cases hform; exact hasSource_of_rtwo hr h (fun _ _ => narrows_moved _ _)
  case h_9 => cases hform; exact hasSource_of_rtwo hr h (fun _ _ => narrows_narrowed _ _ _)
  case h_10 => cases hform; exact hasSource_of_rtwo hr h (fun _ _ => narrows_narrowed _ _ _)
  case h_11 =>
    cases hform
    exact hasSource_of_rtwo hr h (fun _ _ => narrows_ite fun hcap => narrows_of_under (under_withPerms hcap _))
  case h_12 =>
    cases hform
    exact hasSource_of_rtwo hr h (fun _ _ => narrows_ite fun ⟨hcap, _⟩ => narrows_of_under (under_withOtype (.inl hcap) _ _))
  case h_13 =>
    cases hform
    exact hasSource_of_rtwo hr h (fun _ _ => narrows_ite fun ⟨hsealed, _⟩ => narrows_of_under (under_withOtype (.inr hsealed) _ _))
  case h_14 => cases hform; exact hasSource_of_rone hr h (fun _ => narrows_data _ _)
  case h_15 => cases hform; exact hasSource_of_rtwo hr h (fun _ _ => narrows_ite fun _ => narrows_data _ _)
  case h_16 => cases hform; exact hasSource_of_rone hr h narrows_self
  case h_17 a len => cases hform; exact hasSource_of_reg hr a h (narrows_narrowed _ _ _)
  case h_18 a k => cases hform; exact hasSource_of_reg hr a h (narrows_moved _ _)
  case h_19 b => cases hform; exact hasSource_of_reg hr b h (narrows_self _)
  case h_20 => cases hform

end

/-- Settles O7: each member keeps the bounds of its source, or narrows them, and gives no permission and no owner. -/
theorem capabilityMonotonic : Obligations.CapabilityMonotonic := by
  intro i rs d f x vs r hform hresult hr
  obtain ⟨q, hsource, hcap, hbase, htop, hperms, howner⟩ := hasSource_of_capForm hr hform hresult
  exact ⟨q, hsource, hcap, hbase, htop, hperms, howner⟩

end Sys2Proof.Proofs.Monotonic
end

section
/-! PROOFS of the family 07_registers: the QCTL forms and RECV complete, trap or wait (R193 to R195, R184). -/
namespace Sys2Proof.Proofs.QueueForms
open Sys2Proof Sys2Proof.Machine Sys2Proof.Laws
open Sys2Proof.Safety
open Sys2Proof.Proofs.Issue (extract_eq_fieldOf bit_eq_true_iff)
open Sys2Proof.Proofs.Network (put_put)
open Sys2Proof.Proofs.Order (bind_ok or_eq_add toNat_setWidth_shiftLeft)

/-! A context that is set to what it is. -/

/-- A key that reads as another value than the default is listed with it. -/
theorem put_get_of_ne {α : Type} {d : α} {l : Sparse α} {i : Nat} (h : Sparse.get d l i ≠ d) :
    Sparse.put l i (Sparse.get d l i) = l := by
  induction l with
  | nil => exact absurd rfl h
  | cons p r ih =>
    obtain ⟨k, w⟩ := p
    simp only [Sparse.get] at h ⊢
    split at h
    · next hk => simp [Sparse.put, hk]
    · next hk =>
      split at h
      · exact absurd rfl h
      · next hlt => simp only [if_neg hk, if_neg hlt, Sparse.put, ih h]

theorem setCtx_setCtx (s : State) (c : CtxId) (x y : Ctx) : (s.setCtx c x).setCtx c y = s.setCtx c y := by
  simp only [State.setCtx, put_put]

theorem setCtx_here_of_ne_reset {s : State} (h : here s ≠ Ctx.reset) : s.setCtx s.cur (here s) = s := by
  have hput := put_get_of_ne h
  rw [State.setCtx, here, State.ctx, hput]

/-- Only a context that is not as at reset has a bound port, so a write finds the same whether or not its context has been set to
what it is. -/
theorem write_of_setCtx_here {w : W64} {d : RegCode} {v : Reg} {s u : State}
    (h : write w d v (s.setCtx s.cur (here s)) = .ok ((), u)) : write w d v s = .ok ((), u) := by
  have hself : (s.setCtx s.cur (here s)).ctx s.cur = here s := ctx_setCtx_self ..
  cases d with
  | g n =>
    simp only [write, setCtx_fields, hself, setCtx_setCtx] at h
    exact h
  | q n =>
    simp only [write, setCtx_fields, hself, setCtx_setCtx] at h
    exact h
  | p m =>
    have hbound : ((here s).port m).bound ≠ false := by
      intro hunbound
      simp only [write, setCtx_fields, hself, hunbound, if_true] at h
      cases h
    rwa [setCtx_here_of_ne_reset fun hreset => hbound (by rw [hreset]; rfl)] at h

/-! The end of a form: it writes its result, if it has one. -/

/-- Write a result to a register, if there is one, and go on. -/
def wrote (w : W64) (d : Option RegCode) (r : W64) : M Machine.Flow :=
  match d with
  | some c => do
    writeData w c r
    pure .next
  | none => pure .next

/-- A form is run by a body that sets its context, if it changes it, and writes its result. -/
def Ends (i : Instr) (s : State) (d : Option RegCode) (r : W64) (y : Ctx) : Prop :=
  ∃ body t, exec i s = run i [] (.q 0 :: d.toList) body s ∧ body s = wrote (Instr.word i) d r t ∧
    (t = s.setCtx s.cur y ∨ t = s ∧ y = here s ∧ d.isSome = true)

section
variable {i : Instr} {s : State} {d : Option RegCode} {r : W64} {y : Ctx} {body : M Machine.Flow}

theorem ends_of_set (h : ∀ s, exec i s = run i [] (.q 0 :: d.toList) body s)
    (hbody : body s = wrote (Instr.word i) d r (s.setCtx s.cur y)) : Ends i s d r y := ⟨body, _, h s, hbody, .inl rfl⟩

theorem ends_of_same {c : RegCode} (h : ∀ s, exec i s = run i [] [.q 0, c] body s) (hbody : body s = wrote (Instr.word i) (some c) r s) :
    Ends i s (some c) r (here s) := ⟨body, _, h s, hbody, .inr ⟨rfl, rfl, rfl⟩⟩

theorem exec_of_ends {u v : State} (h : Ends i s d r y) (hstarts : Starts i .closes [] (.q 0 :: d.toList) s s)
    (hwrite : (match d with
      | some c => write (Instr.word i) c (Reg.data r) (s.setCtx s.cur y)
      | none => .ok ((), s.setCtx s.cur y)) = .ok ((), u)) (hgoes : GoesOn i u v) : exec i s = .next v := by
  obtain ⟨body, t, hexec, hbody, ht⟩ := h
  rw [hexec]
  refine run_next hstarts (hbody.trans ?_) hgoes
  cases d with
  | some c =>
    rcases ht with rfl | ⟨rfl, rfl, _⟩
    · exact bind_ok hwrite
    · exact bind_ok (write_of_setCtx_here hwrite)
  | none =>
    rcases ht with rfl | ⟨_, _, hd⟩
    · cases hwrite
      rfl
    · cases hd

end

/-! Pieces that read the state. -/

theorem greg_bind {α : Type} (r : GReg) (f : Reg → M α) (s : State) : (greg r >>= f) s = f ((here s).reg r) s := rfl

theorem me_bind {α : Type} (f : Ctx → M α) (s : State) : (me >>= f) s = f (here s) s := rfl

theorem get_bind {α : Type} (f : State → M α) (s : State) : ((get : M State) >>= f) s = f s s := rfl

theorem edit_bind {α : Type} (f : Ctx → Ctx) (g : Unit → M α) (s : State) :
    (edit f >>= g) s = g () (s.setCtx s.cur (f (here s))) := rfl

/-! The forms, case by case. -/

section
variable {s : State} {d : RegCode} {a b : GReg} {m k : Fin 4}

theorem depth_eq (v : W64) (q : Fin 8) : (v.extractLsb' (8 * q.val) 8).toNat = v.toNat / 2 ^ (8 * q.val) % 256 :=
  extract_eq_fieldOf ..

theorem ends_qcfg (hfits : allQueues.all (fun q => decide (((here s).reg a).lo.toNat / 2 ^ (8 * q.val) % 256 ≤ 16)) = true) :
    Ends (.qcfg d a) s (some d) 0
      (allQueues.foldl (fun y q => y.setQueue q ⟨((here s).reg a).lo.toNat / 2 ^ (8 * q.val) % 256, []⟩) (here s)) := by
  refine ends_of_set (fun _ => rfl) ((greg_bind a _ s).trans ?_)
  simp only [depth_eq]
  rw [if_pos hfits]
  exact bind_ok rfl

theorem ends_qcfg_refused (hdeep : ¬ allQueues.all (fun q => decide (((here s).reg a).lo.toNat / 2 ^ (8 * q.val) % 256 ≤ 16)) = true) :
    Ends (.qcfg d a) s (some d) 1 (here s) := by
  refine ends_of_same (fun _ => rfl) ((greg_bind a _ s).trans ?_)
  simp only [depth_eq]
  rw [if_neg hdeep]
  rfl

theorem bit_eq (v : W64) (q : Fin 8) : v.getLsbD q.val = (v.toNat / 2 ^ q.val % 2 == 1) := by
  rw [Bool.eq_iff_iff, bit_eq_true_iff, beq_iff_eq]
  rfl

theorem ends_qclr : Ends (.qclr d a) s (some d)
    (BitVec.ofNat 64 (((allQueues.filter (fun q => ((here s).reg a).lo.toNat / 2 ^ q.val % 2 == 1)).map
      (fun q => ((here s).queue q).items.length)).sum))
    ((allQueues.filter (fun q => ((here s).reg a).lo.toNat / 2 ^ q.val % 2 == 1)).foldl
      (fun y q => y.setQueue q ⟨(y.queue q).depth, []⟩) (here s)) := by
  refine ends_of_set (fun _ => rfl) ((greg_bind a _ s).trans ((me_bind _ s).trans ?_))
  simp only [bit_eq]
  exact bind_ok rfl

theorem ends_qcnt : Ends (.qcnt d a) s (some d)
    (BitVec.ofNat 64 (((here s).queue ⟨((here s).reg a).lo.toNat % 8, Nat.mod_lt _ (by decide)⟩).depth * 2 ^ 8 +
      ((here s).queue ⟨((here s).reg a).lo.toNat % 8, Nat.mod_lt _ (by decide)⟩).items.length)) (here s) :=
  ends_of_same (fun _ => rfl) ((greg_bind a _ s).trans (me_bind _ s))

theorem ends_rbind_zero : Ends (.rbind d 0 b) s (some d)
    (if ((here s).ring (ringOf ((here s).reg b).lo)).bound then
      BitVec.ofNat 64 ((here s).ring (ringOf ((here s).reg b).lo)).words else 0)
    (((here s).setRing (ringOf ((here s).reg b).lo) Ring.unbound).unbindPorts (ringOf ((here s).reg b).lo)) := by
  refine ends_of_set (fun _ => rfl) ((greg_bind 0 _ s).trans ((greg_bind b _ s).trans ((me_bind _ s).trans ?_)))
  rw [if_pos rfl]
  refine (bind_ok rfl).trans ?_
  rw [apply_ite (BitVec.ofNat 64)]
  rfl

theorem ends_rbind_bound (ha : a ≠ 0) (hbound : ((here s).ring (ringOf ((here s).reg b).lo)).bound = true) :
    Ends (.rbind d a b) s (some d) 1 (here s) := by
  refine ends_of_same (fun _ => rfl) ((greg_bind a _ s).trans ((greg_bind b _ s).trans ((me_bind _ s).trans ?_)))
  rw [if_neg ha, if_pos hbound]
  rfl

/-- A region that passes the checks of R194. -/
theorem ringRegion_ok {iw : W64} {cap : Reg} (hcap : firstFail (s.live (dieOf s.cur.core)) false cap cap.lo
      (capTop cap - capBase cap) [permL, permS] = none) (hstart : cap.lo.toNat = capBase cap)
    (hlen : capTop cap - capBase cap = 8 * 2 ^ Nat.log2 ((capTop cap - capBase cap) / 8))
    (hmin : 3 ≤ Nat.log2 ((capTop cap - capBase cap) / 8)) (hmax : Nat.log2 ((capTop cap - capBase cap) / 8) ≤ 12)
    (halign : cap.lo.toNat % 8 = 0) (hend : cap.lo.toNat + (capTop cap - capBase cap) ≤ (s.slot s.cur.sl).bind.size) :
    ringRegion iw cap s = .ok (⟨true, 0, 0, BitVec.ofNat 4 (Nat.log2 ((capTop cap - capBase cap) / 8)), BitVec.ofNat 18 cap.lo.toNat,
      0, 0, 0, 0⟩, s) := by
  simp only [ringRegion, hcap]
  rw [if_neg (by omega), if_neg (not_not.mpr halign), if_neg (Nat.not_lt.mpr hend), BitVec.ofNat_toNat]

theorem ends_rbind_region (ha : a ≠ 0) (hunbound : ((here s).ring (ringOf ((here s).reg b).lo)).bound = false) {r : Ring}
    (hregion : ringRegion (Instr.word (.rbind d a b)) ((here s).reg a) s = .ok (r, s)) :
    Ends (.rbind d a b) s (some d) 0 ((here s).setRing (ringOf ((here s).reg b).lo) r) := by
  refine ends_of_set (fun _ => rfl) ((greg_bind a _ s).trans ((greg_bind b _ s).trans ((me_bind _ s).trans ?_)))
  rw [if_neg ha, hunbound, if_neg Bool.false_ne_true]
  exact (bind_ok hregion).trans (edit_bind ..)

theorem ends_pbind (hbound : ((here s).ring (ringOf ((here s).reg a).lo)).bound = true)
    (hdest : (ringAddr ((here s).reg b).lo).isSome = true) :
    Ends (.pbind m a b) s none 0
      ((here s).setPort m ⟨true, ringOf ((here s).reg a).lo, ((here s).reg b).lo, ((here s).port m).latch⟩) := by
  refine ends_of_set (fun _ => rfl) ((greg_bind a _ s).trans ((greg_bind b _ s).trans ((me_bind _ s).trans ?_)))
  rw [if_neg (by simp [hbound, Option.isSome_iff_ne_none.mp hdest])]
  rfl

theorem ends_punbind : Ends (.punbind m) s none 0 ((here s).setPort m ⟨false, 0, 0, []⟩) :=
  ends_of_set (body := do edit (fun y => y.setPort m ⟨false, 0, 0, []⟩); pure .next) (fun _ => rfl) rfl

/-- Head and tail in one word (R193). -/
theorem headTail_word (h t : BitVec 32) : (h.setWidth 64 <<< 32) ||| t.setWidth 64 = BitVec.ofNat 64 (h.toNat * 2 ^ 32 + t.toNat) := by
  have hh := h.isLt
  have ht := t.isLt
  refine BitVec.eq_of_toNat_eq ?_
  rw [BitVec.toNat_or, toNat_setWidth_shiftLeft _ (by omega), BitVec.toNat_setWidth_of_le (by decide), or_eq_add (by omega),
    BitVec.toNat_ofNat, Nat.mod_eq_of_lt (by omega)]

theorem ends_rpoll (hbound : ((here s).ring (ringOf ((here s).reg a).lo)).bound = true) :
    Ends (.rpoll d a) s (some d) (BitVec.ofNat 64 (((here s).ring (ringOf ((here s).reg a).lo)).head.toNat * 2 ^ 32 +
      (((here s).ring (ringOf ((here s).reg a).lo)).seenTail s.cycle).toNat)) (here s) := by
  refine ends_of_same (fun _ => rfl) ((greg_bind a _ s).trans ((me_bind _ s).trans ((get_bind _ s).trans ?_)))
  rw [hbound, if_neg (by decide), headTail_word]
  rfl

theorem ends_radv (hbound : ((here s).ring (ringOf ((here s).reg b).lo)).bound = true)
    (hfew : ((here s).reg a).lo.toNat % 2 ^ 32 ≤ ((here s).ring (ringOf ((here s).reg b).lo)).here s.cycle) :
    Ends (.radv d a b) s (some d) 0 ((here s).setRing (ringOf ((here s).reg b).lo)
      (((here s).ring (ringOf ((here s).reg b).lo)).took s.cycle (((here s).reg a).lo.toNat % 2 ^ 32))) := by
  refine ends_of_set (fun _ => rfl)
    ((greg_bind a _ s).trans ((greg_bind b _ s).trans ((me_bind _ s).trans ((get_bind _ s).trans ?_))))
  rw [hbound, if_neg (by decide), if_pos hfew]
  exact edit_bind ..

theorem ends_radv_refused (hbound : ((here s).ring (ringOf ((here s).reg b).lo)).bound = true)
    (hmany : ¬ ((here s).reg a).lo.toNat % 2 ^ 32 ≤ ((here s).ring (ringOf ((here s).reg b).lo)).here s.cycle) :
    Ends (.radv d a b) s (some d) 1 (here s) := by
  refine ends_of_same (fun _ => rfl)
    ((greg_bind a _ s).trans ((greg_bind b _ s).trans ((me_bind _ s).trans ((get_bind _ s).trans ?_))))
  rw [hbound, if_neg (by decide), if_neg hmany]
  rfl

theorem ends_recv (hbound : ((here s).ring k).bound = true)
    (hmoved : (((here s).ring k).seenTail s.cycle).toNat ≠ ((here s).reg a).lo.toNat % 2 ^ 32) :
    Ends (.recv d a k) s (some d) ((((here s).ring k).seenTail s.cycle).setWidth 64) (here s) := by
  have hne : ((here s).ring k).seenTail s.cycle ≠ ((here s).reg a).lo.setWidth 32 := fun h => hmoved (by rw [h, BitVec.toNat_setWidth])
  refine ends_of_same (fun _ => rfl) ((greg_bind a _ s).trans ((me_bind _ s).trans ((get_bind _ s).trans ?_)))
  rw [hbound, if_neg (by decide), if_neg hne]
  rfl

end

/-- What the table gives is how the form ends. -/
theorem ends_of_queueForm {i : Instr} {s : State} {d : Option RegCode} {r : W64} {y : Ctx} (h : queueForm i s = some (d, r, y)) :
    Ends i s d r y := by
  unfold queueForm at h
  dsimp only at h
  split at h
  case h_1 d a =>
    split at h
    · next hfits => cases h; exact ends_qcfg hfits
    · next hdeep => cases h; exact ends_qcfg_refused hdeep
  case h_2 d a => cases h; exact ends_qclr
  case h_3 d a => cases h; exact ends_qcnt
  case h_4 d a b =>
    split at h
    · next ha => cases ha; cases h; exact ends_rbind_zero
    · next ha =>
      split at h
      · next hbound => cases h; exact ends_rbind_bound ha hbound
      · next hunbound =>
        obtain ⟨⟨hcap, hstart, hlen, hmin, hmax, halign, hend⟩, h⟩ := Option.ite_none_right_eq_some.mp h
        cases h
        exact ends_rbind_region ha (Bool.eq_false_iff.mpr hunbound) (ringRegion_ok hcap hstart hlen hmin hmax halign hend)
  case h_5 m a b =>
    obtain ⟨⟨hbound, hdest⟩, h⟩ := Option.ite_none_right_eq_some.mp h
    cases h
    exact ends_pbind hbound hdest
  case h_6 m => cases h; exact ends_punbind
  case h_7 d a =>
    obtain ⟨hbound, h⟩ := Option.ite_none_right_eq_some.mp h
    cases h
    exact ends_rpoll hbound
  case h_8 d a b =>
    change (if ((here s).ring (ringOf ((here s).reg b).lo)).bound = false then none
      else if _ ≤ ((here s).ring (ringOf ((here s).reg b).lo)).here s.cycle then _ else _) = _ at h
    split at h
    · cases h
    · next hbound =>
      split at h
      · next hfew => cases h; exact ends_radv (Bool.eq_true_of_not_eq_false hbound) hfew
      · next hmany => cases h; exact ends_radv_refused (Bool.eq_true_of_not_eq_false hbound) hmany
  case h_9 d a k =>
    change (if _ ∧ (((here s).ring k).seenTail s.cycle).toNat ≠ _ then
      some (_, (((here s).ring k).seenTail s.cycle).setWidth 64, _) else _) = _ at h
    obtain ⟨⟨hbound, hmoved⟩, h⟩ := Option.ite_none_right_eq_some.mp h
    cases h
    exact ends_recv hbound hmoved
  case h_10 => cases h

theorem queueControl : QueueControl := by
  intro i d r y names s s1 u v hform hnames hstarts hwrite hgoes
  subst hnames
  obtain rfl := starts_self hstarts
  exact exec_of_ends (ends_of_queueForm hform) hstarts hwrite hgoes

/-! The forms that do not complete. -/

/-- A form that reads nothing starts outside every callee (R184), unless it would close a loop that it must not (R65). -/
theorem starts_of_depth {i : Instr} {names : List RegCode} {s : State} (hdepth : (here s).depth = 0)
    (hloop : (here s).loopTrap (Instr.word i) .closes = none) : Starts i .closes [] names s s := ⟨.inl hdepth, hloop, rfl, rfl⟩

/-- A body that refuses its operands. -/
theorem refused_of_body {i : Instr} {names : List RegCode} {body : M Machine.Flow} {s : State}
    (hexec : ∀ s, exec i s = run i [] names body s) (hdepth : (here s).depth = 0)
    (hloop : (here s).loopTrap (Instr.word i) .closes = none) (hbody : body s = raise .illegalOperand (Instr.word i) s) :
    exec i s = .next (s.takeTrap s.cur ⟨.illegalOperand, Instr.word i, 0, false⟩) :=
  (hexec s).trans (run_trap (starts_of_depth hdepth hloop) hbody)

theorem ringRefusals : RingRefusals := by
  refine ⟨fun i s hrefused hdepth hloop => ?_, fun d a k s hdepth hloop hbound hstill => ?_⟩
  · unfold ringRefused at hrefused
    dsimp only at hrefused
    split at hrefused
    case h_1 m a b =>
      change (!((here s).ring (ringOf ((here s).reg a).lo)).bound || _) = true at hrefused
      refine refused_of_body (fun _ => rfl) hdepth hloop
        ((greg_bind a _ s).trans ((greg_bind b _ s).trans ((me_bind _ s).trans ?_)))
      rw [if_pos (by simpa using hrefused)]
    case h_2 d a =>
      change (!((here s).ring (ringOf ((here s).reg a).lo)).bound) = true at hrefused
      refine refused_of_body (fun _ => rfl) hdepth hloop ((greg_bind a _ s).trans ((me_bind _ s).trans ((get_bind _ s).trans ?_)))
      rw [if_pos (by simpa using hrefused)]
    case h_3 d a b =>
      change (!((here s).ring (ringOf ((here s).reg b).lo)).bound) = true at hrefused
      refine refused_of_body (fun _ => rfl) hdepth hloop
        ((greg_bind a _ s).trans ((greg_bind b _ s).trans ((me_bind _ s).trans ((get_bind _ s).trans ?_))))
      rw [if_pos (by simpa using hrefused)]
    case h_4 d a k =>
      refine refused_of_body (fun _ => rfl) hdepth hloop ((greg_bind a _ s).trans ((me_bind _ s).trans ((get_bind _ s).trans ?_)))
      rw [if_pos (by simpa using hrefused)]
    case h_5 => cases hrefused
  · refine operate_wait (pre := pure ()) (w := .ring k (((here s).ring k).seenTail s.cycle)) rfl (starts_of_depth hdepth hloop) ?_
    refine (greg_bind a _ s).trans ((me_bind _ s).trans ((get_bind _ s).trans ?_))
    rw [hbound, if_neg (by decide), if_pos hstill, hstill]
    rfl

/-- Settles O18: each form of the table ends by setting its context and writing its result, and the others raise or wait. -/
theorem ringForms : Obligations.RingForms := ⟨queueControl, ringRefusals⟩

end Sys2Proof.Proofs.QueueForms
end

section
/-! PROOFS of the family 08_number_formats: a floating-point instruction completes with its result and its flags, or traps FP_TRAP
with none of its effect (R210, R212, R222 to R225). -/
namespace Sys2Proof.Proofs.Floats
open Sys2Proof Sys2Proof.Machine Sys2Proof.Laws
open Sys2Proof.Safety
open Sys2Proof.Proofs.Order (bind_ok)
open Sys2Proof.Proofs.QueueForms (me_bind)
open Sys2Proof.Proofs.Atomics (raiseFlags_ok)

/-- A flag that an enabled trap takes raises FP_TRAP (R210). -/
theorem raiseFlags_trap {s : State} {mode : Nat} {fl : BitVec 5} (h : fl &&& (here s).frm.extractLsb' 6 5 ≠ 0) :
    raiseFlags mode fl s = .error (.trap ⟨.fpTrap, fl.setWidth 64, 0, false⟩) := by
  refine (me_bind _ s).trans ?_
  rw [if_pos h]
  rfl

/-! A member as a whole: it reads its operands, raises its flags, and writes its result. -/

/-- The body of a member whose result and flags are given its rounding mode, its bits of R213 and what it has read. -/
def fpBody (w : W64) (rs : List RegCode) (d : RegCode) (eff : Nat → Nat) (f : Nat → Nat → List W64 → W64 × BitVec 5) :
    M Machine.Flow := do
  let vs ← takeAll rs
  let x ← me
  let r := f (eff x.mode) x.draw (lows vs)
  raiseFlags (eff x.mode) r.2
  writeData w d r.1
  pure .next

/-- A member is run with that body. -/
def Computes (i : Instr) (rs : List RegCode) (d : RegCode) (eff : Nat → Nat) (f : Nat → Nat → List W64 → W64 × BitVec 5) : Prop :=
  ∀ s, exec i s = run i rs (d :: rs) (fpBody (Instr.word i) rs d eff f) s

section
variable {i : Instr} {rs : List RegCode} {d : RegCode} {eff : Nat → Nat} {f : Nat → Nat → List W64 → W64 × BitVec 5}
  {s s1 t u v : State} {vs : List Reg}

theorem fpBody_of_takeAll (w : W64) (h : takeAll rs s1 = .ok (vs, t)) :
    fpBody w rs d eff f s1 =
      (raiseFlags (eff (here t).mode) (f (eff (here t).mode) (here t).draw (lows vs)).2 >>= fun _ =>
        writeData w d (f (eff (here t).mode) (here t).draw (lows vs)).1 >>= fun _ => pure .next) t :=
  (bind_ok h).trans (me_bind _ t)

theorem Computes.next (hcomputes : Computes i rs d eff f) (hstarts : Starts i .closes rs (d :: rs) s s1)
    (htake : takeAll rs s1 = .ok (vs, t))
    (hquiet : (f (eff (here t).mode) (here t).draw (lows vs)).2 &&& (here t).frm.extractLsb' 6 5 = 0)
    (hwrite : write (Instr.word i) d (Reg.data (f (eff (here t).mode) (here t).draw (lows vs)).1)
      (Raised t (eff (here t).mode) (f (eff (here t).mode) (here t).draw (lows vs)).2) = .ok ((), u))
    (hgoes : GoesOn i u v) : exec i s = .next v := by
  rw [hcomputes]
  refine run_next hstarts ((fpBody_of_takeAll _ htake).trans ?_) hgoes
  exact (bind_ok (raiseFlags_ok hquiet)).trans (bind_ok hwrite)

theorem Computes.trap (hcomputes : Computes i rs d eff f) (hstarts : Starts i .closes rs (d :: rs) s s1)
    (htake : takeAll rs s1 = .ok (vs, t))
    (hraised : (f (eff (here t).mode) (here t).draw (lows vs)).2 &&& (here t).frm.extractLsb' 6 5 ≠ 0) :
    exec i s = .next (s1.takeTrap s.cur
      ⟨.fpTrap, (f (eff (here t).mode) (here t).draw (lows vs)).2.setWidth 64, 0, false⟩) := by
  rw [hcomputes]
  refine run_trap hstarts ((fpBody_of_takeAll _ htake).trans ?_)
  simp only [bind, StateT.bind, Except.bind, raiseFlags_trap hraised]

/-! The shared forms of the model are that body, for any function that agrees on as many words as the form reads. -/

theorem computes_of_fp2 {p : Prec} {a : RegCode} {g : Nat → Nat → Nat → W64 × BitVec 5} (h : ∀ s, exec i s = fp2 i p d a g s)
    (hf : ∀ m r x, f m r [x] = g m r (fpIn p x)) : Computes i [a] d id f := by
  intro s
  rw [h]
  simp only [fp2, fpBody, readData, takeAll, lows, List.map, hf, id, bind_assoc, pure_bind]

theorem computes_of_fp3 {p : Prec} {a b : RegCode} {g : Nat → Nat → Nat → Nat → W64 × BitVec 5}
    (h : ∀ s, exec i s = fp3 i p d a b g s) (hf : ∀ m r x y, f m r [x, y] = g m r (fpIn p x) (fpIn p y)) :
    Computes i [a, b] d id f := by
  intro s
  rw [h]
  simp only [fp3, fpBody, readData, takeAll, lows, List.map, hf, id, bind_assoc, pure_bind]

theorem computes_of_fma4 {p : Prec} {n : Bool} {a b c : RegCode} (h : ∀ s, exec i s = fma4 i p n d a b c s)
    (hf : ∀ m r x y z, f m r [x, y, z] = roundOut p m r (fmaV m n (valOf p x) (valOf p y) (valOf p z))) :
    Computes i [a, b, c] d id f := by
  intro s
  rw [h]
  simp only [fma4, fpBody, readData, takeAll, lows, List.map, hf, valOf, id, bind_assoc, pure_bind]

end

theorem computes_cvt (rm : BitVec 3) (sat : Bool) (dst src : CvtType) (d a : RegCode) :
    Computes (.cvt rm sat dst src d a) [a] d (fun m => if rm = 6 then m else rm.toNat)
      (fun m r => fone (cvtOut dst src sat m r)) := by
  intro s
  unfold exec
  simp only [execCvt, fpBody, readData, takeAll, lows, List.map, fone, bind_assoc, pure_bind]

/-- Every member of the table is run with the body of its row (R222 to R225): FSQRT, FCLASS and FRINT read one operand, the fused
multiply-adds three, CVT has a mode of its own, and all others read two. -/
theorem computes_of_fpForm {i : Instr} {rs : List RegCode} {d : RegCode} {eff : Nat → Nat}
    {f : Nat → Nat → List W64 → W64 × BitVec 5} (h : fpForm i = some (rs, d, eff, f)) : Computes i rs d eff f := by
  unfold fpForm at h
  split at h
  case h_5 | h_14 | h_18 =>
    cases h
    exact computes_of_fp2 (fun _ => by unfold exec; exact rfl) fun _ _ _ => rfl
  case h_19 | h_20 | h_21 | h_22 =>
    cases h
    exact computes_of_fma4 (fun _ => by unfold exec; exact rfl) fun _ _ _ _ _ => rfl
  case h_23 rm sat dst src d a =>
    cases h
    exact computes_cvt rm sat dst src d a
  case h_26 => cases h
  all_goals
    cases h
    exact computes_of_fp3 (fun _ => by unfold exec; exact rfl) fun _ _ _ _ => rfl

theorem floatResult : FloatResult := by
  intro i rs d eff f s s1 t u v vs hform hstarts htake hquiet hwrite hgoes
  exact (computes_of_fpForm hform).next hstarts htake hquiet hwrite hgoes

theorem floatTrap : FloatTrap := by
  intro i rs d eff f s s1 t vs hform hstarts htake hraised
  exact (computes_of_fpForm hform).trap hstarts htake hraised

/-- Settles O5: each row of the table is run with one body, which raises its flags before it writes and so traps or completes. -/
theorem floatForms : Obligations.FloatForms := ⟨floatResult, floatTrap⟩

end Sys2Proof.Proofs.Floats
end

section
/-! PROOFS of the family 09_scalar_instructions: the ALU group, the immediate forms, the constants and the 16-bit arithmetic forms
complete with their results (R42, R43, R217 to R221), and DIV and REM agree (R218). -/
namespace Sys2Proof.Proofs.Scalar
open Sys2Proof Sys2Proof.Machine Sys2Proof.Laws
open Sys2Proof.Safety

/-! The results, in the words of the rules. -/

section
variable (x y : W64)

/-- A comparison answers 1 or 0 (R217). -/
theorem ofBool_decide (p : Prop) [Decidable p] : ofBool (decide p) = if p then 1 else 0 := by
  simp only [ofBool, decide_eq_true_eq]

theorem ofBool_slt : ofBool (x.slt y) = if x.toInt < y.toInt then 1 else 0 := by
  rw [BitVec.slt_eq_decide, ofBool_decide]

theorem ofBool_ult : ofBool (x.ult y) = if x.toNat < y.toNat then 1 else 0 := by
  rw [BitVec.ult_eq_decide, ofBool_decide]

theorem ofBool_beq : ofBool (x == y) = if x = y then 1 else 0 := by
  simp only [ofBool, beq_iff_eq]

theorem ite_slt {α : Type} (a b : α) : (if x.slt y then a else b) = if x.toInt < y.toInt then a else b := by
  simp only [BitVec.slt_iff_toInt_lt]

theorem ite_ult {α : Type} (a b : α) : (if x.ult y then a else b) = if x.toNat < y.toNat then a else b := by
  simp only [BitVec.ult_iff_toNat_lt]

/-- A rotation by a count below the width moves the bits that fall out to the other end (R217). -/
theorem rotateLeft_of_lt {n : Nat} (h : n < 64) : x.rotateLeft n = x <<< n ||| x >>> (64 - n) := by
  rw [BitVec.rotateLeft_def, Nat.mod_eq_of_lt h]

theorem rotateRight_of_lt {n : Nat} (h : n < 64) : x.rotateRight n = x >>> n ||| x <<< (64 - n) := by
  rw [BitVec.rotateRight_def, Nat.mod_eq_of_lt h]

/-- DIV's one overflow gives the dividend again (R218). -/
theorem divS_eq : divS x y = if y = 0 then BitVec.allOnes 64
    else if x.toInt = -2 ^ 63 ∧ y.toInt = -1 then x else BitVec.ofInt 64 (x.toInt.tdiv y.toInt) := by
  unfold divS
  congr 1
  split_ifs with hoverflow
  · obtain ⟨hx, hy⟩ := hoverflow
    conv_rhs => rw [← BitVec.ofInt_toInt (x := x)]
    rw [hx, hy]
    decide
  · rfl

/-- REM is what DIV leaves of the dividend, and 0 where DIV overflows (R218). -/
theorem remS_eq : remS x y = if y = 0 then x else if x.toInt = -2 ^ 63 ∧ y.toInt = -1 then 0
    else BitVec.ofInt 64 (x.toInt - y.toInt * x.toInt.tdiv y.toInt) := by
  unfold remS
  congr 1
  split_ifs with hoverflow
  · obtain ⟨hx, hy⟩ := hoverflow
    rw [hx, hy]
    decide
  · rw [Int.tmod_def]

theorem divU_eq : divU x y = if y = 0 then BitVec.allOnes 64 else BitVec.ofNat 64 (x.toNat / y.toNat) := by
  unfold divU
  congr 1
  rw [← BitVec.toNat_udiv, BitVec.ofNat_toNat, BitVec.setWidth_eq]

theorem remU_eq : remU x y = if y = 0 then x else BitVec.ofNat 64 (x.toNat % y.toNat) := by
  unfold remU
  congr 1
  rw [← BitVec.toNat_umod, BitVec.ofNat_toNat, BitVec.setWidth_eq]

theorem ofBool_slt_imm13 (k : BitVec 13) : ofBool (x.slt (imm13 k)) = if x.toInt < k.toInt then 1 else 0 := by
  rw [ofBool_slt, imm13, BitVec.toInt_signExtend_of_le (by decide)]

end

/-! A row of a table, and the model's forms that carry it out. -/

/-- What `DataCompletes` asks of one row. -/
def Completes (i : Instr) (rs : List RegCode) (d : RegCode) (f : List W64 → W64) : Prop :=
  ∀ (s s1 t u v : State) (vs : List Reg), Starts i .closes rs (d :: rs) s s1 → takeAll rs s1 = .ok (vs, t) →
    write (Instr.word i) d (Reg.data (f (lows vs))) t = .ok ((), u) → GoesOn i u v → exec i s = .next v

theorem dataCompletes_of_rows {form : Instr → Option (List RegCode × RegCode × (List W64 → W64))}
    (h : ∀ i rs d f, form i = some (rs, d, f) → Completes i rs d f) : DataCompletes form :=
  fun i rs d f s s1 t u v vs hform => h i rs d f hform s s1 t u v vs

section
variable {i : Instr} {d a b : RegCode}

theorem completes_alu1 {x : W64} (h : ∀ s, exec i s = alu1 i d x s) : Completes i [] d fun _ => x := by
  intro s s1 t u v vs hstarts htake hwrite hgoes
  obtain ⟨rfl, rfl⟩ := takeAll_nil htake
  exact (h s).trans (alu1_next hstarts hwrite hgoes)

theorem completes_alu2 {f g : W64 → W64} (h : ∀ s, exec i s = alu2 i d a g s) (hresult : ∀ x, g x = f x) :
    Completes i [a] d (one f) := by
  obtain rfl := funext hresult
  exact fun s _ _ _ _ _ hstarts htake hwrite hgoes => (h s).trans (alu2_next hstarts htake hwrite hgoes)

theorem completes_alu3 {f g : W64 → W64 → W64} (h : ∀ s, exec i s = alu3 i d a b g s) (hresult : ∀ x y, g x y = f x y) :
    Completes i [a, b] d (two f) := by
  obtain rfl := funext fun x => funext (hresult x)
  exact fun s _ _ _ _ _ hstarts htake hwrite hgoes => (h s).trans (alu3_next hstarts htake hwrite hgoes)

theorem completes_alu4 {f g : W64 → W64 → W64 → W64} (h : ∀ s, exec i s = alu4 i d a b g s)
    (hresult : ∀ x y z, g x y z = f x y z) : Completes i [a, b, d] d (three f) := by
  obtain rfl := funext fun x => funext fun y => funext (hresult x y)
  exact fun s _ _ _ _ _ hstarts htake hwrite hgoes => (h s).trans (alu4_next hstarts htake hwrite hgoes)

end

/-! The tables, row by row. -/

/-- R217 and R218. The rows whose function the model writes otherwise stand first: DIV, DIVN, REM, REMN, ROL, ROR, SLT, SLTN, SEQ,
then MIN and MAX, and MINN and MAXN. -/
theorem aluResult : AluResult := by
  refine dataCompletes_of_rows fun i rs d f hform => ?_
  unfold aluForm at hform
  split at hform
  case h_6 => cases hform; exact completes_alu3 (fun _ => rfl) divS_eq
  case h_7 => cases hform; exact completes_alu3 (fun _ => rfl) divU_eq
  case h_8 => cases hform; exact completes_alu3 (fun _ => rfl) remS_eq
  case h_9 => cases hform; exact completes_alu3 (fun _ => rfl) remU_eq
  case h_17 => cases hform; exact completes_alu3 (fun _ => rfl) fun x _ => rotateLeft_of_lt x (Nat.mod_lt _ (by decide))
  case h_18 => cases hform; exact completes_alu3 (fun _ => rfl) fun x _ => rotateRight_of_lt x (Nat.mod_lt _ (by decide))
  case h_19 => cases hform; exact completes_alu3 (fun _ => rfl) ofBool_slt
  case h_20 => cases hform; exact completes_alu3 (fun _ => rfl) ofBool_ult
  case h_21 => cases hform; exact completes_alu3 (fun _ => rfl) ofBool_beq
  case h_22 | h_23 => cases hform; exact completes_alu3 (fun _ => rfl) fun x y => ite_slt x y _ _
  case h_24 | h_25 => cases hform; exact completes_alu3 (fun _ => rfl) fun x y => ite_ult x y _ _
  case h_26 | h_27 | h_28 | h_29 | h_30 => cases hform; exact completes_alu2 (fun _ => rfl) fun _ => rfl
  case h_36 => cases hform; exact completes_alu4 (fun _ => rfl) fun _ _ _ => ite_not ..
  case h_38 => cases hform; exact completes_alu4 (fun _ => rfl) fun _ _ _ => rfl
  case h_41 => cases hform
  all_goals
    cases hform
    exact completes_alu3 (fun _ => rfl) fun _ _ => rfl

/-- R219 to R221: SLTI, SLTNI, ROLI and RORI have a lemma above, and MOVI reads nothing. -/
theorem immediateResult : ImmediateResult := by
  refine dataCompletes_of_rows fun i rs d f hform => ?_
  unfold immForm at hform
  split at hform
  case h_5 => cases hform; exact completes_alu2 (fun _ => rfl) fun x => ofBool_slt_imm13 x _
  case h_6 => cases hform; exact completes_alu2 (fun _ => rfl) fun x => ofBool_ult x _
  case h_11 => cases hform; exact completes_alu2 (fun _ => rfl) fun x => rotateLeft_of_lt x (BitVec.isLt _)
  case h_12 => cases hform; exact completes_alu2 (fun _ => rfl) fun x => rotateRight_of_lt x (BitVec.isLt _)
  case h_16 => cases hform; exact completes_alu1 fun _ => rfl
  case h_18 => cases hform
  all_goals
    cases hform
    exact completes_alu2 (fun _ => rfl) fun _ => rfl

/-- R42 and R43: five forms read a second register, MOVI.C reads nothing, and NOT is an exclusive or with all ones. -/
theorem shortResult : ShortResult := by
  refine dataCompletes_of_rows fun i rs d f hform => ?_
  unfold shortForm at hform
  split at hform
  case h_1 | h_2 | h_3 | h_4 | h_5 => cases hform; exact completes_alu3 (fun _ => rfl) fun _ _ => rfl
  case h_9 => cases hform; exact completes_alu1 fun _ => rfl
  case h_11 => cases hform; exact completes_alu2 (fun _ => rfl) fun _ => BitVec.xor_allOnes
  case h_12 => cases hform
  all_goals
    cases hform
    exact completes_alu2 (fun _ => rfl) fun _ => rfl

/-- Settles O1: each row of the three tables is one of the model's integer forms, with the function that the row writes out. -/
theorem scalarResult : Obligations.ScalarResult := ⟨aluResult, immediateResult, shortResult⟩

/-! Division (R218). -/

section
variable {x y : W64}

theorem toInt_ne_zero (h : y ≠ 0) : y.toInt ≠ 0 := fun h0 => h (BitVec.eq_of_toInt_eq h0)

theorem toInt_ofInt_of_range {z : Int} (hlow : -2 ^ 63 ≤ z) (hhigh : z < 2 ^ 63) : (BitVec.ofInt 64 z).toInt = z :=
  BitVec.toInt_ofInt_eq_self (by decide) hlow hhigh

/-- A quotient is out of range only where the least number is divided by -1. -/
theorem toInt_divS (hy : y ≠ 0) (hfits : ¬ (x.toInt = -2 ^ 63 ∧ y.toInt = -1)) : (divS x y).toInt = x.toInt.tdiv y.toInt := by
  have hx := BitVec.le_toInt x
  have hx' := BitVec.toInt_lt (x := x)
  have hnonzero := toInt_ne_zero hy
  rw [divS, if_neg hy]
  by_cases hone : y.toInt = 1
  · rw [hone, Int.tdiv_one, BitVec.ofInt_toInt]
  by_cases hminus : y.toInt = -1
  · rw [hminus, Int.tdiv_neg, Int.tdiv_one]
    exact toInt_ofInt_of_range (by omega) (by omega)
  · have hhalf : x.toInt.natAbs / y.toInt.natAbs ≤ x.toInt.natAbs / 2 := Nat.div_le_div_left (by omega) (by decide)
    have hquotient : (x.toInt.tdiv y.toInt).natAbs = x.toInt.natAbs / y.toInt.natAbs := Int.natAbs_tdiv ..
    exact toInt_ofInt_of_range (by omega) (by omega)

theorem natAbs_tmod_lt (hy : y ≠ 0) : (x.toInt.tmod y.toInt).natAbs < y.toInt.natAbs := by
  rw [Int.natAbs_tmod]
  exact Nat.mod_lt _ (Int.natAbs_pos.mpr (toInt_ne_zero hy))

theorem toInt_remS (hy : y ≠ 0) : (remS x y).toInt = x.toInt.tmod y.toInt := by
  have hsmall := natAbs_tmod_lt (x := x) hy
  have hleast := BitVec.le_toInt y
  have hmost := BitVec.toInt_lt (x := y)
  rw [remS, if_neg hy]
  exact toInt_ofInt_of_range (by omega) (by omega)

end

/-- Settles O2: both results are in range, so that they are the truncated quotient and its remainder. -/
theorem divisionIdentity : Obligations.DivisionIdentity := by
  intro x y hy hfits
  rw [toInt_divS hy hfits, toInt_remS hy]
  refine ⟨(Int.mul_tdiv_add_tmod ..).symm, natAbs_tmod_lt hy, Int.tmod_nonneg _, fun hx => ?_⟩
  have hneg : 0 ≤ (-x.toInt).tmod y.toInt := Int.tmod_nonneg _ (by omega)
  rw [Int.neg_tmod] at hneg
  omega

end Sys2Proof.Proofs.Scalar
end

section
/-! PROOFS of the family 09_scalar_instructions: a branch goes to its target, traps, or goes on (R41, R42, R65, R228, R229). -/
namespace Sys2Proof.Proofs.Branches
open Sys2Proof Sys2Proof.Machine Sys2Proof.Laws
open Sys2Proof.Safety
open Sys2Proof.Proofs.Order (bind_ok)
open Sys2Proof.Proofs.QueueForms (me_bind setCtx_setCtx)
open Sys2Proof.Proofs.Operands (here_setCtx_cur sameMemory_setCtx)

/-! What a branch changes before it transfers: the loop count, and the count of its own executions, which may belay its
context (R341). -/

/-- Only the context `c` differs, and there only its spins, and the loop count, which is `k`. -/
structure AlikeButSpin (c : CtxId) (k : W64) (s t : State) : Prop where
  rest : t = { s with ctxs := t.ctxs }
  ctx : t.ctx c = { s.ctx c with loopc := k, spin := (t.ctx c).spin, belays := (t.ctx c).belays, status := (t.ctx c).status }

section
variable {s t u : State} {c : CtxId} {k : W64}

theorem alikeButSpin_self : AlikeButSpin c (s.ctx c).loopc s s := ⟨rfl, rfl⟩

theorem alikeButSpin_setCtx {x : Ctx} (h : x = { s.ctx c with loopc := k, spin := x.spin, belays := x.belays, status := x.status }) :
    AlikeButSpin c k s (s.setCtx c x) := ⟨rfl, by rwa [ctx_setCtx_self]⟩

theorem alikeButSpin_trans (h : AlikeButSpin c k s t) (g : AlikeButSpin c (t.ctx c).loopc t u) : AlikeButSpin c k s u where
  rest := by rw [g.rest, h.rest]
  ctx := by rw [g.ctx, h.ctx]

theorem alikeButSpin_spun (p target : W64) : AlikeButSpin c (s.ctx c).loopc s (s.spun c p target) := by
  unfold State.spun
  dsimp only
  split
  · exact alikeButSpin_setCtx rfl
  · split
    · split
      · split <;> exact alikeButSpin_setCtx rfl
      · exact alikeButSpin_setCtx rfl
    · exact alikeButSpin_setCtx rfl

end

/-! A transfer. -/

/-- The loop count behind a transfer to `p` (R65). -/
def loopcAt (x : Ctx) (p : W64) : W64 :=
  if p.toNat < x.loopb.toNat ∨ x.loope.toNat < p.toNat then 0 else x.loopc

section
variable {s : State} {p : W64}

/-- A state whose loop has ended, where a transfer to `p` leaves the body (R65). -/
def leaving (s : State) (p : W64) : State :=
  if decide (p.toNat < (here s).loopb.toNat) || decide ((here s).loope.toNat < p.toNat) then
    s.setCtx s.cur { here s with loopc := 0 }
  else s

theorem alikeButSpin_leaving : AlikeButSpin s.cur (loopcAt (here s) p) s (leaving s p) := by
  simp only [loopcAt, leaving, Bool.or_eq_true, decide_eq_true_eq]
  split_ifs
  · exact alikeButSpin_setCtx rfl
  · exact alikeButSpin_self

theorem takeBranch_ok (h : representable (here s).pcc p = true) :
    ∃ w, takeBranch p s = .ok (.goto p, w) ∧ AlikeButSpin s.cur (loopcAt (here s) p) s w := by
  have hrepr : ¬ representable (here s).pcc p = false := fun hnot => Bool.noConfusion (h.symm.trans hnot)
  by_cases hback : p.toNat < (here s).pc.toNat
  · exact ⟨_, (if_neg hrepr).trans (congrArg (fun w => Except.ok (Machine.Flow.goto p, w)) (if_pos hback)),
      alikeButSpin_trans alikeButSpin_leaving (alikeButSpin_spun ..)⟩
  · exact ⟨_, (if_neg hrepr).trans (congrArg (fun w => Except.ok (Machine.Flow.goto p, w)) (if_neg hback)), alikeButSpin_leaving⟩

theorem takeBranch_trap (h : representable (here s).pcc p = false) :
    takeBranch p s = .error (.trap ⟨.capBounds, p, 0, false⟩) := if_pos h

/-- A transfer to `p` is complete (R228, R229). -/
theorem jumped_finish {t w : State} (n : Nat) {k : W64} (h : AlikeButSpin t.cur k t w) :
    Jumped t (finish n s w (.goto p)) ((here t).pcc.withCursor p) ∧ (here (finish n s w (.goto p))).loopc = k := by
  obtain ⟨hrest, hctx⟩ := h
  have hcur : w.cur = t.cur := by rw [hrest]
  have hhere : here (finish n s w (.goto p)) = (here w).settled.setPc p := ctx_setCtx_self ..
  have hw : here w = w.ctx t.cur := congrArg w.ctx hcur
  have hmem : SameMemory t w := by
    rw [hrest]
    exact ⟨fun _ => rfl, fun _ => rfl⟩
  have hfields := hhere.trans (congrArg (fun x : Ctx => x.settled.setPc p) (hw.trans hctx))
  rw [Jumped, hfields]
  exact ⟨⟨hcur, rfl, rfl, rfl, rfl, hmem, congrArg Core.nextIssue (core_modCore_self ..)⟩, rfl⟩

end

/-! Going on: neither spins nor the number of the stochastic draw bear on where a context goes on. -/

/-- A context with other spins and another SRSEQ. -/
def aside (ps : List Spin) (n : W64) (x : Ctx) : Ctx := { x with spin := ps, srseq := n }

@[simp] theorem aside_fields (ps : List Spin) (n : W64) (x : Ctx) :
    (aside ps n x).pc = x.pc ∧ (aside ps n x).pcc = x.pcc ∧ (aside ps n x).g = x.g ∧ (aside ps n x).loopc = x.loopc ∧
      (aside ps n x).loopb = x.loopb ∧ (aside ps n x).loope = x.loope ∧ (aside ps n x).repc = x.repc :=
  ⟨rfl, rfl, rfl, rfl, rfl, rfl, rfl⟩

theorem closeLoop_aside (x : Ctx) (ps : List Spin) (n a next : W64) :
    (aside ps n x).closeLoop a next = (x.closeLoop a next).map (aside ps n) := by
  simp only [Ctx.closeLoop, aside_fields]
  split_ifs <;> rfl

theorem advance_aside (x : Ctx) (ps : List Spin) (n : W64) (len : Nat) :
    (aside ps n x).advance len = (x.advance len).map (aside ps n) := by
  simp only [Ctx.advance, aside_fields]
  split_ifs
  · exact closeLoop_aside x ..
  · exact closeLoop_aside { x with repc := 0, repi := 0, rep := none } ..
  · rfl

theorem goesOn_setCtx {i : Instr} {t : State} {x y : Ctx} (h : x.settled.advance i.size = .ok y) :
    GoesOn i (t.setCtx t.cur x) (t.setCtx t.cur y) :=
  ⟨y, (congrArg (fun z : Ctx => z.settled.advance i.size) (here_setCtx_cur t x)).trans h, (setCtx_setCtx ..).symm⟩

theorem notTaken_eq (s : State) : ∃ ps, notTaken s = .ok (.next, s.setCtx s.cur (aside ps (here s).srseq (here s))) := ⟨_, rfl⟩

/-! The tests of R228, over the integers that the words stand for. -/

section
variable (x y : W64)

theorem decide_toNat_eq : decide ((x.toNat : Int) = y.toNat) = (x == y) := by
  rw [Bool.eq_iff_iff, decide_eq_true_eq, beq_iff_eq, Nat.cast_inj, BitVec.toNat_inj]

theorem decide_toNat_ne : decide ((x.toNat : Int) ≠ y.toNat) = (x != y) := by
  rw [bne, ← decide_toNat_eq, ← decide_not]

theorem decide_toNat_lt : decide ((x.toNat : Int) < y.toNat) = x.ult y := by
  rw [Bool.eq_iff_iff, decide_eq_true_eq, BitVec.ult_iff_toNat_lt, Nat.cast_lt]

theorem decide_toNat_le : decide ((y.toNat : Int) ≤ x.toNat) = !x.ult y := by
  simp only [← decide_toNat_lt, ← decide_not, not_lt]

theorem decide_toInt_le : decide (y.toInt ≤ x.toInt) = !x.slt y := by
  simp only [BitVec.slt_eq_decide, ← decide_not, not_lt]

end

/-! A branch as a whole: it reads its operands, and its test decides. -/

/-- The body of a branch, of its test and its offset. -/
def branchBody (rs : List RegCode) (test : List W64 → Bool) (off : W64) : M Machine.Flow := do
  let vs ← takeAll rs
  let x ← me
  if test (lows vs) then takeBranch (x.pc + off) else notTaken

/-- A member is run with that body. -/
def RunsBranch (i : Instr) (rs : List RegCode) (test : List W64 → Bool) (off : W64) : Prop :=
  ∀ s, exec i s = operate i .transfer rs rs (pure ()) (branchBody rs test off) s

theorem runsBranch_of_branchOp {i : Instr} {a b : RegCode} {off : BitVec 13} {g : W64 → W64 → Bool} {test : List W64 → Bool}
    (h : ∀ s, exec i s = branchOp i a b off g s) (htest : ∀ x y, test [x, y] = g x y) :
    RunsBranch i [a, b] test (2 * off.signExtend 64) := by
  intro s
  rw [h]
  simp only [branchOp, branchBody, readData, takeAll, lows, List.map, htest, bind_assoc, pure_bind]

theorem runsBranch_bnz {d : RegCode} {k : BitVec 5} :
    RunsBranch (.bnz d k) [d] (fun vs => decide (vs ≠ [0])) (0 - 2 * (k.setWidth 64 + 1)) := by
  intro s
  unfold exec
  simp only [execBnz, branchBody, readData, takeAll, lows, List.map, bind_assoc, pure_bind, ne_eq, List.cons.injEq, and_true,
    decide_eq_true_eq, zero_sub, ← sub_eq_add_neg]

/-- Every member of the table is run with the body of its row. -/
theorem runsBranch_of_branchForm {i : Instr} {rs : List RegCode} {test : List W64 → Bool} {off : W64}
    (h : branchForm i = some (rs, test, off)) : RunsBranch i rs test off := by
  unfold branchForm at h
  dsimp only at h
  split at h
  case h_1 => cases h; exact runsBranch_of_branchOp (fun _ => rfl) decide_toNat_eq
  case h_2 => cases h; exact runsBranch_of_branchOp (fun _ => rfl) decide_toNat_ne
  case h_3 => cases h; exact runsBranch_of_branchOp (fun _ => rfl) fun _ _ => BitVec.slt_eq_decide.symm
  case h_4 => cases h; exact runsBranch_of_branchOp (fun _ => rfl) decide_toInt_le
  case h_5 => cases h; exact runsBranch_of_branchOp (fun _ => rfl) decide_toNat_lt
  case h_6 => cases h; exact runsBranch_of_branchOp (fun _ => rfl) decide_toNat_le
  case h_7 => cases h; exact runsBranch_bnz
  case h_8 => cases h

section
variable {i : Instr} {rs : List RegCode} {test : List W64 → Bool} {off : W64} {s s1 t : State} {vs : List Reg}

theorem branchBody_of_takeAll (h : takeAll rs s1 = .ok (vs, t)) : branchBody rs test off s1 =
    (if test (lows vs) then takeBranch ((here t).pc + off) else notTaken) t :=
  (bind_ok h).trans (me_bind _ t)

variable (hruns : RunsBranch i rs test off) (hstarts : Starts i .transfer rs rs s s1) (htake : takeAll rs s1 = .ok (vs, t))
include hruns hstarts htake

theorem RunsBranch.taken (htest : test (lows vs) = true) (hrepr : representable (here t).pcc ((here t).pc + off) = true) :
    ∃ u, exec i s = .next u ∧ Jumped t u ((here t).pcc.withCursor ((here t).pc + off)) ∧
      (here u).loopc = loopcAt (here t) ((here t).pc + off) := by
  obtain ⟨w, hbranch, halike⟩ := takeBranch_ok hrepr
  have hbody := (branchBody_of_takeAll htake).trans ((congrFun (if_pos htest) t).trans hbranch)
  exact ⟨_, (hruns s).trans (operate_finish rfl hstarts hbody), jumped_finish i.size halike⟩

theorem RunsBranch.trap (htest : test (lows vs) = true) (hrepr : representable (here t).pcc ((here t).pc + off) = false) :
    exec i s = .next (s1.takeTrap s.cur ⟨.capBounds, (here t).pc + off, 0, false⟩) :=
  (hruns s).trans (operate_trap rfl hstarts
    ((branchBody_of_takeAll htake).trans ((congrFun (if_pos htest) t).trans (takeBranch_trap hrepr))))

theorem RunsBranch.notTaken {x : Ctx} (htest : test (lows vs) = false) (hx : (here t).settled.advance i.size = .ok x) :
    ∃ u, exec i s = .next u ∧ (here u).pcc = x.pcc ∧ (here u).loopc = x.loopc ∧ (here u).g = (here t).g ∧ SameMemory t u := by
  obtain ⟨ps, hbranch⟩ := notTaken_eq t
  have hfalse : ¬ test (lows vs) = true := fun h => Bool.noConfusion (h.symm.trans htest)
  have hbody := (branchBody_of_takeAll (off := off) htake).trans ((congrFun (if_neg hfalse) t).trans hbranch)
  have hnext : (aside ps (here t).srseq (here t).settled).advance i.size = .ok (aside ps (here t).srseq x) := by
    rw [advance_aside, hx]
    rfl
  refine ⟨t.setCtx t.cur (aside ps (here t).srseq x),
    (hruns s).trans (operate_next rfl hstarts hbody (goesOn_setCtx hnext)), ?_⟩
  have hregs := congrArg Ctx.g (advance_spec hx)
  rw [here_setCtx_cur]
  exact ⟨rfl, rfl, hregs, sameMemory_setCtx ..⟩

end

/-- Settles O15: every member reads its operands and then transfers or goes on; before the transfer only the loop count and what
counts spins change. -/
theorem branchResult : Obligations.BranchResult := by
  intro i rs test off s s1 t vs hform hstarts htake
  have hruns := runsBranch_of_branchForm hform
  exact ⟨hruns.taken hstarts htake, hruns.trap hstarts htake, fun x => hruns.notTaken hstarts htake⟩

end Sys2Proof.Proofs.Branches
end

section
/-! PROOFS of the family 09_scalar_instructions: SRD and SWR (R122, R231 to R233, R237, R399). -/
namespace Sys2Proof.Proofs.SpecialRegisters
open Sys2Proof Sys2Proof.Machine Sys2Proof.Laws
open Sys2Proof.Safety
open Sys2Proof.Proofs.Order (bind_ok)
open Sys2Proof.Proofs.QueueForms (setCtx_setCtx get_bind me_bind greg_bind edit_bind)
open Sys2Proof.Proofs.Operands (here_setCtx_cur read_g)
open Sys2Proof.Proofs.Services (cur_of_starts_read)

/-! Rights (R233). -/

section
variable {n : Nat} {s : State}

theorem sregReadBy_of_taskReads (h : taskReads n) : sregReadBy n = .all := by
  unfold taskReads at h
  rw [sregReadBy, if_neg (by omega), if_neg (by omega)]

theorem sregReadBy_of_supReads (h : supReads n) : sregReadBy n = .all ∨ sregReadBy n = .sup := by
  rcases h with h | h
  · exact .inl (sregReadBy_of_taskReads h)
  · by_cases hsup : n = 0x021 ∨ 0x100 ≤ n ∧ n ≤ 0x109
    · exact .inr (if_pos hsup)
    · omega

theorem sregWriteBy_of_taskWrites (h : taskWrites n) : sregWriteBy n = .all := if_pos h

theorem sregWriteBy_of_supWrites (h : supWrites n) : sregWriteBy n = .all ∨ sregWriteBy n = .sup := by
  rcases h with h | h
  · exact .inl (sregWriteBy_of_taskWrites h)
  · by_cases hall : taskWrites n
    · exact .inl (sregWriteBy_of_taskWrites hall)
    · exact .inr ((if_neg hall).trans (if_pos h))

/-- A right that all have, or the supervisor has, is that of a context of its kind. -/
theorem allow_ok {a : Allow} {c : CtxId} (h : if s.isSup c = true then a = .all ∨ a = .sup else a = .all) :
    a.ok (s.rightOf c) = true := by
  unfold State.rightOf
  split_ifs at h ⊢
  · rcases h with rfl | rfl <;> rfl
  · rw [h]
    rfl

theorem sregThere_of_granule (h : Granule s n) : s.sregThere s.cur n = true := by
  simp only [State.sregThere, Bool.or_eq_true, Bool.not_eq_true', decide_eq_false_iff_not, decide_eq_true_eq]
  by_cases hrange : 0x080 ≤ n ∧ n ≤ 0x0BF
  · exact .inr (h hrange.1 hrange.2)
  · exact .inl hrange

theorem needSreg_ok (w : W64) {a : State → CtxId → Bool} (hright : a s s.cur = true) (hthere : Granule s n) :
    needSreg w n a s = .ok ((), s) :=
  if_pos (by rw [hright, sregThere_of_granule hthere]; rfl)

theorem mayRead (w : W64) (h : if s.isSup s.cur = true then supReads n else taskReads n) (hthere : Granule s n) :
    needSreg w n (fun s c => (sregReadBy n).ok (s.rightOf c)) s = .ok ((), s) := by
  refine needSreg_ok w (allow_ok ?_) hthere
  split_ifs at h ⊢
  · exact sregReadBy_of_supReads h
  · exact sregReadBy_of_taskReads h

theorem mayWriteSreg (w : W64) (h : if s.isSup s.cur = true then supWrites n else taskWrites n) (hthere : Granule s n) :
    needSreg w n (fun s c => (sregWriteBy n).ok (s.rightOf c)) s = .ok ((), s) := by
  refine needSreg_ok w (allow_ok ?_) hthere
  split_ifs at h ⊢
  · exact sregWriteBy_of_supWrites h
  · exact sregWriteBy_of_taskWrites h

end

/-! The destination: one register, or for TSTAT a pair, or none (R399). -/

section
variable {w : W64} {d : RegCode} {n : Nat} {lo hi : Reg} {s u : State}

theorem putSreg_single (h : write w d lo s = .ok ((), u)) (hn : n ≠ 0x00C) : putSreg w d n lo hi s = .ok ((), u) :=
  (bind_ok h).trans (congrFun (if_neg fun hpair => hn hpair.1) u)

theorem putSreg_pair {k : GReg} (h : write w (.g k) lo s = .ok ((), u)) :
    putSreg w (.g k) 0x00C lo hi s = .ok ((), if k = 0 then u else u.modCtx u.cur (fun x => x.setReg (k + 1) hi)) := by
  refine (bind_ok h).trans ?_
  by_cases hk : k = 0
  · rw [if_neg (fun hpair => hpair.2 (congrArg RegCode.g hk)), if_pos hk]
    rfl
  · rw [if_pos ⟨rfl, fun hg => hk (RegCode.g.inj hg)⟩, if_neg hk]
    rfl

theorem write_g_setCtx (k : GReg) (y : Ctx) : write w (.g k) lo (s.setCtx s.cur y) = .ok ((), s.setCtx s.cur (y.setReg k lo)) := by
  simp only [write, setCtx_fields, ctx_setCtx_self, setCtx_setCtx]

theorem modCtx_setCtx (y : Ctx) (f : Ctx → Ctx) : (s.setCtx s.cur y).modCtx s.cur f = s.setCtx s.cur (f y) := by
  rw [State.modCtx, ctx_setCtx_self, setCtx_setCtx]

theorem putSreg_setCtx (k : GReg) (y : Ctx) : putSreg w (.g k) 0x00C lo hi (s.setCtx s.cur y) =
    .ok ((), s.setCtx s.cur (if k = 0 then y else (y.setReg k lo).setReg (k + 1) hi)) := by
  rw [putSreg_pair (write_g_setCtx k y)]
  split_ifs with hk
  · rw [hk]
    rfl
  · exact congrArg (fun t => Except.ok ((), t)) (modCtx_setCtx ..)

end

/-! SRD (R231, R232, R399). -/

theorem who_bind {α : Type} (f : CtxId → M α) (s : State) : (who >>= f) s = f s.cur s := rfl

theorem srdResult : SrdResult := by
  intro d n s s1 u v hstarts hright hthere hwrite
  obtain rfl := starts_self hstarts
  have hnext : ∀ m, putSreg (Instr.word (.srd d n)) d n.toNat (s1.sreg s1.cur n.toNat) (s1.tstatHigh s1.cur) s1 = .ok ((), m) →
      GoesOn (.srd d n) m v → exec (.srd d n) s1 = .next v := fun m hput hgoes =>
    operate_next (mayRead (Instr.word (.srd d n)) hright hthere) hstarts
      ((who_bind _ _).trans ((get_bind _ _).trans (bind_ok hput))) hgoes
  refine ⟨fun hn => hnext u (putSreg_single hwrite hn), fun k hn hd => ?_⟩
  subst hd
  exact hnext _ (by rw [hn] at hwrite ⊢; exact putSreg_pair hwrite)

/-! SWR (R232, R237, R399). -/

theorem before_of_ne {s : State} {c : CtxId} {n : Nat} (h : n ≠ 0x00C) : s.before c n =
    Reg.data (if n = 0x004 then ((s.ctx c).flagsBefore s.cycle).setWidth 64 else (s.sreg c n).lo) := by
  rw [State.before, if_neg h]
  split_ifs <;> rfl

theorem ite_bind_ok {α β : Type} {p : Prop} [Decidable p] {m m' : M α} {f : α → M β} {s t : State} {a : α}
    (h : (if p then m else m') s = .ok (a, t)) : (if p then m >>= f else m' >>= f) s = f a t := by
  split_ifs at h ⊢ <;> exact bind_ok h

theorem swr_next {d a : RegCode} {n : BitVec 12} {s s1 t m u v : State} {r : Reg} (hstarts : Starts (.swr d n a) .closes [a] [d, a] s s1)
    (hright : if s.isSup s.cur = true then supWrites n.toNat else taskWrites n.toNat) (hthere : Granule s n.toNat)
    (hread : Machine.read a s1 = .ok (r, t))
    (hset : (if n.toNat = 0x00C then writeTstat (Instr.word (.swr d n a)) a r
      else sregWrite (Instr.word (.swr d n a)) t.cur n.toNat r) t = .ok ((), m))
    (hput : putSreg (Instr.word (.swr d n a)) d n.toNat (t.before t.cur n.toNat) (t.tstatHigh t.cur) m = .ok ((), u))
    (hgoes : GoesOn (.swr d n a) u v) : exec (.swr d n a) s = .next v :=
  operate_next (mayWriteSreg (Instr.word (.swr d n a)) hright hthere) hstarts
    ((bind_ok hread).trans ((who_bind _ _).trans ((get_bind _ _).trans ((ite_bind_ok hset).trans (bind_ok hput))))) hgoes

theorem writeTstat_ok {w : W64} {j : GReg} {s : State} {lo : Reg} {t : TStat}
    (ht : (here s).tstat.written lo.bits ((here s).reg (j + 1)).bits = t) (hrange : t.repi.toNat + t.repc.toNat ≤ 65535) :
    writeTstat w (.g j) lo s = .ok ((), s.setCtx s.cur { here s with tstat := t }) := by
  subst ht
  exact (greg_bind _ _ s).trans ((me_bind _ s).trans (congrFun (if_neg (Nat.not_lt_of_le hrange)) s))

theorem swrResult : SwrResult := by
  constructor
  · intro d n a s s1 t m u v r hstarts hn hright hthere hread hset old hwrite hgoes
    have hcur := cur_of_starts_read hstarts hread
    refine swr_next (m := m) hstarts hright hthere hread ((congrFun (if_neg hn) t).trans ?_) (putSreg_single ?_ hn) hgoes
    · rw [hcur]
      exact hset
    · have hhere : here t = t.ctx s.cur := congrArg t.ctx hcur
      rw [before_of_ne hn, hcur, ← hhere]
      exact hwrite
  · intro k j s v i hstarts x lo hi repc repi hrange y hgoes
    have hright : if s.isSup s.cur = true then supWrites 0x00C else taskWrites 0x00C := by
      have htask : taskWrites 0x00C := .inl (by decide)
      split_ifs
      · exact .inl htask
      · exact htask
    have hthere : Granule s 0x00C := fun h => absurd h (by decide)
    have hset := writeTstat_ok (w := Instr.word i) (s := s) (j := j) (lo := x.reg j) rfl hrange
    exact swr_next hstarts hright hthere (read_g s j) hset (putSreg_setCtx ..) hgoes

/-- Settles O29: the right and the granule let the instruction start, and each body is run from what its parts answer. -/
theorem sregForms : Obligations.SregForms := ⟨srdResult, swrResult⟩

end Sys2Proof.Proofs.SpecialRegisters
end

section
/-! PROOFS of the family 09_scalar_instructions: what SWR has written, SRD gives again (R105, R170, R212, R226, R227, R232, R236, R237,
R264, R268, R355, R380). -/
namespace Sys2Proof.Proofs.ReadBack
open Sys2Proof Sys2Proof.Machine Sys2Proof.Laws
open Sys2Proof.Safety

/-! The bits that a register keeps. -/

/-- A register of `k` bits reads back as the low bits of the word. -/
theorem setWidth_setWidth_eq_and (v : W64) {k : Nat} (h : k ≤ 64) :
    (v.setWidth k).setWidth 64 = v &&& BitVec.ofNat 64 (2 ^ k - 1) := by
  have hk : 2 ^ k - 1 < 2 ^ 64 := by have := Nat.pow_le_pow_right (n := 2) (by decide) h; have := Nat.two_pow_pos k; omega
  apply BitVec.eq_of_toNat_eq
  rw [BitVec.toNat_and, BitVec.toNat_ofNat, Nat.mod_eq_of_lt hk, Nat.and_two_pow_sub_one_eq_mod, BitVec.toNat_setWidth,
    BitVec.toNat_setWidth, Nat.mod_eq_of_lt]
  exact lt_of_le_of_lt (Nat.mod_le ..) v.isLt

/-- Words whose low `k` bits agree agree under the mask of those bits. -/
theorem and_eq_and_of_setWidth_eq {v u : W64} {k : Nat} (hk : k ≤ 64) (h : v.setWidth k = u.setWidth k) :
    v &&& BitVec.ofNat 64 (2 ^ k - 1) = u &&& BitVec.ofNat 64 (2 ^ k - 1) := by
  rw [← setWidth_setWidth_eq_and v hk, h, setWidth_setWidth_eq_and u hk]

/-- FRM keeps eleven bits, and none between its fields (R212). -/
theorem setWidth_frm (v : W64) : ((v &&& 0x7C7).setWidth 11).setWidth 64 = v &&& 0x7C7 := by
  rw [setWidth_setWidth_eq_and _ (by decide), BitVec.and_assoc]
  rfl

theorem ofBool_bit_zero (v : W64) : ofBool (v.getLsbD 0) = v &&& 1 := by
  refine Eq.trans ?_ (BitVec.and_one_eq_setWidth_ofBool_getLsbD (x := v)).symm
  cases v.getLsbD 0 <;> rfl

/-- A mask acts on the bits above a place and on those below it apart. -/
theorem and_mul_pow_add (n m k : Nat) {r : Nat} (h : r < 2 ^ k) :
    n &&& (m * 2 ^ k + r) = (n / 2 ^ k &&& m) * 2 ^ k + (n % 2 ^ k &&& r) := by
  have hdiv : (m * 2 ^ k + r) / 2 ^ k = m := by
    rw [Nat.mul_comm, Nat.mul_add_div (Nat.two_pow_pos k), Nat.div_eq_of_lt h, Nat.add_zero]
  have hmod : (m * 2 ^ k + r) % 2 ^ k = r := by rw [Nat.mul_comm, Nat.mul_add_mod, Nat.mod_eq_of_lt h]
  rw [← Nat.div_add_mod (n &&& (m * 2 ^ k + r)) (2 ^ k), Nat.and_div_two_pow, Nat.and_mod_two_pow, hdiv, hmod, Nat.mul_comm]

/-- The mask of ACCOWN: three bits from 11, one at 8, and six from 0 (R268). -/
theorem and_accown (n : Nat) : n &&& 0x393F = n / 2 ^ 11 % 8 * 2 ^ 11 + (n / 2 ^ 8 % 2 * 2 ^ 8 + n % 64) := by
  have hkinds : n &&& 0x393F = (n / 2 ^ 11 &&& 2 ^ 3 - 1) * 2 ^ 11 + (n % 2 ^ 11 &&& 0x13F) :=
    and_mul_pow_add n 7 11 (r := 0x13F) (by decide)
  have howner : n % 2 ^ 11 &&& 0x13F = (n % 2 ^ 11 / 2 ^ 8 &&& 2 ^ 1 - 1) * 2 ^ 8 + (n % 2 ^ 11 % 2 ^ 8 &&& 2 ^ 6 - 1) :=
    and_mul_pow_add _ 1 8 (r := 0x3F) (by decide)
  rw [hkinds, howner]
  simp only [Nat.and_two_pow_sub_one_eq_mod]
  omega

/-- ACCOWN keeps its owner, its valid bit and the kinds, and no dirty bit (R268). -/
theorem word_written (v : W64) : (AccOwn.written v).word = v &&& 0x393F := by
  have hkinds : v.toNat / 2 ^ 11 % 8 = v.toNat / 2 ^ 13 % 2 * 4 + v.toNat / 2 ^ 12 % 2 * 2 + v.toNat / 2 ^ 11 % 2 := by omega
  have howner : v.toNat % 64 = v.toNat / 2 ^ 2 % 2 ^ 4 * 4 + v.toNat / 2 ^ 0 % 2 ^ 2 := by omega
  apply BitVec.eq_of_toNat_eq
  rw [BitVec.toNat_and, show (0x393F : W64).toNat = 0x393F from rfl, and_accown, hkinds, howner]
  simp only [AccOwn.word, AccOwn.written, AccOwn.ofWord, BitVec.toNat_ofNat, BitVec.getLsbD, Nat.toNat_testBit,
    BitVec.extractLsb'_toNat, Nat.shiftRight_eq_div_pow, Bool.toNat_false]
  rw [Nat.mod_eq_of_lt]
  · ring
  · omega

/-! The parts of the state that hold the registers. -/

theorem die_modDies (s : State) (f : Die → Die) (d : Fin 4) : (s.modDies f).die d = f (s.die d) := by
  fin_cases d <;> simp [State.modDies, State.modDie, State.setDie, State.die, get_put]

theorem foldl_cores {α : Type} {f : State → α → State} (hf : ∀ t a, ∃ ks, f t a = { t with cores := ks })
    (l : List α) (s : State) : ∃ ks, l.foldl f s = { s with cores := ks } := by
  induction l generalizing s with
  | nil => exact ⟨s.cores, rfl⟩
  | cons a l ih =>
    obtain ⟨ks, hks⟩ := hf s a
    rw [List.foldl_cons, hks]
    exact ih _

/-- A change of grants drops panels, and marks commands in the queues of the cluster's cores (R264). -/
theorem setGrant_eq (s : State) (cl : Fin 576) (n : Fin 2) (v : W64) :
    ∃ ks, s.setGrant cl n v = { s.modCluster cl fun u => u.setGrant n v with cores := ks } := by
  refine foldl_cores (fun t a => ?_) _ _
  split_ifs
  · exact ⟨t.cores, rfl⟩
  · exact ⟨_, rfl⟩

theorem cluster_setGrant (s : State) (cl : Fin 576) (n : Fin 2) (v : W64) :
    (s.setGrant cl n v).cluster cl = (s.cluster cl).setGrant n v := by
  obtain ⟨ks, h⟩ := setGrant_eq s cl n v
  rw [h]
  exact cluster_modCluster_self s cl fun u => u.setGrant n v

/-! What is left alone. -/

/-- No byte, no tag and no general register changes. -/
structure Kept (s t : State) : Prop where
  mem : t.mem = s.mem
  tags : t.tags = s.tags
  regs : ∀ c, (t.ctx c).g = (s.ctx c).g

theorem kept_modCtx (s : State) (c : CtxId) {f : Ctx → Ctx} (h : ∀ x, (f x).g = x.g) : Kept s (s.modCtx c f) := by
  refine ⟨rfl, rfl, fun e => ?_⟩
  by_cases he : e = c
  · rw [he, ctx_modCtx_self, h]
  · rw [ctx_modCtx_ne _ _ he]

theorem kept_of_ctxs {s t : State} (hmem : t.mem = s.mem) (htags : t.tags = s.tags) (hctxs : t.ctxs = s.ctxs) : Kept s t :=
  ⟨hmem, htags, fun c => by rw [State.ctx, State.ctx, hctxs]⟩

theorem kept_setGrant (s : State) (cl : Fin 576) (n : Fin 2) (v : W64) : Kept s (s.setGrant cl n v) := by
  obtain ⟨ks, h⟩ := setGrant_eq s cl n v
  rw [h]
  exact kept_of_ctxs rfl rfl rfl

/-- A write that passes its check. -/
theorem ok_of_refused {α : Type} {p : Prop} [Decidable p] {e : Stop} {m : Except Stop α} {a : α}
    (h : (if p then .error e else m) = .ok a) : ¬ p ∧ m = .ok a := by
  split_ifs at h with hp
  exact ⟨hp, h⟩

theorem ok_of_allowed {α : Type} {p : Prop} [Decidable p] {e : Stop} {m : Except Stop α} {a : α}
    (h : (if p then m else .error e) = .ok a) : p ∧ m = .ok a := by
  split_ifs at h with hp
  exact ⟨hp, h⟩

theorem eq_of_ok {u t : State} (h : (Except.ok ((), u) : Except Stop (Unit × State)) = .ok ((), t)) : u = t :=
  congrArg Prod.snd (Except.ok.inj h)

section
variable {w : W64} {c : CtxId} {n : Nat} {r : Reg} {s t : State}

theorem kept_of_sregWrite (h : sregWrite w c n r s = .ok ((), t)) : Kept s t := by
  unfold sregWrite at h
  dsimp only at h
  split at h
  · split at h
    · cases h
    · split at h
      case h_1 => cases h; exact kept_modCtx s c fun _ => rfl
      case h_3 => cases (ok_of_refused h).2; exact kept_of_ctxs rfl rfl rfl
      all_goals
        cases h
        exact kept_of_ctxs rfl rfl rfl
  · split at h
    case h_1 | h_5 => cases (ok_of_refused h).2; exact kept_modCtx s c fun _ => rfl
    case h_9 => cases (ok_of_refused (ok_of_refused h).2).2; exact kept_modCtx s c fun _ => rfl
    case h_11 | h_20 => cases (ok_of_allowed h).2; exact kept_of_ctxs rfl rfl rfl
    case h_12 | h_13 | h_14 => cases (ok_of_refused h).2; exact kept_of_ctxs rfl rfl rfl
    case h_15 | h_16 | h_19 => cases h; exact kept_of_ctxs rfl rfl rfl
    case h_17 | h_18 => exact eq_of_ok h ▸ kept_setGrant ..
    all_goals
      cases h
      exact kept_modCtx s c fun _ => rfl

/-! What is read back. -/

theorem isCapSreg_iff : isCapSreg n = true ↔ n = 0x008 ∨ 0x100 ≤ n ∧ n ≤ 0x102 := by
  simp only [isCapSreg, Bool.or_eq_true, beq_iff_eq, decide_eq_true_eq]

/-- A register that holds a capability keeps all of it. -/
theorem sreg_of_cap (hcap : isCapSreg n = true) (h : sregWrite w c n r s = .ok ((), t)) : t.sreg c n = r := by
  have hdie : ∀ f, (s.modDies f).die (dieOf c.core) = f (s.die (dieOf c.core)) := fun f => die_modDies ..
  unfold sregWrite at h
  rw [if_pos hcap] at h
  dsimp only at h
  split at h
  · cases h
  · split at h
    case h_1 => cases h; exact congrArg Ctx.tvec (ctx_modCtx_self ..)
    case h_2 => cases h; exact (congrArg (fun d : Die => Sparse.get Reg.zero d.svec _) (hdie _)).trans get_put_self
    case h_3 =>
      cases (ok_of_refused h).2
      exact (congrArg (fun d : Die => Sparse.get Reg.zero d.ssp _) (hdie _)).trans get_put_self
    case h_4 h8 h100 h101 =>
      cases h
      have hn : n = 0x102 := by
        rcases isCapSreg_iff.mp hcap with hn | ⟨hlow, hhigh⟩
        · exact absurd hn h8
        · have h100 : n ≠ 0x100 := h100
          have h101 : n ≠ 0x101 := h101
          omega
      rw [hn]
      exact (congrArg (fun d : Die => Sparse.get Reg.zero d.sdd _) (hdie _)).trans get_put_self

/-- FFLAGS holds what was written and the flags of this cycle's resolutions (R237). -/
theorem sreg_fflags (h : sregWrite w c 0x004 r s = .ok ((), t)) :
    t.sreg c 0x004 = Reg.data ((r.lo &&& 0x1F) ||| ((s.ctx c).lateFlags s.cycle).setWidth 64) := by
  have hset : Except.ok ((), s.modCtx c fun x => { x with fflags := r.lo.setWidth 5 ||| x.lateFlags s.cycle }) =
    (Except.ok ((), t) : Except Stop (Unit × State)) := h
  cases hset
  refine (congrArg (fun x : Ctx => Reg.data (x.fflags.setWidth 64)) (ctx_modCtx_self ..)).trans (congrArg Reg.data ?_)
  rw [BitVec.setWidth_or, setWidth_setWidth_eq_and _ (by decide)]
  rfl

theorem lo_data (v : W64) : (Reg.data v).lo = v := BitVec.setWidth_setWidth_of_le v (by decide)

/-- PHTAG keeps DSEL (R105). -/
theorem sreg_phtag (h : sregWrite w c 0x013 r s = .ok ((), t)) : (t.sreg c 0x013).lo &&& 0x7 = r.lo &&& 0x7 := by
  have hset : (if 6 ≤ r.lo.toNat % 8 then _ else if r.lo.setWidth 3 ≠ (s.ctx c).dsel ∧ (s.ctx c).usc ≠ 0 then _ else _) = _ := h
  cases (ok_of_refused (ok_of_refused hset).2).2
  have hread : (s.modCtx c fun x => { x with dsel := r.lo.setWidth 3 }).sreg c 0x013 =
      Reg.data ({ s.ctx c with dsel := r.lo.setWidth 3 } : Ctx).phtag := congrArg (fun x : Ctx => Reg.data x.phtag) (ctx_modCtx_self ..)
  rw [hread, lo_data]
  refine and_eq_and_of_setWidth_eq (k := 3) (by decide) (BitVec.eq_of_toNat_eq ?_)
  simp only [Ctx.phtag, BitVec.toNat_setWidth, BitVec.toNat_ofNat]
  omega

/-- SLICE keeps the slice length (R355). -/
theorem sreg_slice (h : sregWrite w c 0x023 r s = .ok ((), t)) : (t.sreg c 0x023).lo &&& 0xFFFFFFFF = r.lo &&& 0xFFFFFFFF := by
  have hset : (if r.lo.toNat % 2 ^ 32 < 1024 ∨ 16777215 < r.lo.toNat % 2 ^ 32 then _ else _) = _ := h
  cases (ok_of_refused hset).2
  have hread : (s.modSlot c.sl fun q => { q with sliceLen := r.lo.toNat % 2 ^ 32 }).sreg c 0x023 = Reg.data
      (BitVec.ofNat 64 ((s.slot c.sl).used % 2 ^ 32 * 2 ^ 32 + r.lo.toNat % 2 ^ 32)) :=
    congrArg (fun q : Slot => Reg.data (BitVec.ofNat 64 (q.used % 2 ^ 32 * 2 ^ 32 + q.sliceLen))) (slot_modSlot_self ..)
  rw [hread, lo_data]
  refine and_eq_and_of_setWidth_eq (k := 32) (by decide) (BitVec.eq_of_toNat_eq ?_)
  simp only [BitVec.toNat_setWidth, BitVec.toNat_ofNat]
  omega

/-- A register of the local store's granules (R122). -/
theorem sreg_lsg (hlow : 0x080 ≤ n) (hhigh : n ≤ 0x0BF) :
    s.sreg c n = Reg.data ((Sparse.get 0 (s.slot c.sl).lsg (n - 0x080)).setWidth 64) := by
  unfold State.sreg
  dsimp only
  split
  case h_51 => rfl
  all_goals omega

theorem sregMask_lsg (hlow : 0x080 ≤ n) (hhigh : n ≤ 0x0BF) : sregMask n = 0xFF := by
  unfold sregMask
  split
  case h_12 => exact if_pos ⟨hlow, hhigh⟩
  all_goals omega

/-- A register that is no capability, but for those whose other bits have a life of their own. -/
theorem sreg_of_plain (hcap : isCapSreg n = false) (h4 : n ≠ 0x004) (h13 : n ≠ 0x013) (h23 : n ≠ 0x023)
    (h : sregWrite w c n r s = .ok ((), t)) : t.sreg c n = Reg.data (r.lo &&& sregMask n) := by
  have hctx : ∀ (f : Ctx → Ctx) (g : Ctx → W64), g (f (s.ctx c)) = r.lo &&& sregMask n →
      Reg.data (g ((s.modCtx c f).ctx c)) = Reg.data (r.lo &&& sregMask n) := by
    intro f g hbits
    rw [ctx_modCtx_self, hbits]
  have hslot : ∀ (f : Slot → Slot) (g : Slot → W64), g (f (s.slot c.sl)) = r.lo &&& sregMask n →
      Reg.data (g ((s.modSlot c.sl f).slot c.sl)) = Reg.data (r.lo &&& sregMask n) := by
    intro f g hbits
    rw [slot_modSlot_self, hbits]
  have hcore : ∀ (f : Core → Core) (g : Core → W64), g (f (s.core c.core)) = r.lo &&& sregMask n →
      Reg.data (g ((s.modCore c.core f).core c.core)) = Reg.data (r.lo &&& sregMask n) := by
    intro f g hbits
    rw [core_modCore_self, hbits]
  unfold sregWrite at h
  rw [hcap, if_neg Bool.false_ne_true] at h
  dsimp only at h
  split at h
  case h_1 => cases (ok_of_refused h).2; exact hctx _ (fun x => x.frm.setWidth 64) (setWidth_frm _)
  case h_2 => exact absurd rfl h4
  case h_3 => cases h; exact hctx _ (fun x => x.srseed) BitVec.and_allOnes.symm
  case h_4 => cases h; exact hctx _ (fun x => x.srseq) BitVec.and_allOnes.symm
  case h_5 =>
    cases (ok_of_refused h).2
    exact hctx _ (fun x => x.dscope.setWidth 64) (setWidth_setWidth_eq_and _ (by decide))
  case h_6 => cases h; exact hctx _ (fun x => x.tcause.setWidth 64) (setWidth_setWidth_eq_and _ (by decide))
  case h_7 => cases h; exact hctx _ (fun x => x.tval) BitVec.and_allOnes.symm
  case h_8 => cases h; exact hctx _ (fun x => x.tpc) BitVec.and_allOnes.symm
  case h_9 => exact absurd rfl h13
  case h_10 => cases h; exact hctx _ (fun x => ofBool x.htrapEn) (ofBool_bit_zero _)
  case h_11 => cases (ok_of_allowed h).2; exact hcore _ (fun k => k.accown.word) (word_written _)
  case h_12 =>
    cases (ok_of_refused h).2
    exact hcore _ (fun k => k.mxw.setWidth 64) (setWidth_setWidth_eq_and _ (by decide))
  case h_13 => exact absurd rfl h23
  case h_14 => cases (ok_of_refused h).2; exact hslot _ (fun q => q.dsbase) rfl
  case h_15 => cases h; exact hslot _ (fun q => q.bind.ptroot) BitVec.and_allOnes.symm
  case h_16 => cases h; exact hslot _ (fun q => q.bind.pctb) BitVec.and_allOnes.symm
  case h_17 => rw [← eq_of_ok h]; exact congrArg (fun u : Cluster => Reg.data u.wbgrant0) (cluster_setGrant ..)
  case h_18 => rw [← eq_of_ok h]; exact congrArg (fun u : Cluster => Reg.data u.wbgrant1) (cluster_setGrant ..)
  case h_19 => cases h; exact congrArg (fun u : Cluster => Reg.data u.hkgrant) (cluster_modCluster_self ..)
  case h_20 =>
    obtain ⟨⟨hlow, hhigh, _⟩, hset⟩ := ok_of_allowed h
    cases hset
    refine (sreg_lsg hlow hhigh).trans (hslot _ (fun q => (Sparse.get 0 q.lsg (n - 0x080)).setWidth 64) ?_)
    rw [sregMask_lsg hlow hhigh, get_put_self]
    exact setWidth_setWidth_eq_and _ (by decide)

end

/-- Settles O30: a register reads back, whole or masked, from where its write put it, and the write touches neither memory nor a
general register. -/
theorem swrReadsBack : Obligations.SwrReadsBack := by
  intro w n r s t _ _ h
  obtain ⟨hmem, htags, hregs⟩ := kept_of_sregWrite h
  refine ⟨fun hcap => ?_, fun hn => ?_, fun hn => ?_, fun hn => ?_, fun hnocap h4 h13 h23 => ?_, ?_, fun c q => ?_⟩
  · exact sreg_of_cap (isCapSreg_iff.mpr hcap) h
  · subst hn
    exact sreg_phtag h
  · subst hn
    exact sreg_slice h
  · subst hn
    exact sreg_fflags h
  · have hdata : ¬ (n = 0x008 ∨ 0x100 ≤ n ∧ n ≤ 0x102) := by omega
    exact sreg_of_plain (Bool.eq_false_iff.mpr fun hcap => hdata (isCapSreg_iff.mp hcap)) h4 h13 h23 h
  · exact ⟨fun p => by rw [State.byteAt, State.byteAt, hmem], fun k => by rw [State.tagAt, State.tagAt, htags]⟩
  · rw [Ctx.reg, Ctx.reg, hregs]

end Sys2Proof.Proofs.ReadBack
end

section
/-! PROOFS of the family 09_scalar_instructions: the issue of a vector operation (R237, R238, R242, R249, R254). -/
namespace Sys2Proof.Proofs.VectorQueue
open Sys2Proof Sys2Proof.Machine Sys2Proof.Laws
open Sys2Proof.Safety
open Sys2Proof.Proofs.Network (modCtx_modCtx)
open Sys2Proof.Proofs.Order (bind_ok bind_eq_ok)
open Sys2Proof.Proofs.QueueForms (setCtx_setCtx get_bind greg_bind)
open Sys2Proof.Proofs.Operands (here_setCtx_cur)
open Sys2Proof.Proofs.Branches (aside advance_aside goesOn_setCtx)
open Sys2Proof.Proofs.SpecialRegisters (who_bind ite_bind_ok)
open Sys2Proof.Proofs.Issue (admitting numbering issuing headNow headIs_headNow issue_bind issued posted_of_issued modCore_modCore
  cur_readShape)

/-! The records (R238). -/

section
variable {s t : State} {n : Nat} {ns ms : List Nat} {sh : Shape} {l zs : List Shape}

theorem shapesAt_cons (h : shapesAt (n :: ns) s = .ok (sh :: l, t)) : ∃ m, vecShape n s = .ok (sh, m) ∧ shapesAt ns m = .ok (l, t) := by
  obtain ⟨z, m, hz, h⟩ := bind_eq_ok h
  obtain ⟨zs, u, hzs, h⟩ := bind_eq_ok h
  cases h
  exact ⟨m, hz, hzs⟩

theorem shapesAt_nil (h : shapesAt [] s = .ok (l, t)) : l = [] ∧ t = s := by
  cases h
  exact ⟨rfl, rfl⟩

theorem shapesAt_append (hlen : zs.length = ns.length) (h : shapesAt (ns ++ ms) s = .ok (zs ++ l, t)) :
    ∃ m, shapesAt ns s = .ok (zs, m) ∧ shapesAt ms m = .ok (l, t) := by
  induction ns generalizing s zs with
  | nil =>
    rw [List.length_eq_zero_iff.mp hlen] at h ⊢
    exact ⟨s, rfl, h⟩
  | cons n ns ih =>
    obtain ⟨z, zs, rfl⟩ := List.exists_cons_of_length_eq_add_one hlen
    obtain ⟨m, hz, h⟩ := shapesAt_cons h
    obtain ⟨u, hzs, h⟩ := ih (Nat.succ.inj hlen) h
    exact ⟨u, (bind_ok hz).trans (bind_ok hzs), h⟩

theorem shapesAt_two {k : Nat} {a b : Shape} (h : shapesAt [n, k] s = .ok ([a, b], t)) :
    ∃ m, vecShape n s = .ok (a, m) ∧ vecShape k m = .ok (b, t) := by
  obtain ⟨m, ha, h⟩ := shapesAt_cons h
  obtain ⟨_, hb, h⟩ := shapesAt_cons h
  obtain ⟨_, rfl⟩ := shapesAt_nil h
  exact ⟨m, ha, hb⟩

/-- A record that is read where the operation has the operand. -/
theorem optional_ok {p : Prop} [Decidable p] {o : Option Shape} (hthere : o.isSome = decide p)
    (h : shapesAt (if p then [n] else []) s = .ok (o.toList, t)) :
    (if p then (do let sh ← vecShape n; pure (some sh)) else pure none : M (Option Shape)) s = .ok (o, t) := by
  by_cases hp : p
  · rw [if_pos hp] at h ⊢
    obtain ⟨sh, rfl⟩ := Option.isSome_iff_exists.mp (hthere.trans (decide_eq_true hp))
    obtain ⟨m, hsh, h⟩ := shapesAt_cons h
    obtain ⟨_, rfl⟩ := shapesAt_nil h
    exact bind_ok hsh
  · rw [if_neg hp] at h ⊢
    obtain rfl := Option.not_isSome_iff_eq_none.mp (hthere.trans (decide_eq_false hp) ▸ Bool.false_ne_true)
    obtain ⟨_, rfl⟩ := shapesAt_nil h
    rfl

theorem optional_pair {k : Nat} {p p' : Prop} [Decidable p] [Decidable p'] {o o' : Option Shape} (ho : o.isSome = decide p)
    (ho' : o'.isSome = decide p')
    (h : shapesAt ((if p then [n] else []) ++ (if p' then [k] else [])) s = .ok (o.toList ++ o'.toList, t)) :
    ∃ m, (if p then (do let sh ← vecShape n; pure (some sh)) else pure none : M (Option Shape)) s = .ok (o, m) ∧
      (if p' then (do let sh ← vecShape k; pure (some sh)) else pure none : M (Option Shape)) m = .ok (o', t) := by
  have hlen : o.toList.length = (if p then [n] else []).length := by
    by_cases hp : p
    · obtain ⟨z, rfl⟩ := Option.isSome_iff_exists.mp (ho.trans (decide_eq_true hp))
      rw [if_pos hp]
      rfl
    · obtain rfl := Option.not_isSome_iff_eq_none.mp (ho.trans (decide_eq_false hp) ▸ Bool.false_ne_true)
      rw [if_neg hp]
      rfl
  obtain ⟨m, h1, h2⟩ := shapesAt_append hlen h
  exact ⟨m, optional_ok ho h1, optional_ok ho' h2⟩

end

/-! Counts that agree (R238). -/

section
variable {s : State} {wr : Bool} {sh : Shape} {ns : List Nat} {n : Nat}

theorem formatsNow_ok : formatsNow wr sh s = .ok (mayHave s wr sh, s) := by
  refine (get_bind _ s).trans ((who_bind _ s).trans ?_)
  unfold mayHave
  cases s.issueFmt s.cur wr sh <;> rfl

theorem countNow_ok : ∃ ns, countNow wr sh s = .ok (ns, s) ∧ ∀ n, n ∈ ns ↔ MayCount s wr sh n := by
  unfold countNow MayCount
  by_cases hempty : sh.count = 0
  · simp only [if_pos hempty]
    exact ⟨[0], rfl, fun n => List.mem_singleton⟩
  · simp only [if_neg hempty]
    refine ⟨_, bind_ok formatsNow_ok, fun n => ?_⟩
    simp only [List.mem_dedup, List.mem_map, eq_comm]

theorem sameCount_ok (hn : n ∈ ns) (hmay : MayCount s false sh n) :
    ∃ ms, sameCount ns sh s = .ok (ms, s) ∧ n ∈ ms := by
  obtain ⟨ms, hcount, hms⟩ := countNow_ok (s := s) (wr := false) (sh := sh)
  have hboth : n ∈ ns.filter fun k => ms.contains k :=
    List.mem_filter.mpr ⟨hn, List.contains_iff_mem.mpr ((hms n).mpr hmay)⟩
  have hsome : ¬ (ns.filter fun k => ms.contains k).isEmpty = true := fun h => by
    rw [List.isEmpty_iff.mp h] at hboth
    cases hboth
  exact ⟨_, (bind_ok hcount).trans (congrFun (if_neg hsome) s), hboth⟩

theorem sameCounts_ok (l : List (Option Shape)) (hn : n ∈ ns) (hmay : ∀ z, some z ∈ l → MayCount s false z n) :
    sameCounts ns l s = .ok ((), s) := by
  induction l generalizing ns with
  | nil => rfl
  | cons o l ih =>
    have hrest : ∀ z, some z ∈ l → MayCount s false z n := fun z hz => hmay z (List.mem_cons_of_mem _ hz)
    cases o with
    | none => exact ih hn hrest
    | some z =>
      obtain ⟨ms, hsame, hms⟩ := sameCount_ok hn (hmay z List.mem_cons_self)
      exact (bind_ok hsame).trans (ih hms hrest)

theorem agree_bind {α : Type} {l : List Shape} {os : List (Option Shape)} {f : M α} (h : Agree s wr sh l)
    (hos : ∀ z, some z ∈ os → z ∈ l) : (do let ns ← countNow wr sh; sameCounts ns os; f : M α) s = f s := by
  obtain ⟨n, hmay, hall⟩ := h
  obtain ⟨ns, hcount, hns⟩ := countNow_ok (s := s) (wr := wr) (sh := sh)
  exact (bind_ok hcount).trans (bind_ok (sameCounts_ok os ((hns n).mpr hmay) fun z hz => hall z (hos z hz)))

end

/-! The issue (R242, R245): it may advance SRSEQ, which nothing else of the issue reads. -/

theorem goesOn_aside {i : Instr} {t u : State} (h : GoesOn i t u) (ps : List Spin) (n : W64) :
    GoesOn i (t.setCtx t.cur (aside ps n (here t))) (u.setCtx u.cur (aside ps n (here u))) := by
  obtain ⟨x, hx, rfl⟩ := h
  have hnext : (aside ps n (here t).settled).advance i.size = .ok (aside ps n x) := by
    rw [advance_aside]
    exact congrArg (Except.map (aside ps n)) hx
  rw [here_setCtx_cur]
  have hu := goesOn_setCtx (i := i) (t := t) (x := aside ps n (here t)) hnext
  exact (setCtx_setCtx t t.cur x _).symm ▸ hu

theorem posted_aside {s u : State} {n : Nat} {d : GReg} {slot : Option (Fin 16)} {counted : Bool} (ps : List Spin)
    (h : Posted s u n d slot counted false) :
    Posted s (u.setCtx u.cur (aside ps ((here s).srseq + 1) (here u))) n d slot counted true := by
  obtain ⟨hcur, hmem, hregs, hcount, hseq, hpcc, hslot⟩ := h
  have hhere : here (u.setCtx u.cur (aside ps ((here s).srseq + 1) (here u))) = aside ps ((here s).srseq + 1) (here u) :=
    here_setCtx_cur ..
  unfold Safety.Posted
  rw [hhere]
  exact ⟨hcur, hmem, hregs, hcount, rfl, hpcc, hslot⟩

/-- A vector operation as it is issued. -/
def newVec (s : State) (q : Fin 16) (kind : VecKind) (out a : Shape) (b c : Option Shape) : VecOp where
  head := headNow s q
  kind := kind
  out := out
  a := a
  b := b
  c := c
  k := 0
  p := 0
  kicked := false
  fmts := []
  acc := match kind with
    | .red _ => List.replicate 16 none
    | _ => []
  str := 0
  units := []
  old := none
  first := 0
  stood := none
  pause := none

/-- The members that may round stochastically (R212; assumption log 16 for VRED). -/
def draws : VecKind → Bool
  | .map _ _ => true
  | .chain _ => true
  | .red _ => true
  | .scan _ _ => true
  | _ => false

/-- A core that has numbered and queued a vector operation. -/
def queueing (c : CtxId) (o : VecOp) (k : Core) : Core :=
  { numbering (admitting .vector c k) with vecQ := k.vecQ ++ [o] }

/-- The state in which a vector operation is issued; where its mode is SR, SRSEQ has advanced (R212). -/
def vecIssued (s : State) (q : Fin 16) (h : GReg) (o : VecOp) (drawn : Bool) : State :=
  let t := issued s (queueing s.cur o) q h
  if drawn then t.setCtx t.cur (aside (here t).spin ((here s).srseq + 1) (here t)) else t

section
variable {s : State} {q : Fin 16} {h : GReg} {kind : VecKind} {out a : Shape} {b c : Option Shape}

theorem setReg_aside (ps : List Spin) (n : W64) (x : Ctx) (r : GReg) (v : Reg) :
    (aside ps n x).setReg r v = aside ps n (x.setReg r v) := by
  unfold Ctx.setReg
  split_ifs <;> rfl

/-- The steps that an issue ends with: the operation joins the queue, and the handle is written. -/
def queueVec (o : VecOp) (h : GReg) (r : Reg) : M Machine.Flow := do
  let x ← who
  let t ← get
  set (t.modCore x.core fun k => { k with vecQ := k.vecQ ++ [o] })
  setG h r
  pure .next

theorem queueVec_ok (o : VecOp) (r : Reg) (f : Ctx → Ctx) (g : Core → Core) :
    queueVec o h r ((s.modCore s.cur.core g).modCtx s.cur f) =
      .ok (.next, (s.modCore s.cur.core fun k => { g k with vecQ := (g k).vecQ ++ [o] }).modCtx s.cur fun x => (f x).setReg h r) := by
  have hcore : ((s.modCore s.cur.core g).modCtx s.cur f).modCore s.cur.core (fun k => { k with vecQ := k.vecQ ++ [o] }) =
      (s.modCore s.cur.core fun k => { g k with vecQ := (g k).vecQ ++ [o] }).modCtx s.cur f :=
    congrArg (fun t : State => t.modCtx s.cur f) (modCore_modCore s s.cur.core g fun k => { k with vecQ := k.vecQ ++ [o] })
  refine (who_bind _ _).trans ((get_bind _ _).trans ((bind_ok (m := set _) rfl).trans ((bind_ok (m := setG _ _) rfl).trans ?_)))
  exact congrArg (fun t => Except.ok (Machine.Flow.next, t))
    ((congrArg (fun t : State => t.modCtx s.cur fun x => x.setReg h r) hcore).trans (modCtx_modCtx ..))

/-- A context whose SRSEQ has advanced. -/
def drawn (x : Ctx) : Ctx := { x with srseq := x.srseq + 1 }

/-- The order of the two changes to the context does not matter. -/
theorem issued_drawn (f : Core → Core) :
    ((s.modCore s.cur.core f).modCtx s.cur fun x => (drawn (issuing q (here s).hserial x)).setReg h (handleReg s.cur q (here s).hserial)) =
      (issued s f q h).setCtx s.cur (aside (here (issued s f q h)).spin ((here s).srseq + 1) (here (issued s f q h))) := by
  have hhere : here (issued s f q h) = (issuing q (here s).hserial (here s)).setReg h (handleReg s.cur q (here s).hserial) :=
    ctx_modCtx_self ..
  have hdrawn : drawn (issuing q (here s).hserial (here s)) =
      aside (issuing q (here s).hserial (here s)).spin ((here s).srseq + 1) (issuing q (here s).hserial (here s)) := rfl
  rw [hhere, issued, State.modCtx, State.modCtx, setCtx_setCtx]
  refine congrArg (State.setCtx _ s.cur) ((congrArg (fun x : Ctx => x.setReg h _) hdrawn).trans ((setReg_aside ..).trans ?_))
  simp only [setReg_fields]

theorem issueVec_ok (hcan : CanIssue s .vector true (some q)) :
    issueVec h kind out a b c s = .ok (.next,
      vecIssued s q h (newVec s q kind out a b c) (draws kind && (newVec s q kind out a b c).mode == 5)) := by
  refine (issue_bind hcan).trans ?_
  by_cases hdrawn : (draws kind && (newVec s q kind out a b c).mode == 5) = true
  · rw [vecIssued, if_pos hdrawn]
    refine (congrFun (if_pos hdrawn) _).trans ((bind_ok (m := edit _) rfl).trans ?_)
    refine ((congrArg (queueVec (newVec s q kind out a b c) h _) (modCtx_modCtx (s.modCore _ _) s.cur _ drawn)).trans
      (queueVec_ok (newVec s q kind out a b c) _ _ _)).trans ?_
    exact congrArg (fun t => Except.ok (Machine.Flow.next, t)) (issued_drawn ..)
  · rw [vecIssued, if_neg hdrawn]
    refine (congrFun (if_neg hdrawn) _).trans ?_
    exact queueVec_ok (newVec s q kind out a b c) _ _ _

theorem vecIssued_of_posted {i : Instr} {u : State}
    (hposted : Safety.Posted s u i.size h (some q) true (draws kind && (newVec s q kind out a b c).mode == 5))
    (hqueue : (u.core s.cur.core).vecQ = (s.core s.cur.core).vecQ ++ [newVec s q kind out a b c]) :
    VecIssued s u i h q kind out a b c (draws kind) :=
  ⟨newVec s q kind out a b c, hposted, hqueue, headIs_headNow, rfl, rfl, rfl, rfl, rfl, rfl, rfl, rfl⟩

/-- A vector operation that can be issued is, and its instruction goes on with the handle. -/
theorem issueVec_posts {i : Instr} {x : Ctx} (hcan : CanIssue s .vector true (some q)) (hx : (here s).settled.advance i.size = .ok x) :
    ∃ w u, issueVec h kind out a b c s = .ok (.next, w) ∧ GoesOn i w u ∧ VecIssued s u i h q kind out a b c (draws kind) := by
  obtain ⟨u, hgoes, hposted, hcore⟩ := posted_of_issued (s := s) (q := q) (d := h)
    (f := queueing s.cur (newVec s q kind out a b c)) hx
  have hissue := issueVec_ok (h := h) (kind := kind) (out := out) (a := a) (b := b) (c := c) hcan
  cases hdrawn : draws kind && (newVec s q kind out a b c).mode == 5
  · rw [hdrawn] at hissue
    refine ⟨_, u, hissue, hgoes, vecIssued_of_posted ?_ (congrArg Core.vecQ hcore)⟩
    rw [hdrawn]
    exact hposted
  · rw [hdrawn] at hissue
    refine ⟨_, _, hissue, goesOn_aside hgoes _ _, vecIssued_of_posted ?_ (congrArg Core.vecQ hcore)⟩
    rw [hdrawn]
    exact posted_aside _ hposted

/-! The instructions (R254): what each reads leads to its issue. -/

theorem posts_of_body {i : Instr} {reads : List RegCode} {body : M Machine.Flow} {s s1 t : State} {x : Ctx}
    (hexec : ∀ s, exec i s = run i reads reads body s) (hstarts : Starts i .closes reads reads s s1)
    (hbody : body s1 = issueVec h kind out a b c t) (hcan : CanIssue t .vector true (some q))
    (hx : (here t).settled.advance i.size = .ok x) :
    ∃ u, exec i s = .next u ∧ VecIssued t u i h q kind out a b c (draws kind) := by
  obtain ⟨w, u, hissue, hgoes, hissued⟩ := issueVec_posts (h := h) (kind := kind) (out := out) (a := a) (b := b) (c := c) hcan hx
  exact ⟨u, (hexec s).trans (run_next hstarts (hbody.trans hissue) hgoes), hissued⟩

end

theorem mem_operands {sa z : Shape} {sb sc : Option Shape} (h : some z ∈ [some sa, sb, sc]) : z ∈ sa :: (sb.toList ++ sc.toList) := by
  simpa [Option.mem_toList, eq_comm] using h

theorem cur_vecShape {n : Nat} {s t : State} {sh : Shape} (h : vecShape n s = .ok (sh, t)) : t.cur = s.cur := by
  obtain ⟨z, m, hz, h⟩ := bind_eq_ok h
  rw [← cur_readShape hz]
  split_ifs at h <;> cases h
  rfl

/-- VSCAN reads one bit: 1 for exclusive (R258). -/
theorem bit_of_le_one {w : W64} (h : w.toNat ≤ 1) : w >>> 1 = 0 ∧ w.getLsbD 0 = decide (w.toNat = 1) := by
  have hw : w = 0 ∨ w = 1 := by
    rcases Nat.le_one_iff_eq_zero_or_eq_one.mp h with h | h
    · exact .inl (BitVec.eq_of_toNat_eq h)
    · exact .inr (BitVec.eq_of_toNat_eq h)
  rcases hw with rfl | rfl <;> decide

/-- VGATH, VSCAT, VCOMP and VEXPD have one body, and none rounds (R259, R260). -/
theorem runs_of_threeForm {i : Instr} {h a b : GReg} {k : VecKind} {byOut : Bool} (hform : threeForm i = some (h, a, b, k, byOut)) :
    (∀ s, exec i s = run i [] [] (threeShapes h a b k byOut) s) ∧ i.size = 4 ∧ draws k = false := by
  unfold threeForm at hform
  split at hform
  case h_5 => cases hform
  all_goals
    cases hform
    exact ⟨fun _ => rfl, rfl, rfl⟩

/-- The formats that VRED #PACKB may write (R257); no format is read for an operand without elements. -/
def packFormats (s : State) (out : Shape) : List Fmt :=
  if out.count = 0 then [⟨2, 0⟩] else mayHave s true out

/-- Some format that the result may have holds the packed bits of some number of elements (R257). -/
def Packs (s : State) (out sa : Shape) : Prop :=
  ∃ k, MayCount s false sa k ∧ (out.count = 0 ∧ k = 0 ∨
    out.count ≠ 0 ∧ ∃ f ∈ mayHave s true out, out.count * f.group = (8 * k + fmtWidth f.n - 1) / fmtWidth f.n)

section
variable {s : State} {out sa : Shape}

theorem packFormats_ok :
    (if out.count = 0 then pure [⟨2, 0⟩] else formatsNow true out : M (List Fmt)) s = .ok (packFormats s out, s) := by
  unfold packFormats
  split_ifs
  · rfl
  · exact formatsNow_ok

theorem fits_of_packs {ns : List Nat} (hns : ∀ n, n ∈ ns ↔ MayCount s false sa n) (h : Packs s out sa) :
    (packFormats s out).any (fun f => ns.any fun n => out.count * f.group == (8 * n + fmtWidth f.n - 1) / fmtWidth f.n) = true := by
  obtain ⟨k, hk, hfits⟩ := h
  simp only [List.any_eq_true, beq_iff_eq]
  unfold packFormats
  rcases hfits with ⟨hempty, rfl⟩ | ⟨hsome, f, hf, hfits⟩
  · rw [if_pos hempty, hempty]
    exact ⟨_, List.mem_singleton_self _, 0, (hns 0).mpr hk, by decide⟩
  · rw [if_neg hsome]
    exact ⟨f, hf, k, (hns k).mpr hk, hfits⟩

end

/-- VRED (R254, R257): the two refusals of its counts cannot come. -/
theorem vred_posts {h a : GReg} {e : BitVec 6} {q : Fin 16} {s m t : State} {x : Ctx} {out sa : Shape}
    (hstarts : Starts (.vred h a e) .closes [] [] s s) (hout : vecShape a.val s = .ok (out, m))
    (hsa : vecShape (a.val + 1) m = .ok (sa, t)) (hcan : CanIssue t .vector true (some q)) (hx : (here t).settled.advance 4 = .ok x)
    (hone : e.toNat ≠ 0x2D → MayCount m true out 1) (hpack : e.toNat = 0x2D → Packs t out sa) :
    ∃ u, exec (.vred h a e) s = .next u ∧ VecIssued t u (.vred h a e) h q (.red e) out sa none none true := by
  have hcode : e = 0x2D ↔ e.toNat = 0x2D := BitVec.toNat_inj.symm
  obtain ⟨ones, hones, hmem⟩ := countNow_ok (s := m) (wr := true) (sh := out)
  obtain ⟨ns, hcount, hns⟩ := countNow_ok (s := t) (wr := false) (sh := sa)
  refine posts_of_body (fun _ => rfl) hstarts ((bind_ok hout).trans ((bind_ok hones).trans ((congrFun (if_neg ?_) m).trans
    ((bind_ok hsa).trans ((bind_ok hcount).trans ((ite_bind_ok packFormats_ok).trans (congrFun (if_neg ?_) t))))))) hcan hx
  · rintro ⟨he, hno⟩
    rw [List.contains_iff_mem.mpr ((hmem 1).mpr (hone (mt hcode.mpr he)))] at hno
    cases hno
  · rintro ⟨he, hno⟩
    rw [fits_of_packs hns (hpack (hcode.mp he))] at hno
    cases hno

/-- Settles O37: each instruction reads its records in their order, their counts agree, and its issue puts the operation into the
queue of the vector engine; the draw of SRSEQ (R212) changes nothing else of what the issue leaves. -/
theorem vectorIssue : Obligations.VectorIssue := by
  intro s q x
  refine ⟨?_, ?_, ?_, ?_, ?_, ?_⟩
  · intro h a b e out sa sb sc n t hstarts harity hb hc hshapes hcan hagree hx
    obtain rfl : (eopArity e.toNat).getD 0 = n := by rw [harity]; rfl
    rw [List.append_assoc] at hshapes
    obtain ⟨m, htwo, hrest⟩ := shapesAt_append (zs := [out, sa]) rfl hshapes
    obtain ⟨m', hout, hsa⟩ := shapesAt_two htwo
    obtain ⟨m'', hsb, hsc⟩ := optional_pair hb hc hrest
    exact posts_of_body (fun _ => rfl) hstarts ((bind_ok hout).trans ((bind_ok hsa).trans ((ite_bind_ok hsb).trans
      ((ite_bind_ok hsc).trans (agree_bind hagree fun _ => mem_operands))))) hcan hx
  · intro h a b e s1 s2 t out sa w hstarts hshapes hdata hcan hagree hx
    obtain ⟨m, hout, hsa⟩ := shapesAt_two hshapes
    exact posts_of_body (fun _ => rfl) hstarts ((bind_ok hout).trans ((bind_ok hsa).trans ((bind_ok hdata).trans
      (agree_bind hagree (by simp))))) hcan hx
  · intro h a b e s1 s2 t out sa w hstarts hshapes hdata hone hcan hagree hx
    obtain ⟨m, hout, hsa⟩ := shapesAt_two hshapes
    obtain ⟨hhigh, hbit⟩ := bit_of_le_one hone
    rw [← hbit]
    exact posts_of_body (fun _ => rfl) hstarts ((bind_ok hout).trans ((bind_ok hsa).trans ((bind_ok hdata).trans
      ((congrFun (if_neg fun hne => hne hhigh) t).trans (agree_bind hagree (by simp)))))) hcan hx
  · intro h a e out sa m t hstarts hout hsa hcan hx hone hpack
    exact vred_posts hstarts hout hsa hcan hx hone hpack
  · intro i h a b k byOut out sa sb t hform hstarts hshapes hcan hagree hx
    obtain ⟨hruns, hsize, hdraws⟩ := runs_of_threeForm hform
    obtain ⟨m, htwo, hrest⟩ := shapesAt_append (ns := [a.val, a.val + 1]) (zs := [out, sa]) rfl hshapes
    obtain ⟨m', hout, hsa⟩ := shapesAt_two htwo
    obtain ⟨m'', hsb, hnil⟩ := shapesAt_cons hrest
    obtain ⟨_, rfl⟩ := shapesAt_nil hnil
    rw [← hdraws]
    refine posts_of_body hruns hstarts ((bind_ok hout).trans ((bind_ok hsa).trans ((bind_ok hsb).trans ?_))) hcan (hsize ▸ hx)
    cases byOut
    · exact agree_bind hagree (by simp)
    · exact agree_bind hagree (by simp)
  · intro h a b c out sa sb sc ch s1 s2 t hstarts hshapes hchain names hnames hb hc hrest hagree hcan hx
    obtain ⟨m, hout, hsa⟩ := shapesAt_two hshapes
    obtain ⟨m', hsb, hsc⟩ := optional_pair (by rw [hb, Bool.decide_eq_true]) (by rw [hc, Bool.decide_eq_true]) hrest
    rw [← (cur_vecShape hsa).trans (cur_vecShape hout)] at hchain
    have hnamed : ¬ ((names 1 || names 2) == (b == 0)) = true := by
      have := (Bool.or_eq_true (names 1) (names 2)).trans (propext hnames)
      rw [beq_iff_eq, Bool.eq_iff_iff, this, beq_iff_eq]
      tauto
    exact posts_of_body (fun _ => rfl) hstarts ((bind_ok hout).trans ((bind_ok hsa).trans ((who_bind _ _).trans
      ((get_bind _ _).trans ((bind_ok hchain).trans ((greg_bind _ _ _).trans ((congrFun (if_neg hnamed) s2).trans
        ((ite_bind_ok hsb).trans ((ite_bind_ok hsc).trans (agree_bind hagree fun _ => mem_operands)))))))))) hcan hx

end Sys2Proof.Proofs.VectorQueue
end

section
/-! PROOFS of the family 11_matrix_array: the issue of a matrix command (R270, R282 to R287). -/
namespace Sys2Proof.Proofs.MatrixQueue
open Sys2Proof Sys2Proof.Machine Sys2Proof.Laws
open Sys2Proof.Safety
open Sys2Proof.Proofs.Network (ctx_cacheHost)
open Sys2Proof.Proofs.Order (bind_ok bind_eq_ok allocHandle_ok)
open Sys2Proof.Proofs.Operands (here_setCtx_cur)
open Sys2Proof.Proofs.QueueForms (get_bind me_bind greg_bind)
open Sys2Proof.Proofs.SpecialRegisters (who_bind ite_bind_ok)
open Sys2Proof.Proofs.Services (sameTraffic_cacheHost releaseBlocked_of_sameTraffic)
open Sys2Proof.Proofs.Issue (admitting numbering taking hslot_taking_self queueRoom_ok countRoom_ok kickRelease_ok pcc_advance_congr
  advance_keeps ok_of_map_eq_ok extract_eq_zero_iff bit_eq_true_iff cur_of_readData)

/-! What the steps of an instruction do to its core and its context, memory staying as it is. -/

/-- From `s` to `t` the core of the context that executes has changed by `f` and the context by `g`; memory is as before. -/
structure Leads (s t : State) (f : Core → Core) (g : Ctx → Ctx) : Prop where
  cur : t.cur = s.cur
  memory : SameMemory s t
  core : t.core s.cur.core = f (s.core s.cur.core)
  ctx : here t = g (here s)

theorem leads_refl (s : State) : Leads s s id id := ⟨rfl, ⟨fun _ => rfl, fun _ => rfl⟩, rfl, rfl⟩

theorem leads_modCtx (s : State) (g : Ctx → Ctx) : Leads s (s.modCtx s.cur g) id g :=
  ⟨rfl, ⟨fun _ => rfl, fun _ => rfl⟩, rfl, ctx_modCtx_self ..⟩

theorem leads_modCore (s : State) (f : Core → Core) : Leads s (s.modCore s.cur.core f) f id :=
  ⟨rfl, ⟨fun _ => rfl, fun _ => rfl⟩, core_modCore_self .., rfl⟩

theorem Leads.trans {s t u : State} {f f' : Core → Core} {g g' : Ctx → Ctx} (h : Leads s t f g) (h' : Leads t u f' g') :
    Leads s u (fun k => f' (f k)) (fun x => g' (g x)) := by
  obtain ⟨hcur, hmem, hcore, hctx⟩ := h
  obtain ⟨hcur', hmem', hcore', hctx'⟩ := h'
  rw [hcur] at hcore'
  exact ⟨hcur'.trans hcur, ⟨fun p => (hmem'.1 p).trans (hmem.1 p), fun k => (hmem'.2 k).trans (hmem.2 k)⟩,
    hcore'.trans (congrArg f' hcore), hctx'.trans (congrArg g' hctx)⟩

/-! Going on: where a context goes on depends on its place in the code alone (R36, R60, R64). -/

/-- Two contexts stand at the same place of their code. -/
structure SamePlace (x y : Ctx) : Prop where
  pcc : y.pcc = x.pcc
  loopc : y.loopc = x.loopc
  loope : y.loope = x.loope
  loopb : y.loopb = x.loopb
  repc : y.repc = x.repc

/-- Two contexts have the same registers, counts and handles. -/
structure SameData (x y : Ctx) : Prop where
  reg : ∀ r, y.reg r = x.reg r
  count : ∀ k, y.count k = x.count k
  hslots : y.hslots = x.hslots
  hserial : y.hserial = x.hserial
  srseq : y.srseq = x.srseq

theorem hslot_congr {x y : Ctx} (h : y.hslots = x.hslots) (q : Fin 16) : y.hslot q = x.hslot q := by
  rw [Ctx.hslot, h, Ctx.hslot]

theorem goesOn_of_samePlace {i : Instr} {t w : State} {x : Ctx} (hx : (here t).settled.advance i.size = .ok x)
    (h : SamePlace (here t) (here w)) : ∃ y, GoesOn i w (w.setCtx w.cur y) ∧ y.pcc = x.pcc ∧ SameData (here w) y := by
  have hpcc : ((here w).settled.advance i.size).map Ctx.pcc = .ok x.pcc := by
    rw [pcc_advance_congr (x := (here t).settled) (y := (here w).settled) h.pcc h.loopc h.loope h.loopb h.repc, hx]
    rfl
  obtain ⟨y, hy, hypcc⟩ := ok_of_map_eq_ok hpcc
  obtain ⟨hregs, hcounts, _, hserial, hseq⟩ := advance_keeps hy
  have hslots := congrArg Ctx.hslots (advance_spec hy)
  exact ⟨y, ⟨y, hy, rfl⟩, hypcc, hregs, hcounts, hslots, hserial, hseq⟩

/-! The head of a command, with a handle slot or without one (R270, R282). -/

/-- A context takes a handle slot, with the serial `k`, where an operation needs one (R160). -/
def takingIf (k : BitVec 16) (slot : Option (Fin 16)) (x : Ctx) : Ctx :=
  { x with
    hslots := slot.elim x.hslots fun q => (taking q k x).hslots
    hserial := slot.elim x.hserial fun _ => k + 1 }

/-- A context counts an operation under a tag, where it is counted (R104, R105). -/
def counting (counted : Bool) (tag : Fin 4) (x : Ctx) : Ctx :=
  { x with counts := if counted then (x.setCount tag (x.count tag + 1)).counts else x.counts }

/-- A context's SRSEQ advances where an operation rounds stochastically (R212). -/
def drawing (draws : Bool) (x : Ctx) : Ctx := { x with srseq := if draws then x.srseq + 1 else x.srseq }

/-- What an operation that is issued now keeps. -/
def headOf (s : State) (slot : Option (Fin 16)) : OpHead where
  owner := s.cur
  handle := slot
  serial := if slot.isSome then (here s).hserial else 0
  tag := (here s).phaseTag
  frm := (here s).frm
  seed := (here s).srseed
  seq := (here s).srseq
  flags := 0
  supv := (s.slot s.cur.sl).bind.supv
  depth := (here s).depth
  issued := (s.core s.cur.core).opSerial
  lsgs := s.lsgsOf (s.partOf s.cur.sl)
  cancel := false
  lay := []

section
variable {s : State} {slot : Option (Fin 16)} {counted : Bool}

theorem headIs_headOf : HeadIs s (headOf s slot) slot :=
  ⟨rfl, rfl, fun hslot => if_pos (Option.isSome_iff_ne_none.mpr hslot), rfl, rfl, rfl, rfl, rfl, rfl, rfl, rfl⟩

theorem headOf_modCore {f : Core → Core} (hserial : ∀ k, (f k).opSerial = k.opSerial) :
    headOf (s.modCore s.cur.core f) slot = headOf s slot := by
  have hissued : ((s.modCore s.cur.core f).core s.cur.core).opSerial = (s.core s.cur.core).opSerial := by
    rw [core_modCore_self, hserial]
  exact congrArg (fun n => { headOf s slot with issued := n }) hissued

/-- The context of an operation that is issued takes its handle slot and counts it. -/
def heading (k : BitVec 16) (tag : Fin 4) (slot : Option (Fin 16)) (counted : Bool) (x : Ctx) : Ctx :=
  counting counted tag (takingIf k slot x)

theorem leads_counting (tag : Fin 4) :
    Leads s (if counted = true then s.modCtx s.cur (fun y => y.setCount tag (y.count tag + 1)) else s) id (counting counted tag) := by
  cases counted
  · exact leads_refl s
  · exact leads_modCtx s fun y => y.setCount tag (y.count tag + 1)

theorem issueHead_leads (hpick : ∀ q, slot = some q → (here s).pickSlot = .ok q) :
    ∃ t, issueHead slot.isSome counted s = .ok (headOf s slot, t) ∧
      Leads s t numbering (heading (here s).hserial (here s).phaseTag slot counted) := by
  cases slot with
  | none => exact ⟨_, rfl, (leads_modCore s numbering).trans (leads_counting _)⟩
  | some q =>
    have hme : me (s.modCtx s.cur (taking q (here s).hserial)) = .ok (taking q (here s).hserial (here s), _) :=
      congrArg (fun x => Except.ok (x, _)) (ctx_modCtx_self ..)
    refine ⟨_, (bind_ok (bind_ok (allocHandle_ok (hpick q rfl)))).trans ((get_bind _ _).trans ((who_bind _ _).trans
      ((bind_ok hme).trans (bind_ok (m := set _) rfl)))), ((leads_modCtx s _).trans (leads_modCore _ numbering)).trans (leads_counting _)⟩

end

/-! The issue of a command (R270, R281, R282). -/

/-- A command counts in the unacknowledged count, unless it is MZERO (R281). -/
def counts : MatKind → Bool
  | .mzero _ => false
  | _ => true

/-- A command as it is issued. -/
def newMat (s : State) (slot : Option (Fin 16)) (kind : MatKind) (sh : Option Shape) (stream : Fin 4) (steps : Nat)
    (fmt : Option Fmt) : MatOp where
  head := headOf s slot
  kind := kind
  shape := sh
  stream := stream
  started := false
  steps := steps
  first := 0
  count := 0
  bytes := 0
  fmt := fmt
  vals := []
  before := false
  lost := false
  last := 0
  pause := none

/-- A core that has numbered and queued a command. -/
def queueing (c : CtxId) (o : MatOp) (k : Core) : Core :=
  { numbering (admitting .matrix c k) with matQ := k.matQ ++ [o] }

/-- The context that has issued a command in `s`: its handle slot, its count, its SRSEQ and the handle in `d`. -/
def issuer (s : State) (slot : Option (Fin 16)) (counted draws : Bool) (d : GReg) (x : Ctx) : Ctx :=
  (drawing draws (heading (here s).hserial (here s).phaseTag slot counted x)).setReg d (headOf s slot).reg

theorem isSome_handleOf (d : GReg) (q : Fin 16) : (handleOf d q).isSome = (d != 0) := by
  unfold handleOf
  by_cases hd : d = 0
  · rw [if_pos hd, hd]
    rfl
  · rw [if_neg hd, bne_iff_ne.mpr hd]
    rfl

section
variable {s : State} {d : GReg} {q : Fin 16} {kind : MatKind} {sh : Option Shape} {stream : Fin 4} {steps mode : Nat}
  {fmt : Option Fmt}

/-- The core numbers an operation that it has admitted, and the context that executes takes its handle slot and counts it. -/
theorem issue_leads {slot : Option (Fin 16)} {counted : Bool} (hcan : CanIssue s .matrix counted slot) :
    ∃ t, Leads s t (fun k => numbering (admitting .matrix s.cur k)) (heading (here s).hserial (here s).phaseTag slot counted) ∧
      ∀ k : OpHead → M Machine.Flow, (do
        queueRoom .matrix
        if counted then countRoom else pure ()
        kickRelease
        let head ← issueHead slot.isSome counted
        k head) s = k (headOf s slot) t := by
  obtain ⟨hroom, hfirst, hcount, hrelease, hpick⟩ := hcan
  have hcountRoom : (if counted = true then countRoom else pure () : M Unit) (s.modCore s.cur.core (admitting .matrix s.cur)) =
      .ok ((), s.modCore s.cur.core (admitting .matrix s.cur)) := by
    split
    · next hcounted => exact countRoom_ok (s := s.modCore _ _) (hcount hcounted)
    · rfl
  obtain ⟨t, hhead, hleads⟩ := issueHead_leads (s := s.modCore s.cur.core (admitting .matrix s.cur)) (counted := counted) hpick
  rw [headOf_modCore (f := admitting .matrix s.cur) fun _ => rfl] at hhead
  exact ⟨t, (leads_modCore s _).trans hleads, fun k => (bind_ok (queueRoom_ok hroom hfirst)).trans ((ite_bind_ok hcountRoom).trans
    ((bind_ok (kickRelease_ok (s := s.modCore _ _) hrelease)).trans (bind_ok hhead)))⟩

theorem leads_drawing (draws : Prop) [Decidable draws] (s : State) :
    ∃ t, (if draws then edit (fun x => { x with srseq := x.srseq + 1 }) else pure () : M Unit) s = .ok ((), t) ∧
      Leads s t id (drawing (decide draws)) := by
  by_cases h : draws
  · rw [if_pos h, decide_eq_true h]
    exact ⟨_, rfl, leads_modCtx s fun x => { x with srseq := x.srseq + 1 }⟩
  · rw [if_neg h, decide_eq_false h]
    exact ⟨_, rfl, leads_refl s⟩

theorem issueMat_leads (hcan : CanIssue s .matrix (counts kind) (handleOf d q)) :
    ∃ w, issueMat d kind sh stream steps fmt mode s = .ok (.next, w) ∧
      Leads s w (queueing s.cur (newMat s (handleOf d q) kind sh stream steps fmt))
        (issuer s (handleOf d q) (counts kind) (decide (mode = 5)) d) := by
  obtain ⟨t, hissued, hissue⟩ := issue_leads hcan
  obtain ⟨u, hdraw, hdrawn⟩ := leads_drawing (mode = 5) t
  have hqueued := (hissued.trans hdrawn).trans (leads_modCore u fun k =>
    { k with matQ := k.matQ ++ [newMat s (handleOf d q) kind sh stream steps fmt] })
  rw [isSome_handleOf] at hissue
  exact ⟨_, (hissue _).trans ((ite_bind_ok hdraw).trans ((who_bind _ _).trans ((get_bind _ _).trans
    ((bind_ok (m := set _) rfl).trans (bind_ok (m := setG _ _) rfl))))), hqueued.trans (leads_modCtx _ _)⟩

end

/-! What the issue leaves. -/

theorem SamePlace.trans {x y z : Ctx} (h : SamePlace x y) (g : SamePlace y z) : SamePlace x z :=
  ⟨g.pcc.trans h.pcc, g.loopc.trans h.loopc, g.loope.trans h.loope, g.loopb.trans h.loopb, g.repc.trans h.repc⟩

theorem samePlace_setReg (x : Ctx) (r : GReg) (v : Reg) : SamePlace x (x.setReg r v) := by
  constructor <;> simp

theorem samePlace_heading (k : BitVec 16) (tag : Fin 4) (slot : Option (Fin 16)) (counted : Bool) (x : Ctx) :
    SamePlace x (heading k tag slot counted x) := by
  constructor <;> simp only [heading, counting, takingIf]

theorem samePlace_drawing (draws : Bool) (x : Ctx) : SamePlace x (drawing draws x) := by
  constructor <;> simp only [drawing]

section
variable {i : Instr} {s w : State} {f : Core → Core} {d : GReg} {slot : Option (Fin 16)} {counted draws : Bool} {x : Ctx}

theorem samePlace_issuer (x : Ctx) : SamePlace x (issuer s slot counted draws d x) :=
  ((samePlace_heading ..).trans (samePlace_drawing ..)).trans (samePlace_setReg ..)

theorem reg_issuer (x : Ctx) (r : GReg) :
    (issuer s slot counted draws d x).reg r = if r = d then (if d = 0 then Reg.zero else (headOf s slot).reg) else x.reg r :=
  reg_setReg ..

theorem count_issuer (x : Ctx) : (issuer s slot counted draws d x).count (here s).phaseTag =
    x.count (here s).phaseTag + if counted then 1 else 0 := by
  have hcount : ∀ y : Ctx, (y.setReg d (headOf s slot).reg).count (here s).phaseTag = y.count (here s).phaseTag := by simp
  refine (hcount _).trans ?_
  cases counted
  · rfl
  · exact count_setCount_self ..

theorem srseq_issuer (x : Ctx) : (issuer s slot counted draws d x).srseq = x.srseq + if draws then 1 else 0 := by
  cases draws <;> simp [issuer, drawing, heading, counting, takingIf]

/-- What the handle slot and the serial become (R160). -/
theorem handles_issuer (x : Ctx) : (issuer s slot counted draws d x).hslots = (takingIf (here s).hserial slot x).hslots ∧
    (issuer s slot counted draws d x).hserial = (takingIf (here s).hserial slot x).hserial := by
  simp [issuer, drawing, heading, counting]

variable (hleads : Leads s w f (issuer s slot counted draws d)) (hx : (here s).settled.advance i.size = .ok x)
include hleads hx

/-- An instruction that has issued a command goes on where it could go on before. -/
theorem posted_of_leads (hnone : slot = none → d = 0) :
    ∃ u, GoesOn i w u ∧ Safety.Posted s u i.size d slot counted draws ∧ u.core s.cur.core = f (s.core s.cur.core) := by
  obtain ⟨hcur, hmem, hcore, hctx⟩ := hleads
  obtain ⟨y, hgoes, hpcc, hdata⟩ := goesOn_of_samePlace hx (hctx ▸ samePlace_issuer (here s))
  rw [hctx] at hdata
  obtain ⟨hslots, hserial⟩ := handles_issuer (s := s) (slot := slot) (counted := counted) (draws := draws) (d := d) (here s)
  refine ⟨_, hgoes, ⟨hcur, hmem, ?_⟩, hcore⟩
  rw [here_setCtx_cur]
  refine ⟨fun r hr => (hdata.reg r).trans ((reg_issuer ..).trans (if_neg hr)), (hdata.count _).trans (count_issuer _),
    hdata.srseq.trans (srseq_issuer _), fun z hz => hpcc.trans (congrArg Ctx.pcc (Except.ok.inj (hx.symm.trans hz))), ?_⟩
  have hreg := (hdata.reg d).trans ((reg_issuer ..).trans (if_pos rfl))
  cases slot with
  | none => exact ⟨hreg.trans (if_pos (hnone rfl)), hdata.hslots.trans hslots, hdata.hserial.trans hserial⟩
  | some q =>
    exact ⟨hreg, (hslot_congr (hdata.hslots.trans hslots) q).trans (hslot_taking_self ..), hdata.hserial.trans hserial⟩

end

section
variable {i : Instr} {s w : State} {f : Core → Core} {d : GReg} {q : Fin 16} {kind : MatKind} {sh : Option Shape} {stream : Fin 4}
  {steps mode : Nat} {fmt : Option Fmt} {draws : Bool} {x : Ctx}

/-- Where the issued command is the last of the queue, its instruction goes on with it issued. -/
theorem matIssued_of_leads (hleads : Leads s w f (issuer s (handleOf d q) (counts kind) draws d))
    (hqueue : (f (s.core s.cur.core)).matQ = (s.core s.cur.core).matQ ++ [newMat s (handleOf d q) kind sh stream steps fmt])
    (hx : (here s).settled.advance i.size = .ok x) (hsize : i.size = 4) :
    ∃ u, GoesOn i w u ∧ MatIssued s u d q kind sh stream.val steps fmt (counts kind) draws ∧
      u.core s.cur.core = f (s.core s.cur.core) := by
  have hnone : handleOf d q = none → d = 0 := fun h => by
    by_contra hd
    rw [handleOf, if_neg hd] at h
    cases h
  obtain ⟨u, hgoes, hposted, hcore⟩ := posted_of_leads hleads hx hnone
  rw [hsize] at hposted
  exact ⟨u, hgoes, ⟨_, hposted, (congrArg Core.matQ hcore).trans hqueue, headIs_headOf, rfl, rfl, rfl, rfl, rfl, rfl⟩, hcore⟩

/-! An instruction of the owner (R273). -/

theorem ownSet_ok {exempt : State → CtxId → Bool} (hfree : s.accHeld s.cur = false)
    (hown : (s.core s.cur.core).accown.names s.cur = true ∨ (exempt s s.cur && s.isSup s.cur) = true) :
    ownSet exempt s = .ok ((), s) := by
  have hmay : ((s.core s.cur.core).accown.names s.cur || (exempt s s.cur && s.isSup s.cur)) = true := Bool.or_eq_true_iff.mpr hown
  simp only [ownSet, hfree, hmay, Bool.false_eq_true, if_false, if_true]

theorem ownSet_of_owns (exempt : State → CtxId → Bool) (h : Owns s) : ownSet exempt s = .ok ((), s) := ownSet_ok h.2 (.inl h.1)

/-- An instruction of the owner whose body comes to an issue puts its command into the queue. -/
theorem issues_of_body {reads : List RegCode} {exempt : State → CtxId → Bool} {body : M Machine.Flow} {s0 s1 : State}
    (hexec : ∀ s, exec i s = matrix i reads reads exempt body s) (howns : Owns s0) (hstarts : Starts i .closes reads reads s0 s1)
    (hbody : body s1 = issueMat d kind sh stream steps fmt mode s) {counted : Bool} (hcounted : counts kind = counted)
    (hcan : CanIssue s .matrix counted (handleOf d q)) (hsize : i.size = 4) (hx : (here s).settled.advance 4 = .ok x) :
    ∃ u, exec i s0 = .next u ∧ MatIssued s u d q kind sh stream.val steps fmt counted (decide (mode = 5)) := by
  subst hcounted
  rw [← hsize] at hx
  obtain ⟨w, hissue, hleads⟩ := issueMat_leads (sh := sh) (stream := stream) (steps := steps) (mode := mode) (fmt := fmt) hcan
  obtain ⟨u, hgoes, hissued, _⟩ := matIssued_of_leads hleads rfl hx hsize
  exact ⟨u, (hexec s0).trans (operate_next (ownSet_of_owns exempt howns) hstarts (hbody.trans hissue) hgoes), hissued⟩

end

/-! The record (R152, R282): reading it changes what the memory-side cache holds, and nothing else. -/

theorem cores_cacheLine (s : State) (n : Nat) (wr : Bool) : (s.cacheLine n wr).cores = s.cores := by
  unfold State.cacheLine
  split
  · rfl
  · split
    · rfl
    · rfl

theorem cores_cacheHost (s : State) (l : Loc) (n : Nat) (wr : Bool) : (s.cacheHost l n wr).cores = s.cores := by
  unfold State.cacheHost
  split
  · generalize List.range _ = is
    induction is generalizing s with
    | nil => rfl
    | cons i is ih => exact (ih _).trans (cores_cacheLine ..)
  · rfl

section
variable {s t : State} {r : GReg} {sh : Shape}

theorem record_eq_cacheHost {cap : Reg} {a : Ask} {addr : W64} {p : Spot} (h : record cap a addr s = .ok (p, t)) :
    t = s.cacheHost p.loc a.size (a.kind == .write) := by
  unfold record need at h
  cases hreach : s.reachRecord s.cur cap a addr with
  | trap c v n => simp [hreach] at h
  | wait w => simp [hreach] at h
  | ok q =>
    simp only [hreach] at h
    cases h
    rfl

theorem matShape_eq_cacheHost (h : matShape r s = .ok (sh, t)) : ∃ l n wr, t = s.cacheHost l n wr := by
  obtain ⟨z, m, hread, h⟩ := bind_eq_ok h
  have hlast : t = m := by
    split at h <;> cases h
    rfl
  subst hlast
  obtain ⟨_, _, hget, hread⟩ := bind_eq_ok hread
  cases hget
  obtain ⟨_, _, hgreg, hread⟩ := bind_eq_ok hread
  cases hgreg
  obtain ⟨p, u, hrecord, hread⟩ := bind_eq_ok hread
  have hsame : t = u := by
    dsimp only at hread
    split_ifs at hread <;> cases hread
    · rfl
    · rfl
  exact ⟨_, _, _, hsame.trans (record_eq_cacheHost hrecord)⟩

theorem cur_matShape (h : matShape r s = .ok (sh, t)) : t.cur = s.cur := by
  obtain ⟨l, n, wr, rfl⟩ := matShape_eq_cacheHost h
  exact (sameTraffic_cacheHost ..).2.2

theorem here_matShape (h : matShape r s = .ok (sh, t)) : here t = here s := by
  obtain ⟨l, n, wr, rfl⟩ := matShape_eq_cacheHost h
  rw [here, (sameTraffic_cacheHost s l n wr).2.2, ctx_cacheHost, here]

/-- An issue that is possible before a record is read is possible after. -/
theorem canIssue_matShape {counted : Bool} {slot : Option (Fin 16)} (h : matShape r s = .ok (sh, t))
    (hcan : CanIssue s .matrix counted slot) : CanIssue t .matrix counted slot := by
  have hhere := here_matShape h
  obtain ⟨l, n, wr, rfl⟩ := matShape_eq_cacheHost h
  obtain ⟨hroom, hfirst, hcount, hrelease, hpick⟩ := hcan
  have hcur : (s.cacheHost l n wr).cur = s.cur := (sameTraffic_cacheHost ..).2.2
  have hcore : (s.cacheHost l n wr).core = s.core := by
    funext k
    rw [State.core, cores_cacheHost, State.core]
  refine ⟨?_, ?_, ?_, ?_, ?_⟩
  · rw [hcur, hcore]
    exact hroom
  · simp only [State.earlier, hcur, hcore, ctx_cacheHost]
    exact hfirst
  · rw [hhere]
    exact hcount
  · rw [hhere, releaseBlocked_of_sameTraffic (sameTraffic_cacheHost ..)]
    exact hrelease
  · rw [hhere]
    exact hpick

end

/-! The words (R282, R284, R285): fields that must be zero. -/

theorem ushiftRight_eq_zero {w : W64} {lo n : Nat} (h : fieldOf w lo n = 0) (hn : lo + n = 64) : w >>> lo = 0 := by
  have hlt : w.toNat / 2 ^ lo < 2 ^ n := by
    rw [Nat.div_lt_iff_lt_mul (Nat.two_pow_pos lo), ← Nat.pow_add, Nat.add_comm, hn]
    exact w.isLt
  rw [fieldOf, Nat.mod_eq_of_lt hlt] at h
  exact BitVec.eq_of_toNat_eq ((BitVec.toNat_ushiftRight ..).trans ((Nat.shiftRight_eq_div_pow ..).trans h))

/-- The bits of a field. -/
def fieldMask (lo n : Nat) : W64 := (BitVec.allOnes n).setWidth 64 <<< lo

theorem and_fieldMask_eq_zero {w : W64} {lo n : Nat} (h : fieldOf w lo n = 0) : w &&& fieldMask lo n = 0 := by
  refine BitVec.eq_of_getLsbD_eq fun i hi => (BitVec.getLsbD_and ..).trans (.trans ?_ BitVec.getLsbD_zero.symm)
  by_cases hin : lo ≤ i ∧ i - lo < n
  · have hbit := congrArg (fun v : BitVec n => v.getLsbD (i - lo)) ((extract_eq_zero_iff w lo n).mpr h)
    simp only [BitVec.getLsbD_extractLsb', hin.2, decide_true, Bool.true_and, Nat.add_sub_cancel' hin.1] at hbit
    rw [hbit.trans BitVec.getLsbD_zero, Bool.false_and]
  · have hbit : (fieldMask lo n).getLsbD i = false := by
      simp only [fieldMask, BitVec.getLsbD_shiftLeft, BitVec.getLsbD_setWidth, BitVec.getLsbD_allOnes, Bool.and_eq_false_iff,
        decide_eq_false_iff_not, Bool.not_eq_false', decide_eq_true_eq]
      omega
    rw [hbit, Bool.and_false]

/-! The instructions. -/

theorem readData_two {b c : RegCode} {s t : State} {vs : List Reg} {x y : W64} (h : takeAll [b, c] s = .ok (vs, t))
    (hlows : lows vs = [x, y]) : ∃ m, readData b s = .ok (x, m) ∧ readData c m = .ok (y, t) := by
  obtain ⟨v, m, ws, hv, hrest, rfl⟩ := takeAll_cons h
  obtain ⟨v', m', ws', hv', hnil, rfl⟩ := takeAll_cons hrest
  obtain ⟨rfl, rfl⟩ := takeAll_nil hnil
  cases hlows
  exact ⟨m, readData_ok hv, readData_ok hv'⟩

/-- MMA and MMAS have one body. -/
theorem runs_of_mmaForm {i : Instr} {sparse : Bool} {h a : GReg} {b c : RegCode} (hform : mmaForm i = some (sparse, h, a, b, c)) :
    (∀ s, exec i s = matrix i [b, c] [b, c] noneExempt (mmaBody (Instr.word i) sparse h a b c) s) ∧ i.size = 4 := by
  unfold mmaForm at hform
  split at hform <;> cases hform
  · exact ⟨fun _ => rfl, rfl⟩
  · exact ⟨fun _ => rfl, rfl⟩

/-- MSTA and MLDA have one body. -/
theorem runs_of_storeTileForm {i : Instr} {load : Bool} {d a : GReg} {b : RegCode} (hform : storeTileForm i = some (load, d, a, b)) :
    (∀ s, exec i s = matrix i [b] [b] (asksImage b) (storeBody (Instr.word i) load d a b) s) ∧ i.size = 4 := by
  unfold storeTileForm at hform
  split at hform <;> cases hform
  · exact ⟨fun _ => rfl, rfl⟩
  · exact ⟨fun _ => rfl, rfl⟩

theorem rowElems_ok (wr : Bool) (sh : Shape) (s : State) : rowElems wr sh s = .ok (rowOf s wr sh, s) := rfl

section
variable {s s1 t m : State} {q : Fin 16} {x : Ctx} (howns : Owns s)
include howns

theorem mma_issues {i : Instr} {sparse : Bool} {h a : GReg} {b c : RegCode} {vs : List Reg} {bw cw : W64} {sh : Shape}
    (hform : mmaForm i = some (sparse, h, a, b, c)) (hstarts : Starts i .closes [b, c] [b, c] s s1)
    (htake : takeAll [b, c] s1 = .ok (vs, t)) (hlows : lows vs = [bw, cw]) (hhigh : fieldOf bw 16 48 = 0)
    (hmid : fieldOf bw 6 2 = 0) (hopts : fieldOf cw 6 58 = 0) (hshape : matShape a t = .ok (sh, m)) (hone : 1 ≤ sh.rows)
    (hrows : sh.rows ≤ 32) (hrow : rowOf m false sh ≤ 8192) (hcan : CanIssue m .matrix true (handleOf h q))
    (hx : (here m).settled.advance 4 = .ok x) :
    ∃ u, exec i s = .next u ∧ MatIssued m u h q (.mma sparse bw cw) (some sh) (fieldOf cw 2 2) 0 none true false := by
  obtain ⟨hruns, hsize⟩ := runs_of_mmaForm hform
  obtain ⟨t', hb, hc⟩ := readData_two htake hlows
  have hmask : bw &&& 0xC0 = 0 := and_fieldMask_eq_zero hmid
  have hwords : ¬ (bw >>> 16 ≠ 0 ∨ bw &&& 0xC0 ≠ 0 ∨ cw >>> 6 ≠ 0) := by
    rw [ushiftRight_eq_zero hhigh rfl, ushiftRight_eq_zero hopts rfl, hmask]
    simp
  have hsize' : ¬ (sh.rows = 0 ∨ 32 < sh.rows ∨ 8192 < rowOf m false sh) := by omega
  exact issues_of_body hruns howns hstarts ((bind_ok hb).trans ((bind_ok hc).trans ((congrFun (if_neg hwords) t).trans
    ((bind_ok hshape).trans ((bind_ok (rowElems_ok ..)).trans (congrFun (if_neg hsize') m)))))) rfl hcan hsize hx

theorem mldb_issues {d a : GReg} {b : RegCode} {w : W64} {sh : Shape} (hstarts : Starts (.mldb d a b) .closes [b] [b] s s1)
    (hread : readData b s1 = .ok (w, t)) (hhigh : fieldOf w 22 42 = 0) (hlow : fieldOf w 6 2 = 0) (hmid : fieldOf w 17 3 = 0)
    (hshape : matShape a t = .ok (sh, m)) (hrow : sh.e0 * groupOf (m.issueFmt s.cur false sh) ≤ 32 * (wordKb w + 1))
    (hrows : sh.rows ≤ 32 * (wordNt w + 1)) (hcan : CanIssue m .matrix true (handleOf d q))
    (hx : (here m).settled.advance 4 = .ok x) :
    ∃ u, exec (.mldb d a b) s = .next u ∧
      MatIssued m u d q (.mldb w) (some sh) (fieldOf w 20 2) 0 (m.issueFmt s.cur false sh) true false := by
  have hcur : m.cur = s.cur := (cur_matShape hshape).trans ((cur_of_readData hread).trans (receive_spec hstarts.ports).2.2.1)
  have hmask : w &&& 0xE00C0 = 0 := by
    have hfields : (0xE00C0 : W64) = fieldMask 6 2 ||| fieldMask 17 3 := by decide
    rw [hfields, BitVec.and_or_distrib_left, and_fieldMask_eq_zero hlow, and_fieldMask_eq_zero hmid, BitVec.or_self]
  have hword : ¬ (w >>> 22 ≠ 0 ∨ w &&& 0xE00C0 ≠ 0) := by
    rw [ushiftRight_eq_zero hhigh rfl, hmask]
    simp
  rw [← hcur] at hrow ⊢
  have hsize : ¬ (32 * (wordKb w + 1) < sh.e0 * groupOf (m.issueFmt m.cur false sh) ∨ 32 * (wordNt w + 1) < sh.rows) := by omega
  exact issues_of_body (fun _ => rfl) howns hstarts ((bind_ok hread).trans ((congrFun (if_neg hword) t).trans
    ((bind_ok hshape).trans ((get_bind _ _).trans ((who_bind _ _).trans (congrFun (if_neg hsize) m)))))) rfl hcan rfl hx

theorem mzero_issues {d : GReg} {a : RegCode} {w : W64} (hstarts : Starts (.mzero d a) .closes [a] [a] s s1)
    (hread : readData a s1 = .ok (w, t)) (hhigh : fieldOf w 4 60 = 0) (hcan : CanIssue t .matrix false (handleOf d q))
    (hx : (here t).settled.advance 4 = .ok x) :
    ∃ u, exec (.mzero d a) s = .next u ∧ MatIssued t u d q (.mzero w) none (fieldOf w 2 2) 0 none false false := by
  have hword : ¬ w >>> 4 ≠ 0 := fun hne => hne (ushiftRight_eq_zero hhigh rfl)
  exact issues_of_body (fun _ => rfl) howns hstarts ((bind_ok hread).trans (congrFun (if_neg hword) t)) rfl hcan rfl hx

section
variable {i : Instr} {load : Bool} {d a : GReg} {b : RegCode} {w : W64} (hform : storeTileForm i = some (load, d, a, b))
  (hstarts : Starts i .closes [b] [b] s s1) (hread : readData b s1 = .ok (w, t)) (hword : storeWordBad load w = false)
  (hcan : CanIssue t .matrix true (handleOf d q)) (hx : (here t).settled.advance 4 = .ok x)
include hform hstarts hread hword hcan hx

/-- MSTA and MLDA of a tile: the mode that a DYN field names is that of FRM at issue (R208, R212). -/
theorem storeTile_issues {sh : Shape} (htile : fieldOf w 11 1 = 0) (hshape : matShape a t = .ok (sh, m)) (hrows : sh.rows ≤ 32)
    (hrow : rowOf m (!load) sh ≤ maxCols (wordTile w)) :
    ∃ u, exec i s = .next u ∧ MatIssued m u d q (if load = true then .mlda w else .msta w) (some sh) (fieldOf w 2 2) 0 none true
      (decide ((if fieldOf w 4 3 = 6 then (here t).mode else fieldOf w 4 3) = 5)) := by
  obtain ⟨hruns, hsize⟩ := runs_of_storeTileForm hform
  have hcounts : counts (if load = true then .mlda w else .msta w) = true := by cases load <;> rfl
  have hgood : ¬ storeWordBad load w = true := by rw [hword]; decide
  have hbit : ¬ w.getLsbD 11 = true := by rw [bit_eq_true_iff, htile]; decide
  have hfits : ¬ (32 < sh.rows ∨ maxCols (wordTile w) < rowOf m (!load) sh) := by omega
  rw [← here_matShape hshape] at hx ⊢
  exact issues_of_body hruns howns hstarts ((bind_ok hread).trans ((congrFun (if_neg hgood) t).trans ((congrFun (if_neg hbit) t).trans
    ((bind_ok hshape).trans ((bind_ok (rowElems_ok ..)).trans ((me_bind _ _).trans (congrFun (if_neg hfits) m)))))))
    hcounts (canIssue_matShape hshape hcan) hsize hx

/-- MSTA and MLDA of an image: the capability is checked at issue (assumption log 18). -/
theorem storeImage_issues (himage : fieldOf w 11 1 = 1)
    (hcheck : checkCap (t.live (dieOf s.cur.core)) ((here t).reg a)
      (permL ||| permS ||| permE ||| (if ((here t).reg a).lo.toNat / 2 ^ 56 = 1 then permM else 0)) ((here t).reg a).lo imageBytes = none)
    (halign : ((here t).reg a).lo.toNat % 64 = 0) :
    ∃ u, exec i s = .next u ∧ MatIssued t u d q
      (if load = true then .imgLoad ((here t).reg a) (w.getLsbD 12) else .imgStore ((here t).reg a)) none 0 0 none true false := by
  obtain ⟨hruns, hsize⟩ := runs_of_storeTileForm hform
  have hcounts : counts (if load = true then .imgLoad ((here t).reg a) (w.getLsbD 12) else .imgStore ((here t).reg a)) = true := by
    cases load <;> rfl
  have hcur : t.cur = s.cur := (cur_of_readData hread).trans (receive_spec hstarts.ports).2.2.1
  have hgood : ¬ storeWordBad load w = true := by rw [hword]; decide
  have hbit : w.getLsbD 11 = true := (bit_eq_true_iff w 11).mpr himage
  refine issues_of_body (sh := none) (stream := 0) (steps := 0) (mode := 0) (fmt := none) hruns howns hstarts
    ((bind_ok hread).trans ((congrFun (if_neg hgood) t).trans ((congrFun (if_pos hbit) t).trans ((greg_bind _ _ _).trans
      ((get_bind _ _).trans ((who_bind _ _).trans ?_)))))) hcounts hcan hsize hx
  rw [← hcur] at hcheck
  simp only [hcheck]
  exact congrFun (if_neg fun hne => hne halign) t

end

end

/-- Settles O38: each instruction reads its words and its record and then issues; the issue takes a handle slot, unless the handle
goes to g0, and counts and queues the command. -/
theorem matrixIssue : Obligations.MatrixIssue := by
  intro s q x howns
  refine ⟨fun i sparse h a b c s1 t m vs bw cw sh => mma_issues howns, fun d a b s1 t m w sh => mldb_issues howns,
    fun d a s1 t w => mzero_issues howns, ?_⟩
  intro i load d a b s1 t w sh hform hstarts hread hword hcan hx
  exact ⟨fun m => storeTile_issues howns hform hstarts hread hword hcan hx, storeImage_issues howns hform hstarts hread hword hcan hx⟩

end Sys2Proof.Proofs.MatrixQueue
end

section
/-! PROOFS of the family 11_matrix_array: MOWN, MFREE, MSYNC and MRESUME (R273, R274, R288 to R290, R434). -/
namespace Sys2Proof.Proofs.MatrixOwner
open Sys2Proof Sys2Proof.Machine Sys2Proof.Laws
open Sys2Proof.Safety
open Sys2Proof.Proofs.Order (bind_ok)
open Sys2Proof.Proofs.Operands (here_setCtx_cur)
open Sys2Proof.Proofs.QueueForms (get_bind greg_bind)
open Sys2Proof.Proofs.SpecialRegisters (who_bind)
open Sys2Proof.Proofs.Engines (orFlags_parts)
open Sys2Proof.Proofs.Issue (hslot_taking_self cur_of_readData)
open Sys2Proof.Proofs.MatrixQueue

/-! MOWN and MFREE (R289, R434). -/

theorem mown_gives {d : RegCode} {s u v : State} (hstarts : Starts (.mown d) .closes [] [d] s s) (howns : Owns s)
    (hwrite : write (Instr.word (.mown d)) d (Reg.data (s.core s.cur.core).accown.word) s = .ok ((), u))
    (hgoes : GoesOn (.mown d) u v) : exec (.mown d) s = .next v :=
  operate_next (ownSet_of_owns _ howns) hstarts ((get_bind _ _).trans ((who_bind _ _).trans (bind_ok hwrite))) hgoes

section
variable {d : RegCode} {s u v : State} (hstarts : Starts (.mfree d) .closes [] [d] s s) (hfree : s.accHeld s.cur = false)
  (hgoes : GoesOn (.mfree d) u v)
include hstarts hfree hgoes

theorem mfree_of_owner (hmine : (s.core s.cur.core).accown.names s.cur = true) (hempty : (s.core s.cur.core).matQ = [])
    (hwrite : write (Instr.word (.mfree d)) d (Reg.data 0) ((s.clearAcc s.cur.core).dropImage s.cur) = .ok ((), u)) :
    exec (.mfree d) s = .next v := by
  have hnone : (s.core s.cur.core).matQ.isEmpty = true := List.isEmpty_iff.mpr hempty
  exact run_next hstarts ((get_bind _ _).trans ((who_bind _ _).trans ((congrFun (if_neg (Bool.eq_false_iff.mp hfree)) s).trans
    ((congrFun (if_pos hmine) s).trans ((congrFun (if_pos hnone) s).trans ((bind_ok (m := set _) rfl).trans (bind_ok hwrite))))))) hgoes

theorem mfree_of_other (hother : ¬ (s.core s.cur.core).accown.names s.cur = true)
    (hwrite : write (Instr.word (.mfree d)) d (Reg.data 1) s = .ok ((), u)) : exec (.mfree d) s = .next v :=
  run_next hstarts ((get_bind _ _).trans ((who_bind _ _).trans ((congrFun (if_neg (Bool.eq_false_iff.mp hfree)) s).trans
    ((congrFun (if_neg hother) s).trans (bind_ok hwrite))))) hgoes

end

/-! MRESUME (R290). -/

/-- A core without a fault record. -/
def forgiven (k : Core) : Core := { k with accFault := none }

/-- What MRESUME of a handle does with the fault record that the set has. -/
def resume (d : GReg) (v : Reg) (c : CtxId) : Option FaultRec → M Machine.Flow
  | some f =>
    if f.handle = v.bits.setWidth 39 then do
      let flow ← issueMat d (.mma f.sparse f.b f.c) (some f.shape) (wordStream f.c) f.steps none 0
      let t ← get
      set (t.modCore c.core forgiven)
      pure flow
    else do
      setG d (Reg.data staleResult)
      pure .next
  | none => do
    setG d (Reg.data staleResult)
    pure .next

section
variable {d a : GReg} {s : State} {q : Fin 16} {x : Ctx} {r : Option (CtxId × Fin 16)}
  (hstarts : Starts (.mresume d a) .closes [] [] s s) (howns : Owns s) (htag : ((here s).reg a).tag = 2)
  (hlook : lookHandle ((here s).reg a) s = .ok (r, s))
include hstarts howns htag hlook

theorem mresume_next {w u : State} (hresume : resume d ((here s).reg a) s.cur (s.core s.cur.core).accFault s = .ok (.next, w))
    (hgoes : GoesOn (.mresume d a) w u) : exec (.mresume d a) s = .next u := by
  refine operate_next (ownSet_of_owns _ howns) hstarts ((greg_bind _ _ _).trans ((congrFun (if_neg fun hne => hne htag) s).trans
    ((bind_ok hlook).trans ((get_bind _ _).trans ((who_bind _ _).trans (.trans ?_ hresume)))))) hgoes
  cases (s.core s.cur.core).accFault <;> rfl

variable (hx : (here s).settled.advance 4 = .ok x)
include hx

theorem mresume_queues {f : FaultRec} (hfault : (s.core s.cur.core).accFault = some f)
    (hhandle : f.handle = ((here s).reg a).bits.setWidth 39) (hcan : CanIssue s .matrix true (handleOf d q)) :
    ∃ u, exec (.mresume d a) s = .next u ∧
      MatIssued s u d q (.mma f.sparse f.b f.c) (some f.shape) (fieldOf f.c 2 2) f.steps none true false ∧
      (u.core s.cur.core).accFault = none := by
  obtain ⟨w, hissue, hleads⟩ := issueMat_leads (kind := .mma f.sparse f.b f.c) (sh := some f.shape) (stream := wordStream f.c)
    (steps := f.steps) (mode := 0) (fmt := none) hcan
  have hforgiven := hleads.trans (leads_modCore w forgiven)
  rw [hleads.cur] at hforgiven
  obtain ⟨u, hgoes, hissued, hcore⟩ := matIssued_of_leads (i := .mresume d a) (stream := wordStream f.c) hforgiven rfl hx rfl
  have hresume : resume d ((here s).reg a) s.cur (some f) s = .ok (.next, w.modCore s.cur.core forgiven) :=
    (congrFun (if_pos hhandle) s).trans ((bind_ok hissue).trans ((get_bind _ _).trans (bind_ok (m := set _) rfl)))
  exact ⟨u, mresume_next hstarts howns htag hlook (hfault ▸ hresume) hgoes, hissued, congrArg Core.accFault hcore⟩

theorem mresume_stale (hother : ∀ f, (s.core s.cur.core).accFault = some f → f.handle ≠ ((here s).reg a).bits.setWidth 39) :
    ∃ u, exec (.mresume d a) s = .next u ∧ (here u).pcc = x.pcc ∧ (d ≠ 0 → (here u).reg d = Reg.data 0x8003) ∧
      (u.core s.cur.core).matQ = (s.core s.cur.core).matQ ∧ SameMemory s u := by
  obtain ⟨_, hmem, hcore, hctx⟩ := leads_modCtx s fun x => x.setReg d (Reg.data staleResult)
  obtain ⟨y, hgoes, hpcc, hdata⟩ := goesOn_of_samePlace (i := .mresume d a) hx (hctx ▸ samePlace_setReg ..)
  have hresume : resume d ((here s).reg a) s.cur (s.core s.cur.core).accFault s =
      .ok (.next, s.modCtx s.cur fun x => x.setReg d (Reg.data staleResult)) := by
    cases hfault : (s.core s.cur.core).accFault with
    | none => exact bind_ok (m := setG _ _) rfl
    | some f => exact (congrFun (if_neg (hother f hfault)) s).trans (bind_ok (m := setG _ _) rfl)
  refine ⟨_, mresume_next hstarts howns htag hlook hresume hgoes, ?_, fun hd => ?_, congrArg Core.matQ hcore, hmem⟩
  · rw [here_setCtx_cur]
    exact hpcc
  · rw [here_setCtx_cur, hdata.reg, hctx, reg_setReg, if_pos rfl, if_neg hd]
    rfl

end

/-! MSYNC (R288): its handle resolves at once where no command of its streams is queued (assumption log 20). -/

theorem samePlace_orFlags (x : Ctx) (now : Nat) (fl : BitVec 5) : SamePlace x (x.orFlags now fl) := by
  unfold Ctx.orFlags
  split
  · exact ⟨rfl, rfl, rfl, rfl, rfl⟩
  · exact ⟨rfl, rfl, rfl, rfl, rfl⟩

/-- A context whose handle slot holds a result word (R160). -/
def answering (q : Fin 16) (w : W64) (order : Nat) (x : Ctx) : Ctx :=
  x.setHslot q { x.hslot q with state := .resolved, result := w, order := order, denied := none }

/-- A context whose handle slot resolves with a result word and flags (R160, R210). -/
def resolving (q : Fin 16) (w : W64) (order now : Nat) (fl : BitVec 5) (x : Ctx) : Ctx := (answering q w order x).orFlags now fl

theorem samePlace_resolving (q : Fin 16) (w : W64) (order now : Nat) (fl : BitVec 5) (x : Ctx) :
    SamePlace x (resolving q w order now fl x) :=
  SamePlace.trans (y := answering q w order x) ⟨rfl, rfl, rfl, rfl, rfl⟩ (samePlace_orFlags ..)

theorem hslot_resolving (q : Fin 16) (w : W64) (order now : Nat) (fl : BitVec 5) (x : Ctx) :
    ((resolving q w order now fl x).hslot q).state = .resolved ∧ ((resolving q w order now fl x).hslot q).result = w := by
  rw [resolving, (orFlags_parts ..).2.2, answering, hslot_setHslot_self]
  exact ⟨rfl, rfl⟩

section
variable {s : State} {q : Fin 16} {m : MSync}

theorem leads_resolveHandle {k : BitVec 16} (w : W64) (hpending : ((here s).hslot q).state = .pending)
    (hserial : ((here s).hslot q).serial = k) : Leads s (s.resolveHandle s.cur q k w none) id (answering q w s.nextSeq) := by
  have hresolve : s.resolveHandle s.cur q k w none = (s.modCtx s.cur (answering q w s.nextSeq)).bump :=
    if_pos ⟨hpending, hserial⟩
  obtain ⟨hcur, hmem, hcore, hctx⟩ := leads_modCtx s (answering q w s.nextSeq)
  exact hresolve ▸ ⟨hcur, hmem, hcore, hctx⟩

theorem leads_resolveOp {o : OpHead} (w : W64) (howner : o.owner = s.cur) (hhandle : o.handle = some q)
    (hpending : ((here s).hslot q).state = .pending) (hserial : ((here s).hslot q).serial = o.serial) :
    ∃ now, Leads s (s.resolveOp o false w none) id (resolving q w s.nextSeq now o.flags) := by
  have hresolved := leads_resolveHandle w hpending hserial
  have hflags := leads_modCtx (s.resolveHandle s.cur q o.serial w none) fun x =>
    x.orFlags (s.resolveHandle s.cur q o.serial w none).cycle o.flags
  rw [hresolved.cur] at hflags
  refine ⟨(s.resolveHandle s.cur q o.serial w none).cycle, ?_⟩
  rw [State.resolveOp, hhandle, howner]
  exact hresolved.trans hflags

theorem settleSyncs_of_waiting {k : Fin 4608} (hone : (s.core k).syncs = [m]) (hwaits : m.waits.isEmpty = false) :
    s.settleSyncs k = s := by
  simp [State.settleSyncs, hone, hwaits]

theorem settleSyncs_of_done {k : Fin 4608} (hone : (s.core k).syncs = [m]) (hwaits : m.waits.isEmpty = true) :
    s.settleSyncs k = (s.modCore k fun k => { k with syncs := k.syncs.filter fun m => !m.waits.isEmpty }).resolveOp m.head false
      (resultWord m.status.toNat 0 0) none := by
  simp [State.settleSyncs, hone, hwaits]

/-- The only MSYNC of a core resolves where it waits for nothing. -/
theorem leads_settleSyncs {c : CtxId} (hcur : s.cur = c) (hone : (s.core c.core).syncs = [m]) (howner : m.head.owner = c)
    (hhandle : m.head.handle = some q) (hpending : ((here s).hslot q).state = .pending)
    (hserial : ((here s).hslot q).serial = m.head.serial) :
    ∃ f g, Leads s (s.settleSyncs c.core) f g ∧ SamePlace (here s) (g (here s)) ∧
      (m.waits.isEmpty = true → ((g (here s)).hslot q).state = .resolved ∧
        ((g (here s)).hslot q).result = resultWord m.status.toNat 0 0) ∧
      (m.waits.isEmpty = false → ((g (here s)).hslot q).state = .pending) := by
  subst hcur
  cases hwaits : m.waits.isEmpty
  · rw [settleSyncs_of_waiting hone hwaits]
    exact ⟨id, id, leads_refl s, ⟨rfl, rfl, rfl, rfl, rfl⟩, fun h => Bool.noConfusion h, fun _ => hpending⟩
  · rw [settleSyncs_of_done hone hwaits]
    obtain ⟨now, hleads⟩ := leads_resolveOp (s := s.modCore s.cur.core _) (resultWord m.status.toNat 0 0) howner hhandle
      hpending hserial
    exact ⟨_, _, (leads_modCore s _).trans hleads, samePlace_resolving .., fun _ => hslot_resolving .., fun h => Bool.noConfusion h⟩

end

section
variable {d : GReg} {a : RegCode} {s s1 t : State} {w : W64} {q : Fin 16} {x : Ctx}

/-- The MSYNC that waits for the commands of some streams that are queued now (R288). -/
def syncOf (t : State) (q : Fin 16) (w : W64) : MSync :=
  ⟨headOf t (some q), ((t.core t.cur.core).matQ.filter (fun o => w.getLsbD o.stream.val)).map (fun o => o.head.issued), []⟩

theorem isEmpty_waits_syncOf : (syncOf t q w).waits.isEmpty = !(t.core t.cur.core).matQ.any fun o => w.getLsbD o.stream.val := by
  rw [syncOf, Bool.eq_iff_iff]
  simp

/-- Where nothing has gone wrong an MSYNC resolves with status 0. -/
theorem resultWord_syncOf : resultWord (syncOf t q w).status.toNat 0 0 = 0 := rfl

/-- MSYNC once it has read its streams. -/
def sync (d : GReg) (w : W64) : M Machine.Flow := do
  let head ← issueHead true false
  let c ← who
  let t ← get
  let waits := ((t.core c.core).matQ.filter (fun o => w.getLsbD o.stream.val)).map (fun o => o.head.issued)
  set ((t.modCore c.core (fun k => { k with syncs := k.syncs ++ [⟨head, waits, []⟩] })).settleSyncs c.core)
  setG d head.reg
  pure .next

/-- A core at which one more MSYNC waits. -/
def awaiting (m : MSync) (k : Core) : Core := { k with syncs := k.syncs ++ [m] }

theorem sync_leads (hempty : (t.core t.cur.core).syncs = []) (hpick : (here t).pickSlot = .ok q) :
    ∃ u f g, sync d w t = .ok (.next, u) ∧ Leads t u f g ∧ SamePlace (here t) (g (here t)) ∧
      (g (here t)).reg d = (if d = 0 then Reg.zero else handleReg t.cur q (here t).hserial) ∧
      ((t.core t.cur.core).matQ.any (fun o => w.getLsbD o.stream.val) = false → ((g (here t)).hslot q).state = .resolved ∧
        ((g (here t)).hslot q).result = 0) ∧
      ((t.core t.cur.core).matQ.any (fun o => w.getLsbD o.stream.val) = true → ((g (here t)).hslot q).state = .pending) := by
  obtain ⟨t1, hhead, hheaded⟩ := issueHead_leads (s := t) (slot := some q) (counted := false) fun k hk => Option.some.inj hk ▸ hpick
  have hmatQ : (t1.core t.cur.core).matQ = (t.core t.cur.core).matQ := by
    rw [hheaded.core]
    rfl
  have hqueued := hheaded.trans (leads_modCore t1 (awaiting (syncOf t q w)))
  rw [hheaded.cur] at hqueued
  have hslot := congrArg (fun x : Ctx => x.hslot q) hqueued.ctx
  have htaken := hslot.trans (hslot_taking_self ..)
  obtain ⟨f, g, hsettled, hplace, hdone, hwaiting⟩ := leads_settleSyncs (m := syncOf t q w) (q := q) hqueued.cur
    ((congrArg Core.syncs hqueued.core).trans (congrArg (· ++ [syncOf t q w]) hempty)) rfl rfl (congrArg HSlot.state htaken)
    (congrArg HSlot.serial htaken)
  rw [isEmpty_waits_syncOf] at hdone hwaiting
  rw [resultWord_syncOf] at hdone
  rw [hqueued.ctx] at hplace hdone hwaiting
  have hwrite := leads_modCtx ((t1.modCore t.cur.core (awaiting (syncOf t q w))).settleSyncs t.cur.core) fun x =>
    x.setReg d (headOf t (some q)).reg
  refine ⟨_, _, _, ?_, (hqueued.trans hsettled).trans hwrite, ?_, ?_, ?_, ?_⟩
  · refine (bind_ok hhead).trans ((who_bind _ _).trans ((get_bind _ _).trans ?_))
    rw [hheaded.cur, hmatQ]
    exact (bind_ok (m := set _) rfl).trans (bind_ok (m := setG _ _) rfl)
  · exact ((samePlace_heading ..).trans hplace).trans (samePlace_setReg ..)
  · exact (reg_setReg ..).trans (if_pos rfl)
  · intro hnone
    rw [hnone] at hdone
    simpa using hdone rfl
  · intro hsome
    rw [hsome] at hwaiting
    simpa using hwaiting rfl

variable (hstarts : Starts (.msync d a) .closes [a] [a] s s1) (hfree : s.accHeld s.cur = false)
  (hmay : s.isSup s.cur = true ∨ (s.core s.cur.core).accown.names s.cur = true) (hread : readData a s1 = .ok (w, t))
  (hhigh : fieldOf w 4 60 = 0)
include hstarts hfree hmay hread hhigh

theorem msync_next {u v : State} (hrest : (if d = 0 then pure .next else sync d w : M Machine.Flow) t = .ok (.next, u))
    (hgoes : GoesOn (.msync d a) u v) : exec (.msync d a) s = .next v := by
  have hword : ¬ w >>> 4 ≠ 0 := fun hne => hne (ushiftRight_eq_zero hhigh rfl)
  have hown : ownSet (fun _ _ => true) s = .ok ((), s) := ownSet_ok hfree hmay.symm
  exact operate_next hown hstarts ((bind_ok hread).trans ((congrFun (if_neg hword) t).trans hrest)) hgoes

variable (hx : (here t).settled.advance 4 = .ok x)
include hx

theorem msync_waitsNot (hd : d = 0) : exec (.msync d a) s = .next (t.setCtx s.cur x) := by
  have hcur : t.cur = s.cur := (cur_of_readData hread).trans (receive_spec hstarts.ports).2.2.1
  rw [← hcur]
  exact msync_next hstarts hfree hmay hread hhigh (congrFun (if_pos hd) t) ⟨x, hx, rfl⟩

theorem msync_allocates (hempty : (t.core s.cur.core).syncs = []) (hd : d ≠ 0) (hpick : (here t).pickSlot = .ok q) :
    ∃ u, exec (.msync d a) s = .next u ∧ (here u).reg d = handleReg s.cur q (here t).hserial ∧ (here u).pcc = x.pcc ∧
      SameMemory t u ∧
      (((t.core s.cur.core).matQ.any (fun o => w.getLsbD o.stream.val) = false → ((here u).hslot q).state = .resolved ∧
        ((here u).hslot q).result = 0) ∧
      ((t.core s.cur.core).matQ.any (fun o => w.getLsbD o.stream.val) = true → ((here u).hslot q).state = .pending)) := by
  have hcur : t.cur = s.cur := (cur_of_readData hread).trans (receive_spec hstarts.ports).2.2.1
  rw [← hcur] at hempty ⊢
  obtain ⟨u, f, g, hsync, hleads, hplace, hreg, hdone, hwaiting⟩ := sync_leads (d := d) (w := w) hempty hpick
  rw [← hleads.ctx] at hplace hreg hdone hwaiting
  obtain ⟨y, hgoes, hpcc, hdata⟩ := goesOn_of_samePlace (i := .msync d a) hx hplace
  rw [← hslot_congr hdata.hslots] at hdone hwaiting
  refine ⟨_, msync_next hstarts hfree hmay hread hhigh ((congrFun (if_neg hd) t).trans hsync) hgoes, ?_⟩
  rw [here_setCtx_cur]
  exact ⟨(hdata.reg d).trans (hreg.trans (if_neg hd)), hpcc, hleads.memory, hdone, hwaiting⟩

end

/-- Settles O39: each instruction checks who owns the set and does its part; MSYNC's handle resolves at once where nothing of its
streams is queued, and MRESUME issues the recorded command as an MMA is issued. -/
theorem matrixOwner : Obligations.MatrixOwner := by
  refine ⟨fun d s u v => mown_gives, ?_, ?_, ?_⟩
  · intro d s u v hstarts hfree mine hempty hwrite hgoes
    by_cases hmine : mine = true
    · rw [if_pos hmine, if_pos hmine] at hwrite
      exact mfree_of_owner hstarts hfree hgoes hmine (hempty hmine) hwrite
    · rw [if_neg hmine, if_neg hmine] at hwrite
      exact mfree_of_other hstarts hfree hgoes hmine hwrite
  · intro d a s s1 t w q x hstarts hfree hmay hread hhigh hempty hx
    exact ⟨msync_waitsNot hstarts hfree hmay hread hhigh hx, msync_allocates hstarts hfree hmay hread hhigh hx hempty⟩
  · intro d a s q x r hstarts howns v htag hlook hx
    exact ⟨fun f => mresume_queues hstarts howns htag hlook hx, mresume_stale hstarts howns htag hlook hx⟩

end Sys2Proof.Proofs.MatrixOwner
end
